-- ==== Sys2Proof/Word.lean ====
section
/-! DEFINITION. The words of the machine (R4, R5, R14): bytes, 32-bit words, 64-bit words and masks of the 32 lanes of a group. -/

namespace Sys2Proof

/-- One byte (R5). -/
abbrev Byte := BitVec 8

/-- One 32-bit register or instruction word (R14, R64). -/
abbrev Word := BitVec 32

/-- One 64-bit register (R22, R25). -/
abbrev DWord := BitVec 64

/-- A set of lanes of one group: bit i is lane i (R13). -/
abbrev Lanes := BitVec 32

end Sys2Proof
end

