-- ==== Sys2Proof/Machine/Bits.lean ====
section
/-! DEFINITION. Bit fields, sign extension, packed elements and byte order (R4, R5, R8, R39, R90). Values are natural
numbers while they are computed; a run of registers is the number whose lowest 32 bits are its first register (R16). -/

namespace Sys2Proof.Machine

/-- `x[hi:lo]` of R8. -/
def bitsOf (x hi lo : Nat) : Nat := (x / 2 ^ lo) % 2 ^ (hi + 1 - lo)

/-- Bit n of x. -/
def bitOf (x n : Nat) : Bool := (x / 2 ^ n) % 2 == 1

/-- `sx(x, n)` of Table 00.4: x taken as an n-bit two's-complement value. -/
def sx (x n : Nat) : Int :=
  let y := x % 2 ^ n
  if 2 * y < 2 ^ n then (y : Int) else (y : Int) - (2 ^ n : Nat)

/-- The n-bit pattern of an exact integer (R39 wrap, as a pattern). -/
def pat (x : Int) (n : Nat) : Nat := (x % ((2 ^ n : Nat) : Int)).toNat

/-- Element j of n bits of a packed value (R5, R90). -/
def elOf (n x j : Nat) : Nat := (x / 2 ^ (n * j)) % 2 ^ n

/-- The packed value of a list of n-bit elements, element 0 lowest (R5). -/
def packEls (n : Nat) : List Nat → Nat
  | [] => 0
  | y :: t => y % 2 ^ n + 2 ^ n * packEls n t

/-- A packed value of cnt elements of n bits, each computed from its number. -/
def mapEls (n cnt : Nat) (f : Nat → Nat) : Nat := packEls n ((List.range cnt).map f)

/-- The lanes of a mask in ascending order (R8: `for each lane i in act`). -/
def lanesOf (m : Lanes) : List Nat := (List.range 32).filter (fun i => m.getLsbD i)

/-- The lowest lane of a mask, 0 when it is empty. -/
def lowestLane (m : Lanes) : Nat := (lanesOf m).headD 0

/-- The mask of one lane. -/
def laneBit (i : Nat) : Lanes := BitVec.ofNat 32 (2 ^ i)

/-- The mask of the lanes of a list that meet a test. -/
def maskOf (f : Nat → Bool) : Lanes :=
  BitVec.ofNat 32 (packEls 1 ((List.range 32).map (fun i => if f i then 1 else 0)))

/-- Bytes of a little-endian value (R5). -/
def bytesOf (len x : Nat) : List Byte := (List.range len).map (fun i => BitVec.ofNat 8 (x / 2 ^ (8 * i)))

/-- The little-endian value of bytes (R5). -/
def ofBytes : List Byte → Nat
  | [] => 0
  | b :: t => b.toNat + 256 * ofBytes t

/-- Byte i of a list of bytes, 0 beyond it. -/
def byteAt (l : List Byte) (i : Nat) : Nat := (l.getD i 0).toNat

/-- The little-endian field of `len` bytes at offset `off` of a record (R5). -/
def fieldAt (l : List Byte) (off len : Nat) : Nat := ofBytes ((List.range len).map (fun i => l.getD (off + i) 0))

/-- Every byte of `len` bytes at offset `off` of a record is zero (reserved bytes, R7). -/
def zeroAt (l : List Byte) (off len : Nat) : Bool := (List.range len).all (fun i => (l.getD (off + i) 0) == 0)

/-- The smallest multiple of m at or above x. -/
def roundUp (x m : Nat) : Nat := ((x + m - 1) / m) * m

/-- Item n of a list replaced. -/
def setAt {α : Type} : List α → Nat → α → List α
  | [], _, _ => []
  | _ :: t, 0, y => y :: t
  | x :: t, n + 1, y => x :: setAt t n y

/-- Whether a list has no repeats. -/
def noRepeats : List Nat → Bool
  | [] => true
  | x :: t => !t.contains x && noRepeats t

end Sys2Proof.Machine
end

