-- ==== Sys2Proof/Machine/Num.lean ====
section
/-! DEFINITION. Number formats and arithmetic rules (02): the exact value of an encoding (R40), the exact sum and product, the one
rounding of R50 with the modes of R49, overflow (R51), flush to zero (R52), signs of zero (R53), stochastic rounding
(R54, R55), conversions (R56 to R58), scales and quantisation (R43 to R48), and the aligned-group sum (R61 to R63). -/

namespace Sys2Proof.Machine

/-- The sticky flags as a number laid out as `fx`[4:0] (Table 01.7). -/
def flNV : Nat := 1
/-- Overflow. -/
def flOF : Nat := 2
/-- Underflow. -/
def flUF : Nat := 4
/-- Inexact. -/
def flNX : Nat := 8
/-- Division by zero. -/
def flDZ : Nat := 16

/-- The rounding modes of Table 02.5. -/
inductive RMode where
  | rne | rtz | rdn | rup | rna | rsr
deriving DecidableEq, Repr

/-- MR.RM read as a mode; codes 6 and 7 cannot be written (R23). -/
def rmodeOf : Nat → RMode
  | 0 => .rne | 1 => .rtz | 2 => .rdn | 3 => .rup | 4 => .rna | _ => .rsr

/-- The floating-point formats of Table 02.2. -/
inductive FFmt where
  | fp32 | bf16 | fp16 | e4m3 | e5m2 | e2m1
deriving DecidableEq, Repr

/-- Fraction bits m of a format. -/
def fracBits : FFmt → Nat
  | .fp32 => 23 | .bf16 => 7 | .fp16 => 10 | .e4m3 => 3 | .e5m2 => 2 | .e2m1 => 1

/-- Exponent bits e of a format. -/
def expBits : FFmt → Nat
  | .fp32 => 8 | .bf16 => 8 | .fp16 => 5 | .e4m3 => 4 | .e5m2 => 5 | .e2m1 => 2

/-- Bits of an encoding of a format. -/
def fmtBits (f : FFmt) : Nat := 1 + expBits f + fracBits f

/-- A number that tells the formats apart. -/
def fmtKey : FFmt → Nat
  | .fp32 => 0 | .bf16 => 1 | .fp16 => 2 | .e4m3 => 3 | .e5m2 => 4 | .e2m1 => 5

/-- The exponent bias of a format. -/
def fmtBias : FFmt → Nat
  | .fp32 => 127 | .bf16 => 127 | .fp16 => 15 | .e4m3 => 7 | .e5m2 => 15 | .e2m1 => 1

/-- The encoding of the largest finite magnitude (Table 02.2). -/
def maxFinite : FFmt → Nat
  | .fp32 => 0x7F7FFFFF | .bf16 => 0x7F7F | .fp16 => 0x7BFF | .e4m3 => 0x7E | .e5m2 => 0x7B | .e2m1 => 0x7

/-- The canonical NaN (R41, Table 02.2); E2M1 has none and converts a NaN to +0 (R56). -/
def canonNaN : FFmt → Nat
  | .fp32 => 0x7FC00000 | .bf16 => 0x7FC0 | .fp16 => 0x7E00 | .e4m3 => 0x7F | .e5m2 => 0x7E | .e2m1 => 0

/-- The encoding of +infinity, for the formats that have one (Table 02.2). -/
def infEnc : FFmt → Option Nat
  | .fp32 => some 0x7F800000 | .bf16 => some 0x7F80 | .fp16 => some 0x7C00 | .e5m2 => some 0x7C
  | .e4m3 => none | .e2m1 => none

/-- The meaning of an encoding: NaN, an infinity, or the exact real ±num/den (zero keeps its sign). -/
inductive FVal where
  | nan
  | inf (neg : Bool)
  | fin (neg : Bool) (num den : Nat)
deriving DecidableEq, Repr

/-- The minimum normal exponent emin = 1 − bias (R50). -/
def eminOf (f : FFmt) : Int := 1 - (fmtBias f : Int)

/-- num/den × 2^k as a pair. -/
def scale2 (num den : Nat) (k : Int) : Nat × Nat :=
  if 0 ≤ k then (num * 2 ^ k.toNat, den) else (num, den * 2 ^ (-k).toNat)

/-- An exact real ± m × 2^k. -/
def dyadic (neg : Bool) (m : Nat) (k : Int) : FVal :=
  let p := scale2 m 1 k
  .fin neg p.1 p.2

/-- floor(log2 (num/den)) of a positive real. -/
def floorLog2 (num den : Nat) : Int :=
  let k : Int := (Nat.log2 num : Int) - (Nat.log2 den : Int)
  let p := scale2 1 1 k
  if p.1 * den ≤ num * p.2 then k else k - 1

/-- Whether a value is an exact zero. -/
def isZero : FVal → Bool
  | .fin _ n _ => n == 0
  | _ => false

/-- Whether a value is NaN. -/
def isNaN : FVal → Bool
  | .nan => true
  | _ => false

/-- Whether a value is infinite. -/
def isInf : FVal → Bool
  | .inf _ => true
  | _ => false

/-- The sign of a value (false for NaN). -/
def signOf : FVal → Bool
  | .nan => false
  | .inf s => s
  | .fin s _ _ => s

/-- The meaning of an encoding (R40, Table 02.2). -/
def decodeF (f : FFmt) (x : Nat) : FVal :=
  let m := fracBits f
  let e := expBits f
  let s := bitOf x (m + e)
  let ex := (x / 2 ^ m) % 2 ^ e
  let fr := x % 2 ^ m
  let top := 2 ^ e - 1
  let normal := dyadic s (2 ^ m + fr) ((ex : Int) - fmtBias f - m)
  if ex = 0 then dyadic s fr (eminOf f - m)
  else if ex = top then
    match f with
    | .e2m1 => normal
    | .e4m3 => if fr = 7 then .nan else normal
    | _ => if fr = 0 then .inf s else .nan
  else normal

/-- R52: under FTZ an FP32, BF16 or FP16 subnormal operand reads as zero of its sign. -/
def hasFtz : FFmt → Bool
  | .fp32 | .bf16 | .fp16 => true
  | _ => false

/-- `val(op, i, j)` of R115: the meaning of an operand element under MR.FTZ. -/
def valF (f : FFmt) (ftz : Bool) (x : Nat) : FVal :=
  match decodeF f x with
  | .fin s n d =>
    if ftz && hasFtz f && ((x / 2 ^ fracBits f) % 2 ^ expBits f == 0) then .fin s 0 1 else .fin s n d
  | v => v

/-- A result with the flags it raised. -/
structure Rnd where
  bits : Nat
  flags : Nat
deriving DecidableEq, Repr

/-- The multiple k of q = 2^qe chosen for |v| = num/den under a mode (R50, Table 02.5, R55), and whether v is exact. -/
def roundMag (rm : RMode) (neg : Bool) (n16 : Nat) (num den : Nat) (qe : Int) : Nat × Bool :=
  let p := scale2 num den (-qe)
  let fl := p.1 / p.2
  let rem := p.1 % p.2
  let up := match rm with
    | .rne => decide (p.2 < 2 * rem) || (2 * rem == p.2 && fl % 2 == 1)
    | .rtz => false
    | .rdn => neg
    | .rup => !neg
    | .rna => decide (p.2 ≤ 2 * rem)
    | .rsr => decide ((65536 - n16) * p.2 ≤ rem * 65536)
  if rem = 0 then (fl, true) else (if up then fl + 1 else fl, false)

/-- The sign bit of a format placed over a magnitude encoding. -/
def withSign (f : FFmt) (neg : Bool) (mag : Nat) : Nat :=
  if neg then 2 ^ (expBits f + fracBits f) + mag else mag

/-- The encoding of k × 2^qe; subnormals and the carry into the next exponent fall out of the layout (R40). -/
def encMag (f : FFmt) (k : Nat) (qe : Int) : Nat :=
  ((qe + fracBits f + fmtBias f - 1).toNat) * 2 ^ fracBits f + k

/-- Table 02.6: whether overflow of a finite v gives infinity, under SAT = 0. -/
def overflowToInf (rm : RMode) (neg : Bool) : Bool :=
  match rm with
  | .rne | .rna | .rsr => true
  | .rtz => false
  | .rdn => neg
  | .rup => !neg

/-- The encoding where Table 02.6 gives ±infinity, with the destination rules of R56. -/
def infResult (f : FFmt) (sat neg : Bool) : Nat :=
  match f with
  | .e4m3 => if sat then withSign f neg (maxFinite f) else canonNaN f
  | .e2m1 => withSign f neg (maxFinite f)
  | _ => match infEnc f with
    | some i => withSign f neg i
    | none => canonNaN f

/-- `round(v, fmt, rm)` of R50 with the overflow rules of R51 and the destination rules of R56. `n16` is the stochastic
number of R55. -/
def roundF (f : FFmt) (rm : RMode) (sat : Bool) (n16 : Nat) (v : FVal) : Rnd :=
  match v with
  | .nan => match f with
    | .e2m1 => ⟨0, flNV⟩
    | _ => ⟨canonNaN f, 0⟩
  | .inf s => match f with
    | .e4m3 | .e2m1 => ⟨infResult f sat s, flOF⟩
    | _ => ⟨infResult f sat s, 0⟩
  | .fin s num den =>
    if num = 0 then ⟨withSign f s 0, 0⟩
    else
      let x := floorLog2 num den
      let qe := max x (eminOf f) - fracBits f
      let r := roundMag rm s n16 num den qe
      let enc := encMag f r.1 qe
      if maxFinite f < enc then
        ⟨if sat || !overflowToInf rm s then withSign f s (maxFinite f) else infResult f sat s, flOF + flNX⟩
      else
        let inexact := if r.2 then 0 else flNX
        let tiny := if !r.2 && decide (x < eminOf f) then flUF else 0
        ⟨withSign f s enc, inexact + tiny⟩

/-- R52: the result flush of FTZ. A non-zero result below 2^emin becomes zero of its sign with UF and NX. -/
def flushF (f : FFmt) (ftz : Bool) (r : Rnd) : Rnd :=
  let mag := r.bits % 2 ^ (expBits f + fracBits f)
  if ftz && hasFtz f && mag != 0 && decide (mag < 2 ^ fracBits f) then
    ⟨r.bits - mag, r.flags ||| (flUF + flNX)⟩
  else r

/-- An exact value with the flags of forming it (R42). -/
structure Pre where
  v : FVal
  flags : Nat
deriving DecidableEq, Repr

/-- Negation of a value. -/
def negF : FVal → FVal
  | .nan => .nan
  | .inf s => .inf (!s)
  | .fin s n d => .fin (!s) n d

/-- The exact sum (R42, R53: the sign of an exact zero sum depends on the mode). -/
def addF (rm : RMode) (a b : FVal) : Pre :=
  match a, b with
  | .nan, _ => ⟨.nan, 0⟩
  | _, .nan => ⟨.nan, 0⟩
  | .inf s, .inf t => if s == t then ⟨.inf s, 0⟩ else ⟨.nan, flNV⟩
  | .inf s, .fin _ _ _ => ⟨.inf s, 0⟩
  | .fin _ _ _, .inf t => ⟨.inf t, 0⟩
  | .fin s n d, .fin t m e =>
    let x : Int := (if s then -(n : Int) else n) * e + (if t then -(m : Int) else m) * d
    if x = 0 then
      if n = 0 && m = 0 && s == t then ⟨.fin s 0 1, 0⟩ else ⟨.fin (rm == .rdn) 0 1, 0⟩
    else ⟨.fin (decide (x < 0)) x.natAbs (d * e), 0⟩

/-- The exact product (R42: zero times infinity is invalid; R53: signs). -/
def mulF (a b : FVal) : Pre :=
  match a, b with
  | .nan, _ => ⟨.nan, 0⟩
  | _, .nan => ⟨.nan, 0⟩
  | .inf s, .inf t => ⟨.inf (s != t), 0⟩
  | .inf s, .fin t n _ => if n = 0 then ⟨.nan, flNV⟩ else ⟨.inf (s != t), 0⟩
  | .fin s n _, .inf t => if n = 0 then ⟨.nan, flNV⟩ else ⟨.inf (s != t), 0⟩
  | .fin s n d, .fin t m e => ⟨.fin (s != t) (n * m) (d * e), 0⟩

/-- a × b + d by the order of R116: a NaN operand gives NaN with no flag, then 0 × ∞ is invalid, then opposite
infinities. -/
def fmaF (rm : RMode) (a b d : FVal) : Pre :=
  if isNaN a || isNaN b || isNaN d then ⟨.nan, 0⟩
  else
    let p := mulF a b
    if p.flags ≠ 0 then p else addF rm p.v d

/-- Comparison of two values that are not NaN, zeros of either sign equal: a < b. -/
def ltF (a b : FVal) : Bool :=
  match a, b with
  | .nan, _ => false
  | _, .nan => false
  | .inf s, .inf t => s && !t
  | .inf s, .fin _ _ _ => s
  | .fin _ _ _, .inf t => !t
  | .fin s n d, .fin t m e =>
    decide ((if s then -(n : Int) else n) * e < (if t then -(m : Int) else m) * d)

/-- Equality of two values that are not NaN, zeros of either sign equal. -/
def eqF (a b : FVal) : Bool := !isNaN a && !isNaN b && !ltF a b && !ltF b a

/-- −0 is less than +0 (R117), otherwise as `ltF`. -/
def ltZeroF (a b : FVal) : Bool :=
  if isZero a && isZero b then signOf a && !signOf b else ltF a b

/-- Rounding of a formed value: an invalid operation gives the canonical NaN with its flag, then R50 and the flush of R52
(`fround` of R115). -/
def froundF (f : FFmt) (rm : RMode) (sat ftz : Bool) (n16 : Nat) (p : Pre) : Rnd :=
  let r := flushF f ftz (roundF f rm sat n16 p.v)
  ⟨r.bits, r.flags ||| p.flags⟩

/-- One step of the stochastic generator (R54). -/
def rsrStep (s : Word) : Word :=
  if s.getLsbD 0 then (s >>> 1) ^^^ 0x80200003#32 else s >>> 1

/-- The number n = s[31:16] taken from the new state (R55). -/
def rsrN (s : Word) : Nat := s.toNat / 65536

/-- R54: the generator of lane i of team tix at placement. -/
def seedAt (seed tix i : Nat) : Word :=
  let s := BitVec.ofNat 32 seed ^^^ BitVec.ofNat 32 (tix * 0x9E3779B9) ^^^ BitVec.ofNat 32 ((i + 1) * 0x85EBCA6B)
  if s = 0 then 1 else s

/-- R57: a value to an integer of the range [lo, hi] under a mode, with its flags. -/
def toIntF (rm : RMode) (n16 : Nat) (lo hi : Int) (v : FVal) : Int × Nat :=
  match v with
  | .nan => (0, flNV)
  | .inf s => (if s then lo else hi, flNV)
  | .fin s num den =>
    let r := roundMag rm s n16 num den 0
    let x : Int := if s then -(r.1 : Int) else r.1
    if x < lo then (lo, flNV) else if hi < x then (hi, flNV) else (x, if r.2 then 0 else flNX)

/-- An exact integer as a value (R58). -/
def ofIntF (x : Int) : FVal := .fin (decide (x < 0)) x.natAbs 1

/-- R123: a value rounded to an integer value of its own format; a zero result takes the sign of x. -/
def frndF (f : FFmt) (rm : RMode) (n16 : Nat) (v : FVal) : Rnd :=
  match v with
  | .nan => ⟨canonNaN f, 0⟩
  | .inf s => ⟨infResult f false s, 0⟩
  | .fin s num den =>
    if 2 ^ fracBits f * den ≤ num then roundF f .rtz false 0 v
    else
      let r := roundMag rm s n16 num den 0
      ⟨(roundF f .rtz false 0 (.fin s r.1 1)).bits, if r.2 then 0 else flNX⟩

/-- R43: the value of an E8M0 scale. -/
def e8m0Val (x : Nat) : FVal := if x = 255 then .nan else dyadic false 1 ((x : Int) - 127)

/-- R44: the value of an E8M4 scale. -/
def e8m4Val (x : Nat) : FVal :=
  let e := x / 16
  let m := x % 16
  if e = 255 then .nan
  else if e = 0 then dyadic false m (-130)
  else dyadic false (16 + m) ((e : Int) - 131)

/-- R45: scale j of an array packed two to three bytes, given the bytes. -/
def e8m4At (byte : Nat → Nat) (base j : Nat) : Nat :=
  let o := base + 3 * (j / 2)
  let w := byte o + 256 * byte (o + 1) + 65536 * byte (o + 2)
  if j % 2 = 0 then w % 4096 else w / 4096

/-- R47: an element decoded with its scale. -/
def scaledF (x e : FVal) : FVal :=
  match x, e with
  | .nan, _ => .nan
  | _, .nan => .nan
  | _, .inf s => .inf s
  | .inf _, .fin s n d => .fin s n d
  | .fin _ xn xd, .fin s n d => .fin s (n * xn) (d * xd)

/-- The block formats of Table 02.4 with their element formats. -/
inductive BlockFmt where
  | mxfp8e4m3 | mxfp8e5m2 | mxfp4 | dbf4
deriving DecidableEq, Repr

/-- The element format of a block format. -/
def blockElem : BlockFmt → FFmt
  | .mxfp8e4m3 => .e4m3 | .mxfp8e5m2 => .e5m2 | .mxfp4 => .e2m1 | .dbf4 => .e2m1

/-- emax of R48 step 3. -/
def blockEmax : BlockFmt → Int
  | .mxfp8e4m3 => 8 | .mxfp8e5m2 => 15 | _ => 2

/-- The larger of two magnitudes num/den. -/
def magMax (a b : Nat × Nat) : Nat × Nat := if a.1 * b.2 < b.1 * a.2 then b else a

/-- The magnitude of a finite value. -/
def magOf : FVal → Nat × Nat
  | .fin _ n d => (n, d)
  | _ => (0, 1)

/-- R48 steps 3 and 4: the scale code for amax, with OF when it is clamped. -/
def scaleCode (bf : BlockFmt) (amax : Nat × Nat) : Nat × Nat :=
  match bf with
  | .dbf4 =>
    let num := amax.1
    let den := amax.2 * 6
    let top := dyadic false 31 123
    if ltF top (.fin false num den) then (0xFEF, flOF)
    else if num * 2 ^ 130 < den then (1, 0)
    else
      let x := max (floorLog2 num den) (-126)
      let p := scale2 num den (-(x - 4))
      let k := (p.1 + p.2 - 1) / p.2
      ((x + 126).toNat * 16 + k, 0)
  | _ =>
    let eb := floorLog2 amax.1 amax.2 - blockEmax bf + 127
    if eb < 0 then (0, 0) else if 254 < eb then (254, flOF) else (eb.toNat, 0)

/-- The value of a scale code of a block format. -/
def scaleVal (bf : BlockFmt) (c : Nat) : FVal :=
  match bf with
  | .dbf4 => e8m4Val c
  | _ => e8m0Val c

/-- The NaN scale that the part writes (R44, R48). -/
def nanScale : BlockFmt → Nat
  | .dbf4 => 0xFF0
  | _ => 0xFF

/-- Exact quotient v / x of a finite v by a positive finite x. -/
def divF (v x : FVal) : FVal :=
  match v, x with
  | .fin s n d, .fin _ xn xd => .fin s (n * xd) (d * xn)
  | v, _ => v

/-- A quantised block: its scale code, its element encodings, its flags and the generator afterwards. -/
structure QBlock where
  scale : Nat
  els : List Nat
  flags : Nat
  gen : Word
deriving DecidableEq, Repr

/-- R48 step 5 for a list of (value, whether it is a tile element that steps the generator), elements in order. -/
def quantEls (bf : BlockFmt) (rq : RMode) (x : FVal) : Word → List (FVal × Bool) → QBlock
  | g, [] => ⟨0, [], 0, g⟩
  | g, (v, live) :: t =>
    let f := blockElem bf
    let g' := if rq == .rsr && live then rsrStep g else g
    let v' := divF v x
    let r0 := roundF f rq true (rsrN g') v'
    let enc := if r0.flags &&& flOF ≠ 0 then withSign f (signOf v) (maxFinite f) else r0.bits
    let differs := !eqF (decodeF f enc) v'
    let rest := quantEls bf rq x g' t
    ⟨rest.scale, enc :: rest.els, (if differs then flNX else 0) ||| rest.flags, rest.gen⟩

/-- Quantisation of one block of values (R48); `live` marks positions that are not padding. -/
def quantise (bf : BlockFmt) (rq : RMode) (g : Word) (vs : List (FVal × Bool)) : QBlock :=
  if vs.any (fun p => isNaN p.1) then ⟨nanScale bf, vs.map (fun _ => 0), 0, g⟩
  else if vs.any (fun p => isInf p.1) then ⟨nanScale bf, vs.map (fun _ => 0), flNV, g⟩
  else
    let amax := (vs.map (fun p => magOf p.1)).foldl magMax (0, 1)
    if amax.1 = 0 then ⟨0, vs.map (fun p => withSign (blockElem bf) (signOf p.1) 0), 0, g⟩
    else
      let c := scaleCode bf amax
      let r := quantEls bf rq (scaleVal bf c.1) g vs
      ⟨c.1, r.els, c.2 ||| r.flags, r.gen⟩

/-- The exact sum of a list of finite values (sign, num, den); zero is +0. -/
def sumF (l : List FVal) : FVal :=
  l.foldl (fun a b => (addF .rne a b).v) (.fin false 0 1)

/-- One product of R62 truncated toward zero to a multiple of q = 2^qe. -/
def truncF (qe : Int) (v : FVal) : FVal :=
  match v with
  | .fin s n d =>
    let p := scale2 n d (-qe)
    dyadic s (p.1 / p.2) qe
  | v => v

/-- R62: the group sum of products (a, b), as an FP32 value, with flags. -/
def groupSum (sat : Bool) (ps : List (FVal × FVal)) : Rnd :=
  if ps.any (fun p => isNaN p.1 || isNaN p.2) then ⟨canonNaN .fp32, 0⟩
  else
    let qs := ps.map (fun p => mulF p.1 p.2)
    if qs.any (fun q => q.flags ≠ 0) then ⟨canonNaN .fp32, flNV⟩
    else
      let vs := qs.map (fun q => q.v)
      let pinf := vs.any (fun v => isInf v && !signOf v)
      let ninf := vs.any (fun v => isInf v && signOf v)
      if pinf && ninf then ⟨canonNaN .fp32, flNV⟩
      else if pinf then ⟨0x7F800000, 0⟩
      else if ninf then ⟨0xFF800000, 0⟩
      else
        let nz := vs.filter (fun v => !isZero v)
        if nz.isEmpty then ⟨0, 0⟩
        else
          let amax := (nz.map magOf).foldl magMax (0, 1)
          let qe := floorLog2 amax.1 amax.2 - 48
          let t := sumF (nz.map (truncF qe))
          let r := roundF .fp32 .rne sat 0 t
          ⟨r.bits, r.flags ||| (if eqF t (sumF nz) then 0 else flNX)⟩

/-- R62: the accumulator after one aligned group. -/
def accumF (sat : Bool) (acc : Nat) (ps : List (FVal × FVal)) : Rnd :=
  let g := groupSum sat ps
  let s := addF .rne (decodeF .fp32 acc) (decodeF .fp32 g.bits)
  let r := roundF .fp32 .rne sat 0 s.v
  ⟨r.bits, g.flags ||| s.flags ||| r.flags⟩

/-- `fit` for an integer of n bits (R39, R90): clamp with OF, or wrap. -/
def fitInt (signed sat : Bool) (n : Nat) (x : Int) : Nat × Nat :=
  let lo : Int := if signed then -((2 ^ (n - 1) : Nat) : Int) else 0
  let hi : Int := if signed then ((2 ^ (n - 1) : Nat) : Int) - 1 else ((2 ^ n : Nat) : Int) - 1
  if sat then
    if x < lo then (pat lo n, flOF) else if hi < x then (pat hi n, flOF) else (pat x n, 0)
  else (pat x n, 0)

/-- R63: the s32 accumulator after one aligned group of exact integer products. -/
def accumI (sat : Bool) (acc : Nat) (sum : Int) : Rnd :=
  let r := fitInt true sat 32 (sx acc 32 + sum)
  ⟨r.1, r.2⟩

end Sys2Proof.Machine
end

