-- ==== Sys2Proof/Syntax.lean ====
section
/-! DEFINITION. The instructions: one constructor for each row of the opcode table. Lane, uniform, SYS and TEAM words come first
(03 to 08, 11 to 14, 17, 18, 20), then the bank commands (14 R334), then the events that the spec describes as one
indivisible step each and that have no encoding (95), whose subject the step supplies. Bit S of a word is no part of its instruction (R31, R75);
the issuing step reads it. Constructors without operands stand last: the compiler's object tags end at 244. -/

namespace Sys2Proof

/-- A lane operand of Table 03.2. -/
inductive LaneOp where
  | v (n : Fin 96)
  | o (n : Fin 16)
  | lx
  /-- `h1` to `h7`; the argument is the number less one. -/
  | h (n : Fin 7)
  | z
  | li
deriving DecidableEq, Repr

/-- A uniform operand of Table 03.3. -/
inductive UniOp where
  | g (n : Fin 64)
  | gz | tix | gix | gcn | cor | clu | die | lch | dtl | dth | wrs | ams
  | sid (n : Fin 4)
deriving DecidableEq, Repr

/-- The run widths of Table 03.4. -/
inductive Width where
  | x1 | x2 | x4 | x8
deriving DecidableEq, Repr

/-- The integer compare conditions of Table 04.6. -/
inductive Rel where
  | eq | ne | lt | le | gt | ge | tst | ntst
deriving DecidableEq, Repr

/-- The floating-point compare relations of Table 05.3. -/
inductive FRel where
  | eq | ne | lt | le | gt | ge | num | nan
deriving DecidableEq, Repr

/-- The combining codes of Table 04.6. -/
inductive Comb where
  | set | and | or | xor
deriving DecidableEq, Repr

/-- The element types of MR.TY, in the order of their codes (Table 02.1). -/
inductive ETy where
  | s32 | n32 | s16x2 | n16x2 | s8x4 | n8x4 | s64 | n64 | f32 | bf16x2 | f16x2 | e4m3x4 | e5m2x4 | e2m1x8
deriving DecidableEq, Repr

/-- The five spaces a program reaches memory through, in the order of their SPC codes (Table 06.5). -/
inductive Space where
  | g | s | c | d | l
deriving DecidableEq, Repr

/-- The kinds of sub-word load (Table 06.5). -/
inductive SubKind where
  | u8 | s8 | u16 | s16
deriving DecidableEq, Repr

/-- The scopes of Table 11.1, in the order of their codes. -/
inductive Scope where
  | group | team | cluster | die | device | pod | system | lintel
deriving DecidableEq, Repr

/-- The sizes of a lane copy (R268). -/
inductive CpySize where
  | b4 | b8 | b16
deriving DecidableEq, Repr

/-- The column address field CA of a bank command (R334): `xb` names the scalar register added when XB = 1. -/
structure Col where
  xb : Option (Fin 8)
  col : Fin 64
deriving DecidableEq, Repr

/-- Every instruction, bank command and event of the opcode table. -/
inductive Instr where
  /-- TRAP (R138). -/
  | trap (code : BitVec 14)
  /-- RDSR (R139). -/
  | rdsr (wide : Bool) (d : LaneOp) (sr : BitVec 7)
  /-- WRSR (R140). -/
  | wrsr (wide : Bool) (sr : BitVec 7) (a : LaneOp)
  /-- SEGLD (R141). -/
  | segld (sr : BitVec 7) (a : LaneOp)
  /-- TLBINV (R408). -/
  | tlbinv (d : LaneOp) (a : LaneOp)
  /-- OWNACQ (R427). -/
  | ownacq (a : LaneOp)
  /-- OWNREL (R428). -/
  | ownrel (a : LaneOp)
  /-- ADD (R93). -/
  | add (w : Width) (d : LaneOp) (a : LaneOp) (b : LaneOp)
  /-- SUB (R93). -/
  | sub (w : Width) (d : LaneOp) (a : LaneOp) (b : LaneOp)
  /-- RSUB (R93). -/
  | rsub (w : Width) (d : LaneOp) (a : LaneOp) (b : LaneOp)
  /-- ABSD (R93). -/
  | absd (w : Width) (d : LaneOp) (a : LaneOp) (b : LaneOp)
  /-- MUL (R93). -/
  | mul (w : Width) (d : LaneOp) (a : LaneOp) (b : LaneOp)
  /-- MULH (R93). -/
  | mulh (w : Width) (d : LaneOp) (a : LaneOp) (b : LaneOp)
  /-- MAD (R93). -/
  | mad (w : Width) (d : LaneOp) (a : LaneOp) (b : LaneOp)
  /-- MADH (R93). -/
  | madh (w : Width) (d : LaneOp) (a : LaneOp) (b : LaneOp)
  /-- AND (R94). -/
  | and (w : Width) (d : LaneOp) (a : LaneOp) (b : LaneOp)
  /-- OR (R94). -/
  | or (w : Width) (d : LaneOp) (a : LaneOp) (b : LaneOp)
  /-- XOR (R94). -/
  | xor (w : Width) (d : LaneOp) (a : LaneOp) (b : LaneOp)
  /-- ANDN (R94). -/
  | andn (w : Width) (d : LaneOp) (a : LaneOp) (b : LaneOp)
  /-- SHL (R95). -/
  | shl (w : Width) (d : LaneOp) (a : LaneOp) (b : LaneOp)
  /-- SHR (R95). -/
  | shr (w : Width) (d : LaneOp) (a : LaneOp) (b : LaneOp)
  /-- SHA (R95). -/
  | sha (w : Width) (d : LaneOp) (a : LaneOp) (b : LaneOp)
  /-- ROT (R95). -/
  | rot (w : Width) (d : LaneOp) (a : LaneOp) (b : LaneOp)
  /-- MIN (R96). -/
  | min (w : Width) (d : LaneOp) (a : LaneOp) (b : LaneOp)
  /-- MAX (R96). -/
  | max (w : Width) (d : LaneOp) (a : LaneOp) (b : LaneOp)
  /-- SEL (R97). -/
  | sel (w : Width) (d : LaneOp) (a : LaneOp) (b : LaneOp)
  /-- SELZ (R97). -/
  | selz (w : Width) (d : LaneOp) (a : LaneOp) (b : LaneOp)
  /-- ICMP (R105). -/
  | icmp (wide : Bool) (any : Bool) (rel : Rel) (cb : Comb) (kd : Fin 8) (a : LaneOp) (b : LaneOp)
  /-- BFX (R98). -/
  | bfx (w : Width) (d : LaneOp) (a : LaneOp) (b : LaneOp)
  /-- BFXS (R98). -/
  | bfxs (w : Width) (d : LaneOp) (a : LaneOp) (b : LaneOp)
  /-- BFI (R98). -/
  | bfi (w : Width) (d : LaneOp) (a : LaneOp) (b : LaneOp)
  /-- PERM (R98). -/
  | perm (w : Width) (d : LaneOp) (a : LaneOp) (b : LaneOp)
  /-- MOV (R99). -/
  | mov (w : Width) (d : LaneOp) (a : LaneOp)
  /-- NOT (R99). -/
  | not (w : Width) (d : LaneOp) (a : LaneOp)
  /-- NEG (R100). -/
  | neg (w : Width) (d : LaneOp) (a : LaneOp)
  /-- ABS (R100). -/
  | abs (w : Width) (d : LaneOp) (a : LaneOp)
  /-- CLZ (R99). -/
  | clz (w : Width) (d : LaneOp) (a : LaneOp)
  /-- POPC (R99). -/
  | popc (w : Width) (d : LaneOp) (a : LaneOp)
  /-- BREV (R99). -/
  | brev (w : Width) (d : LaneOp) (a : LaneOp)
  /-- BSWAP (R99). -/
  | bswap (w : Width) (d : LaneOp) (a : LaneOp)
  /-- KTOI (R99). -/
  | ktoi (d : LaneOp) (k : Fin 8)
  /-- ITOK (R99). -/
  | itok (kd : Fin 8) (a : LaneOp)
  /-- KGET (R99). -/
  | kget (d : LaneOp)
  /-- KPUT (R101). -/
  | kput (a : LaneOp)
  /-- MOVG (R100). -/
  | movg (wide : Bool) (d : LaneOp) (g : UniOp)
  /-- SEXT (R99). -/
  | sext (w : Width) (d : LaneOp) (a : LaneOp) (m : Fin 32)
  /-- ZEXT (R99). -/
  | zext (w : Width) (d : LaneOp) (a : LaneOp) (m : Fin 32)
  /-- ADDI (R102). -/
  | addi (w : Width) (d : LaneOp) (a : LaneOp) (i : BitVec 9)
  /-- SHLI (R102). -/
  | shli (w : Width) (d : LaneOp) (a : LaneOp) (n : Fin 64)
  /-- SHRI (R102). -/
  | shri (w : Width) (d : LaneOp) (a : LaneOp) (n : Fin 64)
  /-- SHAI (R102). -/
  | shai (w : Width) (d : LaneOp) (a : LaneOp) (n : Fin 64)
  /-- ROTI (R102). -/
  | roti (w : Width) (d : LaneOp) (a : LaneOp) (n : Fin 64)
  /-- ANDI (R102). -/
  | andi (w : Width) (d : LaneOp) (a : LaneOp) (i : BitVec 7)
  /-- ORI (R102). -/
  | ori (w : Width) (d : LaneOp) (a : LaneOp) (i : BitVec 7)
  /-- XORI (R102). -/
  | xori (w : Width) (d : LaneOp) (a : LaneOp) (i : BitVec 7)
  /-- ANDNI (R102). -/
  | andni (w : Width) (d : LaneOp) (a : LaneOp) (i : BitVec 7)
  /-- MOVI (R103). -/
  | movi (d : LaneOp) (i : BitVec 16)
  /-- MOVI_Z (R103). -/
  | moviZ (d : LaneOp) (i : BitVec 16)
  /-- MOVI_H (R103). -/
  | moviH (d : LaneOp) (i : BitVec 16)
  /-- MOVI_L (R103). -/
  | moviL (d : LaneOp) (i : BitVec 16)
  /-- CMPI (R105). -/
  | cmpi (wide : Bool) (any : Bool) (rel : Rel) (kd : Fin 8) (a : LaneOp) (i : BitVec 9)
  /-- MODE (R108). -/
  | mode (q : Fin 4) (i : BitVec 16)
  /-- KAND (R106). -/
  | kand (kd : Fin 8) (na : Bool) (ka : Fin 8) (nb : Bool) (kb : Fin 8)
  /-- KOR (R106). -/
  | kor (kd : Fin 8) (na : Bool) (ka : Fin 8) (nb : Bool) (kb : Fin 8)
  /-- KXOR (R106). -/
  | kxor (kd : Fin 8) (na : Bool) (ka : Fin 8) (nb : Bool) (kb : Fin 8)
  /-- KANDN (R106). -/
  | kandn (kd : Fin 8) (na : Bool) (ka : Fin 8) (nb : Bool) (kb : Fin 8)
  /-- FADD (R116). -/
  | fadd (w : Width) (d : LaneOp) (a : LaneOp) (b : LaneOp)
  /-- FSUB (R116). -/
  | fsub (w : Width) (d : LaneOp) (a : LaneOp) (b : LaneOp)
  /-- FMUL (R116). -/
  | fmul (w : Width) (d : LaneOp) (a : LaneOp) (b : LaneOp)
  /-- FRSUB (R116). -/
  | frsub (w : Width) (d : LaneOp) (a : LaneOp) (b : LaneOp)
  /-- FFMA (R116). -/
  | ffma (w : Width) (d : LaneOp) (a : LaneOp) (b : LaneOp)
  /-- FFMS (R116). -/
  | ffms (w : Width) (d : LaneOp) (a : LaneOp) (b : LaneOp)
  /-- FNMA (R116). -/
  | fnma (w : Width) (d : LaneOp) (a : LaneOp) (b : LaneOp)
  /-- FNMS (R116). -/
  | fnms (w : Width) (d : LaneOp) (a : LaneOp) (b : LaneOp)
  /-- FMIN (R117). -/
  | fmin (w : Width) (d : LaneOp) (a : LaneOp) (b : LaneOp)
  /-- FMAX (R117). -/
  | fmax (w : Width) (d : LaneOp) (a : LaneOp) (b : LaneOp)
  /-- FMINM (R117). -/
  | fminm (w : Width) (d : LaneOp) (a : LaneOp) (b : LaneOp)
  /-- FMAXM (R117). -/
  | fmaxm (w : Width) (d : LaneOp) (a : LaneOp) (b : LaneOp)
  /-- FCMP (R118). -/
  | fcmp (wide : Bool) (any : Bool) (rel : FRel) (cb : Comb) (kd : Fin 8) (a : LaneOp) (b : LaneOp)
  /-- FABS (R120). -/
  | fabs (w : Width) (d : LaneOp) (a : LaneOp)
  /-- FNEG (R120). -/
  | fneg (w : Width) (d : LaneOp) (a : LaneOp)
  /-- FRCP (R120). -/
  | frcp (w : Width) (d : LaneOp) (a : LaneOp)
  /-- FRSQ (R121). -/
  | frsq (w : Width) (d : LaneOp) (a : LaneOp)
  /-- FSQRT (R120). -/
  | fsqrt (w : Width) (d : LaneOp) (a : LaneOp)
  /-- FEXP2 (R121). -/
  | fexp2 (w : Width) (d : LaneOp) (a : LaneOp)
  /-- FLOG2 (R121). -/
  | flog2 (w : Width) (d : LaneOp) (a : LaneOp)
  /-- FSIN (R121). -/
  | fsin (w : Width) (d : LaneOp) (a : LaneOp)
  /-- FCOS (R121). -/
  | fcos (w : Width) (d : LaneOp) (a : LaneOp)
  /-- FTANH (R121). -/
  | ftanh (w : Width) (d : LaneOp) (a : LaneOp)
  /-- FRND (R123). -/
  | frnd (w : Width) (d : LaneOp) (a : LaneOp)
  /-- FCLASS (R124). -/
  | fclass (w : Width) (d : LaneOp) (a : LaneOp)
  /-- CVT (R126). -/
  | cvt (w : Width) (d : LaneOp) (a : LaneOp) (trunc : Bool) (part : Fin 8) (dt : ETy)
  /-- PACKF_BF16 (R128). -/
  | packfBf16 (w : Width) (d : LaneOp) (a : LaneOp) (b : LaneOp)
  /-- PACKF_F16 (R128). -/
  | packfF16 (w : Width) (d : LaneOp) (a : LaneOp) (b : LaneOp)
  /-- PACKF_E4M3 (R128). -/
  | packfE4m3 (w : Width) (d : LaneOp) (a : LaneOp) (b : LaneOp)
  /-- PACKF_E5M2 (R128). -/
  | packfE5m2 (w : Width) (d : LaneOp) (a : LaneOp) (b : LaneOp)
  /-- DOT (R129). -/
  | dot (w : Width) (d : LaneOp) (a : LaneOp) (b : LaneOp)
  /-- DOTZ (R129). -/
  | dotz (w : Width) (d : LaneOp) (a : LaneOp) (b : LaneOp)
  /-- UADD (R110). -/
  | uadd (wide : Bool) (d : Fin 64) (a : UniOp) (b : UniOp)
  /-- USUB (R110). -/
  | usub (wide : Bool) (d : Fin 64) (a : UniOp) (b : UniOp)
  /-- UMUL (R110). -/
  | umul (wide : Bool) (d : Fin 64) (a : UniOp) (b : UniOp)
  /-- UMAD (R110). -/
  | umad (wide : Bool) (d : Fin 64) (a : UniOp) (b : UniOp)
  /-- UAND (R110). -/
  | uand (wide : Bool) (d : Fin 64) (a : UniOp) (b : UniOp)
  /-- UOR (R110). -/
  | uor (wide : Bool) (d : Fin 64) (a : UniOp) (b : UniOp)
  /-- UXOR (R110). -/
  | uxor (wide : Bool) (d : Fin 64) (a : UniOp) (b : UniOp)
  /-- UANDN (R110). -/
  | uandn (wide : Bool) (d : Fin 64) (a : UniOp) (b : UniOp)
  /-- USHL (R110). -/
  | ushl (wide : Bool) (d : Fin 64) (a : UniOp) (b : UniOp)
  /-- USHR (R110). -/
  | ushr (wide : Bool) (d : Fin 64) (a : UniOp) (b : UniOp)
  /-- USHA (R110). -/
  | usha (wide : Bool) (d : Fin 64) (a : UniOp) (b : UniOp)
  /-- UROT (R110). -/
  | urot (wide : Bool) (d : Fin 64) (a : UniOp) (b : UniOp)
  /-- UMIN (R110). -/
  | umin (wide : Bool) (d : Fin 64) (a : UniOp) (b : UniOp)
  /-- UMAX (R110). -/
  | umax (wide : Bool) (d : Fin 64) (a : UniOp) (b : UniOp)
  /-- UMINN (R110). -/
  | uminn (wide : Bool) (d : Fin 64) (a : UniOp) (b : UniOp)
  /-- UMAXN (R110). -/
  | umaxn (wide : Bool) (d : Fin 64) (a : UniOp) (b : UniOp)
  /-- UADDI (R110). -/
  | uaddi (wide : Bool) (d : Fin 64) (a : UniOp) (i : BitVec 9)
  /-- UMOVI (R110). -/
  | umovi (d : Fin 64) (i : BitVec 16)
  /-- UMOVI_Z (R110). -/
  | umoviZ (d : Fin 64) (i : BitVec 16)
  /-- UMOVI_H (R110). -/
  | umoviH (d : Fin 64) (i : BitVec 16)
  /-- UMOVI_L (R110). -/
  | umoviL (d : Fin 64) (i : BitVec 16)
  /-- UCMP (R111). -/
  | ucmp (wide : Bool) (uns : Bool) (rel : Rel) (cb : Comb) (kd : Fin 8) (a : UniOp) (b : UniOp)
  /-- SHFLI (R174). -/
  | shfli (w : Width) (d : LaneOp) (a : LaneOp)
  /-- SHFLU (R174). -/
  | shflu (w : Width) (d : LaneOp) (a : LaneOp) (n : Fin 32)
  /-- SHFLD (R174). -/
  | shfld (w : Width) (d : LaneOp) (a : LaneOp) (n : Fin 32)
  /-- SHFLX (R174). -/
  | shflx (w : Width) (d : LaneOp) (a : LaneOp) (n : Fin 32)
  /-- BALLOT (R172). -/
  | ballot (d : LaneOp) (neg : Bool) (k : Fin 8)
  /-- SCANADD (R175). -/
  | scanadd (ex : Bool) (d : LaneOp) (a : LaneOp)
  /-- REDADD (R175). -/
  | redadd (d : LaneOp) (a : LaneOp)
  /-- REDMIN (R175). -/
  | redmin (d : LaneOp) (a : LaneOp)
  /-- REDMAX (R175). -/
  | redmax (d : LaneOp) (a : LaneOp)
  /-- RDLANE (R174). -/
  | rdlane (w : Width) (d : LaneOp) (a : LaneOp) (n : Fin 32)
  /-- BCAST (R172). -/
  | bcast (w : Width) (d : LaneOp) (a : LaneOp)
  /-- FIRST (R172). -/
  | firstLane (d : LaneOp)
  /-- MATCH (R174). -/
  | matchLanes (d : LaneOp) (a : LaneOp)
  /-- BRA (R131). -/
  | bra (k : Fin 8) (n : Bool) (off : BitVec 21)
  /-- BRA_ALWAYS (R131). -/
  | braAlways (off : BitVec 21)
  /-- BANY (R164). -/
  | bany (k : Fin 8) (n : Bool) (off : BitVec 21)
  /-- BALL (R164). -/
  | ball (k : Fin 8) (n : Bool) (off : BitVec 21)
  /-- BNONE (R164). -/
  | bnone (k : Fin 8) (n : Bool) (off : BitVec 21)
  /-- BRK (R165). -/
  | brk (k : Fin 8) (n : Bool) (off : BitVec 21)
  /-- JPT (R166). -/
  | jpt (off : BitVec 21)
  /-- CALL (R133). -/
  | call (off : BitVec 21)
  /-- JMPR (R135). -/
  | jmpr (a : LaneOp)
  /-- CALLR (R135). -/
  | callr (a : LaneOp)
  /-- LDG (R149). -/
  | ldg (w : Width) (d : LaneOp) (a : LaneOp) (off : BitVec 9)
  /-- STG (R150). -/
  | stg (w : Width) (d : LaneOp) (a : LaneOp) (off : BitVec 9)
  /-- LDS (R149). -/
  | lds (w : Width) (d : LaneOp) (a : LaneOp) (off : BitVec 9)
  /-- STS (R150). -/
  | sts (w : Width) (d : LaneOp) (a : LaneOp) (off : BitVec 9)
  /-- LDC (R214). -/
  | ldc (w : Width) (d : LaneOp) (a : LaneOp) (off : BitVec 9)
  /-- STC (R214). -/
  | stc (w : Width) (d : LaneOp) (a : LaneOp) (off : BitVec 9)
  /-- LDD (R149). -/
  | ldd (w : Width) (d : LaneOp) (a : LaneOp) (off : BitVec 9)
  /-- STD (R150). -/
  | std (w : Width) (d : LaneOp) (a : LaneOp) (off : BitVec 9)
  /-- LDL (R213). -/
  | ldl (w : Width) (d : LaneOp) (a : LaneOp) (off : BitVec 9)
  /-- STL (R213). -/
  | stl (w : Width) (d : LaneOp) (a : LaneOp) (off : BitVec 9)
  /-- LDX (R147). -/
  | ldx (d : LaneOp) (a : LaneOp) (sp : Space) (kind : SubKind)
  /-- STX (R147). -/
  | stx (d : LaneOp) (a : LaneOp) (sp : Space) (half : Bool)
  /-- LDO (R239). -/
  | ldo (wide : Bool) (d : LaneOp) (a : LaneOp) (sp : Space) (acq : Bool) (sc : Scope)
  /-- STO (R239). -/
  | sto (wide : Bool) (d : LaneOp) (a : LaneOp) (sp : Space) (rel : Bool) (sc : Scope)
  /-- ATOMG_ADD (R242). -/
  | atomgAdd (d : LaneOp) (a : LaneOp) (b : LaneOp)
  /-- ATOMG_MIN (R242). -/
  | atomgMin (d : LaneOp) (a : LaneOp) (b : LaneOp)
  /-- ATOMG_MAX (R242). -/
  | atomgMax (d : LaneOp) (a : LaneOp) (b : LaneOp)
  /-- ATOMG_AND (R242). -/
  | atomgAnd (d : LaneOp) (a : LaneOp) (b : LaneOp)
  /-- ATOMG_OR (R242). -/
  | atomgOr (d : LaneOp) (a : LaneOp) (b : LaneOp)
  /-- ATOMG_XOR (R242). -/
  | atomgXor (d : LaneOp) (a : LaneOp) (b : LaneOp)
  /-- ATOMG_EXCH (R242). -/
  | atomgExch (d : LaneOp) (a : LaneOp) (b : LaneOp)
  /-- ATOMG_CAS (R242). -/
  | atomgCas (d : LaneOp) (a : LaneOp) (b : LaneOp)
  /-- ATOMG_INC (R242). -/
  | atomgInc (d : LaneOp) (a : LaneOp) (b : LaneOp)
  /-- ATOMG_DEC (R242). -/
  | atomgDec (d : LaneOp) (a : LaneOp) (b : LaneOp)
  /-- ATOMS_ADD (R242). -/
  | atomsAdd (d : LaneOp) (a : LaneOp) (b : LaneOp)
  /-- ATOMS_MIN (R242). -/
  | atomsMin (d : LaneOp) (a : LaneOp) (b : LaneOp)
  /-- ATOMS_MAX (R242). -/
  | atomsMax (d : LaneOp) (a : LaneOp) (b : LaneOp)
  /-- ATOMS_AND (R242). -/
  | atomsAnd (d : LaneOp) (a : LaneOp) (b : LaneOp)
  /-- ATOMS_OR (R242). -/
  | atomsOr (d : LaneOp) (a : LaneOp) (b : LaneOp)
  /-- ATOMS_XOR (R242). -/
  | atomsXor (d : LaneOp) (a : LaneOp) (b : LaneOp)
  /-- ATOMS_EXCH (R242). -/
  | atomsExch (d : LaneOp) (a : LaneOp) (b : LaneOp)
  /-- ATOMS_CAS (R242). -/
  | atomsCas (d : LaneOp) (a : LaneOp) (b : LaneOp)
  /-- ATOMS_INC (R242). -/
  | atomsInc (d : LaneOp) (a : LaneOp) (b : LaneOp)
  /-- ATOMS_DEC (R242). -/
  | atomsDec (d : LaneOp) (a : LaneOp) (b : LaneOp)
  /-- ATOMC_ADD (R242). -/
  | atomcAdd (d : LaneOp) (a : LaneOp) (b : LaneOp)
  /-- ATOMC_MIN (R242). -/
  | atomcMin (d : LaneOp) (a : LaneOp) (b : LaneOp)
  /-- ATOMC_MAX (R242). -/
  | atomcMax (d : LaneOp) (a : LaneOp) (b : LaneOp)
  /-- ATOMC_AND (R242). -/
  | atomcAnd (d : LaneOp) (a : LaneOp) (b : LaneOp)
  /-- ATOMC_OR (R242). -/
  | atomcOr (d : LaneOp) (a : LaneOp) (b : LaneOp)
  /-- ATOMC_XOR (R242). -/
  | atomcXor (d : LaneOp) (a : LaneOp) (b : LaneOp)
  /-- ATOMC_EXCH (R242). -/
  | atomcExch (d : LaneOp) (a : LaneOp) (b : LaneOp)
  /-- ATOMC_CAS (R242). -/
  | atomcCas (d : LaneOp) (a : LaneOp) (b : LaneOp)
  /-- ATOMC_INC (R242). -/
  | atomcInc (d : LaneOp) (a : LaneOp) (b : LaneOp)
  /-- ATOMC_DEC (R242). -/
  | atomcDec (d : LaneOp) (a : LaneOp) (b : LaneOp)
  /-- ATOMD_ADD (R242). -/
  | atomdAdd (d : LaneOp) (a : LaneOp) (b : LaneOp)
  /-- ATOMD_MIN (R242). -/
  | atomdMin (d : LaneOp) (a : LaneOp) (b : LaneOp)
  /-- ATOMD_MAX (R242). -/
  | atomdMax (d : LaneOp) (a : LaneOp) (b : LaneOp)
  /-- ATOMD_AND (R242). -/
  | atomdAnd (d : LaneOp) (a : LaneOp) (b : LaneOp)
  /-- ATOMD_OR (R242). -/
  | atomdOr (d : LaneOp) (a : LaneOp) (b : LaneOp)
  /-- ATOMD_XOR (R242). -/
  | atomdXor (d : LaneOp) (a : LaneOp) (b : LaneOp)
  /-- ATOMD_EXCH (R242). -/
  | atomdExch (d : LaneOp) (a : LaneOp) (b : LaneOp)
  /-- ATOMD_CAS (R242). -/
  | atomdCas (d : LaneOp) (a : LaneOp) (b : LaneOp)
  /-- ATOMD_INC (R242). -/
  | atomdInc (d : LaneOp) (a : LaneOp) (b : LaneOp)
  /-- ATOMD_DEC (R242). -/
  | atomdDec (d : LaneOp) (a : LaneOp) (b : LaneOp)
  /-- FENCE_ACQ (R245). -/
  | fenceAcq (sc : Scope)
  /-- FENCE_REL (R245). -/
  | fenceRel (sc : Scope)
  /-- FENCE_FULL (R245). -/
  | fenceFull (sc : Scope)
  /-- SIG (R255). -/
  | sig (s : Fin 64) (n : BitVec 14)
  /-- SWAIT (R256). -/
  | swait (s : Fin 64) (n : BitVec 14)
  /-- SPOLL (R258). -/
  | spoll (d : LaneOp) (s : Fin 64) (clr : Bool)
  /-- YIELD (R257). -/
  | yield (s : Fin 64) (n : BitVec 14)
  /-- CPY_GS (R269). -/
  | cpyGs (sz : CpySize) (d : LaneOp) (a : LaneOp)
  /-- CPY_SG (R269). -/
  | cpySg (sz : CpySize) (d : LaneOp) (a : LaneOp)
  /-- CPY_GC (R269). -/
  | cpyGc (sz : CpySize) (d : LaneOp) (a : LaneOp)
  /-- CPY_SS (R269). -/
  | cpySs (sz : CpySize) (d : LaneOp) (a : LaneOp)
  /-- LOUVER (R272). -/
  | louver (a : LaneOp)
  /-- CPYM (R272). -/
  | cpym (a : LaneOp)
  /-- BRUN (R325). -/
  | brun (a : LaneOp)
  /-- SHUT (R325). -/
  | shut (a : LaneOp)
  /-- MMA (R300). -/
  | mma (t : UniOp) (a : Fin 64) (b : Fin 64)
  /-- MZERO (R300). -/
  | mzero (t : UniOp) (b : Fin 64)
  /-- MDRAIN (R300). -/
  | mdrain (t : UniOp) (a : Fin 64) (b : Fin 64)
  /-- MSTAT (R312). -/
  | mstat (clr : Bool) (d : Fin 64)
  /-- BARS (R199). -/
  | bars (kd : Fin 8) (slot : Fin 4)
  /-- ARR (R200). -/
  | arr (d : Fin 64) (slot : Fin 4)
  /-- ATRY (R200). -/
  | atry (kd : Fin 8) (a : UniOp) (slot : Fin 4)
  /-- POP (R202). -/
  | pop (d : Fin 64) (a : Fin 64)
  /-- ENQ (R203). -/
  | enq (kd : Fin 8) (a : Fin 64)
  /-- ENQ_W (R203). -/
  | enqW (a : Fin 64)
  /-- VALID (R385). -/
  | valid (a : Fin 64)
  /-- RDVALID (R385). -/
  | rdvalid (a : Fin 64)
  /-- RDSLK (R386). -/
  | rdslk (a : Fin 64)
  /-- OPEN (R334). -/
  | bankOpen (fs : Fin 8)
  /-- RDC (R334). -/
  | bankRdc (d : Fin 16) (ca : Col)
  /-- WRC (R334). -/
  | bankWrc (c : Fin 16) (ca : Col)
  /-- MACX (R336). -/
  | bankMacx (q : Fin 8) (n : Fin 8) (slot : Fin 8) (xr : Fin 8) (ca : Col)
  /-- MACC (R337). -/
  | bankMacc (q : Fin 8) (c : Fin 16) (ca : Col)
  /-- AXPY (R337). -/
  | bankAxpy (f : Fin 4) (d : Fin 16) (ca : Col)
  /-- SCL (R337). -/
  | bankScl (f : Fin 4) (d : Fin 16) (c : Fin 16)
  /-- QZERO (R334). -/
  | bankQzero (q : Fin 8) (n : Fin 8)
  /-- HSUM (R337). -/
  | bankHsum (q : Fin 8)
  /-- QST (R337). -/
  | bankQst (q : Fin 8) (d : Fin 16)
  /-- QOUT (R338). -/
  | bankQout (q : Fin 8) (n : Fin 8)
  /-- SETB (R334). -/
  | bankSetb (b : Fin 8) (i : BitVec 16)
  /-- ADDB (R334). -/
  | bankAddb (b : Fin 8) (i : BitVec 16)
  /-- SETF (R334). -/
  | bankSetf (f : Fin 4) (i : BitVec 16)
  /-- LOOP (R334). -/
  | bankLoop (b : Fin 8) (tgt : Fin 64)
  /-- FMT (R334). -/
  | bankFmt (sat : Bool) (wf : Bool)
  /-- NOP (R137). -/
  | nop
  /-- EXIT (R162). -/
  | exit
  /-- BRKPT (R138). -/
  | brkpt
  /-- ICINV (R142). -/
  | icinv
  /-- TRET (R365). -/
  | tret
  /-- TFAIL (R365). -/
  | tfail
  /-- TLBINV_ALL (R408). -/
  | tlbinvAll
  /-- RET (R135). -/
  | ret
  /-- BART (R198). -/
  | bart
  /-- BANK_NOP (R334). -/
  | bankNop
  /-- CLOSE (R342). -/
  | bankClose
  /-- BANK_SIG (R338). -/
  | bankSig
  /-- BANK_END (R333). -/
  | bankEnd
  /-- POWER_ON_RESET (R456). -/
  | powerOnReset
  /-- MBCMD_LOAD_VERIFY (R450). -/
  | mbcmdLoadVerify
  /-- ATTESTATION_SIGN (R452). -/
  | attestationSign
  /-- FATAL_ERROR (R453). -/
  | fatalError
  /-- SUBMIT (R455). -/
  | submit
  /-- FEED (R201). -/
  | feed
  /-- RESUME (R367). -/
  | resume
  /-- KILL (R391). -/
  | kill
  /-- HOST_TLBINV (R408). -/
  | hostTlbinv
  /-- CONTEXT_END (R319). -/
  | contextEnd
  /-- REGISTER_WRITE (R454). -/
  | registerWrite
  /-- BAR2_READ (R447). -/
  | bar2Read
  /-- BAR2_WRITE (R447). -/
  | bar2Write
  /-- LINTEL_ENABLE (R439). -/
  | lintelEnable
  /-- LINTEL_DISABLE (R439). -/
  | lintelDisable
  /-- TIME_PORT_LOCK (R456). -/
  | timePortLock
  /-- GOVERNOR_TICK (R457). -/
  | governorTick
  /-- COOLANT_OVER_45C (R457). -/
  | coolantOver45c
  /-- COOLANT_BELOW_40C (R457). -/
  | coolantBelow40c
  /-- REFRESH_DUE (R344). -/
  | refreshDue
  /-- LAUNCH_ACCEPT (R182). -/
  | launchAccept
  /-- PREEMPTION_SAVE (R374). -/
  | preemptionSave
  /-- TEAM_RETIRE (R387). -/
  | teamRetire
  /-- T_WRAP_REACHED (R377). -/
  | tWrapReached
  /-- DIVERSION (R378). -/
  | diversion
  /-- DEADLINE_REACHED (R377). -/
  | deadlineReached
  /-- TEAM_KILL (R388). -/
  | teamKill
  /-- LOAD_RETURN (R30). -/
  | loadReturn
  /-- SPLIT_JOIN (R159). -/
  | splitJoin
  /-- SERIAL_TURN_END (R169). -/
  | serialTurnEnd
  /-- TRAP_ENTRY (R362). -/
  | trapEntry
  /-- TRAP_RECORD_DEFERRED_WRITE (R370). -/
  | trapRecordDeferredWrite
  /-- WRITE_BACK (R324). -/
  | writeBack
  /-- DRAIN_REQUEST (R236). -/
  | drainRequest
  /-- INVALIDATION_POINT (R405). -/
  | invalidationPoint
  /-- INVALIDATION_ACK (R405). -/
  | invalidationAck
  /-- ENGINE_COMMAND_COMPLETE (R262). -/
  | engineCommandComplete
  /-- CPYM_EXECUTE (R277). -/
  | cpymExecute
  /-- LOUVER_EXECUTE (R286). -/
  | louverExecute
  /-- MATRIX_COMMAND_START (R302). -/
  | matrixCommandStart
  /-- MMA_K_STEP (R305). -/
  | mmaKStep
  /-- BANK_QUEUE_NEXT_CHECK (R326). -/
  | bankQueueNextCheck
  /-- HANDING_DONE (R322). -/
  | handingDone
  /-- TO_DIE_FRAME (R323). -/
  | toDieFrame
  /-- BANK_RUN_GRANT (R331). -/
  | bankRunGrant
  /-- WINDOW_END (R344). -/
  | windowEnd
  /-- TOKEN_ARRIVAL (R435). -/
  | tokenArrival
  /-- GUARD_ELAPSED (R435). -/
  | guardElapsed
  /-- LINTEL_FRAME_RECEIVE (R436). -/
  | lintelFrameReceive
  /-- SCHEDULE_TIMEOUT (R439). -/
  | scheduleTimeout
  /-- ROLL_CALL (R439). -/
  | rollCall
  /-- ROLL_CALL_END (R439). -/
  | rollCallEnd
  /-- UALINK_REQUEST (R418). -/
  | ualinkRequest
  /-- REMOTE_RESPONSE (R422). -/
  | remoteResponse
  /-- REMOTE_REQUEST_TIMEOUT (R423). -/
  | remoteRequestTimeout
  /-- LINK_STATE_CHANGE (R420). -/
  | linkStateChange
  /-- TOKEN_REQUEST (R429). -/
  | tokenRequest
  /-- TOKEN_RECALL (R429). -/
  | tokenRecall
  /-- RECALL_DONE (R429). -/
  | recallDone
  /-- TOKEN_GIVE_BACK (R428). -/
  | tokenGiveBack
  /-- TOKEN_GRANT (R427). -/
  | tokenGrant
  /-- ILLEGAL_ENCODING (R74). -/
  | illegalEncoding
  /-- INSTRUCTION_FETCH_FAULT (R130). -/
  | instructionFetchFault
  /-- IMAGE_VERIFICATION_END (R450). -/
  | imageVerificationEnd
  /-- TIME_PORT_LOCK_LOSS (R440). -/
  | timePortLockLoss
deriving DecidableEq, Repr

end Sys2Proof
end

