-- ==== Sys2Proof/WellFormed.lean ====
section
/-! DEFINITION. Well-formed instructions: the run, alignment, width and destination conditions of R67 to R70 and R74, and the limits
of R334. The decoder answers no other instruction. -/

namespace Sys2Proof

/-- The number of registers of a run (Table 03.4). -/
def Width.regs : Width → Nat
  | .x1 => 1 | .x2 => 2 | .x4 => 4 | .x8 => 8

/-- A lane operand may start a run of w registers (Table 03.2). -/
def runOk : LaneOp → Nat → Bool
  | .v n, w => n.val % w == 0
  | .o n, w => n.val % w == 0 && decide (w ≤ 4)
  | _, w => w == 1

/-- A lane operand may be a destination run of w registers (Table 03.2). -/
def dstOk (d : LaneOp) (w : Nat) : Bool :=
  runOk d w && match d with
    | .v _ | .o _ | .z => true
    | _ => false

/-- A lane operand names an aligned pair of the main or operand file (R144, R426). -/
def pairOk (a : LaneOp) : Bool := runOk a 2

/-- The base of a sub-word or ordered access: a pair in G, any width-1 operand elsewhere (R144, R146). -/
def baseOk (sp : Space) (a : LaneOp) : Bool :=
  match sp with
  | .g => pairOk a
  | _ => true

/-- A uniform source at width 1 or, when wide, at width 2 (Table 03.3, R109). -/
def uniOk (wide : Bool) (a : UniOp) : Bool :=
  !wide || match a with
    | .g n => n.val % 2 == 0
    | _ => false

/-- A uniform destination at width 1 or 2. -/
def gOk (wide : Bool) (d : Fin 64) : Bool := !wide || d.val % 2 == 0

/-- The conditions an encoding of each instruction meets (R74, R334); events have no encoding and are always well formed. -/
def Instr.wf : Instr → Bool
  | .nop => true
  | .exit => true
  | .trap _ => true
  | .brkpt => true
  | .rdsr wide d _ => dstOk d (if wide then 2 else 1)
  | .wrsr wide _ a => runOk a (if wide then 2 else 1)
  | .segld _ a => pairOk a
  | .icinv => true
  | .tret => true
  | .tfail => true
  | .tlbinv d a => pairOk d && pairOk a
  | .tlbinvAll => true
  | .ownacq a => pairOk a
  | .ownrel a => pairOk a
  | .add w d a b => dstOk d w.regs && runOk a w.regs && runOk b w.regs
  | .sub w d a b => dstOk d w.regs && runOk a w.regs && runOk b w.regs
  | .rsub w d a b => dstOk d w.regs && runOk a w.regs && runOk b w.regs
  | .absd w d a b => dstOk d w.regs && runOk a w.regs && runOk b w.regs
  | .mul w d a b => dstOk d w.regs && runOk a w.regs && runOk b w.regs
  | .mulh w d a b => dstOk d w.regs && runOk a w.regs && runOk b w.regs
  | .mad w d a b => dstOk d w.regs && runOk a w.regs && runOk b w.regs
  | .madh w d a b => dstOk d w.regs && runOk a w.regs && runOk b w.regs
  | .and w d a b => dstOk d w.regs && runOk a w.regs && runOk b w.regs
  | .or w d a b => dstOk d w.regs && runOk a w.regs && runOk b w.regs
  | .xor w d a b => dstOk d w.regs && runOk a w.regs && runOk b w.regs
  | .andn w d a b => dstOk d w.regs && runOk a w.regs && runOk b w.regs
  | .shl w d a b => dstOk d w.regs && runOk a w.regs && runOk b w.regs
  | .shr w d a b => dstOk d w.regs && runOk a w.regs && runOk b w.regs
  | .sha w d a b => dstOk d w.regs && runOk a w.regs && runOk b w.regs
  | .rot w d a b => dstOk d w.regs && runOk a w.regs && runOk b w.regs
  | .min w d a b => dstOk d w.regs && runOk a w.regs && runOk b w.regs
  | .max w d a b => dstOk d w.regs && runOk a w.regs && runOk b w.regs
  | .sel w d a b => dstOk d w.regs && runOk a w.regs && runOk b w.regs
  | .selz w d a b => dstOk d w.regs && runOk a w.regs && runOk b w.regs
  | .icmp wide _ _ _ _ a b => runOk a (if wide then 2 else 1) && runOk b (if wide then 2 else 1)
  | .bfx w d a b => dstOk d w.regs && runOk a w.regs && runOk b w.regs
  | .bfxs w d a b => dstOk d w.regs && runOk a w.regs && runOk b w.regs
  | .bfi w d a b => dstOk d w.regs && runOk a w.regs && runOk b w.regs
  | .perm w d a b => dstOk d w.regs && runOk a w.regs && runOk b w.regs
  | .mov w d a => dstOk d w.regs && runOk a w.regs
  | .not w d a => dstOk d w.regs && runOk a w.regs
  | .neg w d a => dstOk d w.regs && runOk a w.regs
  | .abs w d a => dstOk d w.regs && runOk a w.regs
  | .clz w d a => dstOk d w.regs && runOk a w.regs
  | .popc w d a => dstOk d w.regs && runOk a w.regs
  | .brev w d a => dstOk d w.regs && runOk a w.regs
  | .bswap w d a => dstOk d w.regs && runOk a w.regs
  | .ktoi d _ => dstOk d 1
  | .itok _ _ => true
  | .kget d => dstOk d 1
  | .kput _ => true
  | .movg wide d g => dstOk d (if wide then 2 else 1) && uniOk wide g
  | .sext w d a _ => dstOk d w.regs && runOk a w.regs
  | .zext w d a _ => dstOk d w.regs && runOk a w.regs
  | .addi w d a _ => dstOk d w.regs && runOk a w.regs
  | .shli w d a _ => dstOk d w.regs && runOk a w.regs
  | .shri w d a _ => dstOk d w.regs && runOk a w.regs
  | .shai w d a _ => dstOk d w.regs && runOk a w.regs
  | .roti w d a _ => dstOk d w.regs && runOk a w.regs
  | .andi w d a _ => dstOk d w.regs && runOk a w.regs
  | .ori w d a _ => dstOk d w.regs && runOk a w.regs
  | .xori w d a _ => dstOk d w.regs && runOk a w.regs
  | .andni w d a _ => dstOk d w.regs && runOk a w.regs
  | .movi d _ => dstOk d 1
  | .moviZ d _ => dstOk d 1
  | .moviH d _ => dstOk d 1
  | .moviL d _ => dstOk d 1
  | .cmpi wide _ _ _ a _ => runOk a (if wide then 2 else 1)
  | .mode _ _ => true
  | .kand _ _ _ _ _ => true
  | .kor _ _ _ _ _ => true
  | .kxor _ _ _ _ _ => true
  | .kandn _ _ _ _ _ => true
  | .fadd w d a b => dstOk d w.regs && runOk a w.regs && runOk b w.regs
  | .fsub w d a b => dstOk d w.regs && runOk a w.regs && runOk b w.regs
  | .fmul w d a b => dstOk d w.regs && runOk a w.regs && runOk b w.regs
  | .frsub w d a b => dstOk d w.regs && runOk a w.regs && runOk b w.regs
  | .ffma w d a b => dstOk d w.regs && runOk a w.regs && runOk b w.regs
  | .ffms w d a b => dstOk d w.regs && runOk a w.regs && runOk b w.regs
  | .fnma w d a b => dstOk d w.regs && runOk a w.regs && runOk b w.regs
  | .fnms w d a b => dstOk d w.regs && runOk a w.regs && runOk b w.regs
  | .fmin w d a b => dstOk d w.regs && runOk a w.regs && runOk b w.regs
  | .fmax w d a b => dstOk d w.regs && runOk a w.regs && runOk b w.regs
  | .fminm w d a b => dstOk d w.regs && runOk a w.regs && runOk b w.regs
  | .fmaxm w d a b => dstOk d w.regs && runOk a w.regs && runOk b w.regs
  | .fcmp wide _ _ _ _ a b => runOk a (if wide then 2 else 1) && runOk b (if wide then 2 else 1)
  | .fabs w d a => dstOk d w.regs && runOk a w.regs
  | .fneg w d a => dstOk d w.regs && runOk a w.regs
  | .frcp w d a => dstOk d w.regs && runOk a w.regs
  | .frsq w d a => dstOk d w.regs && runOk a w.regs
  | .fsqrt w d a => dstOk d w.regs && runOk a w.regs
  | .fexp2 w d a => dstOk d w.regs && runOk a w.regs
  | .flog2 w d a => dstOk d w.regs && runOk a w.regs
  | .fsin w d a => dstOk d w.regs && runOk a w.regs
  | .fcos w d a => dstOk d w.regs && runOk a w.regs
  | .ftanh w d a => dstOk d w.regs && runOk a w.regs
  | .frnd w d a => dstOk d w.regs && runOk a w.regs
  | .fclass w d a => dstOk d w.regs && runOk a w.regs
  | .cvt w d _ _ _ _ => dstOk d w.regs
  | .packfBf16 w d a b => dstOk d w.regs && runOk a w.regs && runOk b w.regs
  | .packfF16 w d a b => dstOk d w.regs && runOk a w.regs && runOk b w.regs
  | .packfE4m3 w d a b => dstOk d w.regs && runOk a w.regs && runOk b w.regs
  | .packfE5m2 w d a b => dstOk d w.regs && runOk a w.regs && runOk b w.regs
  | .dot w d a b => dstOk d 1 && runOk a w.regs && runOk b w.regs
  | .dotz w d a b => dstOk d 1 && runOk a w.regs && runOk b w.regs
  | .uadd wide d a b => gOk wide d && uniOk wide a && uniOk wide b
  | .usub wide d a b => gOk wide d && uniOk wide a && uniOk wide b
  | .umul wide d a b => gOk wide d && uniOk wide a && uniOk wide b
  | .umad wide d a b => gOk wide d && uniOk wide a && uniOk wide b
  | .uand wide d a b => gOk wide d && uniOk wide a && uniOk wide b
  | .uor wide d a b => gOk wide d && uniOk wide a && uniOk wide b
  | .uxor wide d a b => gOk wide d && uniOk wide a && uniOk wide b
  | .uandn wide d a b => gOk wide d && uniOk wide a && uniOk wide b
  | .ushl wide d a b => gOk wide d && uniOk wide a && uniOk wide b
  | .ushr wide d a b => gOk wide d && uniOk wide a && uniOk wide b
  | .usha wide d a b => gOk wide d && uniOk wide a && uniOk wide b
  | .urot wide d a b => gOk wide d && uniOk wide a && uniOk wide b
  | .umin wide d a b => gOk wide d && uniOk wide a && uniOk wide b
  | .umax wide d a b => gOk wide d && uniOk wide a && uniOk wide b
  | .uminn wide d a b => gOk wide d && uniOk wide a && uniOk wide b
  | .umaxn wide d a b => gOk wide d && uniOk wide a && uniOk wide b
  | .uaddi wide d a _ => gOk wide d && uniOk wide a
  | .umovi _ _ => true
  | .umoviZ _ _ => true
  | .umoviH _ _ => true
  | .umoviL _ _ => true
  | .ucmp wide _ _ _ _ a b => uniOk wide a && uniOk wide b
  | .shfli w d a => dstOk d w.regs && runOk a w.regs
  | .shflu w d a _ => dstOk d w.regs && runOk a w.regs
  | .shfld w d a _ => dstOk d w.regs && runOk a w.regs
  | .shflx w d a _ => dstOk d w.regs && runOk a w.regs
  | .ballot d _ _ => dstOk d 1
  | .scanadd _ d _ => dstOk d 1
  | .redadd d _ => dstOk d 1
  | .redmin d _ => dstOk d 1
  | .redmax d _ => dstOk d 1
  | .rdlane w d a _ => dstOk d w.regs && runOk a w.regs
  | .bcast w d a => dstOk d w.regs && runOk a w.regs
  | .firstLane d => dstOk d 1
  | .matchLanes d _ => dstOk d 1
  | .bra k n _ => !(k == 7 && n)
  | .braAlways _ => true
  | .bany _ _ _ => true
  | .ball _ _ _ => true
  | .bnone _ _ _ => true
  | .brk _ _ _ => true
  | .jpt _ => true
  | .call _ => true
  | .ret => true
  | .jmpr _ => true
  | .callr _ => true
  | .ldg w d a _ => dstOk d w.regs && pairOk a
  | .stg w d a _ => runOk d w.regs && pairOk a
  | .lds w d _ _ => dstOk d w.regs
  | .sts w d _ _ => runOk d w.regs
  | .ldc w d _ _ => dstOk d w.regs
  | .stc w d _ _ => runOk d w.regs
  | .ldd w d _ _ => dstOk d w.regs
  | .std w d _ _ => runOk d w.regs
  | .ldl w d _ _ => dstOk d w.regs
  | .stl w d _ _ => runOk d w.regs
  | .ldx d a sp _ => dstOk d 1 && baseOk sp a
  | .stx _ a sp _ => baseOk sp a
  | .ldo wide d a sp _ _ => dstOk d (if wide then 2 else 1) && baseOk sp a
  | .sto wide d a sp _ _ => runOk d (if wide then 2 else 1) && baseOk sp a
  | .atomgAdd d a _ => dstOk d 1 && pairOk a
  | .atomgMin d a _ => dstOk d 1 && pairOk a
  | .atomgMax d a _ => dstOk d 1 && pairOk a
  | .atomgAnd d a _ => dstOk d 1 && pairOk a
  | .atomgOr d a _ => dstOk d 1 && pairOk a
  | .atomgXor d a _ => dstOk d 1 && pairOk a
  | .atomgExch d a _ => dstOk d 1 && pairOk a
  | .atomgCas d a _ => dstOk d 1 && pairOk a
  | .atomgInc d a _ => dstOk d 1 && pairOk a
  | .atomgDec d a _ => dstOk d 1 && pairOk a
  | .atomsAdd d _ _ => dstOk d 1
  | .atomsMin d _ _ => dstOk d 1
  | .atomsMax d _ _ => dstOk d 1
  | .atomsAnd d _ _ => dstOk d 1
  | .atomsOr d _ _ => dstOk d 1
  | .atomsXor d _ _ => dstOk d 1
  | .atomsExch d _ _ => dstOk d 1
  | .atomsCas d _ _ => dstOk d 1
  | .atomsInc d _ _ => dstOk d 1
  | .atomsDec d _ _ => dstOk d 1
  | .atomcAdd d _ _ => dstOk d 1
  | .atomcMin d _ _ => dstOk d 1
  | .atomcMax d _ _ => dstOk d 1
  | .atomcAnd d _ _ => dstOk d 1
  | .atomcOr d _ _ => dstOk d 1
  | .atomcXor d _ _ => dstOk d 1
  | .atomcExch d _ _ => dstOk d 1
  | .atomcCas d _ _ => dstOk d 1
  | .atomcInc d _ _ => dstOk d 1
  | .atomcDec d _ _ => dstOk d 1
  | .atomdAdd d _ _ => dstOk d 1
  | .atomdMin d _ _ => dstOk d 1
  | .atomdMax d _ _ => dstOk d 1
  | .atomdAnd d _ _ => dstOk d 1
  | .atomdOr d _ _ => dstOk d 1
  | .atomdXor d _ _ => dstOk d 1
  | .atomdExch d _ _ => dstOk d 1
  | .atomdCas d _ _ => dstOk d 1
  | .atomdInc d _ _ => dstOk d 1
  | .atomdDec d _ _ => dstOk d 1
  | .fenceAcq _ => true
  | .fenceRel _ => true
  | .fenceFull _ => true
  | .sig _ n => n != 0
  | .swait _ n => n != 0
  | .spoll d _ _ => dstOk d 1
  | .yield _ _ => true
  | .cpyGs _ _ a => pairOk a
  | .cpySg _ d _ => pairOk d
  | .cpyGc _ _ a => pairOk a
  | .cpySs _ _ _ => true
  | .louver _ => true
  | .cpym _ => true
  | .brun _ => true
  | .shut _ => true
  | .mma _ a b => a.val % 8 == 0 && b.val % 4 == 0
  | .mzero _ b => b.val % 4 == 0
  | .mdrain _ a b => a.val % 8 == 0 && b.val % 4 == 0
  | .mstat _ _ => true
  | .bart => true
  | .bars _ _ => true
  | .arr _ _ => true
  | .atry _ _ _ => true
  | .pop _ a => a.val % 2 == 0
  | .enq _ a => a.val % 2 == 0
  | .enqW a => a.val % 2 == 0
  | .valid a => a.val % 2 == 0
  | .rdvalid a => a.val % 2 == 0
  | .rdslk a => a.val % 2 == 0
  | .bankNop => true
  | .bankOpen _ => true
  | .bankClose => true
  | .bankRdc _ _ => true
  | .bankWrc _ _ => true
  | .bankMacx q n slot _ _ => decide (q.val + n.val + 1 ≤ 8) && decide (slot.val + n.val + 1 ≤ 8)
  | .bankMacc _ _ _ => true
  | .bankAxpy _ _ _ => true
  | .bankScl _ _ _ => true
  | .bankQzero q n => decide (q.val + n.val + 1 ≤ 8)
  | .bankHsum _ => true
  | .bankQst _ _ => true
  | .bankQout q n => decide (q.val + n.val + 1 ≤ 8)
  | .bankSetb _ _ => true
  | .bankAddb _ _ => true
  | .bankSetf _ _ => true
  | .bankLoop _ _ => true
  | .bankFmt _ _ => true
  | .bankSig => true
  | .bankEnd => true
  | .powerOnReset => true
  | .mbcmdLoadVerify => true
  | .attestationSign => true
  | .fatalError => true
  | .submit => true
  | .feed => true
  | .resume => true
  | .kill => true
  | .hostTlbinv => true
  | .contextEnd => true
  | .registerWrite => true
  | .bar2Read => true
  | .bar2Write => true
  | .lintelEnable => true
  | .lintelDisable => true
  | .timePortLock => true
  | .governorTick => true
  | .coolantOver45c => true
  | .coolantBelow40c => true
  | .refreshDue => true
  | .launchAccept => true
  | .preemptionSave => true
  | .teamRetire => true
  | .tWrapReached => true
  | .diversion => true
  | .deadlineReached => true
  | .teamKill => true
  | .loadReturn => true
  | .splitJoin => true
  | .serialTurnEnd => true
  | .trapEntry => true
  | .trapRecordDeferredWrite => true
  | .writeBack => true
  | .drainRequest => true
  | .invalidationPoint => true
  | .invalidationAck => true
  | .engineCommandComplete => true
  | .cpymExecute => true
  | .louverExecute => true
  | .matrixCommandStart => true
  | .mmaKStep => true
  | .bankQueueNextCheck => true
  | .handingDone => true
  | .toDieFrame => true
  | .bankRunGrant => true
  | .windowEnd => true
  | .tokenArrival => true
  | .guardElapsed => true
  | .lintelFrameReceive => true
  | .scheduleTimeout => true
  | .rollCall => true
  | .rollCallEnd => true
  | .ualinkRequest => true
  | .remoteResponse => true
  | .remoteRequestTimeout => true
  | .linkStateChange => true
  | .tokenRequest => true
  | .tokenRecall => true
  | .recallDone => true
  | .tokenGiveBack => true
  | .tokenGrant => true
  | .illegalEncoding => true
  | .instructionFetchFault => true
  | .imageVerificationEnd => true
  | .timePortLockLoss => true

/-- An instruction that a split issues from a word. -/
def Instr.isLane : Instr → Bool
  | .bankNop => false
  | .bankOpen _ => false
  | .bankClose => false
  | .bankRdc _ _ => false
  | .bankWrc _ _ => false
  | .bankMacx _ _ _ _ _ => false
  | .bankMacc _ _ _ => false
  | .bankAxpy _ _ _ => false
  | .bankScl _ _ _ => false
  | .bankQzero _ _ => false
  | .bankHsum _ => false
  | .bankQst _ _ => false
  | .bankQout _ _ => false
  | .bankSetb _ _ => false
  | .bankAddb _ _ => false
  | .bankSetf _ _ => false
  | .bankLoop _ _ => false
  | .bankFmt _ _ => false
  | .bankSig => false
  | .bankEnd => false
  | .powerOnReset => false
  | .mbcmdLoadVerify => false
  | .attestationSign => false
  | .fatalError => false
  | .submit => false
  | .feed => false
  | .resume => false
  | .kill => false
  | .hostTlbinv => false
  | .contextEnd => false
  | .registerWrite => false
  | .bar2Read => false
  | .bar2Write => false
  | .lintelEnable => false
  | .lintelDisable => false
  | .timePortLock => false
  | .governorTick => false
  | .coolantOver45c => false
  | .coolantBelow40c => false
  | .refreshDue => false
  | .launchAccept => false
  | .preemptionSave => false
  | .teamRetire => false
  | .tWrapReached => false
  | .diversion => false
  | .deadlineReached => false
  | .teamKill => false
  | .loadReturn => false
  | .splitJoin => false
  | .serialTurnEnd => false
  | .trapEntry => false
  | .trapRecordDeferredWrite => false
  | .writeBack => false
  | .drainRequest => false
  | .invalidationPoint => false
  | .invalidationAck => false
  | .engineCommandComplete => false
  | .cpymExecute => false
  | .louverExecute => false
  | .matrixCommandStart => false
  | .mmaKStep => false
  | .bankQueueNextCheck => false
  | .handingDone => false
  | .toDieFrame => false
  | .bankRunGrant => false
  | .windowEnd => false
  | .tokenArrival => false
  | .guardElapsed => false
  | .lintelFrameReceive => false
  | .scheduleTimeout => false
  | .rollCall => false
  | .rollCallEnd => false
  | .ualinkRequest => false
  | .remoteResponse => false
  | .remoteRequestTimeout => false
  | .linkStateChange => false
  | .tokenRequest => false
  | .tokenRecall => false
  | .recallDone => false
  | .tokenGiveBack => false
  | .tokenGrant => false
  | .illegalEncoding => false
  | .instructionFetchFault => false
  | .imageVerificationEnd => false
  | .timePortLockLoss => false
  | _ => true

/-- A command of a bank program (R334). -/
def Instr.isBank : Instr → Bool
  | .bankNop => true
  | .bankOpen _ => true
  | .bankClose => true
  | .bankRdc _ _ => true
  | .bankWrc _ _ => true
  | .bankMacx _ _ _ _ _ => true
  | .bankMacc _ _ _ => true
  | .bankAxpy _ _ _ => true
  | .bankScl _ _ _ => true
  | .bankQzero _ _ => true
  | .bankHsum _ => true
  | .bankQst _ _ => true
  | .bankQout _ _ => true
  | .bankSetb _ _ => true
  | .bankAddb _ _ => true
  | .bankSetf _ _ => true
  | .bankLoop _ _ => true
  | .bankFmt _ _ => true
  | .bankSig => true
  | .bankEnd => true
  | _ => false

/-- An event of 95: a step without an encoding. ILLEGAL_ENCODING and INSTRUCTION_FETCH_FAULT are left out: they are how the issue of a
split ends when its word decodes to nothing or its fetch fails (R74, R130), and come about only there. -/
def Instr.isEvent : Instr → Bool
  | .illegalEncoding => false
  | .instructionFetchFault => false
  | i => !i.isLane && !i.isBank

end Sys2Proof
end

