-- ==== Sys2Proof/Decode.lean ====
section
/-! DEFINITION. Decoding and encoding of instruction words (03) and of bank commands (14 R334). A word is read field by field into a
candidate; it is legal when the candidate meets `Instr.wf` and when encoding the candidate gives the word back, which is
the rule of R74 that a field the instruction does not use is zero. -/

namespace Sys2Proof

open Sys2Proof.Machine

/-- The code of a run width (Table 03.4). -/
def Width.code : Width → Nat
  | .x1 => 0 | .x2 => 1 | .x4 => 2 | .x8 => 3

/-- A run width (Table 03.4) with a code; the last one for a code above it, which the check of `decodeWord` then refuses. -/
def widthOf : Nat → Width
  | 0 => .x1 | 1 => .x2 | 2 => .x4 | _ => .x8

/-- The code of a compare condition (Table 04.6). -/
def Rel.code : Rel → Nat
  | .eq => 0 | .ne => 1 | .lt => 2 | .le => 3 | .gt => 4 | .ge => 5 | .tst => 6 | .ntst => 7

/-- A compare condition (Table 04.6) with a code; the last one for a code above it, which the check of `decodeWord` then refuses. -/
def relOf : Nat → Rel
  | 0 => .eq | 1 => .ne | 2 => .lt | 3 => .le | 4 => .gt | 5 => .ge | 6 => .tst | _ => .ntst

/-- The code of a floating-point relation (Table 05.3). -/
def FRel.code : FRel → Nat
  | .eq => 0 | .ne => 1 | .lt => 2 | .le => 3 | .gt => 4 | .ge => 5 | .num => 6 | .nan => 7

/-- A floating-point relation (Table 05.3) with a code; the last one for a code above it, which the check of `decodeWord` then refuses. -/
def frelOf : Nat → FRel
  | 0 => .eq | 1 => .ne | 2 => .lt | 3 => .le | 4 => .gt | 5 => .ge | 6 => .num | _ => .nan

/-- The code of a combining rule (Table 04.6). -/
def Comb.code : Comb → Nat
  | .set => 0 | .and => 1 | .or => 2 | .xor => 3

/-- A combining rule (Table 04.6) with a code; the last one for a code above it, which the check of `decodeWord` then refuses. -/
def combOf : Nat → Comb
  | 0 => .set | 1 => .and | 2 => .or | _ => .xor

/-- The code of an element type (Table 02.1). -/
def ETy.code : ETy → Nat
  | .s32 => 0 | .n32 => 1 | .s16x2 => 2 | .n16x2 => 3 | .s8x4 => 4 | .n8x4 => 5 | .s64 => 6 | .n64 => 7 | .f32 => 8 | .bf16x2 => 9 | .f16x2 => 10 | .e4m3x4 => 11 | .e5m2x4 => 12 | .e2m1x8 => 13

/-- An element type (Table 02.1) with a code; the last one for a code above it, which the check of `decodeWord` then refuses. -/
def etyOf : Nat → ETy
  | 0 => .s32 | 1 => .n32 | 2 => .s16x2 | 3 => .n16x2 | 4 => .s8x4 | 5 => .n8x4 | 6 => .s64 | 7 => .n64 | 8 => .f32 | 9 => .bf16x2 | 10 => .f16x2 | 11 => .e4m3x4 | 12 => .e5m2x4 | _ => .e2m1x8

/-- The code of a space (Table 06.5). -/
def Space.code : Space → Nat
  | .g => 0 | .s => 1 | .c => 2 | .d => 3 | .l => 4

/-- A space (Table 06.5) with a code; the last one for a code above it, which the check of `decodeWord` then refuses. -/
def spaceOf : Nat → Space
  | 0 => .g | 1 => .s | 2 => .c | 3 => .d | _ => .l

/-- The code of a sub-word kind (Table 06.5). -/
def SubKind.code : SubKind → Nat
  | .u8 => 0 | .s8 => 1 | .u16 => 2 | .s16 => 3

/-- A sub-word kind (Table 06.5) with a code; the last one for a code above it, which the check of `decodeWord` then refuses. -/
def subKindOf : Nat → SubKind
  | 0 => .u8 | 1 => .s8 | 2 => .u16 | _ => .s16

/-- The code of a scope (Table 11.1). -/
def Scope.code : Scope → Nat
  | .group => 0 | .team => 1 | .cluster => 2 | .die => 3 | .device => 4 | .pod => 5 | .system => 6 | .lintel => 7

/-- A scope (Table 11.1) with a code; the last one for a code above it, which the check of `decodeWord` then refuses. -/
def scopeOf : Nat → Scope
  | 0 => .group | 1 => .team | 2 => .cluster | 3 => .die | 4 => .device | 5 => .pod | 6 => .system | _ => .lintel

/-- The code of a copy size (R268). -/
def CpySize.code : CpySize → Nat
  | .b4 => 0 | .b8 => 1 | .b16 => 2

/-- A copy size (R268) with a code; the last one for a code above it, which the check of `decodeWord` then refuses. -/
def cpySizeOf : Nat → CpySize
  | 0 => .b4 | 1 => .b8 | _ => .b16

/-- The code of a lane operand (Table 03.2). -/
def LaneOp.code : LaneOp → Nat
  | .v n => n.val | .o n => 0x60 + n.val | .lx => 0x70 | .h n => 0x71 + n.val | .z => 0x78 | .li => 0x79

/-- The lane operand with a code; none for 0x7A to 0x7F. -/
def laneOf (c : Nat) : Option LaneOp :=
  if c < 0x60 then some (.v (Fin.ofNat 96 c))
  else if c < 0x70 then some (.o (Fin.ofNat 16 (c - 0x60)))
  else if c = 0x70 then some .lx
  else if c < 0x78 then some (.h (Fin.ofNat 7 (c - 0x71)))
  else if c = 0x78 then some .z
  else if c = 0x79 then some .li
  else none

/-- The code of a uniform operand (Table 03.3). -/
def UniOp.code : UniOp → Nat
  | .g n => n.val | .gz => 0x40 | .tix => 0x41 | .gix => 0x42 | .gcn => 0x43 | .cor => 0x44 | .clu => 0x45 | .die => 0x46
  | .lch => 0x47 | .dtl => 0x48 | .dth => 0x49 | .wrs => 0x4A | .ams => 0x4B | .sid n => 0x4C + n.val

/-- The uniform operand with a code; `sid3` for a code above it, which the check of `decodeWord` then refuses. -/
def uniOf (c : Nat) : UniOp :=
  if c < 0x40 then .g (Fin.ofNat 64 c)
  else match c with
    | 0x40 => .gz | 0x41 => .tix | 0x42 => .gix | 0x43 => .gcn | 0x44 => .cor | 0x45 => .clu | 0x46 => .die
    | 0x47 => .lch | 0x48 => .dtl | 0x49 => .dth | 0x4A => .wrs | 0x4B => .ams
    | 0x4C => .sid 0 | 0x4D => .sid 1 | 0x4E => .sid 2 | _ => .sid 3

/-- The column address field CA of a bank command (R334). -/
def Col.code (c : Col) : Nat :=
  (match c.xb with
    | some b => 2 ^ 15 + b.val * 2 ^ 12
    | none => 0) + c.col.val

/-- The column address read from a bank word. -/
def colOf (x : Nat) : Col :=
  ⟨if bitOf x 15 then some (Fin.ofNat 8 (bitsOf x 14 12)) else none, Fin.ofNat 64 (bitsOf x 5 0)⟩

/-- A word with S = 0, MAJ, bits [24:23], bits [22:16] and bits [15:0] (Table 03.1). -/
def encW (maj w d rest : Nat) : Nat :=
  maj * 2 ^ 25 + w * 2 ^ 23 + d * 2 ^ 16 + rest

/-- A word of format A or U: also bits [15:9], [8:2] and [1:0]. -/
def encA (maj w d a b fn : Nat) : Nat := encW maj w d (a * 2 ^ 9 + b * 4 + fn)

/-- A word of format B, N, V or NU: also bits [15:9] and [8:0]. -/
def encB (maj w d a rest : Nat) : Nat := encW maj w d (a * 2 ^ 9 + rest)

/-- A word of format D with S = 0 (Table 03.1). -/
def encD (maj k : Nat) (n : Bool) (off : BitVec 21) : Nat :=
  maj * 2 ^ 25 + k * 2 ^ 22 + n.toNat * 2 ^ 21 + off.toNat

/-- The word, with S = 0, of an instruction (Tables 03.1 to 03.7 and the encoding table of its chapter) or of a bank command (Table
14.10). An event has no encoding and gives 0. -/
def encode : Instr → Nat
  | .nop => encW 0x00 0 0 0x000
  | .exit => encW 0x00 0 0 0x001
  | .trap code => encW 0x00 0 (code.toNat / 2 ^ 7) (code.toNat % 2 ^ 7 * 2 ^ 9 + 0x002)
  | .brkpt => encW 0x00 0 0 0x003
  | .rdsr wide d sr => encB 0x00 wide.toNat d.code sr.toNat 0x004
  | .wrsr wide sr a => encB 0x00 wide.toNat sr.toNat a.code 0x005
  | .segld sr a => encB 0x00 1 sr.toNat a.code 0x006
  | .icinv => encW 0x00 0 0 0x007
  | .tret => encW 0x00 0 0 0x010
  | .tfail => encW 0x00 0 0 0x011
  | .tlbinv d a => encB 0x00 1 d.code a.code 0x020
  | .tlbinvAll => encW 0x00 0 0 0x021
  | .ownacq a => encB 0x00 1 0 a.code 0x028
  | .ownrel a => encB 0x00 1 0 a.code 0x029
  | .add w d a b => encA 0x01 w.code d.code a.code b.code 0
  | .sub w d a b => encA 0x01 w.code d.code a.code b.code 1
  | .rsub w d a b => encA 0x01 w.code d.code a.code b.code 2
  | .absd w d a b => encA 0x01 w.code d.code a.code b.code 3
  | .mul w d a b => encA 0x02 w.code d.code a.code b.code 0
  | .mulh w d a b => encA 0x02 w.code d.code a.code b.code 1
  | .mad w d a b => encA 0x02 w.code d.code a.code b.code 2
  | .madh w d a b => encA 0x02 w.code d.code a.code b.code 3
  | .and w d a b => encA 0x03 w.code d.code a.code b.code 0
  | .or w d a b => encA 0x03 w.code d.code a.code b.code 1
  | .xor w d a b => encA 0x03 w.code d.code a.code b.code 2
  | .andn w d a b => encA 0x03 w.code d.code a.code b.code 3
  | .shl w d a b => encA 0x04 w.code d.code a.code b.code 0
  | .shr w d a b => encA 0x04 w.code d.code a.code b.code 1
  | .sha w d a b => encA 0x04 w.code d.code a.code b.code 2
  | .rot w d a b => encA 0x04 w.code d.code a.code b.code 3
  | .min w d a b => encA 0x05 w.code d.code a.code b.code 0
  | .max w d a b => encA 0x05 w.code d.code a.code b.code 1
  | .sel w d a b => encA 0x05 w.code d.code a.code b.code 2
  | .selz w d a b => encA 0x05 w.code d.code a.code b.code 3
  | .icmp wide any rel cb kd a b => encW 0x06 wide.toNat (any.toNat * 64 + rel.code * 8 + kd.val) (a.code * 2 ^ 9 + b.code * 4 + cb.code)
  | .bfx w d a b => encA 0x07 w.code d.code a.code b.code 0
  | .bfxs w d a b => encA 0x07 w.code d.code a.code b.code 1
  | .bfi w d a b => encA 0x07 w.code d.code a.code b.code 2
  | .perm w d a b => encA 0x07 w.code d.code a.code b.code 3
  | .mov w d a => encB 0x08 w.code d.code a.code 0x000
  | .not w d a => encB 0x08 w.code d.code a.code 0x001
  | .neg w d a => encB 0x08 w.code d.code a.code 0x002
  | .abs w d a => encB 0x08 w.code d.code a.code 0x003
  | .clz w d a => encB 0x08 w.code d.code a.code 0x004
  | .popc w d a => encB 0x08 w.code d.code a.code 0x005
  | .brev w d a => encB 0x08 w.code d.code a.code 0x006
  | .bswap w d a => encB 0x08 w.code d.code a.code 0x007
  | .ktoi d k => encB 0x08 0 d.code k.val 0x008
  | .itok kd a => encB 0x08 0 kd.val a.code 0x009
  | .kget d => encW 0x08 0 d.code 0x00A
  | .kput a => encB 0x08 0 0 a.code 0x00B
  | .movg wide d g => encB 0x08 wide.toNat d.code g.code 0x00C
  | .sext w d a m => encB 0x08 w.code d.code a.code (0x020 + m.val)
  | .zext w d a m => encB 0x08 w.code d.code a.code (0x040 + m.val)
  | .addi w d a i => encB 0x09 w.code d.code a.code i.toNat
  | .shli w d a n => encB 0x0A w.code d.code a.code (0x000 + n.val)
  | .shri w d a n => encB 0x0A w.code d.code a.code (0x080 + n.val)
  | .shai w d a n => encB 0x0A w.code d.code a.code (0x100 + n.val)
  | .roti w d a n => encB 0x0A w.code d.code a.code (0x180 + n.val)
  | .andi w d a i => encB 0x0B w.code d.code a.code (0x000 + i.toNat)
  | .ori w d a i => encB 0x0B w.code d.code a.code (0x080 + i.toNat)
  | .xori w d a i => encB 0x0B w.code d.code a.code (0x100 + i.toNat)
  | .andni w d a i => encB 0x0B w.code d.code a.code (0x180 + i.toNat)
  | .movi d i => encW 0x0C 0 d.code i.toNat
  | .moviZ d i => encW 0x0C 1 d.code i.toNat
  | .moviH d i => encW 0x0C 2 d.code i.toNat
  | .moviL d i => encW 0x0C 3 d.code i.toNat
  | .cmpi wide any rel kd a i => encW 0x0D wide.toNat (any.toNat * 64 + rel.code * 8 + kd.val) (a.code * 2 ^ 9 + i.toNat)
  | .mode q i => encW 0x0E q.val 0 i.toNat
  | .kand kd na ka nb kb => encW 0x0F 0 kd.val ((na.toNat * 8 + ka.val) * 2 ^ 9 + (nb.toNat * 8 + kb.val) * 4 + 0)
  | .kor kd na ka nb kb => encW 0x0F 0 kd.val ((na.toNat * 8 + ka.val) * 2 ^ 9 + (nb.toNat * 8 + kb.val) * 4 + 1)
  | .kxor kd na ka nb kb => encW 0x0F 0 kd.val ((na.toNat * 8 + ka.val) * 2 ^ 9 + (nb.toNat * 8 + kb.val) * 4 + 2)
  | .kandn kd na ka nb kb => encW 0x0F 0 kd.val ((na.toNat * 8 + ka.val) * 2 ^ 9 + (nb.toNat * 8 + kb.val) * 4 + 3)
  | .fadd w d a b => encA 0x10 w.code d.code a.code b.code 0
  | .fsub w d a b => encA 0x10 w.code d.code a.code b.code 1
  | .fmul w d a b => encA 0x10 w.code d.code a.code b.code 2
  | .frsub w d a b => encA 0x10 w.code d.code a.code b.code 3
  | .ffma w d a b => encA 0x11 w.code d.code a.code b.code 0
  | .ffms w d a b => encA 0x11 w.code d.code a.code b.code 1
  | .fnma w d a b => encA 0x11 w.code d.code a.code b.code 2
  | .fnms w d a b => encA 0x11 w.code d.code a.code b.code 3
  | .fmin w d a b => encA 0x12 w.code d.code a.code b.code 0
  | .fmax w d a b => encA 0x12 w.code d.code a.code b.code 1
  | .fminm w d a b => encA 0x12 w.code d.code a.code b.code 2
  | .fmaxm w d a b => encA 0x12 w.code d.code a.code b.code 3
  | .fcmp wide any rel cb kd a b => encW 0x13 wide.toNat (any.toNat * 64 + rel.code * 8 + kd.val) (a.code * 2 ^ 9 + b.code * 4 + cb.code)
  | .fabs w d a => encB 0x14 w.code d.code a.code 0x000
  | .fneg w d a => encB 0x14 w.code d.code a.code 0x001
  | .frcp w d a => encB 0x14 w.code d.code a.code 0x002
  | .frsq w d a => encB 0x14 w.code d.code a.code 0x003
  | .fsqrt w d a => encB 0x14 w.code d.code a.code 0x004
  | .fexp2 w d a => encB 0x14 w.code d.code a.code 0x005
  | .flog2 w d a => encB 0x14 w.code d.code a.code 0x006
  | .fsin w d a => encB 0x14 w.code d.code a.code 0x007
  | .fcos w d a => encB 0x14 w.code d.code a.code 0x008
  | .ftanh w d a => encB 0x14 w.code d.code a.code 0x009
  | .frnd w d a => encB 0x14 w.code d.code a.code 0x00A
  | .fclass w d a => encB 0x14 w.code d.code a.code 0x00B
  | .cvt w d a trunc part dt => encB 0x15 w.code d.code a.code (trunc.toNat * 2 ^ 8 + part.val * 2 ^ 5 + dt.code)
  | .packfBf16 w d a b => encA 0x16 w.code d.code a.code b.code 0
  | .packfF16 w d a b => encA 0x16 w.code d.code a.code b.code 1
  | .packfE4m3 w d a b => encA 0x16 w.code d.code a.code b.code 2
  | .packfE5m2 w d a b => encA 0x16 w.code d.code a.code b.code 3
  | .dot w d a b => encA 0x17 w.code d.code a.code b.code 0
  | .dotz w d a b => encA 0x17 w.code d.code a.code b.code 1
  | .uadd wide d a b => encA 0x18 wide.toNat d.val a.code b.code 0
  | .usub wide d a b => encA 0x18 wide.toNat d.val a.code b.code 1
  | .umul wide d a b => encA 0x18 wide.toNat d.val a.code b.code 2
  | .umad wide d a b => encA 0x18 wide.toNat d.val a.code b.code 3
  | .uand wide d a b => encA 0x19 wide.toNat d.val a.code b.code 0
  | .uor wide d a b => encA 0x19 wide.toNat d.val a.code b.code 1
  | .uxor wide d a b => encA 0x19 wide.toNat d.val a.code b.code 2
  | .uandn wide d a b => encA 0x19 wide.toNat d.val a.code b.code 3
  | .ushl wide d a b => encA 0x1A wide.toNat d.val a.code b.code 0
  | .ushr wide d a b => encA 0x1A wide.toNat d.val a.code b.code 1
  | .usha wide d a b => encA 0x1A wide.toNat d.val a.code b.code 2
  | .urot wide d a b => encA 0x1A wide.toNat d.val a.code b.code 3
  | .umin wide d a b => encA 0x1B wide.toNat d.val a.code b.code 0
  | .umax wide d a b => encA 0x1B wide.toNat d.val a.code b.code 1
  | .uminn wide d a b => encA 0x1B wide.toNat d.val a.code b.code 2
  | .umaxn wide d a b => encA 0x1B wide.toNat d.val a.code b.code 3
  | .uaddi wide d a i => encB 0x1C wide.toNat d.val a.code i.toNat
  | .umovi d i => encW 0x1D 0 d.val i.toNat
  | .umoviZ d i => encW 0x1D 1 d.val i.toNat
  | .umoviH d i => encW 0x1D 2 d.val i.toNat
  | .umoviL d i => encW 0x1D 3 d.val i.toNat
  | .ucmp wide uns rel cb kd a b => encW 0x1E wide.toNat (uns.toNat * 64 + rel.code * 8 + kd.val) (a.code * 2 ^ 9 + b.code * 4 + cb.code)
  | .shfli w d a => encB 0x1F w.code d.code a.code 0x000
  | .shflu w d a n => encB 0x1F w.code d.code a.code (0x020 + n.val)
  | .shfld w d a n => encB 0x1F w.code d.code a.code (0x040 + n.val)
  | .shflx w d a n => encB 0x1F w.code d.code a.code (0x060 + n.val)
  | .ballot d neg k => encW 0x1F 0 d.code (0x080 + neg.toNat * 8 + k.val)
  | .scanadd ex d a => encB 0x1F 0 d.code a.code (0x0A0 + ex.toNat)
  | .redadd d a => encB 0x1F 0 d.code a.code 0x0C0
  | .redmin d a => encB 0x1F 0 d.code a.code 0x0E0
  | .redmax d a => encB 0x1F 0 d.code a.code 0x100
  | .rdlane w d a n => encB 0x1F w.code d.code a.code (0x120 + n.val)
  | .bcast w d a => encB 0x1F w.code d.code a.code 0x140
  | .firstLane d => encW 0x1F 0 d.code 0x160
  | .matchLanes d a => encB 0x1F 0 d.code a.code 0x180
  | .bra k n off => encD 0x20 k.val n off
  | .braAlways off => encD 0x20 7 true off
  | .bany k n off => encD 0x21 k.val n off
  | .ball k n off => encD 0x22 k.val n off
  | .bnone k n off => encD 0x23 k.val n off
  | .brk k n off => encD 0x24 k.val n off
  | .jpt off => encD 0x25 0 false off
  | .call off => encD 0x26 0 false off
  | .ret => encW 0x27 0 0 0x000
  | .jmpr a => encB 0x27 0 0 a.code 0x001
  | .callr a => encB 0x27 0 0 a.code 0x002
  | .ldg w d a off => encB 0x28 w.code d.code a.code off.toNat
  | .stg w d a off => encB 0x29 w.code d.code a.code off.toNat
  | .lds w d a off => encB 0x2A w.code d.code a.code off.toNat
  | .sts w d a off => encB 0x2B w.code d.code a.code off.toNat
  | .ldc w d a off => encB 0x2C w.code d.code a.code off.toNat
  | .stc w d a off => encB 0x2D w.code d.code a.code off.toNat
  | .ldd w d a off => encB 0x2E w.code d.code a.code off.toNat
  | .std w d a off => encB 0x2F w.code d.code a.code off.toNat
  | .ldl w d a off => encB 0x30 w.code d.code a.code off.toNat
  | .stl w d a off => encB 0x31 w.code d.code a.code off.toNat
  | .ldx d a sp kind => encB 0x32 0 d.code a.code (sp.code * 2 ^ 6 + kind.code * 2 ^ 4)
  | .stx d a sp half => encB 0x33 0 d.code a.code (sp.code * 2 ^ 6 + half.toNat * 2 ^ 5)
  | .ldo wide d a sp acq sc => encB 0x34 wide.toNat d.code a.code (sp.code * 2 ^ 5 + acq.toNat * 2 ^ 3 + sc.code)
  | .sto wide d a sp rel sc => encB 0x34 wide.toNat d.code a.code (2 ^ 8 + sp.code * 2 ^ 5 + rel.toNat * 2 ^ 4 + sc.code)
  | .atomgAdd d a b => encA 0x35 0 d.code a.code b.code 0
  | .atomgMin d a b => encA 0x35 0 d.code a.code b.code 1
  | .atomgMax d a b => encA 0x35 0 d.code a.code b.code 2
  | .atomgAnd d a b => encA 0x35 0 d.code a.code b.code 3
  | .atomgOr d a b => encA 0x35 1 d.code a.code b.code 0
  | .atomgXor d a b => encA 0x35 1 d.code a.code b.code 1
  | .atomgExch d a b => encA 0x35 1 d.code a.code b.code 2
  | .atomgCas d a b => encA 0x35 1 d.code a.code b.code 3
  | .atomgInc d a b => encA 0x35 2 d.code a.code b.code 0
  | .atomgDec d a b => encA 0x35 2 d.code a.code b.code 1
  | .atomsAdd d a b => encA 0x36 0 d.code a.code b.code 0
  | .atomsMin d a b => encA 0x36 0 d.code a.code b.code 1
  | .atomsMax d a b => encA 0x36 0 d.code a.code b.code 2
  | .atomsAnd d a b => encA 0x36 0 d.code a.code b.code 3
  | .atomsOr d a b => encA 0x36 1 d.code a.code b.code 0
  | .atomsXor d a b => encA 0x36 1 d.code a.code b.code 1
  | .atomsExch d a b => encA 0x36 1 d.code a.code b.code 2
  | .atomsCas d a b => encA 0x36 1 d.code a.code b.code 3
  | .atomsInc d a b => encA 0x36 2 d.code a.code b.code 0
  | .atomsDec d a b => encA 0x36 2 d.code a.code b.code 1
  | .atomcAdd d a b => encA 0x37 0 d.code a.code b.code 0
  | .atomcMin d a b => encA 0x37 0 d.code a.code b.code 1
  | .atomcMax d a b => encA 0x37 0 d.code a.code b.code 2
  | .atomcAnd d a b => encA 0x37 0 d.code a.code b.code 3
  | .atomcOr d a b => encA 0x37 1 d.code a.code b.code 0
  | .atomcXor d a b => encA 0x37 1 d.code a.code b.code 1
  | .atomcExch d a b => encA 0x37 1 d.code a.code b.code 2
  | .atomcCas d a b => encA 0x37 1 d.code a.code b.code 3
  | .atomcInc d a b => encA 0x37 2 d.code a.code b.code 0
  | .atomcDec d a b => encA 0x37 2 d.code a.code b.code 1
  | .atomdAdd d a b => encA 0x38 0 d.code a.code b.code 0
  | .atomdMin d a b => encA 0x38 0 d.code a.code b.code 1
  | .atomdMax d a b => encA 0x38 0 d.code a.code b.code 2
  | .atomdAnd d a b => encA 0x38 0 d.code a.code b.code 3
  | .atomdOr d a b => encA 0x38 1 d.code a.code b.code 0
  | .atomdXor d a b => encA 0x38 1 d.code a.code b.code 1
  | .atomdExch d a b => encA 0x38 1 d.code a.code b.code 2
  | .atomdCas d a b => encA 0x38 1 d.code a.code b.code 3
  | .atomdInc d a b => encA 0x38 2 d.code a.code b.code 0
  | .atomdDec d a b => encA 0x38 2 d.code a.code b.code 1
  | .fenceAcq sc => encW 0x39 0 0 (0x008 + sc.code)
  | .fenceRel sc => encW 0x39 0 0 (0x010 + sc.code)
  | .fenceFull sc => encW 0x39 0 0 (0x018 + sc.code)
  | .sig s n => encW 0x3A 0 s.val (n.toNat * 4 + 0)
  | .swait s n => encW 0x3A 0 s.val (n.toNat * 4 + 1)
  | .spoll d s clr => encB 0x3A 0 d.code s.val (clr.toNat * 2 ^ 8 + 2)
  | .yield s n => encW 0x3A 0 s.val (n.toNat * 4 + 3)
  | .cpyGs sz d a => encB 0x3B sz.code d.code a.code 0
  | .cpySg sz d a => encB 0x3B sz.code d.code a.code 1
  | .cpyGc sz d a => encB 0x3B sz.code d.code a.code 2
  | .cpySs sz d a => encB 0x3B sz.code d.code a.code 3
  | .louver a => encB 0x3C 0 0 a.code 0x000
  | .cpym a => encB 0x3C 0 0 a.code 0x001
  | .brun a => encB 0x3C 0 0 a.code 0x002
  | .shut a => encB 0x3C 0 0 a.code 0x003
  | .mma t a b => encA 0x3D 0 t.code a.val b.val 0
  | .mzero t b => encW 0x3D 0 t.code (b.val * 4 + 1)
  | .mdrain t a b => encA 0x3D 0 t.code a.val b.val 2
  | .mstat clr d => encB 0x3D 0 d.val clr.toNat 3
  | .bart => encW 0x3E 0 0 0x000
  | .bars kd slot => encW 0x3E 0 kd.val (0x004 + slot.val)
  | .arr d slot => encW 0x3E 0 d.val (0x008 + slot.val)
  | .atry kd a slot => encB 0x3E 0 kd.val a.code (0x00C + slot.val)
  | .pop d a => encB 0x3E 0 d.val a.val 0x010
  | .enq kd a => encB 0x3E 0 kd.val a.val 0x011
  | .enqW a => encB 0x3E 0 0 a.val 0x012
  | .valid a => encB 0x3E 0 0 a.val 0x020
  | .rdvalid a => encW 0x3E 0 a.val 0x021
  | .rdslk a => encW 0x3E 0 a.val 0x022
  | .bankNop => 0x00 * 2 ^ 27
  | .bankOpen fs => 0x01 * 2 ^ 27 + fs.val * 2 ^ 24
  | .bankClose => 0x02 * 2 ^ 27
  | .bankRdc d ca => 0x03 * 2 ^ 27 + d.val * 2 ^ 20 + ca.code
  | .bankWrc c ca => 0x04 * 2 ^ 27 + c.val * 2 ^ 16 + ca.code
  | .bankMacx q n slot xr ca => 0x05 * 2 ^ 27 + q.val * 2 ^ 24 + n.val * 2 ^ 21 + slot.val * 2 ^ 18 + xr.val * 2 ^ 9 + ca.code
  | .bankMacc q c ca => 0x06 * 2 ^ 27 + q.val * 2 ^ 24 + c.val * 2 ^ 16 + ca.code
  | .bankAxpy f d ca => 0x07 * 2 ^ 27 + f.val * 2 ^ 24 + d.val * 2 ^ 20 + ca.code
  | .bankScl f d c => 0x08 * 2 ^ 27 + f.val * 2 ^ 24 + d.val * 2 ^ 20 + c.val * 2 ^ 16
  | .bankQzero q n => 0x09 * 2 ^ 27 + q.val * 2 ^ 24 + n.val * 2 ^ 21
  | .bankHsum q => 0x0A * 2 ^ 27 + q.val * 2 ^ 24
  | .bankQst q d => 0x0B * 2 ^ 27 + q.val * 2 ^ 24 + d.val * 2 ^ 20
  | .bankQout q n => 0x0C * 2 ^ 27 + q.val * 2 ^ 24 + n.val * 2 ^ 21
  | .bankSetb b i => 0x0D * 2 ^ 27 + b.val * 2 ^ 24 + i.toNat
  | .bankAddb b i => 0x0E * 2 ^ 27 + b.val * 2 ^ 24 + i.toNat
  | .bankSetf f i => 0x0F * 2 ^ 27 + f.val * 2 ^ 24 + i.toNat
  | .bankLoop b tgt => 0x10 * 2 ^ 27 + b.val * 2 ^ 24 + tgt.val
  | .bankFmt sat wf => 0x11 * 2 ^ 27 + sat.toNat * 2 ^ 1 + wf.toNat
  | .bankSig => 0x12 * 2 ^ 27
  | .bankEnd => 0x13 * 2 ^ 27
  | _ => 0

/-- A candidate with a lane destination. -/
def ld (x : Nat) (f : LaneOp → Instr) : Option Instr := (laneOf (bitsOf x 22 16)).map f

/-- A candidate with a lane source A. -/
def la (x : Nat) (f : LaneOp → Instr) : Option Instr := (laneOf (bitsOf x 15 9)).map f

/-- A candidate with lane fields D and A. -/
def da (x : Nat) (f : LaneOp → LaneOp → Instr) : Option Instr :=
  match laneOf (bitsOf x 22 16), laneOf (bitsOf x 15 9) with
  | some d, some a => some (f d a)
  | _, _ => none

/-- A candidate with lane fields A and B. -/
def ab (x : Nat) (f : LaneOp → LaneOp → Instr) : Option Instr :=
  match laneOf (bitsOf x 15 9), laneOf (bitsOf x 8 2) with
  | some a, some b => some (f a b)
  | _, _ => none

/-- A candidate with lane fields D, A and B. -/
def dab (x : Nat) (f : LaneOp → LaneOp → LaneOp → Instr) : Option Instr :=
  match laneOf (bitsOf x 22 16), laneOf (bitsOf x 15 9), laneOf (bitsOf x 8 2) with
  | some d, some a, some b => some (f d a b)
  | _, _, _ => none

/-- A candidate with uniform fields A and B. -/
def uab (x : Nat) (f : UniOp → UniOp → Instr) : Option Instr :=
  some (f (uniOf (bitsOf x 15 9)) (uniOf (bitsOf x 8 2)))

/-- MAJ 0x00: NOP, EXIT, TRAP, BRKPT .... -/
def cand00 (x : Nat) : Option Instr :=
  let wide := bitOf x 23
  let dF := bitsOf x 22 16
  let aF := bitsOf x 15 9
  match bitsOf x 8 0 with
  | 0 => some .nop
  | 1 => some .exit
  | 2 => some (.trap (BitVec.ofNat 14 (bitsOf x 22 9)))
  | 3 => some .brkpt
  | 4 => ld x (fun d => .rdsr wide d (BitVec.ofNat 7 aF))
  | 5 => la x (.wrsr wide (BitVec.ofNat 7 dF))
  | 6 => la x (.segld (BitVec.ofNat 7 dF))
  | 7 => some .icinv
  | 16 => some .tret
  | 17 => some .tfail
  | 32 => da x .tlbinv
  | 33 => some .tlbinvAll
  | 40 => la x .ownacq
  | 41 => la x .ownrel
  | _ => none

/-- MAJ 0x01: ADD, SUB, RSUB, ABSD. -/
def cand01 (x : Nat) : Option Instr :=
  let w := widthOf (bitsOf x 24 23)
  match bitsOf x 1 0 with
  | 0 => dab x (.add w)
  | 1 => dab x (.sub w)
  | 2 => dab x (.rsub w)
  | 3 => dab x (.absd w)
  | _ => none

/-- MAJ 0x02: MUL, MULH, MAD, MADH. -/
def cand02 (x : Nat) : Option Instr :=
  let w := widthOf (bitsOf x 24 23)
  match bitsOf x 1 0 with
  | 0 => dab x (.mul w)
  | 1 => dab x (.mulh w)
  | 2 => dab x (.mad w)
  | 3 => dab x (.madh w)
  | _ => none

/-- MAJ 0x03: AND, OR, XOR, ANDN. -/
def cand03 (x : Nat) : Option Instr :=
  let w := widthOf (bitsOf x 24 23)
  match bitsOf x 1 0 with
  | 0 => dab x (.and w)
  | 1 => dab x (.or w)
  | 2 => dab x (.xor w)
  | 3 => dab x (.andn w)
  | _ => none

/-- MAJ 0x04: SHL, SHR, SHA, ROT. -/
def cand04 (x : Nat) : Option Instr :=
  let w := widthOf (bitsOf x 24 23)
  match bitsOf x 1 0 with
  | 0 => dab x (.shl w)
  | 1 => dab x (.shr w)
  | 2 => dab x (.sha w)
  | 3 => dab x (.rot w)
  | _ => none

/-- MAJ 0x05: MIN, MAX, SEL, SELZ. -/
def cand05 (x : Nat) : Option Instr :=
  let w := widthOf (bitsOf x 24 23)
  match bitsOf x 1 0 with
  | 0 => dab x (.min w)
  | 1 => dab x (.max w)
  | 2 => dab x (.sel w)
  | 3 => dab x (.selz w)
  | _ => none

/-- MAJ 0x06: ICMP. -/
def cand06 (x : Nat) : Option Instr :=
  let wide := bitOf x 23
  let any := bitOf x 22
  let rel := relOf (bitsOf x 21 19)
  let kd := Fin.ofNat 8 (bitsOf x 18 16)
  let cb := combOf (bitsOf x 1 0)
  ab x (.icmp wide any rel cb kd)

/-- MAJ 0x07: BFX, BFXS, BFI, PERM. -/
def cand07 (x : Nat) : Option Instr :=
  let w := widthOf (bitsOf x 24 23)
  match bitsOf x 1 0 with
  | 0 => dab x (.bfx w)
  | 1 => dab x (.bfxs w)
  | 2 => dab x (.bfi w)
  | 3 => dab x (.perm w)
  | _ => none

/-- MAJ 0x08: MOV, NOT, NEG, ABS .... -/
def cand08 (x : Nat) : Option Instr :=
  let w := widthOf (bitsOf x 24 23)
  let wide := bitOf x 23
  let aF := bitsOf x 15 9
  let kd := Fin.ofNat 8 (bitsOf x 18 16)
  match bitsOf x 8 0 with
  | 0 => da x (.mov w)
  | 1 => da x (.not w)
  | 2 => da x (.neg w)
  | 3 => da x (.abs w)
  | 4 => da x (.clz w)
  | 5 => da x (.popc w)
  | 6 => da x (.brev w)
  | 7 => da x (.bswap w)
  | 8 => ld x (fun d => .ktoi d (Fin.ofNat 8 aF))
  | 9 => la x (.itok kd)
  | 10 => ld x .kget
  | 11 => la x .kput
  | 12 => ld x (fun d => .movg wide d (uniOf aF))
  | _ => match bitsOf x 8 5 with
    | 1 => da x (fun d a => .sext w d a (Fin.ofNat 32 x))
    | 2 => da x (fun d a => .zext w d a (Fin.ofNat 32 x))
    | _ => none

/-- MAJ 0x09: ADDI. -/
def cand09 (x : Nat) : Option Instr :=
  let w := widthOf (bitsOf x 24 23)
  let i9 := BitVec.ofNat 9 x
  da x (fun d a => .addi w d a i9)

/-- MAJ 0x0A: SHLI, SHRI, SHAI, ROTI. -/
def cand0A (x : Nat) : Option Instr :=
  let w := widthOf (bitsOf x 24 23)
  match bitsOf x 8 7 with
  | 0 => da x (fun d a => .shli w d a (Fin.ofNat 64 x))
  | 1 => da x (fun d a => .shri w d a (Fin.ofNat 64 x))
  | 2 => da x (fun d a => .shai w d a (Fin.ofNat 64 x))
  | 3 => da x (fun d a => .roti w d a (Fin.ofNat 64 x))
  | _ => none

/-- MAJ 0x0B: ANDI, ORI, XORI, ANDNI. -/
def cand0B (x : Nat) : Option Instr :=
  let w := widthOf (bitsOf x 24 23)
  match bitsOf x 8 7 with
  | 0 => da x (fun d a => .andi w d a (BitVec.ofNat 7 x))
  | 1 => da x (fun d a => .ori w d a (BitVec.ofNat 7 x))
  | 2 => da x (fun d a => .xori w d a (BitVec.ofNat 7 x))
  | 3 => da x (fun d a => .andni w d a (BitVec.ofNat 7 x))
  | _ => none

/-- MAJ 0x0C: MOVI, MOVI_Z, MOVI_H, MOVI_L. -/
def cand0C (x : Nat) : Option Instr :=
  let i16 := BitVec.ofNat 16 x
  match bitsOf x 24 23 with
  | 0 => ld x (fun d => .movi d i16)
  | 1 => ld x (fun d => .moviZ d i16)
  | 2 => ld x (fun d => .moviH d i16)
  | 3 => ld x (fun d => .moviL d i16)
  | _ => none

/-- MAJ 0x0D: CMPI. -/
def cand0D (x : Nat) : Option Instr :=
  let wide := bitOf x 23
  let any := bitOf x 22
  let rel := relOf (bitsOf x 21 19)
  let kd := Fin.ofNat 8 (bitsOf x 18 16)
  let i9 := BitVec.ofNat 9 x
  la x (fun a => .cmpi wide any rel kd a i9)

/-- MAJ 0x0E: MODE. -/
def cand0E (x : Nat) : Option Instr :=
  let i16 := BitVec.ofNat 16 x
  some (.mode (Fin.ofNat 4 (bitsOf x 24 23)) i16)

/-- MAJ 0x0F: KAND, KOR, KXOR, KANDN. -/
def cand0F (x : Nat) : Option Instr :=
  let aF := bitsOf x 15 9
  let kd := Fin.ofNat 8 (bitsOf x 18 16)
  match bitsOf x 1 0 with
  | 0 => some (.kand kd (bitOf x 12) (Fin.ofNat 8 aF) (bitOf x 5) (Fin.ofNat 8 (bitsOf x 8 2)))
  | 1 => some (.kor kd (bitOf x 12) (Fin.ofNat 8 aF) (bitOf x 5) (Fin.ofNat 8 (bitsOf x 8 2)))
  | 2 => some (.kxor kd (bitOf x 12) (Fin.ofNat 8 aF) (bitOf x 5) (Fin.ofNat 8 (bitsOf x 8 2)))
  | 3 => some (.kandn kd (bitOf x 12) (Fin.ofNat 8 aF) (bitOf x 5) (Fin.ofNat 8 (bitsOf x 8 2)))
  | _ => none

/-- MAJ 0x10: FADD, FSUB, FMUL, FRSUB. -/
def cand10 (x : Nat) : Option Instr :=
  let w := widthOf (bitsOf x 24 23)
  match bitsOf x 1 0 with
  | 0 => dab x (.fadd w)
  | 1 => dab x (.fsub w)
  | 2 => dab x (.fmul w)
  | 3 => dab x (.frsub w)
  | _ => none

/-- MAJ 0x11: FFMA, FFMS, FNMA, FNMS. -/
def cand11 (x : Nat) : Option Instr :=
  let w := widthOf (bitsOf x 24 23)
  match bitsOf x 1 0 with
  | 0 => dab x (.ffma w)
  | 1 => dab x (.ffms w)
  | 2 => dab x (.fnma w)
  | 3 => dab x (.fnms w)
  | _ => none

/-- MAJ 0x12: FMIN, FMAX, FMINM, FMAXM. -/
def cand12 (x : Nat) : Option Instr :=
  let w := widthOf (bitsOf x 24 23)
  match bitsOf x 1 0 with
  | 0 => dab x (.fmin w)
  | 1 => dab x (.fmax w)
  | 2 => dab x (.fminm w)
  | 3 => dab x (.fmaxm w)
  | _ => none

/-- MAJ 0x13: FCMP. -/
def cand13 (x : Nat) : Option Instr :=
  let wide := bitOf x 23
  let any := bitOf x 22
  let frel := frelOf (bitsOf x 21 19)
  let kd := Fin.ofNat 8 (bitsOf x 18 16)
  let cb := combOf (bitsOf x 1 0)
  ab x (.fcmp wide any frel cb kd)

/-- MAJ 0x14: FABS, FNEG, FRCP, FRSQ .... -/
def cand14 (x : Nat) : Option Instr :=
  let w := widthOf (bitsOf x 24 23)
  match bitsOf x 8 0 with
  | 0 => da x (.fabs w)
  | 1 => da x (.fneg w)
  | 2 => da x (.frcp w)
  | 3 => da x (.frsq w)
  | 4 => da x (.fsqrt w)
  | 5 => da x (.fexp2 w)
  | 6 => da x (.flog2 w)
  | 7 => da x (.fsin w)
  | 8 => da x (.fcos w)
  | 9 => da x (.ftanh w)
  | 10 => da x (.frnd w)
  | 11 => da x (.fclass w)
  | _ => none

/-- MAJ 0x15: CVT. -/
def cand15 (x : Nat) : Option Instr :=
  let w := widthOf (bitsOf x 24 23)
  da x (fun d a => .cvt w d a (bitOf x 8) (Fin.ofNat 8 (bitsOf x 7 5)) (etyOf (bitsOf x 4 0)))

/-- MAJ 0x16: PACKF_BF16, PACKF_F16, PACKF_E4M3, PACKF_E5M2. -/
def cand16 (x : Nat) : Option Instr :=
  let w := widthOf (bitsOf x 24 23)
  match bitsOf x 1 0 with
  | 0 => dab x (.packfBf16 w)
  | 1 => dab x (.packfF16 w)
  | 2 => dab x (.packfE4m3 w)
  | 3 => dab x (.packfE5m2 w)
  | _ => none

/-- MAJ 0x17: DOT, DOTZ. -/
def cand17 (x : Nat) : Option Instr :=
  let w := widthOf (bitsOf x 24 23)
  match bitsOf x 1 0 with
  | 0 => dab x (.dot w)
  | 1 => dab x (.dotz w)
  | _ => none

/-- MAJ 0x18: UADD, USUB, UMUL, UMAD. -/
def cand18 (x : Nat) : Option Instr :=
  let wide := bitOf x 23
  let gd := Fin.ofNat 64 (bitsOf x 22 16)
  match bitsOf x 1 0 with
  | 0 => uab x (.uadd wide gd)
  | 1 => uab x (.usub wide gd)
  | 2 => uab x (.umul wide gd)
  | 3 => uab x (.umad wide gd)
  | _ => none

/-- MAJ 0x19: UAND, UOR, UXOR, UANDN. -/
def cand19 (x : Nat) : Option Instr :=
  let wide := bitOf x 23
  let gd := Fin.ofNat 64 (bitsOf x 22 16)
  match bitsOf x 1 0 with
  | 0 => uab x (.uand wide gd)
  | 1 => uab x (.uor wide gd)
  | 2 => uab x (.uxor wide gd)
  | 3 => uab x (.uandn wide gd)
  | _ => none

/-- MAJ 0x1A: USHL, USHR, USHA, UROT. -/
def cand1A (x : Nat) : Option Instr :=
  let wide := bitOf x 23
  let gd := Fin.ofNat 64 (bitsOf x 22 16)
  match bitsOf x 1 0 with
  | 0 => uab x (.ushl wide gd)
  | 1 => uab x (.ushr wide gd)
  | 2 => uab x (.usha wide gd)
  | 3 => uab x (.urot wide gd)
  | _ => none

/-- MAJ 0x1B: UMIN, UMAX, UMINN, UMAXN. -/
def cand1B (x : Nat) : Option Instr :=
  let wide := bitOf x 23
  let gd := Fin.ofNat 64 (bitsOf x 22 16)
  match bitsOf x 1 0 with
  | 0 => uab x (.umin wide gd)
  | 1 => uab x (.umax wide gd)
  | 2 => uab x (.uminn wide gd)
  | 3 => uab x (.umaxn wide gd)
  | _ => none

/-- MAJ 0x1C: UADDI. -/
def cand1C (x : Nat) : Option Instr :=
  let wide := bitOf x 23
  let aF := bitsOf x 15 9
  let gd := Fin.ofNat 64 (bitsOf x 22 16)
  let i9 := BitVec.ofNat 9 x
  some (.uaddi wide gd (uniOf aF) i9)

/-- MAJ 0x1D: UMOVI, UMOVI_Z, UMOVI_H, UMOVI_L. -/
def cand1D (x : Nat) : Option Instr :=
  let gd := Fin.ofNat 64 (bitsOf x 22 16)
  let i16 := BitVec.ofNat 16 x
  match bitsOf x 24 23 with
  | 0 => some (.umovi gd i16)
  | 1 => some (.umoviZ gd i16)
  | 2 => some (.umoviH gd i16)
  | 3 => some (.umoviL gd i16)
  | _ => none

/-- MAJ 0x1E: UCMP. -/
def cand1E (x : Nat) : Option Instr :=
  let wide := bitOf x 23
  let any := bitOf x 22
  let rel := relOf (bitsOf x 21 19)
  let kd := Fin.ofNat 8 (bitsOf x 18 16)
  let cb := combOf (bitsOf x 1 0)
  uab x (.ucmp wide any rel cb kd)

/-- MAJ 0x1F: SHFLI, SHFLU, SHFLD, SHFLX .... -/
def cand1F (x : Nat) : Option Instr :=
  let w := widthOf (bitsOf x 24 23)
  match bitsOf x 8 5 with
  | 0 => da x (.shfli w)
  | 1 => da x (fun d a => .shflu w d a (Fin.ofNat 32 x))
  | 2 => da x (fun d a => .shfld w d a (Fin.ofNat 32 x))
  | 3 => da x (fun d a => .shflx w d a (Fin.ofNat 32 x))
  | 4 => ld x (fun d => .ballot d (bitOf x 3) (Fin.ofNat 8 x))
  | 5 => da x (.scanadd (bitOf x 0))
  | 6 => da x .redadd
  | 7 => da x .redmin
  | 8 => da x .redmax
  | 9 => da x (fun d a => .rdlane w d a (Fin.ofNat 32 x))
  | 10 => da x (.bcast w)
  | 11 => ld x .firstLane
  | 12 => da x .matchLanes
  | _ => none

/-- MAJ 0x20: BRA, BRA_ALWAYS. -/
def cand20 (x : Nat) : Option Instr :=
  let off := BitVec.ofNat 21 x
  match bitsOf x 24 21 with
  | 15 => some (.braAlways off)
  | _ => some (.bra (Fin.ofNat 8 (bitsOf x 24 22)) (bitOf x 21) off)

/-- MAJ 0x21: BANY. -/
def cand21 (x : Nat) : Option Instr :=
  let off := BitVec.ofNat 21 x
  some (.bany (Fin.ofNat 8 (bitsOf x 24 22)) (bitOf x 21) off)

/-- MAJ 0x22: BALL. -/
def cand22 (x : Nat) : Option Instr :=
  let off := BitVec.ofNat 21 x
  some (.ball (Fin.ofNat 8 (bitsOf x 24 22)) (bitOf x 21) off)

/-- MAJ 0x23: BNONE. -/
def cand23 (x : Nat) : Option Instr :=
  let off := BitVec.ofNat 21 x
  some (.bnone (Fin.ofNat 8 (bitsOf x 24 22)) (bitOf x 21) off)

/-- MAJ 0x24: BRK. -/
def cand24 (x : Nat) : Option Instr :=
  let off := BitVec.ofNat 21 x
  some (.brk (Fin.ofNat 8 (bitsOf x 24 22)) (bitOf x 21) off)

/-- MAJ 0x25: JPT. -/
def cand25 (x : Nat) : Option Instr :=
  let off := BitVec.ofNat 21 x
  some (.jpt off)

/-- MAJ 0x26: CALL. -/
def cand26 (x : Nat) : Option Instr :=
  let off := BitVec.ofNat 21 x
  some (.call off)

/-- MAJ 0x27: RET, JMPR, CALLR. -/
def cand27 (x : Nat) : Option Instr :=
  match bitsOf x 8 0 with
  | 0 => some .ret
  | 1 => la x .jmpr
  | 2 => la x .callr
  | _ => none

/-- MAJ 0x28: LDG. -/
def cand28 (x : Nat) : Option Instr :=
  let w := widthOf (bitsOf x 24 23)
  let i9 := BitVec.ofNat 9 x
  da x (fun d a => .ldg w d a i9)

/-- MAJ 0x29: STG. -/
def cand29 (x : Nat) : Option Instr :=
  let w := widthOf (bitsOf x 24 23)
  let i9 := BitVec.ofNat 9 x
  da x (fun d a => .stg w d a i9)

/-- MAJ 0x2A: LDS. -/
def cand2A (x : Nat) : Option Instr :=
  let w := widthOf (bitsOf x 24 23)
  let i9 := BitVec.ofNat 9 x
  da x (fun d a => .lds w d a i9)

/-- MAJ 0x2B: STS. -/
def cand2B (x : Nat) : Option Instr :=
  let w := widthOf (bitsOf x 24 23)
  let i9 := BitVec.ofNat 9 x
  da x (fun d a => .sts w d a i9)

/-- MAJ 0x2C: LDC. -/
def cand2C (x : Nat) : Option Instr :=
  let w := widthOf (bitsOf x 24 23)
  let i9 := BitVec.ofNat 9 x
  da x (fun d a => .ldc w d a i9)

/-- MAJ 0x2D: STC. -/
def cand2D (x : Nat) : Option Instr :=
  let w := widthOf (bitsOf x 24 23)
  let i9 := BitVec.ofNat 9 x
  da x (fun d a => .stc w d a i9)

/-- MAJ 0x2E: LDD. -/
def cand2E (x : Nat) : Option Instr :=
  let w := widthOf (bitsOf x 24 23)
  let i9 := BitVec.ofNat 9 x
  da x (fun d a => .ldd w d a i9)

/-- MAJ 0x2F: STD. -/
def cand2F (x : Nat) : Option Instr :=
  let w := widthOf (bitsOf x 24 23)
  let i9 := BitVec.ofNat 9 x
  da x (fun d a => .std w d a i9)

/-- MAJ 0x30: LDL. -/
def cand30 (x : Nat) : Option Instr :=
  let w := widthOf (bitsOf x 24 23)
  let i9 := BitVec.ofNat 9 x
  da x (fun d a => .ldl w d a i9)

/-- MAJ 0x31: STL. -/
def cand31 (x : Nat) : Option Instr :=
  let w := widthOf (bitsOf x 24 23)
  let i9 := BitVec.ofNat 9 x
  da x (fun d a => .stl w d a i9)

/-- MAJ 0x32: LDX. -/
def cand32 (x : Nat) : Option Instr :=
  da x (fun d a => .ldx d a (spaceOf (bitsOf x 8 6)) (subKindOf (bitsOf x 5 4)))

/-- MAJ 0x33: STX. -/
def cand33 (x : Nat) : Option Instr :=
  da x (fun d a => .stx d a (spaceOf (bitsOf x 8 6)) (bitOf x 5))

/-- MAJ 0x34: LDO, STO. -/
def cand34 (x : Nat) : Option Instr :=
  let wide := bitOf x 23
  let sc := scopeOf (bitsOf x 2 0)
  match bitsOf x 8 8 with
  | 0 => da x (fun d a => .ldo wide d a (spaceOf (bitsOf x 7 5)) (bitOf x 3) sc)
  | 1 => da x (fun d a => .sto wide d a (spaceOf (bitsOf x 7 5)) (bitOf x 4) sc)
  | _ => none

/-- MAJ 0x35: ATOMG_ADD, ATOMG_MIN, ATOMG_MAX, ATOMG_AND .... -/
def cand35 (x : Nat) : Option Instr :=
  match bitsOf x 24 23 * 4 + bitsOf x 1 0 with
  | 0 => dab x .atomgAdd
  | 1 => dab x .atomgMin
  | 2 => dab x .atomgMax
  | 3 => dab x .atomgAnd
  | 4 => dab x .atomgOr
  | 5 => dab x .atomgXor
  | 6 => dab x .atomgExch
  | 7 => dab x .atomgCas
  | 8 => dab x .atomgInc
  | 9 => dab x .atomgDec
  | _ => none

/-- MAJ 0x36: ATOMS_ADD, ATOMS_MIN, ATOMS_MAX, ATOMS_AND .... -/
def cand36 (x : Nat) : Option Instr :=
  match bitsOf x 24 23 * 4 + bitsOf x 1 0 with
  | 0 => dab x .atomsAdd
  | 1 => dab x .atomsMin
  | 2 => dab x .atomsMax
  | 3 => dab x .atomsAnd
  | 4 => dab x .atomsOr
  | 5 => dab x .atomsXor
  | 6 => dab x .atomsExch
  | 7 => dab x .atomsCas
  | 8 => dab x .atomsInc
  | 9 => dab x .atomsDec
  | _ => none

/-- MAJ 0x37: ATOMC_ADD, ATOMC_MIN, ATOMC_MAX, ATOMC_AND .... -/
def cand37 (x : Nat) : Option Instr :=
  match bitsOf x 24 23 * 4 + bitsOf x 1 0 with
  | 0 => dab x .atomcAdd
  | 1 => dab x .atomcMin
  | 2 => dab x .atomcMax
  | 3 => dab x .atomcAnd
  | 4 => dab x .atomcOr
  | 5 => dab x .atomcXor
  | 6 => dab x .atomcExch
  | 7 => dab x .atomcCas
  | 8 => dab x .atomcInc
  | 9 => dab x .atomcDec
  | _ => none

/-- MAJ 0x38: ATOMD_ADD, ATOMD_MIN, ATOMD_MAX, ATOMD_AND .... -/
def cand38 (x : Nat) : Option Instr :=
  match bitsOf x 24 23 * 4 + bitsOf x 1 0 with
  | 0 => dab x .atomdAdd
  | 1 => dab x .atomdMin
  | 2 => dab x .atomdMax
  | 3 => dab x .atomdAnd
  | 4 => dab x .atomdOr
  | 5 => dab x .atomdXor
  | 6 => dab x .atomdExch
  | 7 => dab x .atomdCas
  | 8 => dab x .atomdInc
  | 9 => dab x .atomdDec
  | _ => none

/-- MAJ 0x39: FENCE_ACQ, FENCE_REL, FENCE_FULL. -/
def cand39 (x : Nat) : Option Instr :=
  let sc := scopeOf (bitsOf x 2 0)
  match bitsOf x 8 3 with
  | 1 => some (.fenceAcq sc)
  | 2 => some (.fenceRel sc)
  | 3 => some (.fenceFull sc)
  | _ => none

/-- MAJ 0x3A: SIG, SWAIT, SPOLL, YIELD. -/
def cand3A (x : Nat) : Option Instr :=
  let aF := bitsOf x 15 9
  let gd := Fin.ofNat 64 (bitsOf x 22 16)
  match bitsOf x 1 0 with
  | 0 => some (.sig gd (BitVec.ofNat 14 (x / 4)))
  | 1 => some (.swait gd (BitVec.ofNat 14 (x / 4)))
  | 2 => ld x (fun d => .spoll d (Fin.ofNat 64 aF) (bitOf x 8))
  | 3 => some (.yield gd (BitVec.ofNat 14 (x / 4)))
  | _ => none

/-- MAJ 0x3B: CPY_GS, CPY_SG, CPY_GC, CPY_SS. -/
def cand3B (x : Nat) : Option Instr :=
  match bitsOf x 1 0 with
  | 0 => da x (.cpyGs (cpySizeOf (bitsOf x 24 23)))
  | 1 => da x (.cpySg (cpySizeOf (bitsOf x 24 23)))
  | 2 => da x (.cpyGc (cpySizeOf (bitsOf x 24 23)))
  | 3 => da x (.cpySs (cpySizeOf (bitsOf x 24 23)))
  | _ => none

/-- MAJ 0x3C: LOUVER, CPYM, BRUN, SHUT. -/
def cand3C (x : Nat) : Option Instr :=
  match bitsOf x 1 0 with
  | 0 => la x .louver
  | 1 => la x .cpym
  | 2 => la x .brun
  | 3 => la x .shut
  | _ => none

/-- MAJ 0x3D: MMA, MZERO, MDRAIN, MSTAT. -/
def cand3D (x : Nat) : Option Instr :=
  let dF := bitsOf x 22 16
  let aF := bitsOf x 15 9
  let gd := Fin.ofNat 64 (bitsOf x 22 16)
  match bitsOf x 1 0 with
  | 0 => some (.mma (uniOf dF) (Fin.ofNat 64 aF) (Fin.ofNat 64 (bitsOf x 8 2)))
  | 1 => some (.mzero (uniOf dF) (Fin.ofNat 64 (bitsOf x 8 2)))
  | 2 => some (.mdrain (uniOf dF) (Fin.ofNat 64 aF) (Fin.ofNat 64 (bitsOf x 8 2)))
  | 3 => some (.mstat (bitOf x 9) gd)
  | _ => none

/-- MAJ 0x3E: BART, BARS, ARR, ATRY .... -/
def cand3E (x : Nat) : Option Instr :=
  let aF := bitsOf x 15 9
  let kd := Fin.ofNat 8 (bitsOf x 18 16)
  let gd := Fin.ofNat 64 (bitsOf x 22 16)
  let ga := Fin.ofNat 64 (bitsOf x 15 9)
  match bitsOf x 8 0 with
  | 0 => some .bart
  | 4 | 5 | 6 | 7 => some (.bars kd (Fin.ofNat 4 x))
  | 8 | 9 | 10 | 11 => some (.arr gd (Fin.ofNat 4 x))
  | 12 | 13 | 14 | 15 => some (.atry kd (uniOf aF) (Fin.ofNat 4 x))
  | 16 => some (.pop gd ga)
  | 17 => some (.enq kd ga)
  | 18 => some (.enqW ga)
  | 32 => some (.valid ga)
  | 33 => some (.rdvalid gd)
  | 34 => some (.rdslk gd)
  | _ => none

/-- The candidate of a word by its MAJ (Table 03.6); none for MAJ 0x3F and for a selector no chapter assigns. -/
def candidate (x : Nat) : Option Instr :=
  match bitsOf x 30 25 with
  | 0x00 => cand00 x
  | 0x01 => cand01 x
  | 0x02 => cand02 x
  | 0x03 => cand03 x
  | 0x04 => cand04 x
  | 0x05 => cand05 x
  | 0x06 => cand06 x
  | 0x07 => cand07 x
  | 0x08 => cand08 x
  | 0x09 => cand09 x
  | 0x0A => cand0A x
  | 0x0B => cand0B x
  | 0x0C => cand0C x
  | 0x0D => cand0D x
  | 0x0E => cand0E x
  | 0x0F => cand0F x
  | 0x10 => cand10 x
  | 0x11 => cand11 x
  | 0x12 => cand12 x
  | 0x13 => cand13 x
  | 0x14 => cand14 x
  | 0x15 => cand15 x
  | 0x16 => cand16 x
  | 0x17 => cand17 x
  | 0x18 => cand18 x
  | 0x19 => cand19 x
  | 0x1A => cand1A x
  | 0x1B => cand1B x
  | 0x1C => cand1C x
  | 0x1D => cand1D x
  | 0x1E => cand1E x
  | 0x1F => cand1F x
  | 0x20 => cand20 x
  | 0x21 => cand21 x
  | 0x22 => cand22 x
  | 0x23 => cand23 x
  | 0x24 => cand24 x
  | 0x25 => cand25 x
  | 0x26 => cand26 x
  | 0x27 => cand27 x
  | 0x28 => cand28 x
  | 0x29 => cand29 x
  | 0x2A => cand2A x
  | 0x2B => cand2B x
  | 0x2C => cand2C x
  | 0x2D => cand2D x
  | 0x2E => cand2E x
  | 0x2F => cand2F x
  | 0x30 => cand30 x
  | 0x31 => cand31 x
  | 0x32 => cand32 x
  | 0x33 => cand33 x
  | 0x34 => cand34 x
  | 0x35 => cand35 x
  | 0x36 => cand36 x
  | 0x37 => cand37 x
  | 0x38 => cand38 x
  | 0x39 => cand39 x
  | 0x3A => cand3A x
  | 0x3B => cand3B x
  | 0x3C => cand3C x
  | 0x3D => cand3D x
  | 0x3E => cand3E x
  | _ => none

/-- A candidate is the meaning of the word when it is well formed and encodes to the word (R74). -/
def accept (x : Nat) (c : Option Instr) : Option Instr :=
  match c with
  | some i => if i.wf && encode i == x then some i else none
  | none => none

/-- The instruction of a 32-bit word, whatever its S bit holds (R75); none for an illegal encoding (R74). -/
def decodeWord (x : Nat) : Option Instr := accept (x % 2 ^ 31) (candidate x)

/-- Bit S of a word (R31). -/
def switchBit (x : Nat) : Bool := bitOf x 31

/-- The candidate of a bank word by its OP (Table 14.10). -/
def bankCandidate (x : Nat) : Option Instr :=
  match bitsOf x 31 27 with
  | 0x00 => some (.bankNop)
  | 0x01 => some (.bankOpen (Fin.ofNat 8 (bitsOf x 26 24)))
  | 0x02 => some (.bankClose)
  | 0x03 => some (.bankRdc (Fin.ofNat 16 (bitsOf x 23 20)) (colOf x))
  | 0x04 => some (.bankWrc (Fin.ofNat 16 (bitsOf x 19 16)) (colOf x))
  | 0x05 => some (.bankMacx (Fin.ofNat 8 (bitsOf x 26 24)) (Fin.ofNat 8 (bitsOf x 23 21)) (Fin.ofNat 8 (bitsOf x 20 18)) (Fin.ofNat 8 (bitsOf x 11 9)) (colOf x))
  | 0x06 => some (.bankMacc (Fin.ofNat 8 (bitsOf x 26 24)) (Fin.ofNat 16 (bitsOf x 19 16)) (colOf x))
  | 0x07 => some (.bankAxpy (Fin.ofNat 4 (bitsOf x 25 24)) (Fin.ofNat 16 (bitsOf x 23 20)) (colOf x))
  | 0x08 => some (.bankScl (Fin.ofNat 4 (bitsOf x 25 24)) (Fin.ofNat 16 (bitsOf x 23 20)) (Fin.ofNat 16 (bitsOf x 19 16)))
  | 0x09 => some (.bankQzero (Fin.ofNat 8 (bitsOf x 26 24)) (Fin.ofNat 8 (bitsOf x 23 21)))
  | 0x0A => some (.bankHsum (Fin.ofNat 8 (bitsOf x 26 24)))
  | 0x0B => some (.bankQst (Fin.ofNat 8 (bitsOf x 26 24)) (Fin.ofNat 16 (bitsOf x 23 20)))
  | 0x0C => some (.bankQout (Fin.ofNat 8 (bitsOf x 26 24)) (Fin.ofNat 8 (bitsOf x 23 21)))
  | 0x0D => some (.bankSetb (Fin.ofNat 8 (bitsOf x 26 24)) (BitVec.ofNat 16 x))
  | 0x0E => some (.bankAddb (Fin.ofNat 8 (bitsOf x 26 24)) (BitVec.ofNat 16 x))
  | 0x0F => some (.bankSetf (Fin.ofNat 4 (bitsOf x 25 24)) (BitVec.ofNat 16 x))
  | 0x10 => some (.bankLoop (Fin.ofNat 8 (bitsOf x 26 24)) (Fin.ofNat 64 (bitsOf x 5 0)))
  | 0x11 => some (.bankFmt (bitOf x 1) (bitOf x 0))
  | 0x12 => some (.bankSig)
  | 0x13 => some (.bankEnd)
  | _ => none

/-- The bank command of a word; none where R334 rejects the word whatever PLEN and NF are. -/
def decodeBank (x : Nat) : Option Instr := accept x (bankCandidate x)

/-- Decoding of bytes: the first four, little-endian (R5, R64), and the bytes after them. -/
def decode : List Byte → Option (Instr × List Byte)
  | b0 :: b1 :: b2 :: b3 :: t => (decodeWord (ofBytes [b0, b1, b2, b3])).map (fun i => (i, t))
  | _ => none

/-- The instruction the decoder reads from a word numbered as the opcode table numbers it. Bank words share their 32 bits with the lane
words (03, 14): a word that is no lane word is read as a bank command (log 11). A row without an encoding has no word. -/
def decodeTableWord (nbits w : Nat) : Option Instr :=
  if nbits = 0 then none
  else match decode (bytesOf 4 (w % 2 ^ nbits)) with
    | some p => some p.1
    | none => decodeBank (w % 2 ^ nbits % 2 ^ 32)

end Sys2Proof
end

