-- ==== Sys2Proof/Config.lean ====
section
/-! DEFINITION. What the spec leaves to each part or to each run: free values, as constants without a body, so that no proof sees a
value of one. Each is named in the log entry its docstring gives. -/

namespace Sys2Proof.Config

/-- The free choice at a draw of `State.draws` and a site within the step (log 4): the value of an in-flight register (R32),
the lane whose store remains (R226), the order of the atomics of one instruction (R226), the entry that a translation uses (R402). -/
opaque freePick : Nat → Nat → Nat

/-- Whether a faithful result that lies between two values is the upper one: operation, element format, operand (R121, log 7). -/
opaque faithfulUp : Nat → Nat → Nat → Bool

/-- The bit of a core's filter, modulo 1,024, that each of its three hash functions gives a key (R404, log 22). -/
opaque filterHash : Nat → Nat → Nat

/-- The bytes in which the part lays out a team's image in the save region: draw and position (R374, log 38). -/
opaque imageByte : Nat → Nat → Byte

/-- SHAKE256 of a message, to 64 bytes (R450, R452): named by the spec and not defined by it (log 8). -/
opaque shake256 : List Byte → List Byte

/-- Whether a Falcon-1024 signature verifies over a digest under a public key (R450, log 8). -/
opaque falconVerify : List Byte → List Byte → List Byte → Bool

/-- The Falcon-1024 signature of a message with the device's identity key (R452, log 8). -/
opaque falconSign : List Byte → List Byte

/-- The fused key hash (R450, log 8). -/
opaque fusedKeyHash : List Byte

/-- The state dump that firmware writes after a fatal error (R453, log 9). -/
opaque dump : Nat → List Byte

end Sys2Proof.Config
end

