-- ==== Sys2Proof/Machine/Sparse.lean ====
section
/-! DEFINITION. Sparse maps: a list of (key, value) pairs with keys strictly rising and no entry equal to what an unlisted key
reads as, so that equal maps are equal lists. Memory, scratch, accumulators and register files are held so. -/

namespace Sys2Proof.Machine

/-- The value at a key: the listed one, or `d` for an unlisted key. -/
def mget {α : Type} (d : α) : List (Nat × α) → Nat → α
  | [], _ => d
  | (k', v) :: t, k => if k' = k then v else mget d t k

/-- A value put at a key in its place. -/
def mput {α : Type} : List (Nat × α) → Nat → α → List (Nat × α)
  | [], k, v => [(k, v)]
  | (k', v') :: t, k, v =>
    if k' = k then (k, v) :: t else if k < k' then (k, v) :: (k', v') :: t else (k', v') :: mput t k v

/-- The map with the value at a key replaced; a value equal to `d` is not listed. -/
def mset {α : Type} [DecidableEq α] (d : α) (m : List (Nat × α)) (k : Nat) (v : α) : List (Nat × α) :=
  if v = d then m.filter (fun e => e.1 != k) else mput m k v

/-- Every key is above a bound and no listed value is `d`. -/
def mwfFrom {α : Type} [DecidableEq α] (d : α) : Nat → List (Nat × α) → Bool
  | _, [] => true
  | lo, (k, v) :: t => decide (lo ≤ k) && !decide (v = d) && mwfFrom d (k + 1) t

/-- The canonical form: keys strictly rising, no value equal to `d`. -/
def mwf {α : Type} [DecidableEq α] (d : α) (m : List (Nat × α)) : Bool := mwfFrom d 0 m

/-- Several values stored at consecutive keys. -/
def msetList {α : Type} [DecidableEq α] (d : α) (m : List (Nat × α)) (k : Nat) : List α → List (Nat × α)
  | [] => m
  | v :: t => msetList d (mset d m k v) (k + 1) t

/-- Every key of a half-open range set back to `d` (a block of memory zeroed). -/
def mclear {α : Type} (m : List (Nat × α)) (lo hi : Nat) : List (Nat × α) :=
  m.filter (fun e => decide (e.1 < lo) || decide (hi ≤ e.1))

end Sys2Proof.Machine
end

