-- ==== Sys2Proof/Machine/State.lean ====
section
/-! DEFINITION. The state of the part as plain data: everything the spec gives the machine (INVENTORY.md '## State' names the rule of
each piece), the model's own bookkeeping (log 1, log 4), the reasons a step can stop, and the state after reset. -/

namespace Sys2Proof.Machine

open Sys2Proof

/-- Why the machine stops with a fault. Each names a call of `exec` that the machine does not make: only a state that no run reaches, with
two groups of one identifier or an agenda whose event carries a subject of another form, steps to one. -/
inductive Fault where
  /-- `exec` of a lane instruction with no READY split named in `State.issuer`. Raised by the issue pipeline. Safe. -/
  | noIssuer
  /-- `exec` of a bank command with no running bank run named in `State.curRun`. Raised by the bank commands. Safe. -/
  | noRun
  /-- `exec` of an event whose subject in `State.subject` does not have the event's form. Raised by the events. Safe. -/
  | noSubject
deriving DecidableEq, Repr

/-- Why the machine refuses a step. -/
inductive Refusal where
  /-- An instruction whose meaning this model does not hold. Raised by the arms of `exec` that are rejected by name. Safe. -/
  | notModelled (mnemonic : String)
deriving DecidableEq, Repr

/-! ### Splits and groups (01, 07, 17) -/

/-- The states of a split entry (Table 07.4). -/
inductive SplitSt where
  | free | ready | sparked | joined | waiting
deriving DecidableEq, Repr

/-- What a WAITING split waits in (R158). -/
inductive Wait where
  | none
  /-- SWAIT or YIELD of a semaphore (R256, R257). -/
  | sem (s : Nat)
  /-- BART at a PC (R198). -/
  | bart
  /-- BARS of a slot, with the predicate written and the act at issue (R199). -/
  | bars (slot kd : Nat) (act : Lanes)
  /-- POP of a work queue into scratch, with its uniform destination (R202). -/
  | pop (queue off gd : Nat)
  /-- ENQ.W of a record to a queue (R203). -/
  | enqw (launch : Bool) (queue : Nat) (bytes : List Byte)
  /-- A wait whose release occurred while the group was stopped: the split is READY once the group resumes (R362). -/
  | freed
deriving DecidableEq, Repr

/-- A translated access: its physical address, its leaf and the leaf's level. -/
structure Xl where
  pa : Nat
  e : Nat
  lvl : Nat
deriving DecidableEq, Repr

/-- The place of a piece of an access: scratch of a core or die scratch, with the offset that an error names, or a physical address
with its virtual address and leaf. -/
inductive Place where
  | scr (core off note : Nat)
  | dscr (die off note : Nat)
  | phys (va : Nat) (y : Xl)
deriving DecidableEq, Repr

/-- What a store, reduction or atomic whose homes are asked has resolved at its issue (R9, R32, R150): the places of each lane's pieces, the two
operands of each lane, and the counter by which its free choices are made. -/
structure Kept where
  places : List (Nat × List Place)
  data : List (Nat × Nat × Nat) := []
  draw : Nat := 0
deriving DecidableEq, Repr

/-- What the instruction at a PC waits for before it is performed. Of the homes of its lines (R423, Table 20.3): the requests without a
response, the lines that homes have accepted for lanes, the requests that homes hold until the others have
accepted theirs, with their addresses, the failure met so far, as its cause, lanes and address, and what the instruction has resolved. Of channels
that bank runs hold (R342): the
rows that its requests wait for, each an address over 2,048, with their order of arrival, and the rows served. -/
structure Ask where
  reqs : List Nat := []
  ok : List (Nat × Lanes) := []
  held : List (Nat × Nat) := []
  fail : Option (Nat × Lanes × Nat) := none
  rows : List (Nat × Nat) := []
  served : List Nat := []
  kept : Option Kept := none
deriving DecidableEq, Repr

/-- One entry of the split table (Table 07.2), with the model's own marks: its wait, the identifier of the wait, the PC a
released split continues at, whether it parks by R31 after the wait, what the store or reduction at its PC has asked (Table 20.3), the
word fetched at its PC and not issued (R152), and the clock at which it last issued or became READY (R195). -/
structure Split where
  st : SplitSt := .free
  pc : Word := 0
  am : Lanes := 0
  mr : DWord := 0
  hv : Nat := 0
  frame : Nat := 31
  ser : Bool := false
  spc : Word := 0
  smr : DWord := 0
  srem : Lanes := 0
  sdone : Lanes := 0
  wait : Wait := .none
  wid : Nat := 0
  cont : Word := 0
  park : Bool := false
  ask : Option Ask := none
  word : Option Word := none
  since : Nat := 0
deriving DecidableEq, Repr

/-- One divergence frame (Table 07.3). -/
structure DFrame where
  use : Bool := false
  join : Word := 0
  fm : Lanes := 0
  fmr : DWord := 0
  parent : Nat := 31
deriving DecidableEq, Repr

/-- The value a register awaits in one lane. -/
inductive PVal where
  /-- The value the access returned. -/
  | known (v : Word)
  /-- A word that met an uncorrectable error, with its virtual address and its physical one (R372). -/
  | bad (va pa : Nat)
  /-- A word that a refused token leaves failed (Table 20.3). -/
  | refused (va : Nat)
  /-- A word of the response to a remote request (R421): the request, the byte offset in its data, the size and whether it is
  sign-extended, the bytes that the core's own copy gives in place of the response's, and the virtual address. -/
  | remote (req off size : Nat) (sgn : Bool) (own : List (Option Byte)) (va : Nat)
  /-- A word of the value an atomic on a mirror page takes at its own application: the record and the word (R436). -/
  | mirror (rec word : Nat)
  /-- An access of this part that is not performed yet (R226, R232): its place, its bytes and their extension, whether it goes past
  the L1, and the group's own mirror records that must be applied first (R436). -/
  | late (p : Place) (size : Nat) (sgn past : Bool) (recs : List Nat)
  /-- A word of an engine-state register, sampled before it returns (R260). -/
  | engine (sr word : Nat)
  /-- No value: a fence that parks its split until requests have their responses and mirror records are applied (R245). -/
  | after (ids : List Nat)
  /-- No value: TLBINV and TLBINV.ALL, which park their split until the invalidation completes (R407). -/
  | inval (inv : Nat)
  /-- No value: OWNACQ, which parks its split until the token of a region is held (R426, R427). -/
  | own (region va : Nat)
  /-- No value: OWNREL, which parks its split until the token of a region is given back (R426, R428). -/
  | ownRel (region : Nat)
deriving DecidableEq, Repr

/-- One register of the in-flight set: its code (v n is n, o n is 96 + n; 255 is `z`, of an ordered access, a fence, a TLBINV, an OWNACQ or an OWNREL
that parks its split), what
each lane still awaits, the lanes written since the issue, whether an acquire follows the return, whether the words of a lane are
one access, and whether the access is an acquire at any scope (R30, R32, R225, R232, R239, R243, R260). -/
structure Pend where
  load : Nat
  reg : Nat
  vals : List (Nat × PVal)
  dirty : Lanes := 0
  acq : Bool := false
  whole : Bool := false
  strong : Bool := false
deriving DecidableEq, Repr

/-- A register that has failed in a lane: the noted virtual and physical address, whether a refused token failed it (Table 20.3), and
whether a read of it has been delivered as a trap (R372). -/
structure FailedReg where
  reg : Nat
  lane : Nat
  va : Nat
  pa : Nat := 0
  token : Bool := false
  read : Bool := false
deriving DecidableEq, Repr

/-- A raised trap: the split, its AM, the faulting lanes, the cause with its marks, the address, and the PC recorded (R362). -/
structure Trap where
  cause : Nat
  tfm : Lanes := 0
  tva : Nat := 0
  deferred : Bool := false
  fetch : Bool := false
  next : Bool := false
deriving DecidableEq, Repr

/-- A trap that a group has taken and whose entry waits for the in-flight sets (R362). -/
structure Raised where
  e : Nat
  pc : Word
  am : Lanes
  trap : Trap
deriving DecidableEq, Repr

/-- The saved block of R362: the split table and the frames, and the split that trapped. -/
structure Saved where
  e : Nat
  splits : List Split
  frames : List DFrame
deriving DecidableEq, Repr

/-- How a stopped group stopped (R367). -/
structure Stop where
  nested : Bool
  tfail : Bool
deriving DecidableEq, Repr

/-- Why a group issues nothing although it is not stopped: a pre-emption save, a diversion or a kill (R374, R378, R388). -/
inductive Hold where
  | none | preempt | divert | kill
deriving DecidableEq, Repr

/-- A synchronous trap record that waits to be written (R370): its order of raising, its bytes, and whether it has been found ready at a full
ring. -/
structure SyncRec where
  ord : Nat
  bytes : List Byte
  ready : Bool := false
deriving DecidableEq, Repr

/-- A group (07, Tables 01.2, 01.6, 07.1, 10.1). Lane registers are a sparse map with key 112 × lane + code; the history has
key 8 × lane + n; predicates are one mask a predicate; unlisted entries are 0. `badRegs`, `badPreds` and `badUnis` are the words
of the register files that hold an uncorrectable error (R373); `records` are its trap records that wait to be written (R370); `stale` are the
words of mirror pages that records have overwritten since the group's last acquire, by their address over 4, the last first, which a plain
load of the group may still return (R232, R437, R446). -/
structure Group where
  uid : Nat
  team : Nat
  gix : Nat := 0
  slot : Nat := 0
  priv : Bool := false
  regs : List (Nat × Word) := []
  hist : List (Nat × Word) := []
  preds : List Lanes := List.replicate 8 0
  seeds : List Word := List.replicate 32 1
  gs : List (Nat × Word) := []
  fx : Word := 0
  exm : Lanes := 0
  tpc : Word := 0
  tam : Lanes := 0
  tfm : Lanes := 0
  tca : Word := 0
  tva : DWord := 0
  slBase : Nat := 0
  slLimit : Nat := 0
  splits : List Split := List.replicate 4 {}
  frames : List DFrame := List.replicate 16 {}
  pends : List Pend := []
  failed : List FailedReg := []
  badRegs : List Nat := []
  badPreds : List Lanes := List.replicate 8 0
  badUnis : List Nat := []
  raised : Option Raised := none
  saved : Option Saved := none
  inHandler : Bool := false
  stop : Option Stop := none
  records : List SyncRec := []
  stale : List (Nat × Word) := []
  hold : Hold := .none
  diverted : Bool := false
  retired : Bool := false
deriving DecidableEq, Repr

/-! ### Contexts, the Lintel port and the device (17, 20, 22) -/

/-- A ring queue's registers (R201). -/
structure Queue where
  base : Nat := 0
  log2n : Nat := 0
  pi : Word := 0
  ci : Word := 0
deriving DecidableEq, Repr

/-- An asynchronous trap record that is not written yet (R369, R370): its order of raising, the group and the core whose access or write-back
raised it, the die that posts it, its context and its bytes. -/
structure AsyncRec where
  ord : Nat
  grp : Option Nat := none
  core : Option Nat := none
  die : Nat
  ctx : Nat
  bytes : List Byte
deriving DecidableEq, Repr

/-- A context's registers and rings (Table 22.2, R201, R368, R370). `pops` are the POP waiters in order, as queue and wait, `enqs`
the ENQ.W waiters as launch or work, queue and wait; `hold0` and `hold1` the dies' holding queues; `lqFrom` the class limit plus
one of a record that a launch enqueued, by queue × 2^32 + index (R203); `lastAccepted` the last launch plus one taken from each
launch queue (R183); `ended` marks a context that has ended and not been enabled since (R319); `hrec` is the record of a SUBMIT or FEED, read from the
host (none where its read completed with an error), that waits for its ring to be reached (R455). -/
structure Ctx where
  en : Bool := false
  ended : Bool := false
  pgroot : DWord := 0
  gbase : Nat := 0
  glimit : Nat := 0
  lpsz : Nat := 0
  pthr : Nat := 0
  arbc : Word := 1
  trbase : Nat := 0
  trctl : Word := 0
  trpi : Word := 0
  trci : Word := 0
  trdrop : Word := 0
  savebase : Nat := 0
  savelen : Nat := 0
  hcmd : List Byte := List.replicate 64 0
  latched : List Byte := []
  hsts : Nat := 1
  wq : List (Nat × Queue) := []
  lq : List (Nat × Queue) := []
  pops : List (Nat × Nat) := []
  enqs : List (Bool × Nat × Nat) := []
  hold0 : List AsyncRec := []
  hold1 : List AsyncRec := []
  lqFrom : List (Nat × Nat) := []
  lastAccepted : List (Nat × Nat) := []
  hrec : Option (Option (List Byte)) := none
deriving DecidableEq, Repr

/-- A Lintel record in a class queue or awaiting its own application (R433, R436): its 8-byte header and data, the core and group that
issued it, its virtual address and the physical one of its check, and the SEQ of the frame that carried it. -/
structure LintelRec where
  uid : Nat
  core : Nat
  grp : Nat
  hdr : DWord
  data : List Byte
  va : Nat
  pa : Nat := 0
  sent : Option Nat := none
deriving DecidableEq, Repr

/-- The member states of Table 20.9. -/
inductive Member where
  | down | forming | up | dropped
deriving DecidableEq, Repr

/-- The station states of Table 20.8. -/
inductive Station where
  | wait | send1 | send0 | pass
deriving DecidableEq, Repr

/-- A Lintel frame whose records are being applied: whether it is the member's own, and its records that are left, each a header and data (R436). -/
structure LintelFrame where
  own : Bool
  recs : List (Nat × List Byte)
deriving DecidableEq, Repr

/-- The Lintel port (Table 20.6, R433 to R440); `locks` are the members whose time port the last schedule gave as locked (R440); `frames` are
the frames received whose records are not all applied, in order (R342, R436). -/
structure Lintel where
  ctx : Nat := 0
  en : Bool := false
  stn : Nat := 0
  base : Nat := 0
  memb : Word := 0
  drops : Nat := 0
  st : Member := .down
  levt : Nat := 0
  station : Station := .wait
  q0 : List LintelRec := []
  q1 : List LintelRec := []
  sent : List LintelRec := []
  seq : Word := 0
  locks : Word := 0
  fromDown : Bool := false
  frames : List LintelFrame := []
deriving DecidableEq, Repr

/-! ### The host and the outside -/

/-- An event that is being raised (R188): its context and launch, the address of its word, the interrupt that follows, and the requests
without a response. Until they have one, the completion record before it is not performed or its word is not reached (`pa` is none), or its own
increment is not performed, at that physical address. `fill` marks one whose word is being filled into the part's own L2 (R424); `crec` is the
completion record, with its address, that is still to be written before it. -/
structure Raise where
  ctx : Nat
  lch : Nat
  va : Nat
  irq : Option Nat
  pa : Option Nat := none
  after : List Nat
  fill : Bool := false
  crec : Option (Nat × List Byte) := none
deriving DecidableEq, Repr

/-- The states of BOOTSTS (Table 22.1). -/
inductive Boot where
  | waitImage | verify | running | rejected | fatal
deriving DecidableEq, Repr

/-- The governor's measures (R457). -/
inductive Throttle where
  | none | openClass0 | openClass1 | issueClass0
deriving DecidableEq, Repr

/-- The registers of BAR0 that belong to the device (Table 22.2), the size of BAR2 as a power of two (R447), what boot and the time port
latch (R450 to R457), and by how much device time is still to be steered, in units of 1/9,000,000 ns (R440, R456). -/
structure Dev where
  boot : Boot := .waitImage
  reason : Nat := 0
  mbaddr : Nat := 0
  mblen : Nat := 0
  latAddr : Nat := 0
  latLen : Nat := 0
  peerid : Nat := 0
  hwbase : Nat := 0
  b2base : Nat := 0
  b2log : Nat := 30
  dumpbase : Nat := 0
  dumplen : Nat := 0
  pwrcap : Word := 3600
  attnonce : List Byte := List.replicate 32 0
  attaddr : Nat := 0
  attsts : Nat := 0
  fwLen : Nat := 0
  digest : List Byte := List.replicate 64 0
  timeLocked : Bool := false
  portLock : Bool := false
  steer : Int := 0
  anyAccepted : Bool := false
  hot : Bool := false
  throttle : Throttle := .none
deriving DecidableEq, Repr

/-- The parts of the state that the registers of BAR0 give, as they stood at one moment (R77, R454). -/
structure RegView where
  dev : Dev := {}
  dtime : Nat := 0
  lintel : Lintel := {}
  ctxs : List (Nat × Ctx) := []
deriving DecidableEq, Repr

/-! ### Teams and launches (08, 12, 13, 17) -/

/-- A semaphore (Table 12.1); a waiter is the identifier of its wait and its count. -/
structure Sem where
  val : Nat := 0
  ovf : Bool := false
  waiters : List (Nat × Nat) := []
deriving DecidableEq, Repr

/-- An end of a lane copy: a physical address, or a byte of scratch, with the address or offset that an error names (R269, R273). -/
structure CpyEnd where
  phys : Bool
  key : Nat
  note : Nat
deriving DecidableEq, Repr

/-- The kinds of engine command (12, 13, 14). -/
inductive CmdKind where
  /-- A lane copy: its size, and the source and destination of each lane (R269). -/
  | cpy (size : Nat) (pairs : List (CpyEnd × CpyEnd))
  | louver | cpym | brun | shut | mma | mzero | mdrain
deriving DecidableEq, Repr

/-- How far a command has come: queued, started, or ended with the record it leaves. -/
inductive CmdSt where
  | queued | started | ended
deriving DecidableEq, Repr

/-- What the outside answered to a command (R423, R430, R448): a line read, by its number and bytes, or a region written or asked; the status
of a failure, else 0; and the virtual address that the request named. -/
structure CmdAns where
  wr : Bool
  key : Nat
  status : Nat
  va : Nat
  data : List Byte
deriving DecidableEq, Repr

/-- An engine command with what it took from its split at issue (R262, R298, R299). `desc` is its descriptor; `blk` the uniform
blocks of a matrix command, then its TILE; `step` the next K-step or frame-list entry; `record` the 16 bytes of its record; `maps` the
pieces of its ranges of G that its checks translated, as virtual address, length and physical address (R405); `need` its requests to
peers and the host without a response, and `got` the answers; `out` the writes to scratch that an MDRAIN still owes (R304); `rows` the rows of
channels that its requests wait for, with their order of arrival, and `served` those that have been served (R342, R344); `reach` is when a shutter
operation has reached the frame that it stands at (R319). -/
structure Cmd where
  uid : Nat
  team : Nat
  grp : Nat
  kind : CmdKind
  st : CmdSt := .queued
  mr : DWord
  priv : Bool := false
  desc : List Byte := []
  blk : List Nat := []
  step : Nat := 0
  record : List Byte := []
  lost : Nat := 0
  checked : Bool := false
  wait : Bool := false
  stopAt : Bool := false
  maps : List (Nat × Nat × Nat) := []
  need : List Nat := []
  got : List CmdAns := []
  out : List (Nat × List Byte) := []
  rows : List (Nat × Nat) := []
  served : List Nat := []
  reach : Option Nat := none
deriving DecidableEq, Repr

/-- The image of a pre-empted team beside its groups: scratch, accumulators, their words that hold an error, its unstarted
commands in order (Table 17.8), and the bytes that it takes in the context's save region. -/
structure Image where
  scr : List (Nat × Byte)
  acc : List (Nat × Word)
  badScr : List Nat
  badAcc : List Nat
  cmds : List Cmd
  off : Nat := 0
  size : Nat := 0
deriving DecidableEq, Repr

/-- A result for an unplaced team that the part holds (R375): a record to write at a scratch offset, or an increment. -/
inductive Held where
  | record (off : Nat) (bytes : List Byte)
  | incr (sem : Nat)
deriving DecidableEq, Repr

/-- A line of an L1 (R217, R236): its number, its bytes, which of them it holds, which are dirty, the epoch of its last write and
the context of that write. -/
structure L1Line where
  line : Nat
  data : List Byte
  valid : BitVec 128
  dirty : BitVec 128
  epoch : Word
  ctx : Nat
deriving DecidableEq, Repr

/-- A team (08, Tables 01.6, 10.2, 12.1, 12.3, 13.1, 17.11); `cesErr` says that a copy has met an error since `ces` was last written (Table
12.3); `waitq` are its restored commands that have found no entry yet (R261,
R376); `icMem`, `icL1` and `icRegs` are what its instruction fetch fills from: memory (of a firmware team, die scratch), its core's L1, and the
registers of BAR0, as they stood at its placement or the last ICINV of its core (R142, R152, R219); `leaving` says that its retirement has begun
(R215); `unwrapped` that its launch reached T_wrap while it was unplaced (R383). -/
structure Team where
  uid : Nat
  lch : Nat
  tix : Nat := 0
  ctx : Nat := 0
  placed : Bool := true
  core : Nat := 0
  order : Nat := 0
  sgBase : Nat := 0
  sgLimit : Nat := 0
  ssBase : Nat := 0
  ssLimit : Nat := 0
  scBase : Nat := 0
  scLimit : Nat := 0x400000
  sdBase : Nat := 0
  sdLimit : Nat := 0
  accBase : Nat := 0
  accLen : Nat := 0
  sems : List (Nat × Sem) := []
  ces : Word := 0
  cesErr : Bool := false
  cea : DWord := 0
  mcb : Word := 0
  mstat : Word := 0
  dgen : Word := 1
  wrs : Word := 0
  img : Option Image := none
  held : List Held := []
  waitq : List Cmd := []
  icMem : List Host.Cell := []
  icL1 : List L1Line := []
  icRegs : RegView := {}
  leaving : Bool := false
  killed : Bool := false
  unwrapped : Bool := false
deriving DecidableEq, Repr

/-- The fields of a launch record (Table 08.3). -/
structure LRec where
  code : Nat := 0
  args : Nat := 0
  entry : Nat := 0
  wrap : Nat := 0xFFFFFFFF
  traph : Nat := 0xFFFFFFFF
  teams : Nat := 1
  gpt : Nat := 1
  regs : Nat := 16
  cls : Nat := 0
  scr : Nat := 0
  acc : Nat := 0
  dscr : Nat := 0
  roles : Nat := 0
  sets : Nat := 0
  nsets : Nat := 0
  seed : Nat := 0
  deadline : Nat := 2 ^ 64 - 1
  budget : Nat := 0
  cost : Nat := 0
  ordered : Bool := false
  argsz : Nat := 0
  waits : List (Nat × Nat) := []
  done : Nat := 0
  donev : Nat := 0
  crec : Nat := 0
deriving DecidableEq, Repr

/-- The states of a launch (Tables 08.5, 17.9). -/
inductive LaunchSt where
  | blocked | eligible | running | wrapping | ended
deriving DecidableEq, Repr

/-- A set of a launch (Table 08.6, R187, R199, R200): its members as a range or a list, its slot, its event and interrupt, its
counter, its phase and arrival count, the member groups that left the expected count, whether it is broken (R389), and the cores that
arrived at its barriers with their epochs (R236). -/
structure SetSt where
  first : Nat
  count : Nat
  stride : Nat
  list : Option (List Nat)
  slot : Nat
  cores : Bool
  irq : Bool
  vector : Nat
  event : Nat
  counter : Nat
  phase : Word := 0
  arrivals : Nat := 0
  gone : Nat := 0
  broken : Bool := false
  recs : List (Nat × Word) := []
deriving DecidableEq, Repr

/-- A launch (08, 17). Teams below `nextTix`, and those of `early`, have been placed at least once. `reading` says that its WAITn words are being read (R183, R220). -/
structure Launch where
  lch : Nat
  ctx : Nat
  lr : LRec
  queue : Option Nat := none
  prev : Option Nat := none
  order : Nat := 0
  st : LaunchSt := .blocked
  sets : List SetSt := []
  counter : Nat := 1
  nextTix : Nat := 0
  early : List Nat := []
  v : DWord := 0
  dscr : List (Nat × Nat) := []
  donet : Nat := 0
  unrun : Nat := 0
  startT : Nat := 0
  endT : Nat := 0
  traps : Nat := 0
  reported : List Bool := [false, false, false, false]
  killedByHost : Bool := false
  overrun : Bool := false
  teamFault : Bool := false
  wrapped : Bool := false
  reading : Bool := false
deriving DecidableEq, Repr

/-! ### Cores, contexts and the memory system (10, 11, 12, 13, 14, 17, 18) -/

/-- A line of an instruction cache, with the team whose fetch filled it (R152, R219). -/
structure ICLine where
  team : Nat
  line : Nat
  data : List Byte
deriving DecidableEq, Repr

/-- A cached leaf (R401): the context, its virtual page base and size, and the entry. -/
structure TlbEntry where
  ctx : Nat
  va : Nat
  size : Nat
  leaf : DWord
deriving DecidableEq, Repr

/-- A cached table entry (R401), or one that a walk has read outside the part or through a channel that a bank run holds and has still to use
(R220, R342, R395): the context, the level whose table holds it, the first virtual address that it covers, the entry, and whether its read met an
uncorrectable error (R371). -/
structure TblEntry where
  ctx : Nat
  lvl : Nat
  va : Nat
  e : DWord
  bad : Bool := false
deriving DecidableEq, Repr

/-- A line of a first-tier or second-tier page that the L2 of the other die holds as a guest (R237). -/
structure Guest where
  die : Nat
  line : Nat
  data : List Byte
deriving DecidableEq, Repr

/-- A line of a held region that the part's own L2 holds: which of its bytes, and which of them the peer home lacks (R424). The bytes
stand in `State.mem` at their peer-window address. -/
structure L2Line where
  line : Nat
  valid : BitVec 128
  dirty : BitVec 128
deriving DecidableEq, Repr

/-- A core (0 to 159 as 80 × die + core number): its L1 and epoch, instruction cache, TLB with its filter, command queue, bank queue, class queues, and the class whose
matrix command runs (R217, R219, R236, R261, R301, R326, R401, R404). `seen` is memory as the core's last acquire saw it, with the core's own
later stores (R219, R233). Entries 160 and 161 hold the TLBs of the engines of dies 0 and
1, the Louver and the bank-run checker (R401); entry 162 the entries that walks of the front end are reading. -/
structure CoreSt where
  l1 : List L1Line := []
  epoch : Word := 0
  ic : List ICLine := []
  tlb : List TlbEntry := []
  tbls : List TblEntry := []
  filter : BitVec 1024 := 0
  cmdq : List Cmd := []
  bankq : List Cmd := []
  mq0 : List Cmd := []
  mq1 : List Cmd := []
  mrun : Option Nat := none
  ent : List (Nat × Nat) := []
  seen : List Host.Cell := []
deriving DecidableEq, Repr

/-- A release record of a home line (R236). -/
structure HomeRec where
  line : Nat
  core : Nat
  epoch : Word
deriving DecidableEq, Repr

/-- A write-back that a drain has asked for and that waits for a channel (R236, R342): the core, the line and its order of arrival. -/
structure WantWb where
  core : Nat
  line : Nat
  order : Nat
deriving DecidableEq, Repr

/-- Where an uncorrectable error lies (R372, R373): a 4-byte word of physical memory, scratch, die scratch or an accumulator
set, a word of an L1 line; and, as an error that arises, a lane register, the lanes of a predicate or a uniform register of a group,
which the group itself then holds. -/
inductive Damage where
  | mem (word : Nat)
  | scr (core word : Nat)
  | dscr (die word : Nat)
  | acc (core word : Nat)
  | l1 (core word : Nat)
  | reg (grp key : Nat)
  | pred (grp k : Nat) (lanes : Lanes)
  | uni (grp n : Nat)
deriving DecidableEq, Repr

/-- The ownership states of a first-tier frame (R319). -/
inductive FrameSt where
  | die | handing | bank
deriving DecidableEq, Repr

/-- The ownership of a frame (R319), with the context whose shutter operation took it from DIE. -/
structure Frame where
  st : FrameSt := .die
  hold : Nat := 0
  lostw : Bool := false
  ctx : Nat := 0
deriving DecidableEq, Repr

/-- The stages of a bank run (R326, R331, R342). -/
inductive RunSt where
  | waiting | running | suspended
deriving DecidableEq, Repr

/-- A window of a channel (R343, R344): the channel, the row activations made, the row that it serves (an address over 2,048), the
device time at which it opened, and the ARBC that governs it. -/
structure Win where
  chan : Nat
  acts : Nat := 0
  row : Option Nat := none
  opened : Nat := 0
  arbc : Word := 1
deriving DecidableEq, Repr

/-- A bank run (Table 14.2). The BGEs of a run are in lockstep (R332), so the state that every BGE holds alike stands once:
µPC, program, x-buffer, b, f, WF, SAT, SEGC and the open frame slot. Column registers and accumulators stand for each bank:
key (1,024 × stack + slot) × 16 + c, a 256-bit value, and (1,024 × stack + slot) × 128 + 16 × q + lane, an FP32 word. `frames` and
`vas` are the frames of its list and their pages; `xsrc` and `rdout` count from the start of die scratch; `wins` are the windows that
suspend it, and `served` says that the boundary at which it stands has had its windows (R342, R344). -/
structure Run where
  uid : Nat
  cmd : Nat
  core : Nat
  team : Nat
  ctx : Nat
  cls : Nat := 0
  st : RunSt := .waiting
  scope : Nat := 0
  stk : Nat := 0
  chn : Nat := 0
  frames : List Nat := []
  vas : List Nat := []
  xsrc : Nat := 0
  xlen : Nat := 0
  rdout : Nat := 0
  psem : Nat := 0xFF
  die : Nat := 0
  prog : List Word := []
  upc : Nat := 0
  xbuf : List (Nat × Byte) := []
  b : List Nat := List.replicate 8 0
  f : List Nat := List.replicate 4 0
  wf : Bool := false
  sat : Bool := false
  segc : Nat := 0
  openSlot : Option Nat := none
  cs : List (Nat × Nat) := []
  qs : List (Nat × Nat) := []
  status : Word := 0
  nseg : Nat := 0
  cut : Bool := false
  wins : List Win := []
  served : Bool := true
deriving DecidableEq, Repr

/-- A range invalidation in progress (R405): the context (none for every context), the range, the agents that have not reached
their point, those that have and owe their acknowledgement, each with the identifier that divides what it translated before its point
from what it translates later, and the context of the host command that it completes. -/
structure Inval where
  uid : Nat
  ctx : Option Nat
  lo : Nat
  hi : Nat
  toPoint : List Nat
  toAck : List (Nat × Nat)
  host : Option Nat
deriving DecidableEq, Repr

/-! ### The UALink fabric and the Lintel plane (20) -/

/-- What a remote request asks of a peer, or of the host (R418, R448); and what a core tells a home of a request that the home holds: that it
be performed, or withdrawn (R423, Table 20.3, log 18). -/
inductive ReqKind where
  | read | write | atomic (op ty : Nat)
  | perform (id : Nat)
  | withdraw (id : Nat)
deriving DecidableEq, Repr

/-- The entry that a walk reads (R395): its context, its level, the first virtual address that it covers, and its offset in the bytes read. -/
structure WalkRead where
  ctx : Nat
  lvl : Nat
  va : Nat
  off : Nat
deriving DecidableEq, Repr

/-- What an access of the front end is for (R182, R184, R188, R201): a launch record of a queue with what it names, the WAITn words of a launch, the
ring of a queue that a POP, an ENQ or a host command reaches. -/
inductive FrontOp where
  | accept (ctx queue : Nat)
  | waits (lch : Nat)
  | pop (ctx queue : Nat)
deriving DecidableEq, Repr

/-- A line that an operation of the front end, or of a waiting POP, has read outside the part or through a channel that a bank run holds: its bytes,
or none where the read met an error (R220, R264, R342, R371). -/
structure Fetch where
  op : FrontOp
  line : Nat
  data : Option (List Byte)
deriving DecidableEq, Repr

/-- What an access that waits for a channel is (R342): the read of a page-table entry by an agent, with its context, level and first virtual address;
the read of a line by an operation; or a write of the front end, which is tried again. -/
inductive RowWant where
  | entry (agent ctx lvl va : Nat)
  | line (op : FrontOp)
  | write
deriving DecidableEq, Repr

/-- An access of a walk or of the front end that waits for a channel, with its order of arrival (R342). -/
structure RowWait where
  pa : Nat
  order : Nat
  want : RowWant
deriving DecidableEq, Repr

/-- A remote request awaiting its response (R421 to R423). `data` are the bytes sent; `lanes` the lanes it serves; `ask` gives the lanes of a store or
reduction that wait for a home to accept it, none for a command, and `hold` says that the home, which accepts it, performs it when it is told, `wb` a
write-back of a line held under a token, `fill` a fill of such a line, `cmd`
one of an engine command, `code` the read of a line of host memory that a team's fetch fills from, `walk` one of a page-table entry, `op` one of an
operation of the front end; `sent` is false while an earlier request of the core to the line is out. -/
structure Remote where
  uid : Nat
  core : Nat
  grp : Nat
  host : Bool := false
  kind : ReqKind
  addr : Nat
  len : Nat
  data : List Byte
  mask : List Bool
  va : Nat := 0
  lanes : Lanes := 0
  ask : Option Lanes := none
  hold : Bool := false
  wb : Bool := false
  fill : Bool := false
  cmd : Option Nat := none
  code : Option Nat := none
  walk : Option WalkRead := none
  op : Option FrontOp := none
  sent : Bool := true
  ctx : Nat := 0
  since : Nat := 0
deriving DecidableEq, Repr

/-- The states of a holder's token-table entry (R424). -/
inductive TokSt where
  | free | pending | held | recalling | returning
deriving DecidableEq, Repr

/-- An entry of the token table (R424), with the contexts of the OWNACQs that it counts. -/
structure TokEntry where
  region : Nat := 0
  st : TokSt := .free
  count : Nat := 0
  ctxs : List Nat := []
deriving DecidableEq, Repr

/-- The home state of a region (Table 20.5): the holder, whether it is being recalled, whether a to-BANK waits, and the queue. -/
structure HomeTok where
  holder : Option Nat := none
  recalling : Bool := false
  bank : Bool := false
  queue : List Nat := []
deriving DecidableEq, Repr

/-- A request of a peer that arrives over UALink (R418); `hold` names one that is held, once accepted, until the peer tells (log 18). -/
structure PeerReq where
  peer : Nat
  kind : ReqKind
  addr : Nat
  len : Nat
  data : List Byte
  mask : List Bool
  hold : Option Nat := none
deriving DecidableEq, Repr

/-- A read or atomic of a peer, or a read of the host over BAR2, that waits until the cores recorded at its home lines have drained (R236, R342). -/
inductive Later where
  | peer (r : PeerReq)
  | bar2 (off len : Nat)
deriving DecidableEq, Repr

/-- A response to a remote request (R420, R423, R425): the data, or an error, or a refused token. -/
inductive RespKind where
  | ok (data : List Byte) | error | refused
deriving DecidableEq, Repr

/-- What an event acts on, with the data that comes from outside. -/
inductive Subject where
  | none
  | num (n : Nat)
  | pair (a b : Nat)
  | flag (n : Nat) (b : Bool)
  | record (ctx : Nat) (bytes : Option (List Byte))
  | reg (off width value : Nat)
  | bytes (off : Nat) (bytes : List Byte)
  | reports (l : List (Nat × Nat × Bool))
  | schedule (prev time : Nat) (locks : Word)
  | request (r : PeerReq)
  | response (id : Nat) (mark : Bool) (r : RespKind)
  | image (bytes : List Byte)
deriving DecidableEq, Repr

/-- What the part sends to the outside. -/
inductive OutMsg where
  | irq (vector : Nat)
  | hostWrite (addr : Nat) (bytes : List Byte)
  | request (r : Remote) (port : Nat)
  | reply (peer : Nat) (r : RespKind)
  | completerAbort
  | unsupported
  | readData (bytes : List Byte)
  | frame (bytes : List Byte)
  | rollCall (stn : Nat) (seq : Word)
  | tokenRequest (region : Nat)
  | tokenGrant (region dev : Nat)
  | tokenRecall (region dev : Nat)
  | recallDone (region : Nat)
  | tokenReturn (region : Nat)
deriving DecidableEq, Repr

/-- One turn of the agenda (log 1): an event with its subject, the issue of a split, a bank command of a run, clocks, an
uncorrectable error that arises at a place (R371), the performance of a word of a load in a lane (R226, R232), a TLB entry that an
agent loads unasked (R401), a new size of BAR2 as a power of two (R447), or what the front end has begun and waits to go on with (R342, R460). -/
inductive Turn where
  | event (i : Instr) (x : Subject)
  | issue (grp e : Nat)
  | bank (run : Nat)
  | clock (n : Nat)
  | upset (d : Damage)
  | perform (load reg lane : Nat)
  | tlbLoad (agent ctx va : Nat)
  | bar2Size (log : Nat)
  | front
deriving DecidableEq, Repr

/-- The split that issues, with bit S of its word (R31). -/
structure Issuer where
  grp : Nat
  e : Nat
  sw : Bool
deriving DecidableEq, Repr

/-- The state of the part. -/
structure State where
  dev : Dev := {}
  dtime : Nat := 0
  frac : Nat := 0
  clock : Nat := 0
  ctxs : List (Nat × Ctx) := []
  launches : List Launch := []
  nextLch : Word := 0
  teams : List Team := []
  groups : List Group := []
  cores : List (Nat × CoreSt) := []
  mem : List Host.Cell := []
  scr : List Host.Cell := []
  dscr : List Host.Cell := []
  acc : List (Nat × Word) := []
  frames : List (Nat × Frame) := []
  homeRecs : List HomeRec := []
  guests : List Guest := []
  dirs : List (Nat × List Nat) := []
  l2 : List L2Line := []
  damage : List Damage := []
  runs : List Run := []
  refresh : List (Nat × Bool) := []
  invals : List Inval := []
  links : List Nat := []
  remotes : List Remote := []
  tokens : List (Nat × TokEntry) := []
  homeToks : List (Nat × HomeTok) := []
  lintel : Lintel := {}
  raises : List Raise := []
  posts : List AsyncRec := []
  wbs : List WantWb := []
  rowWaits : List RowWait := []
  fetched : List Fetch := []
  laters : List Later := []
  heldReqs : List PeerReq := []
  out : List OutMsg := []
  agenda : List Turn := []
  subject : Subject := .none
  issuer : Option Issuer := none
  curRun : Option Nat := none
  issued : List Nat := []
  passed : List (Nat × Nat) := []
  draws : Nat := 0
  uid : Nat := 0
deriving DecidableEq, Repr

/-- A byte of memory that nothing has written (log 2). -/
def blankByte : Byte := 0

/-- The state right after reset: device time 0, every frame DIE, BOOTSTS WAIT_IMAGE, every register of Table 22.2 at its reset
value, and no launch, team, group, command or request (R449, R454, R456); log 3 names the values the spec does not give. -/
def State.reset : State := {}

end Sys2Proof.Machine
end

