-- ==== Sys2Proof/Machine/Lookup.lean ====
section
/-! DEFINITION. Finding and replacing the parts of the state: groups, splits, teams, launches, cores, contexts, frames and runs, and
the fields of MR (R22). -/

namespace Sys2Proof.Machine

open Sys2Proof

/-- The group with an identifier. -/
def State.group? (s : State) (u : Nat) : Option Group := s.groups.find? (fun g => g.uid == u)

/-- A group replaced by its new state. -/
def State.setGroup (s : State) (g : Group) : State :=
  { s with groups := s.groups.map (fun x => if x.uid = g.uid then g else x) }

/-- A group replaced by a function of it. -/
def State.modGroup (s : State) (u : Nat) (f : Group → Group) : State :=
  { s with groups := s.groups.map (fun g => if g.uid = u then f g else g) }

/-- The team with an identifier. -/
def State.team? (s : State) (u : Nat) : Option Team := s.teams.find? (fun t => t.uid == u)

/-- A team replaced by its new state. -/
def State.setTeam (s : State) (t : Team) : State :=
  { s with teams := s.teams.map (fun x => if x.uid = t.uid then t else x) }

/-- The launch with an identifier. -/
def State.launch? (s : State) (l : Nat) : Option Launch := s.launches.find? (fun x => x.lch == l)

/-- A launch replaced by its new state. -/
def State.setLaunch (s : State) (l : Launch) : State :=
  { s with launches := s.launches.map (fun x => if x.lch = l.lch then l else x) }

/-- A core. -/
def State.core (s : State) (c : Nat) : CoreSt := mget {} s.cores c

/-- A core replaced. -/
def State.setCore (s : State) (c : Nat) (x : CoreSt) : State := { s with cores := mset {} s.cores c x }

/-- A context's registers. -/
def State.ctx (s : State) (c : Nat) : Ctx := mget {} s.ctxs c

/-- A context replaced. -/
def State.setCtx (s : State) (c : Nat) (x : Ctx) : State := { s with ctxs := mset {} s.ctxs c x }

/-- A queue of a context. -/
def queueOf (c : Ctx) (launch : Bool) (n : Nat) : Queue := mget {} (if launch then c.lq else c.wq) n

/-- A frame's ownership (R319). -/
def State.frame (s : State) (f : Nat) : Frame := mget {} s.frames f

/-- A frame's ownership replaced. -/
def State.setFrame (s : State) (f : Nat) (x : Frame) : State := { s with frames := mset {} s.frames f x }

/-- The bank run with an identifier. -/
def State.run? (s : State) (u : Nat) : Option Run := s.runs.find? (fun r => r.uid == u)

/-- A bank run replaced by its new state. -/
def State.setRun (s : State) (r : Run) : State :=
  { s with runs := s.runs.map (fun x => if x.uid = r.uid then r else x) }

/-- The die of a core, of the engines of a die (160 and 161), and of the front end (162). -/
def dieOf (core : Nat) : Nat := if core < 160 then core / 80 else core % 2

/-- The launch record a team runs under; a team of no launch, a firmware program's, has REGS 96 and no handler (log 10). -/
def State.lrOf (s : State) (t : Team) : LRec :=
  match s.launch? t.lch with
  | some l => l.lr
  | none => { regs := 96 }

/-- Whether a team belongs to no launch: a firmware program's on a firmware core, whose splits are privileged (R26, R451). -/
def State.firmware (s : State) (t : Team) : Bool := (s.launch? t.lch).isNone && t.core % 80 == 79

/-- The class of a team's launch. -/
def State.clsOf (s : State) (t : Team) : Nat := (s.lrOf t).cls

/-- A split entry of a group. -/
def Group.split (g : Group) (e : Nat) : Split := g.splits.getD e {}

/-- A split entry replaced. -/
def Group.setSplit (g : Group) (e : Nat) (sp : Split) : Group := { g with splits := setAt g.splits e sp }

/-- A divergence frame of a group. -/
def Group.frame (g : Group) (f : Nat) : DFrame := g.frames.getD f {}

/-- A divergence frame replaced. -/
def Group.setFrame (g : Group) (f : Nat) (x : DFrame) : Group := { g with frames := setAt g.frames f x }

/-- The mask of a predicate. -/
def Group.pred (g : Group) (k : Nat) : Lanes := g.preds.getD k 0

/-- A predicate written in the lanes of a mask. -/
def Group.setPred (g : Group) (k : Nat) (act v : Lanes) : Group :=
  { g with
    preds := setAt g.preds k ((g.pred k &&& ~~~act) ||| (v &&& act))
    badPreds := setAt g.badPreds k (g.badPreds.getD k 0 &&& ~~~act) }

/-- A uniform register. -/
def Group.ureg (g : Group) (n : Nat) : Word := mget 0 g.gs n

/-- A uniform register written. -/
def Group.setUreg (g : Group) (n : Nat) (v : Word) : Group :=
  { g with gs := mset 0 g.gs n v, badUnis := g.badUnis.filter (fun m => m != n) }

/-- The generator of a lane. -/
def Group.seed (g : Group) (i : Nat) : Word := g.seeds.getD i 1

/-- The key of a lane register: 112 registers a lane, v n at n and o n at 96 + n. -/
def regKey (lane r : Nat) : Nat := 112 * lane + r

/-- The key of a history entry. -/
def histKey (lane n : Nat) : Nat := 8 * lane + n

/-- The lanes an entry holds: its AM, and in serial mode the lanes waiting for a turn or done with it (R154). -/
def Split.lanes (sp : Split) : Lanes := if sp.ser then sp.am ||| sp.srem ||| sp.sdone else sp.am

/-- Whether a group may issue: placed, running, neither trapping nor stopped nor held. -/
def Group.canIssue (g : Group) : Bool :=
  !g.retired && g.raised.isNone && g.stop.isNone && g.hold == .none

/-- The code of `z` among the registers that a split may await. -/
def zReg : Nat := 255

/-- Whether any lane of a mask awaits a register (R30, R155), or the ordered access of a destination `z` (R239, R243). -/
def Group.inFlight (g : Group) (m : Lanes) : Bool := g.pends.any (fun p => p.vals.any (fun x => m.getLsbD x.1))

/-- No load or atomic: what parks the split of a TLBINV, an OWNACQ or an OWNREL (R407, R426). -/
def PVal.parks : PVal → Bool
  | .inval _ => true
  | .own _ _ => true
  | .ownRel _ => true
  | _ => false

/-- An entry of the in-flight set that only parks its split. -/
def Pend.parks (p : Pend) : Bool := p.vals.any (fun v => v.2.parks)

/-- Every load and atomic of a group has returned or failed (R362, R365, R374, R378). -/
def Group.quiet (g : Group) : Bool := g.pends.all Pend.parks

/-- MR.TY (R22). -/
def mrTY (mr : DWord) : Nat := bitsOf mr.toNat 9 5
/-- MR.RM. -/
def mrRM (mr : DWord) : Nat := bitsOf mr.toNat 12 10
/-- MR.SAT. -/
def mrSAT (mr : DWord) : Bool := bitOf mr.toNat 13
/-- MR.FTZ. -/
def mrFTZ (mr : DWord) : Bool := bitOf mr.toNat 14
/-- MR.GK. -/
def mrGK (mr : DWord) : Nat := bitsOf mr.toNat 2 0
/-- MR.GN. -/
def mrGN (mr : DWord) : Bool := bitOf mr.toNat 3
/-- MR.GE. -/
def mrGE (mr : DWord) : Bool := bitOf mr.toNat 4
/-- MR.ORD. -/
def mrORD (mr : DWord) : Nat := bitsOf mr.toNat 17 16
/-- MR.SCOPE. -/
def mrSCOPE (mr : DWord) : Nat := bitsOf mr.toNat 20 18
/-- MR.ASEM. -/
def mrASEM (mr : DWord) : Nat := bitsOf mr.toNat 26 21
/-- MR.AREL. -/
def mrAREL (mr : DWord) : Bool := bitOf mr.toNat 27
/-- MR.AACQ. -/
def mrAACQ (mr : DWord) : Bool := bitOf mr.toNat 28
/-- MR.AFMT. -/
def mrAFMT (mr : DWord) : Nat := bitsOf mr.toNat 36 32
/-- MR.BFMT. -/
def mrBFMT (mr : DWord) : Nat := bitsOf mr.toNat 41 37
/-- MR.SCK. -/
def mrSCK (mr : DWord) : Nat := bitsOf mr.toNat 43 42
/-- MR.SPN. -/
def mrSPN (mr : DWord) : Nat := bitsOf mr.toNat 53 48

/-- The act of a split (R8, R24): AM, limited by the guard when MR.GE is 1. -/
def actOf (g : Group) (sp : Split) : Lanes :=
  if mrGE sp.mr then sp.am &&& (if mrGN sp.mr then ~~~(g.pred (mrGK sp.mr)) else g.pred (mrGK sp.mr)) else sp.am

end Sys2Proof.Machine
end

