-- ==== Sys2Proof/Machine/RegRead.lean ====
section
/-! DEFINITION. BAR0 (R454, Table 22.2) as it is read: what each register gives, and the event that a write to it causes (R368, R431, R449
to R455). -/

namespace Sys2Proof.Machine

open Sys2Proof

/-- The code of BOOTSTS.STATE (Table 22.1). -/
def bootCode : Boot → Nat
  | .waitImage => 1
  | .verify => 2
  | .running => 3
  | .rejected => 4
  | .fatal => 5

/-- The code of LSTAT.STATE (Table 20.6). -/
def memberCode : Member → Nat
  | .down => 0
  | .forming => 1
  | .up => 2
  | .dropped => 3

/-- The registers of the device: offset, bytes, value read. A write-only register reads as 0. -/
def devRegs (s : State) : List (Nat × Nat × Nat) :=
  let d := s.dev
  let l := s.lintel
  [(0x00, 8, 0x4800BD02), (0x08, 4, bootCode d.boot + 256 * d.reason), (0x10, 8, d.mbaddr), (0x18, 4, d.mblen), (0x1C, 4, 0),
   (0x20, 4, d.peerid), (0x28, 8, d.hwbase), (0x30, 8, d.b2base), (0x38, 8, d.dumpbase), (0x40, 4, d.dumplen), (0x48, 8, s.dtime),
   (0x50, 4, d.pwrcap.toNat), (0x60, 4, l.stn + 256 * l.ctx + (if l.en then 2 ^ 31 else 0)), (0x68, 8, l.base * 2 ^ 28),
   (0x70, 4, l.memb.toNat), (0x74, 4, memberCode l.st + 2 ^ 24 * l.drops), (0x78, 8, l.levt), (0x90, 32, ofBytes d.attnonce),
   (0xB0, 8, d.attaddr), (0xB8, 4, 0), (0xBC, 4, d.attsts)]

/-- The registers of a queue at a base offset: BASE, LOG2N, PI, CI. -/
def queueRegs (base : Nat) (q : Queue) : List (Nat × Nat × Nat) :=
  [(base, 8, q.base), (base + 8, 4, q.log2n), (base + 0x10, 4, q.pi.toNat), (base + 0x14, 4, q.ci.toNat)]

/-- The registers of a context that lie at or near an offset of its block. -/
def ctxRegs (c : Ctx) (o : Nat) : List (Nat × Nat × Nat) :=
  if o < 0x1000 then
    [(0x00, 4, if c.en then 1 else 0), (0x08, 8, c.pgroot.toNat), (0x10, 8, c.gbase), (0x18, 8, c.glimit), (0x20, 4, c.lpsz),
     (0x24, 4, c.pthr), (0x28, 4, c.arbc.toNat), (0x30, 8, c.trbase), (0x38, 4, c.trctl.toNat), (0x3C, 4, c.trpi.toNat),
     (0x40, 4, c.trci.toNat), (0x44, 4, c.trdrop.toNat), (0x48, 8, c.savebase), (0x50, 8, c.savelen), (0x80, 64, ofBytes c.hcmd),
     (0xC0, 4, 0), (0xC4, 4, c.hsts)]
  else if o < 0x1800 then queueRegs (0x1000 + (o - 0x1000) / 32 * 32) (queueOf c false ((o - 0x1000) / 32))
  else if o < 0x1A00 then queueRegs (0x1800 + (o - 0x1800) / 32 * 32) (queueOf c true ((o - 0x1800) / 32))
  else []

/-- The registers near an offset of BAR0, at their offsets. -/
def regsNear (s : State) (off : Nat) : List (Nat × Nat × Nat) :=
  if off < 0x100000 then devRegs s
  else if off < 0x200000 then
    let cb := off / 0x10000 * 0x10000
    (ctxRegs (s.ctx ((off - 0x100000) / 0x10000)) (off % 0x10000)).map (fun r => (cb + r.1, r.2))
  else []

/-- The register that holds a byte of BAR0. -/
def regAt? (s : State) (off : Nat) : Option (Nat × Nat × Nat) :=
  (regsNear s off).find? (fun r => decide (r.1 ≤ off) && decide (off < r.1 + r.2.1))

/-- A byte read from BAR0; an offset that is not listed is RSV and reads as 0 (R7). -/
def bar0Byte (s : State) (off : Nat) : Byte :=
  match regAt? s off with
  | some r => BitVec.ofNat 8 (r.2.2 / 2 ^ (8 * (off - r.1)))
  | none => 0

/-- Bytes read from BAR0. -/
def bar0Bytes (s : State) (off len : Nat) : List Byte := (List.range len).map (fun i => bar0Byte s (off + i))

/-- The context whose CTXCTL a write to BAR0 writes with EN = 0 (R319, R454). -/
def endedBy (off len value : Nat) : Option Nat :=
  (List.range 16).find? (fun c =>
    let r := 0x100000 + 0x10000 * c
    decide (off ≤ r) && decide (r < off + len) && !bitOf (value / 2 ^ (8 * (r - off))) 0)

/-- The event of a write to BAR0: the one of the register it writes where that register has one (R439, R450, R452, R319). -/
def writeEvent (off len value : Nat) : Instr × Subject :=
  let covers (r : Nat) : Bool := decide (off ≤ r) && decide (r < off + len)
  let bitAt (r b : Nat) : Bool := bitOf (value / 2 ^ (8 * (r - off))) b
  if covers 0x1C && value / 2 ^ (8 * (0x1C - off)) % 2 ^ 32 == 1 then (.mbcmdLoadVerify, .reg off len value)
  else if covers 0xB8 && value / 2 ^ (8 * (0xB8 - off)) % 2 ^ 32 == 1 then (.attestationSign, .reg off len value)
  else if covers 0x63 then (if bitAt 0x63 7 then .lintelEnable else .lintelDisable, .reg off len value)
  else if (endedBy off len value).isSome then (.contextEnd, .reg off len value)
  else (.registerWrite, .reg off len value)

end Sys2Proof.Machine
end

