-- ==== Sys2Proof/Machine/Xlate.lean ====
section
/-! DEFINITION. The physical map (Table 10.5), the table walk and its entries (R394 to R398), and the checks of step 4 (R400): the
walk, the permissions with the rules of peer, host and mirror pages (R419, R432, R448), the frame's owner (R320). -/

namespace Sys2Proof.Machine

open Sys2Proof

/-- The number of bytes of the populated second tier (R224). -/
def tier2Bytes : Nat := 1024 * 10 ^ 9

/-- The regions of the physical map (Table 10.5). -/
inductive Region where
  | tier1 | tier2 | mmio | host | peer | reserved
deriving DecidableEq, Repr

/-- The region of a physical address (Table 10.5). -/
def regionOf (pa : Nat) : Region :=
  if pa < 2 ^ 39 then .tier1
  else if 0xC0 * 2 ^ 32 ≤ pa ∧ pa < 0xC0 * 2 ^ 32 + 2 ^ 26 then .mmio
  else if 2 ^ 40 ≤ pa ∧ pa < 2 ^ 40 + tier2Bytes then .tier2
  else if 2 ^ 41 ≤ pa ∧ pa < 2 ^ 42 then .host
  else if 2 ^ 51 ≤ pa ∧ pa < 2 ^ 52 then .peer
  else .reserved

/-- Whether an address is memory of this part: the first tier or the populated second tier. -/
def isMem (pa : Nat) : Bool := regionOf pa == .tier1 || regionOf pa == .tier2

/-- A byte of this part's memory at its home. -/
def State.homeByte (s : State) (pa : Nat) : Byte := mget blankByte s.mem pa

/-- Bytes of this part's memory at their home. -/
def State.homeBytes (s : State) (pa len : Nat) : List Byte := (List.range len).map (fun i => s.homeByte (pa + i))

/-- The die that is the home of an address (Tables 10.5, 20.1); of a line held under a token, the die of the holder that R424 gives. -/
def homeDie (pa : Nat) : Nat :=
  match regionOf pa with
  | .tier1 => bitsOf pa 23 21 / 4
  | .tier2 | .peer => bitsOf pa 21 21
  | _ => 0

/-- The entry of the part's own L2 for a line of a held region (R424). -/
def State.l2Line? (s : State) (line : Nat) : Option L2Line := s.l2.find? (fun l => l.line == line)

/-- The part's own L2 holds a byte of a held region. -/
def l2Has (s : State) (pa : Nat) : Bool :=
  match s.l2Line? (pa / 128) with
  | some l => l.valid.getLsbD (pa % 128)
  | none => false

/-- A byte read at a physical address by an agent that keeps no copy: at the home, in the part's own L2 for a held region, or at a register;
what memory outside the part holds is free (log 4). -/
def State.readByte (s : State) (pa : Nat) : Byte :=
  match regionOf pa with
  | .tier1 | .tier2 => s.homeByte pa
  | .mmio => bar0Byte s (pa - 0xC0 * 2 ^ 32)
  | _ => if l2Has s pa then s.homeByte pa else BitVec.ofNat 8 (Config.freePick s.draws (2 ^ 70 + pa))

/-- Bytes read at a physical address by an agent that keeps no copy (R220, R264, R395). -/
def State.readPa (s : State) (pa len : Nat) : List Byte := (List.range len).map (fun i => s.readByte (pa + i))

/-! ### Entries (Tables 18.3, 18.4) -/

/-- V of an entry. -/
def eV (e : Nat) : Bool := bitOf e 0
/-- LEAF. -/
def eLEAF (e : Nat) : Bool := bitOf e 1
/-- R. -/
def eR (e : Nat) : Bool := bitOf e 2
/-- W. -/
def eW (e : Nat) : Bool := bitOf e 3
/-- X. -/
def eX (e : Nat) : Bool := bitOf e 4
/-- C. -/
def eC (e : Nat) : Bool := bitOf e 5
/-- P. -/
def eP (e : Nat) : Bool := bitOf e 6
/-- M. -/
def eM (e : Nat) : Bool := bitOf e 7
/-- KIND. -/
def eKIND (e : Nat) : Nat := bitsOf e 9 8
/-- CP. -/
def eCP (e : Nat) : Nat := bitsOf e 11 10
/-- PV. -/
def ePV (e : Nat) : Bool := bitOf e 12
/-- PEER. -/
def ePEER (e : Nat) : Nat := bitsOf e 61 52

/-- The bytes of the page that a leaf at a level maps (Table 18.2). -/
def pageBytes (lvl : Nat) : Nat := if lvl = 2 then 2 ^ 32 else if lvl = 1 then 2 ^ 21 else 2 ^ 16

/-- R397: the physical address of a virtual address under a leaf. -/
def leafPa (e lvl va : Nat) : Nat :=
  let hi := bitsOf e 51 16 * 2 ^ 16 / pageBytes lvl * pageBytes lvl
  let a := hi + va % pageBytes lvl
  if eKIND e = 3 then 2 ^ 51 + ePEER e * 2 ^ 41 + a else a

/-- The region that a leaf's KIND names holds the address (R398). -/
def kindRegion (kind pa : Nat) : Bool :=
  match kind with
  | 0 => regionOf pa == .tier1
  | 1 => regionOf pa == .tier2
  | 2 => regionOf pa == .host || regionOf pa == .mmio
  | _ => regionOf pa == .peer

/-- R398 for a leaf, with the mirror rule of R432. -/
def leafMalformed (e lvl : Nat) : Bool :=
  bitsOf e 63 62 != 0 || bitsOf e 15 13 != 0 || lvl == 3
    || (lvl == 2 && bitsOf e 31 16 != 0) || (lvl == 1 && bitsOf e 20 16 != 0)
    || (eKIND e == 3 && bitsOf e 51 41 != 0) || (eKIND e != 3 && ePEER e != 0)
    || (eC e && eKIND e != 0) || (eM e && (eKIND e == 2 || eKIND e == 3)) || (eC e && eM e)
    || (eKIND e == 2 && eCP e != 2) || eCP e == 3
    || !kindRegion (eKIND e) (leafPa e lvl 0)

/-- R398 for a table entry: reserved bits, level, alignment of the next table. -/
def tableMalformed (e lvl : Nat) : Bool :=
  bitsOf e 63 52 != 0 || bitsOf e 11 2 != 0 || lvl == 0
    || (lvl == 3 && bitsOf e 14 12 != 0) || (lvl == 2 && bitsOf e 13 12 != 0)

/-- The bits of a virtual address that index a level (Table 18.2). -/
def vaIndex (va lvl : Nat) : Nat :=
  if lvl = 3 then bitsOf va 55 44 else if lvl = 2 then bitsOf va 43 32 else if lvl = 1 then bitsOf va 31 21 else bitsOf va 20 16

/-- A leaf with its level. -/
structure Leaf where
  e : Nat
  lvl : Nat
deriving DecidableEq, Repr

/-- The virtual addresses below a table entry at a level (Table 18.2). -/
def entrySpan (lvl : Nat) : Nat := if lvl = 3 then 2 ^ 44 else pageBytes lvl

/-- A table entry that an agent holds for a virtual address at a level. -/
def TblEntry.covers (t : TblEntry) (ctx lvl va : Nat) : Bool :=
  t.ctx == ctx && t.lvl == lvl && decide (t.va ≤ va) && decide (va < t.va + entrySpan lvl)

/-- The channel of a first-tier address: 32 × stack + channel (R221). -/
def chanOf (pa : Nat) : Nat := bitsOf pa 38 21 % 8 * 32 + bitsOf pa 20 16

/-- A run spans a channel, numbered 32 × stack + channel. -/
def Run.spans (r : Run) (chan : Nat) : Bool :=
  r.scope == 2 || (r.stk == chan / 32 && (r.scope == 1 || r.chn == chan % 32))

/-- The row of a first-tier address: its 2,048 bytes (R222). -/
def rowOf (pa : Nat) : Nat := pa / 2048

/-- The bank run that has a channel: it runs, or a boundary has suspended it. -/
def runOn (s : State) (chan : Nat) : Option Run := s.runs.find? (fun r => (r.st == .running || r.st == .suspended) && r.spans chan)

/-- A word of memory holds an error at its home. -/
def badMem (s : State) (pa len : Nat) : Bool :=
  s.damage.any (fun d => match d with
    | .mem w => decide (pa < 4 * w + 4) && decide (4 * w < pa + len)
    | _ => false)

/-- Causes of Table 17.1. -/
def cILLEGAL_ENCODING : Nat := 0x01
/-- (Table 17.1) -/
def cILLEGAL_OPERAND : Nat := 0x02
/-- (Table 17.1) -/
def cILLEGAL_ROLE : Nat := 0x03
/-- (Table 17.1) -/
def cPRIV : Nat := 0x04
/-- (Table 17.1) -/
def cSEG_LIMIT : Nat := 0x05
/-- (Table 17.1) -/
def cPAGE_NOT_PRESENT : Nat := 0x06
/-- (Table 17.1) -/
def cPAGE_PERMISSION : Nat := 0x07
/-- (Table 17.1) -/
def cALIGN : Nat := 0x08
/-- (Table 17.1) -/
def cFRAME_BUSY : Nat := 0x09
/-- (Table 17.1) -/
def cCLUSTER_ABSENT : Nat := 0x0A
/-- (Table 17.1) -/
def cPEER_TOKEN : Nat := 0x0B
/-- (Table 17.1) -/
def cBARRIER_MISMATCH : Nat := 0x0C
/-- (Table 17.1) -/
def cMEMORY_UNCORRECTABLE : Nat := 0x0D
/-- (Table 17.1) -/
def cTRAP : Nat := 0x0E
/-- (Table 17.1) -/
def cBRKPT : Nat := 0x0F

/-- No cause of Table 17.1: a walk of the access awaits an entry that lies outside the part or in a channel that a bank run holds, so that nothing
is decided yet (R220, R342, R395). -/
def cAWAITED : Nat := 0x100

/-- The agent number of the front end, which holds no TLB: it stands for the part's own accesses (R182, R460). -/
def frontEnd : Nat := 162

/-- The group number of a request that belongs to no group. -/
def noGrp : Nat := 2 ^ 64

/-- A bank run holds the channel of an address, and no window serves its row (R342, R344). -/
def chanHeld (s : State) (pa : Nat) : Bool :=
  regionOf pa == .tier1 && (runOn s (chanOf pa)).any (fun r => !r.wins.any (fun w => w.chan == chanOf pa && w.row == some (rowOf pa)))

/-- Bytes that lie outside the part: the host's, or a peer's that the part's own L2 does not hold (R220, R419, R424). -/
def isFar (s : State) (pa len : Nat) : Bool :=
  regionOf pa == .host || (regionOf pa == .peer && !(List.range len).all (fun i => l2Has s (pa + i)))

/-- One of several, freely chosen. -/
def pickOne {α : Type} (draw note : Nat) : List α → Option α
  | [] => none
  | [a] => some a
  | l => l[Config.freePick draw note % l.length]?

/-- The entry that a walk uses at a level (R402): the one in memory, or freely one that the agent still holds and that differs from it. -/
def pickEntry (draw ctx lvl va mem : Nat) (held : List TblEntry) : Nat :=
  let old := (held.filter (fun t => t.covers ctx lvl va && !t.bad && t.e.toNat != mem)).map (fun t => t.e.toNat)
  if old.isEmpty then mem else (mem :: old).getD (Config.freePick draw (2 ^ 41 + 2 ^ 57 * lvl + va) % (old.length + 1)) mem

/-- What the read of an entry gives: its value, an uncorrectable error (R371), or nothing until its home has been asked. -/
inductive EntryRead where
  | val (e : Nat)
  | bad
  | ask

/-- The entry of a walk at an address (R395): read at its L2 or home as a command read is; outside the part, or through a channel that a bank run
holds, it is the one that the agent has read or holds, freely one of several. -/
def entryAt (s : State) (ctx va : Nat) (held : List TblEntry) (lvl a : Nat) : EntryRead :=
  if isFar s a 8 || chanHeld s a then
    let mine := held.filter (fun t => t.covers ctx lvl va)
    match pickOne s.draws (2 ^ 41 + 2 ^ 57 * lvl + va) mine with
    | none => .ask
    | some t => if t.bad then .bad else .val t.e.toNat
  else
    let mem := ofBytes (s.readPa a 8)
    let e := pickEntry s.draws ctx lvl va mem held
    if e == mem && badMem s a 8 then .bad else .val e

/-- The end of a walk (R395): the leaf, with the table entries on the way; no leaf; an entry whose read meets an uncorrectable error; or the level and
address of the entry that is still to be read. -/
inductive Walked where
  | leaf (l : Leaf) (ts : List TblEntry)
  | absent
  | bad
  | ask (lvl a : Nat)

/-- A table entry before those of a walk. -/
def Walked.push (t : TblEntry) : Walked → Walked
  | .leaf l ts => .leaf l (t :: ts)
  | w => w

/-- The walk of R395 from a level down. -/
def walkFrom (s : State) (ctx va : Nat) (held : List TblEntry) : Nat → Nat → Walked
  | lvl, pa =>
    match entryAt s ctx va held lvl (pa + 8 * vaIndex va lvl) with
    | .ask => .ask lvl (pa + 8 * vaIndex va lvl)
    | .bad => .bad
    | .val e =>
      if !eV e then .absent
      else if eLEAF e then (if leafMalformed e lvl then .absent else .leaf ⟨e, lvl⟩ [])
      else if tableMalformed e lvl then .absent
      else match lvl with
        | 0 => .absent
        | n + 1 => (walkFrom s ctx va held n (bitsOf e 51 12 * 2 ^ 12)).push
            ⟨ctx, n + 1, va / entrySpan (n + 1) * entrySpan (n + 1), BitVec.ofNat 64 e, false⟩

/-- R394, R395: the walk of a virtual address of a context; it ends at no leaf where EN is 0. -/
def walk (s : State) (ctx va : Nat) (held : List TblEntry) : Walked :=
  let r := (s.ctx ctx).pgroot.toNat
  if bitOf r 0 then walkFrom s ctx va held 3 (bitsOf r 51 15 * 2 ^ 15) else .absent

/-- What a walk gives a translation: the leaf, a cause, or nothing yet. A damaged entry is delivered to the access that would use it, with the cause
MEMORY_UNCORRECTABLE, which R371 asks for and no step of R400 names (DESIGN CHOICE, log 36). -/
def Walked.found : Walked → Option (Except Nat Leaf)
  | .leaf l _ => some (.ok l)
  | .absent => some (.error cPAGE_NOT_PRESENT)
  | .bad => some (.error cMEMORY_UNCORRECTABLE)
  | .ask _ _ => none

/-- A walk has found a leaf. -/
def Walked.isLeaf (l : Leaf) : Walked → Bool
  | .leaf m _ => m == l
  | _ => false

/-- The leaf that an entry of a TLB holds. -/
def TlbEntry.asLeaf (t : TlbEntry) : Leaf := ⟨t.leaf.toNat, if t.size = 2 ^ 32 then 2 else if t.size = 2 ^ 21 then 1 else 0⟩

/-- The leaf that a translation of an agent uses (R401, R402), or the cause of its failure: what the walk gives, or freely a leaf that its TLB still
holds. With EN = 0 there is none (R394). What an agent holds from before a write of PGROOT may still be used until it is invalidated, as R402 says of
a changed entry (DESIGN CHOICE, log 22). The agent is a core, 160 + die for the Louver and bank-run checker of a die, or the front end, which holds
no TLB. -/
def leafAt (s : State) (agent : Option Nat) (ctx va : Nat) : Except Nat Leaf :=
  let c := (agent.map s.core).getD {}
  let w := walk s ctx va c.tbls
  let old := (c.tlb.filter (fun t => t.ctx == ctx && decide (t.va ≤ va) && decide (va < t.va + t.size))).map TlbEntry.asLeaf
  let all := w.found.toList ++ (old.filter (fun l => !w.isLeaf l)).map .ok
  if !bitOf (s.ctx ctx).pgroot.toNat 0 then .error cPAGE_NOT_PRESENT
  else (pickOne s.draws (2 ^ 40 + va) all).getD (.error cAWAITED)

/-- What an access does to the page (R400). -/
inductive Acc where
  | load | store | fetch
  /-- An atomic of an operation code under a type code (R448). -/
  | atomic (op ty : Nat)
  /-- A command's read or write of a data range, and a shutter's or bank run's read and write of a frame page. -/
  | cmdRead | cmdWrite | cmdBoth
deriving DecidableEq, Repr

/-- An access is a write of mirror bytes: a broadcast update (R432). -/
def Acc.updates : Acc → Bool
  | .store | .atomic _ _ => true
  | _ => false

/-- Who makes an access: its context and privilege, and the agent that translates it (`leafAt`). -/
structure Who where
  ctx : Nat
  priv : Bool
  /-- An access of lane-private space (R419, R432). -/
  lane : Bool := false
  core : Option Nat := none
deriving DecidableEq, Repr

/-- The part's own accesses: the front end's, unprivileged, in a context (R460). -/
def partWho (ctx : Nat) : Who := { ctx := ctx, priv := false, core := some frontEnd }

/-- R, W and X of a leaf permit an access (R400 4b). -/
def permits (e : Nat) : Acc → Bool
  | .load | .cmdRead => eR e
  | .store | .cmdWrite => eW e
  | .atomic _ _ | .cmdBoth => eR e && eW e
  | .fetch => eX e

/-- R448: the atomics that a host page takes. -/
def hostAtomicOk (op ty : Nat) : Bool := (op == 0 || op == 6 || op == 7) && (ty == 0 || ty == 1 || ty == 6 || ty == 7)

/-- The mirror window holds a virtual address (R432). -/
def inWindow (s : State) (va : Nat) : Bool :=
  decide (s.lintel.base * 2 ^ 28 ≤ va) && decide (va < (s.lintel.base + 1) * 2 ^ 28)

/-- The checks of sub-step 4b on a leaf: permissions, PV, and the rules of peer, host and mirror pages. -/
def leafAllows (s : State) (w : Who) (a : Acc) (va e : Nat) : Bool :=
  permits e a && (!ePV e || w.priv)
    && (match a with
      | .fetch => eKIND e != 3
      | .atomic op ty => eKIND e != 2 || hostAtomicOk op ty
      | _ => !(eKIND e == 3 && w.lane))
    && (!eM e || (w.ctx == s.lintel.ctx && inWindow s va && !w.lane
      && (match a with
        | .fetch | .cmdWrite | .cmdBoth => false
        | _ => !(a.updates && (s.lintel.st == .down || s.lintel.st == .dropped)))))

/-- R419: a remote address that lies in the tiers of another part. -/
def peerPresent (s : State) (pa : Nat) : Bool := isMem (pa % 2 ^ 41) && bitsOf pa 50 41 != s.dev.peerid % 1024

/-- The frame number of a first-tier address (R221). -/
def frameOf (pa : Nat) : Nat := bitsOf pa 38 21

/-- R320: the address lies in a frame that is HANDING or BANK. -/
def frameBusy (s : State) (pa : Nat) : Bool := regionOf pa == .tier1 && (s.frame (frameOf pa)).st != .die

/-- A region of memory of a part: its peer number (none for this part's own) is above the 2 MiB number (20). -/
def regionKey (pa : Nat) : Nat := bitsOf pa 50 21

/-- The token entry of a region that is in use. -/
def tokenOf (s : State) (region : Nat) : Option (Nat × TokEntry) :=
  s.tokens.find? (fun x => x.2.st != .free && x.2.region == region)

/-- Whether this part holds the token of a region (R424). -/
def holds (s : State) (region : Nat) : Bool :=
  match tokenOf s region with
  | some (_, t) => t.st == .held
  | none => false

/-- The home state of a region of this part's own memory: its address over 2 MiB. -/
def State.homeTok (s : State) (r : Nat) : HomeTok := mget {} s.homeToks r

/-- R425: this part's own memory whose token a peer holds refuses this part's groups. -/
def homeRefuses (s : State) (pa : Nat) : Bool := isMem pa && (s.homeTok (pa / 2 ^ 21)).holder.isSome

/-- Sub-step 4a of R400, with R220 and R419. -/
def xl4a (s : State) (w : Who) (va : Nat) : Except Nat Xl :=
  match leafAt s w.core w.ctx (va % 2 ^ 56) with
  | .error c => .error c
  | .ok l =>
    let pa := leafPa l.e l.lvl (va % 2 ^ 56)
    let r := regionOf pa
    if r == .reserved || (r == .peer && !peerPresent s pa) then .error cPAGE_NOT_PRESENT else .ok ⟨pa, l.e, l.lvl⟩

/-- Sub-step 4b. -/
def xl4b (s : State) (w : Who) (a : Acc) (va : Nat) (x : Xl) : Bool := leafAllows s w a (va % 2 ^ 56) x.e

/-- Step 4 of one access up to 4d for this part's own memory (R400, R425). -/
def xlate (s : State) (w : Who) (a : Acc) (va : Nat) : Except Nat Xl :=
  match xl4a s w va with
  | .error c => .error c
  | .ok x =>
    if !xl4b s w a va x then .error cPAGE_PERMISSION
    else if frameBusy s x.pa then .error cFRAME_BUSY
    else if homeRefuses s x.pa then .error cPEER_TOKEN
    else .ok x

/-- The order of the causes of step 4 among lanes: the first sub-step that any lane fails (R148, R400); an entry that is still to be read comes before
all, and a damaged one at 4a, before a page that is not present (DESIGN CHOICE, log 36). -/
def stepOrder (c : Nat) : Nat :=
  if c = cAWAITED then 0 else if c = cMEMORY_UNCORRECTABLE then 1 else if c = cPAGE_NOT_PRESENT then 2
  else if c = cPAGE_PERMISSION then 3 else if c = cFRAME_BUSY then 4 else 5

/-- The key of the filter for a TLB entry (R404). -/
def filterKey (va size : Nat) : Nat := if size = 2 ^ 32 then va / 2 ^ 32 * 2 ^ 11 + 0x7FF else va / 2 ^ 21

/-- The bits of the filter that a key sets (R404). -/
def filterBits (key : Nat) : BitVec 1024 :=
  [0, 1, 2].foldl (fun m h => m ||| BitVec.ofNat 1024 (2 ^ (Config.filterHash h key % 1024))) 0

/-- A key hits a filter (R404). -/
def filterHit (f : BitVec 1024) (key : Nat) : Bool := f &&& filterBits key == filterBits key

/-- A leaf loaded into the TLB of an agent, with its key set in the filter (R401, R404); the entries held for the page remain. -/
def tlbFill (s : State) (agent ctx va : Nat) (x : Xl) : State :=
  let c := s.core agent
  let size := pageBytes x.lvl
  let base := va % 2 ^ 56 / size * size
  let t : TlbEntry := ⟨ctx, base, size, BitVec.ofNat 64 x.e⟩
  if c.tlb.contains t then s
  else s.setCore agent { c with tlb := t :: c.tlb, filter := c.filter ||| filterBits (filterKey base size) }

end Sys2Proof.Machine
end

