-- ==== Sys2Proof/Machine/Mem.lean ====
section
/-! DEFINITION. The levels of memory (10, 11): scratch, the home of a line, the L1 of a core with its dirty bytes and epochs, release
records and drains (R236), write-backs with lost writes and damaged lines (R324, R373), the trap ring (R368 to R370, R460). -/

namespace Sys2Proof.Machine

open Sys2Proof

/-! ### Records -/

/-- `len` bytes of a record replaced by a little-endian value (R5). -/
def putField (l : List Byte) (off len x : Nat) : List Byte :=
  l.take off ++ bytesOf len x ++ l.drop (off + len)

/-- A record of n zero bytes with the given fields: offset, length, value. -/
def mkRecord (n : Nat) (fs : List (Nat × Nat × Nat)) : List Byte :=
  fs.foldl (fun l f => putField l f.1 f.2.1 f.2.2) (List.replicate n 0)

/-! ### Homes and the outside -/

/-- The mask of `len` bytes at an offset of a line. -/
def lineMask (off len : Nat) : BitVec 128 := BitVec.ofNat 128 ((2 ^ len - 1) * 2 ^ off)

/-- The 512-byte regions of a write at the home: their guest copies are invalidated in the clusters that the directory names, before the
write is visible (R237). -/
def dropGuests (s : State) (pa len : Nat) : State :=
  let hit (region : Nat) : Bool := decide (pa / 512 ≤ region) && decide (region ≤ (pa + len - 1) / 512)
  let dies := (s.dirs.filter (fun d => hit d.1)).flatMap (fun d => d.2.map (fun c => c / 10))
  { s with
    guests := s.guests.filter (fun g => !(hit (g.line / 4) && dies.contains g.die))
    dirs := s.dirs.filter (fun d => !hit d.1) }

/-- Bytes of a line of a held region that the part's own L2 takes: valid, and dirty where the peer home lacks them (R424). -/
def l2Mark (l : List L2Line) (pa len : Nat) (dirty : Bool) : List L2Line :=
  let m := lineMask (pa % 128) len
  let old := (l.find? (fun x => x.line == pa / 128)).getD ⟨pa / 128, 0, 0⟩
  ⟨old.line, old.valid ||| m, if dirty then old.dirty ||| m else old.dirty⟩ :: l.filter (fun x => x.line != pa / 128)

/-- Bytes stored at their home, or in the part's own L2 for a line of a held region; a word rewritten whole loses its error (R373). -/
def State.setHome (s : State) (pa : Nat) (b : List Byte) : State :=
  { dropGuests s pa b.length with
    mem := msetList blankByte s.mem pa b
    l2 := if regionOf pa == .peer then l2Mark s.l2 pa b.length true else s.l2
    damage := s.damage.filter (fun d => match d with
      | .mem w => !(decide (pa ≤ 4 * w) && decide (4 * w + 4 ≤ pa + b.length))
      | _ => true) }

/-- A store of a core performed at its home, which the core's own fetch may see after its next ICINV (R142, R219). -/
def ownHome (s : State) (core pa : Nat) (b : List Byte) : State :=
  let c := s.core core
  (s.setHome pa b).setCore core { c with seen := msetList blankByte c.seen pa b }

/-- A message to the outside. -/
def State.send (s : State) (m : OutMsg) : State := { s with out := s.out ++ [m] }

/-- A fresh identifier. -/
def State.fresh (s : State) : State := { s with uid := s.uid + 1 }

/-- R420: the port a request of a core to a peer leaves on, when some link is up. -/
def portOf (s : State) (core peer : Nat) : Nat :=
  let ent := mget (5 * core % 256) (s.core core).ent peer
  s.links.getD ((peer + ent) % s.links.length) 0

/-- A request leaves: to a peer by its port, or to the host over PCI Express (R448). With no link up it leaves on no port. -/
def State.emit (s : State) (r : Remote) : State :=
  if r.host then s.send (.request r 0)
  else if s.links.isEmpty then s
  else s.send (.request r (portOf s r.core (bitsOf r.addr 50 41)))

/-- Two requests of one core to one line (R421). -/
def Remote.sameLine (r q : Remote) : Bool := r.core == q.core && r.host == q.host && r.addr / 128 == q.addr / 128

/-- A remote request made (R421): it is sent unless an earlier request of the core to the line awaits its response. -/
def State.request (s : State) (r : Remote) : State :=
  let busy := s.remotes.any (fun q => q.sameLine r)
  let s1 : State := { s with remotes := s.remotes ++ [{ r with sent := !busy }] }
  if busy then s1 else s1.emit r

/-- A request answered or failed: it leaves, and the next one of its core to its line is sent (R421). -/
def State.answered (s : State) (r : Remote) : State :=
  let rest := s.remotes.filter (fun q => q.uid != r.uid)
  match rest.find? (fun q => q.sameLine r) with
  | none => { s with remotes := rest }
  | some q =>
    let q1 : Remote := { q with sent := true, since := s.dtime }
    let s1 : State := { s with remotes := rest.map (fun (x : Remote) => if x.uid = q.uid then q1 else x) }
    s1.emit q1

/-- The parts of a write that lie in one line each (Table 20.2). -/
def lineParts : Nat → Nat → List Byte → List (Nat × List Byte)
  | 0, _, _ => []
  | n + 1, pa, b =>
    if b.isEmpty then []
    else
      let k := 128 - pa % 128
      (pa, b.take k) :: lineParts n (pa + k) (b.drop k)

/-- The bus address of a place of the host window (R448). -/
def hostAddr (s : State) (pa : Nat) : Nat := pa - 2 ^ 41 + s.dev.hwbase

/-- A write to a physical address by an agent that keeps no copy: at the home, as a PCI Express request, as a write of a register, or as
write requests to a peer, one for each line (R220, R264, R417 to R424, R448). A command's requests carry its identifier. -/
def State.writePa (s : State) (core grp pa : Nat) (b : List Byte) (cmd : Option Nat := none) : State :=
  match regionOf pa with
  | .tier1 | .tier2 => s.setHome pa b
  | .host => s.send (.hostWrite (hostAddr s pa) b)
  | .mmio =>
    let e := writeEvent (pa - 0xC0 * 2 ^ 32) b.length (ofBytes b)
    { s with agenda := .event e.1 e.2 :: s.agenda }
  | .peer =>
    if holds s (regionKey pa) then s.setHome pa b
    else (lineParts b.length pa b).foldl (fun s p =>
      s.fresh.request { uid := s.uid, core := core, grp := grp, kind := .write, addr := p.1, len := p.2.length, data := p.2, mask := p.2.map (fun _ => true), cmd := cmd, since := s.dtime }) s
  | .reserved => s

/-! ### Entries that walks have read (R395, R401) -/

/-- An agent may hold an entry that a walk has read: it is sound, valid and well-formed (R401). -/
def TblEntry.keeps (t : TblEntry) : Bool :=
  !t.bad && eV t.e.toNat && !(if eLEAF t.e.toNat then leafMalformed t.e.toNat t.lvl else tableMalformed t.e.toNat t.lvl)

/-- An entry that a walk of an agent has read outside the part or through a channel that a bank run holds. -/
def tookEntry (s : State) (agent : Nat) (t : TblEntry) : State :=
  let c := s.core agent
  s.setCore agent { c with tbls := t :: c.tbls.filter (fun x => !(x.ctx == t.ctx && x.lvl == t.lvl && x.va == t.va)) }

/-- The translation of an agent has ended: what it may not hold of the entries that its walk read goes (R401); the front end holds none. -/
def endWalk (s : State) (agent : Nat) : State :=
  let c := s.core agent
  s.setCore agent { c with tbls := if agent = frontEnd then [] else c.tbls.filter TblEntry.keeps }

/-! ### The trap ring (R368 to R370, R460) -/

/-- The ring's size exponent; values other than 6 to 16 act as 0 (Table 17.4). -/
def ringLog (c : Ctx) : Nat :=
  let n := bitsOf c.trctl.toNat 4 0
  if 6 ≤ n ∧ n ≤ 16 then n else 0

/-- The ring is full (R370). -/
def ringFull (c : Ctx) : Bool := (c.trpi - c.trci).toNat == 2 ^ ringLog c

/-- The address of the ring's next record (R368). -/
def ringSlot (c : Ctx) : Nat := c.trbase + 64 * (c.trpi.toNat % 2 ^ ringLog c)

/-- A record written to the ring and PI incremented; none when the address does not translate (R369, R460). -/
def ringWrite (s : State) (ctx : Nat) (b : List Byte) : Option State :=
  let c := s.ctx ctx
  let va := ringSlot c
  match xlate s (partWho ctx) .cmdWrite va with
  | .error _ => none
  | .ok x =>
    let s1 := (s.writePa frontEnd noGrp x.pa b).setCtx ctx { c with trpi := c.trpi + 1 }
    let lch := fieldAt b 4 4
    some (match s1.launch? lch with
      | some l => s1.setLaunch { l with traps := l.traps + 1 }
      | none => s1)

/-- An asynchronous record dropped and counted, saturating (R370). -/
def ringDrop (s : State) (ctx : Nat) : State :=
  let c := s.ctx ctx
  s.setCtx ctx { c with trdrop := if c.trdrop = 0xFFFFFFFF then c.trdrop else c.trdrop + 1 }

/-- LOST set in TRCTL. -/
def ringLost (s : State) (ctx : Nat) : State :=
  let c := s.ctx ctx
  s.setCtx ctx { c with trctl := c.trctl ||| 0x80 }

/-- The holding queue of a die: of 16 records, one for each context's ring (R370). The spec does not say whether a die keeps one for all
contexts (DESIGN CHOICE, log 69). -/
def holdOf (c : Ctx) (die : Nat) : List AsyncRec := if die = 0 then c.hold0 else c.hold1

/-- The holding queue of a die replaced. -/
def setHold (c : Ctx) (die : Nat) (l : List AsyncRec) : Ctx := if die = 0 then { c with hold0 := l } else { c with hold1 := l }

/-- An asynchronous record posted by a die, of a group's access or a core's write-back where one raised it; PA is that of a line. It is written
by TRAP_RECORD_DEFERRED_WRITE, as a release at SYSTEM scope (R369, R370). -/
def postAsync (s : State) (die ctx cause lch tva pa : Nat) (core grp : Option Nat := none) : State :=
  { s.fresh with posts := s.posts ++ [{ ord := s.uid, grp := grp, core := core, die := die, ctx := ctx, bytes := (mkRecord 64
      [(0, 1, 2), (1, 1, cause), (4, 4, lch), (0x0E, 1, die), (0x20, 8, tva), (0x28, 8, pa / 128 * 128), (0x30, 8, s.dtime)]) }] }

/-- The launch identifier of a record for which none is known (Table 17.5). -/
def noLch : Nat := 0xFFFFFFFF

/-! ### Lines and write-backs -/

/-- The words of a mask of a line that hold a dirty byte: the offset of each part to be written and its bytes, whole words as one. -/
def dirtyParts (l : L1Line) : List (Nat × List Byte) :=
  (List.range 32).flatMap (fun w =>
    let bs := (List.range 4).map (fun i => 4 * w + i)
    if bs.all l.dirty.getLsbD then [(4 * w, (l.data.drop (4 * w)).take 4)]
    else (bs.filter l.dirty.getLsbD).map (fun i => (i, [l.data.getD i 0])))

/-- The damaged words of a core's copy of a line that hold a dirty byte (R373), as word addresses. -/
def damagedWords (s : State) (core : Nat) (l : L1Line) : List Nat :=
  s.damage.filterMap (fun d => match d with
    | .l1 c w => if c == core && w / 32 == l.line && l.dirty &&& lineMask (w % 32 * 4) 4 != 0 then some w else none
    | _ => none)

/-- The line of a core's L1 with a number. -/
def l1Line? (s : State) (core line : Nat) : Option L1Line := (s.core core).l1.find? (fun l => l.line == line)

/-- A line of a core's L1 replaced or added. -/
def l1Put (s : State) (core : Nat) (l : L1Line) : State :=
  let c := s.core core
  s.setCore core { c with l1 := l :: c.l1.filter (fun x => x.line != l.line) }

/-- The errors of the words of a core's L1 that meet a test gone with their bytes. -/
def healL1 (s : State) (core : Nat) (p : Nat → Bool) : State :=
  { s with damage := s.damage.filter (fun d => match d with
    | .l1 c w => !(c == core && p w)
    | _ => true) }

/-- A line of a core's L1 removed. -/
def l1Drop (s : State) (core line : Nat) : State :=
  let c := s.core core
  healL1 (s.setCore core { c with l1 := c.l1.filter (fun x => x.line != line) }) core (fun w => w / 32 == line)

/-- The write request of a line of a peer held under a token, for its masked bytes (R423, R428). -/
def backRequest (s : State) (core ctx pa : Nat) (data : List Byte) (mask : BitVec 128) : State :=
  s.fresh.request { uid := s.uid, core := core, grp := noGrp, kind := .write, addr := pa, len := 128, data := data, mask := (List.range 128).map mask.getLsbD, wb := true, ctx := ctx, since := s.dtime }

/-- The bytes of a mask of a line that lie in no damaged word: the part marks no data, and sends a peer none that it has lost (R371, R373,
DESIGN CHOICE, log 36). -/
def soundBytes (mask : BitVec 128) (line : Nat) (ws : List Nat) : BitVec 128 :=
  ws.foldl (fun m w => if w / 32 = line then m &&& ~~~lineMask (w % 32 * 4) 4 else m) mask

/-- The record of a write-back to a peer that held damaged words (R373). -/
def backDamaged (s : State) (core ctx pa : Nat) (ws : List Nat) : State :=
  if ws.isEmpty then s else postAsync s (dieOf core) ctx 0x21 noLch 0 pa (some core)

/-- A line of an L1 written back (R236, R324, R373, R424): discarded into a BANK frame with LOSTW and a record, its error kept at home with
a record; into the part's own L2 for a line of a region that is not free, and to the peer when the token has gone. -/
def writeBackLine (s : State) (core : Nat) (l : L1Line) : State :=
  let pa := l.line * 128
  if l.dirty = 0 then s
  else if regionOf pa == .tier1 && (s.frame (frameOf pa)).st == .bank then
    let f := s.frame (frameOf pa)
    postAsync (s.setFrame (frameOf pa) { f with lostw := true }) (dieOf core) l.ctx 0x20 noLch 0 pa (some core)
  else if isMem pa || (tokenOf s (regionKey pa)).isSome then
    let ws := damagedWords s core l
    let s1 := (dirtyParts l).foldl (fun s x => ownHome s core (pa + x.1) x.2) s
    if ws.isEmpty then s1
    else postAsync { s1 with damage := ws.map Damage.mem ++ s1.damage } (dieOf core) l.ctx 0x21 noLch 0 pa (some core)
  else
    let ws := damagedWords s core l
    backDamaged (backRequest s core l.ctx pa l.data (soundBytes l.dirty l.line ws)) core l.ctx pa ws

/-- A line written back and kept clean, and no longer wanted; one that held an error, or whose bytes were discarded, is given up. -/
def cleanLine (s0 : State) (core : Nat) (l : L1Line) : State :=
  let pa := l.line * 128
  let s : State := { s0 with wbs := s0.wbs.filter (fun w => !(w.core == core && w.line == l.line)) }
  let s1 := writeBackLine s core l
  if !(damagedWords s core l).isEmpty || (regionOf pa == .tier1 && (s.frame (frameOf pa)).st == .bank) then l1Drop s1 core l.line
  else l1Put s1 core { l with dirty := 0 }

/-- A core's dirty lines that meet a test written back (a drain of R236). -/
def drainIf (s : State) (core : Nat) (p : L1Line → Bool) : State :=
  ((s.core core).l1.filter (fun l => l.dirty != 0 && p l)).foldl (fun s l => cleanLine s core l) s

/-- An eager drain of every dirty line of a core (R236, R263). -/
def drainCore (s : State) (core : Nat) : State := drainIf s core (fun _ => true)

/-- The dirty lines of epoch at or below a recorded epoch written back (R236). -/
def drainTo (s : State) (core : Nat) (ep : Word) : State := drainIf s core (fun l => decide (l.epoch.toNat ≤ ep.toNat))

/-- A group after an acquire: its plain loads of mirror pages return nothing that a record had overwritten before (R232, R437). -/
def Group.acquired (g : Group) : Group := { g with stale := [] }

/-- The clean bytes of every line of a core invalidated: the acquire of R236, with that of the core's groups on mirror pages, and what its fetch may
see after its next ICINV (R219). -/
def acquireCore (s : State) (core : Nat) : State :=
  let c := s.core core
  let kept := (c.l1.filter (fun l => l.dirty != 0)).map (fun l => { l with valid := l.dirty })
  let s1 := healL1 (s.setCore core { c with l1 := kept, seen := s.mem }) core (fun w =>
    !kept.any (fun l => l.line == w / 32 && l.dirty &&& lineMask (w % 32 * 4) 4 != 0))
  { s1 with groups := s1.groups.map (fun g => if (s1.team? g.team).any (fun t => t.placed && t.core == core) then g.acquired else g) }

/-- The registers of BAR0 as they stand. -/
def regView (s : State) : RegView := { dev := s.dev, dtime := s.dtime, lintel := s.lintel, ctxs := s.ctxs }

/-- What a team's instruction fetch fills from, taken as it stands: memory as the core's last acquire saw it with the core's own later stores (of a
firmware team, die scratch), the dirty bytes of the core's L1, and the registers of BAR0 (R142, R152, R219). -/
def viewTeam (s : State) (t : Team) : Team :=
  { t with
    icMem := if s.firmware t then s.dscr else (s.core t.core).seen
    icL1 := ((s.core t.core).l1.filter (fun l => l.dirty != 0)).map (fun l => { l with valid := l.dirty })
    icRegs := regView s }

/-- The instruction cache of a core emptied, and what the fetch of its teams fills from taken anew; the lines of code that are being read from
the host no longer fill it (R142, R219). -/
def refreshIc (s : State) (core : Nat) : State :=
  let s1 := s.setCore core { s.core core with ic := [] }
  { s1 with
    teams := s1.teams.map (fun (t : Team) => if t.placed && t.core == core then viewTeam s t else t)
    remotes := s1.remotes.map (fun (r : Remote) => if r.core = core then { r with code := none } else r) }

/-- An access that reaches a home line drains the other cores recorded there and removes their records (R236). -/
def reachHome (s : State) (core line : Nat) : State :=
  let rs := s.homeRecs.filter (fun r => r.line == line && r.core != core)
  let s1 := rs.foldl (fun s r => drainTo s r.core r.epoch) s
  { s1 with homeRecs := s1.homeRecs.filter (fun r => !(r.line == line && r.core != core)) }

/-- A release by stores or atomics performed at home lines drains the core instead of adding records (R236): four records stand at a line, or
the epoch would come to its end, so that a line of an older epoch is never taken for one of a newer. -/
def fifthRecord (s : State) (core : Nat) (lines : List Nat) : Bool :=
  lines.any (fun line => decide (4 ≤ (s.homeRecs.filter (fun r => r.line == line)).length)) || decide (0xFFFFFF00 ≤ (s.core core).epoch.toNat)

/-- A release by a store or atomic performed at a home line (R236): a record and the next epoch. -/
def releaseAt (s : State) (core line : Nat) : State :=
  let c := s.core core
  { s.setCore core { c with epoch := c.epoch + 1 } with homeRecs := s.homeRecs ++ [⟨line, core, c.epoch⟩] }

/-! ### Loads and stores of one access -/

/-- A word of a core's copy of a line holds an error. -/
def badL1 (s : State) (core pa len : Nat) : Bool :=
  s.damage.any (fun d => match d with
    | .l1 c w => c == core && decide (pa < 4 * w + 4) && decide (4 * w < pa + len)
    | _ => false)

/-- Bytes read, with whether a word met an uncorrectable error. -/
structure Got where
  s : State
  bytes : List Byte
  bad : Bool := false

/-- The bytes of a line as the L2 of a core's die gives them: a guest copy of a line of the other die, or the home's (R237). -/
def l2Bytes (s : State) (core line : Nat) : List Byte :=
  match s.guests.find? (fun g => g.die == dieOf core && g.line == line) with
  | some g => g.data
  | none => s.homeBytes (line * 128) 128

/-- A line filled from the L2 of a core's die: one homed on the other die stays there as a guest, and its home notes the cluster (R237). -/
def fillGuest (s : State) (core line : Nat) : State :=
  if homeDie (line * 128) = dieOf core || s.guests.any (fun g => g.die == dieOf core && g.line == line) then s
  else
    let d := (s.dirs.find? (fun d => d.1 == line / 4)).getD (line / 4, [])
    { s with
      guests := ⟨dieOf core, line, s.homeBytes (line * 128) 128⟩ :: s.guests
      dirs := (d.1, if d.2.contains (core / 8) then d.2 else core / 8 :: d.2) :: s.dirs.filter (fun x => x.1 != d.1) }

/-- The words of a line that hold an error at home and that a core's copy takes with its other bytes (R371). -/
def filledBad (s : State) (line : Nat) (dirty : BitVec 128) : List Nat :=
  ((List.range 32).map (fun k => 32 * line + k)).filter (fun w =>
    badMem s (4 * w) 4 && dirty &&& lineMask (w % 32 * 4) 4 != lineMask (w % 32 * 4) 4)

/-- A line of a core's L1 filled around its dirty bytes (R217, R236); an error of the home comes with it (R371). -/
def fillL1 (s : State) (core ctx line : Nat) : State :=
  let s1 := fillGuest (reachHome s core line) core line
  let old := (l1Line? s1 core line).getD ⟨line, List.replicate 128 0, 0, 0, 0, ctx⟩
  let home := l2Bytes s1 core line
  let data := (List.range 128).map (fun i => if old.dirty.getLsbD i then old.data.getD i 0 else home.getD i 0)
  let s2 := healL1 (l1Put s1 core { old with data := data, valid := BitVec.allOnes 128 }) core (fun w =>
    w / 32 == line && old.dirty &&& lineMask (w % 32 * 4) 4 == 0)
  { s2 with damage := (filledBad s1 line old.dirty).map (Damage.l1 core) ++ s2.damage }

/-- A plain load of bytes that the L1 holds. -/
def hitL1 (s : State) (core pa len : Nat) : Bool :=
  match l1Line? s core (pa / 128) with
  | some l => l.valid &&& lineMask (pa % 128) len == lineMask (pa % 128) len
  | none => false

/-- A plain load through the L1 (R217, R236): a hit on the bytes the line holds, or a fill. -/
def loadL1 (s : State) (core ctx pa len : Nat) : Got :=
  let s1 := if hitL1 s core pa len then s else fillL1 s core ctx (pa / 128)
  let data := ((l1Line? s1 core (pa / 128)).map (fun l => l.data)).getD []
  ⟨s1, (data.drop (pa % 128)).take len, badL1 s1 core pa len⟩

/-- A core's own dirty bytes of a line written back and its copy dropped, before an access past its L1 (R236, R242). -/
def flushOwn (s : State) (core line : Nat) : State :=
  match l1Line? s core line with
  | some l => l1Drop (writeBackLine s core l) core line
  | none => s

/-- A load performed at the home, past the L1 (R236, R399). -/
def loadHome (s : State) (core pa len : Nat) : Got :=
  let s1 := reachHome (flushOwn s core (pa / 128)) core (pa / 128)
  ⟨s1, s1.homeBytes pa len, badMem s1 pa len⟩

/-- A line that an older epoch left dirty written back before it is dirtied again, so that a release of that epoch finds its bytes at the
home (R233, R236). -/
def freshEpoch (s : State) (core line : Nat) : State :=
  match l1Line? s core line with
  | some l => if l.dirty ≠ 0 ∧ l.epoch ≠ (s.core core).epoch then cleanLine s core l else s
  | none => s

/-- A plain store into the L1 with the core's epoch (R217, R236). -/
def storeL1 (s0 : State) (core ctx pa : Nat) (b : List Byte) : State :=
  let line := pa / 128
  let off := pa % 128
  let s := freshEpoch s0 core line
  let old : L1Line := (l1Line? s core line).getD ⟨line, List.replicate 128 0, 0, 0, 0, ctx⟩
  let m := lineMask off b.length
  let s1 := l1Put s core { old with
    data := (List.range 128).map (fun i => if off ≤ i ∧ i < off + b.length then b.getD (i - off) 0 else old.data.getD i 0)
    valid := old.valid ||| m, dirty := old.dirty ||| m, epoch := (s.core core).epoch, ctx := ctx }
  { s1 with damage := s1.damage.filter (fun d => match d with
      | .l1 c w => !(c == core && decide (pa ≤ 4 * w) && decide (4 * w + 4 ≤ pa + b.length))
      | _ => true) }

/-- A store performed at the home, past the L1 (R236, R399). -/
def storeHome (s : State) (core pa : Nat) (b : List Byte) : State :=
  ownHome (flushOwn s core (pa / 128)) core pa b

/-! ### Scratch and die scratch -/

/-- The place of a byte of a core's scratch. -/
def scrKey (core off : Nat) : Nat := core * 2 ^ 19 + off

/-- The place of a byte of a die's scratch. -/
def dscrKey (die off : Nat) : Nat := die * 2 ^ 26 + off

/-- Bytes of a core's scratch. -/
def State.scrBytes (s : State) (core off len : Nat) : List Byte :=
  (List.range len).map (fun i => mget blankByte s.scr (scrKey core (off + i)))

/-- Bytes of a core's scratch written; a word rewritten whole loses its error. -/
def State.setScr (s : State) (core off : Nat) (b : List Byte) : State :=
  { s with
    scr := msetList blankByte s.scr (scrKey core off) b
    damage := s.damage.filter (fun d => match d with
      | .scr c w => !(c == core && decide (off ≤ 4 * w) && decide (4 * w + 4 ≤ off + b.length))
      | _ => true) }

/-- Bytes of a die's scratch. -/
def State.dscrBytes (s : State) (die off len : Nat) : List Byte :=
  (List.range len).map (fun i => mget blankByte s.dscr (dscrKey die (off + i)))

/-- Bytes of a die's scratch written. -/
def State.setDscr (s : State) (die off : Nat) (b : List Byte) : State :=
  { s with
    dscr := msetList blankByte s.dscr (dscrKey die off) b
    damage := s.damage.filter (fun d => match d with
      | .dscr x w => !(x == die && decide (off ≤ 4 * w) && decide (4 * w + 4 ≤ off + b.length))
      | _ => true) }

/-- A word of scratch holds an error. -/
def badScr (s : State) (core off len : Nat) : Bool :=
  s.damage.any (fun d => match d with
    | .scr c w => c == core && decide (off < 4 * w + 4) && decide (4 * w < off + len)
    | _ => false)

/-- A word of die scratch holds an error. -/
def badDscr (s : State) (die off len : Nat) : Bool :=
  s.damage.any (fun d => match d with
    | .dscr c w => c == die && decide (off < 4 * w + 4) && decide (4 * w < off + len)
    | _ => false)

/-! ### The memory's form -/

/-- The canonical form of every byte memory of the state. -/
def State.memWf (s : State) : Bool := mwf blankByte s.mem && mwf blankByte s.scr && mwf blankByte s.dscr

end Sys2Proof.Machine
end

