-- ==== Sys2Proof/Machine/Late.lean ====
section
/-! DEFINITION. Places and the reads at them; the channels that a bank run holds and their windows (R342 to R344); and the accesses that
an instruction leaves to be performed after its issue: plain and ordered loads of this part's memory and scratch, and the sampling of
engine state (R30, R151, R226, R232, R260, R436). -/

namespace Sys2Proof.Machine

open Sys2Proof

/-! ### Places -/

/-- The physical address of a place. -/
def Place.pa : Place → Nat
  | .phys _ y => y.pa
  | _ => 0

/-- A place lies in a region of the physical map. -/
def Place.isIn (r : Region) : Place → Bool
  | .phys _ y => regionOf y.pa == r
  | _ => false

/-- A place on a mirror page (R432). -/
def Place.mirror : Place → Bool
  | .phys _ y => eM y.e
  | _ => false

/-- CP of a place's page. -/
def Place.cp : Place → Nat
  | .phys _ y => eCP y.e
  | _ => 0

/-- The note of a place: a virtual address, or an offset of another space. -/
def Place.note : Place → Nat
  | .phys va _ => va
  | .scr _ _ n => n
  | .dscr _ _ n => n

/-- A key that tells places apart. -/
def Place.key : Place → Nat
  | .scr c o _ => 3 * scrKey c o
  | .dscr d o _ => 3 * dscrKey d o + 1
  | .phys _ y => 3 * y.pa + 2

/-- A place whose accesses go past the L1 whatever the instruction: CP 1 or 2, or a mirror page (R399, R432). -/
def Place.past (p : Place) : Bool := p.cp != 0 || p.mirror

/-- Two accesses share a byte. A scratch byte is one through S and through C (R228). -/
def Place.meets (p : Place) (n : Nat) (q : Place) (m : Nat) : Bool :=
  p.key % 3 == q.key % 3 && decide (p.key / 3 < q.key / 3 + m) && decide (q.key / 3 < p.key / 3 + n)

/-! ### One word -/

/-- A loaded value of 1, 2 or 4 bytes (R147, R149). -/
def loadedWord (size : Nat) (sgn : Bool) (b : List Byte) : Word :=
  if sgn then BitVec.ofInt 32 (sx (ofBytes b) (8 * size)) else BitVec.ofNat 32 (ofBytes b)

/-- The value of a local read. -/
def gotVal (note size : Nat) (sgn : Bool) (pa : Nat) (bad : Bool) (b : List Byte) : PVal :=
  if bad then .bad note pa else .known (loadedWord size sgn b)

/-- A word read at a place of scratch or of memory that this part serves: through the L1, or past it (R149, R217, R236, R399). -/
def readLocal (s : State) (core ctx : Nat) (past : Bool) (size : Nat) (sgn : Bool) : Place → State × PVal
  | .scr c o n => (s, gotVal n size sgn 0 (badScr s c o size) (s.scrBytes c o size))
  | .dscr d o n => (s, gotVal n size sgn 0 (badDscr s d o size) (s.dscrBytes d o size))
  | .phys va y =>
    let g := if past || (Place.phys va y).past then loadHome s core y.pa size else loadL1 s core ctx y.pa size
    (g.s, gotVal va size sgn y.pa g.bad g.bytes)

/-! ### The channels that a bank run holds (R342 to R344) -/

/-- A read of a place of physical memory goes to the home of its line: past the L1, or a miss of it. -/
def goesHome (s : State) (core : Nat) (past : Bool) (size : Nat) (p : Place) : Bool :=
  (p.isIn .tier1 || p.isIn .tier2) && (past || p.past || !hitL1 s core p.pa size)

/-- An access that goes to the home of a first-tier line, where a run may hold the channel. -/
def atChannel (s : State) (core : Nat) (past : Bool) (size : Nat) (p : Place) : Bool := p.isIn .tier1 && goesHome s core past size p

/-- A home line holds records of cores other than the one whose load or atomic reaches it, which the access waits for (R236). -/
def reachLeft (s : State) (core line : Nat) : Bool := s.homeRecs.any (fun r => r.line == line && r.core != core)

/-- A request that waits for a channel: its row, whether its launch is of class 1, and its order of arrival. -/
structure Req where
  row : Nat
  cls1 : Bool
  order : Nat
deriving DecidableEq, Repr

/-- The place and bytes of an access that is not performed yet. -/
def PVal.place? : PVal → Option (Place × Nat)
  | .late p n _ _ _ => some (p, n)
  | _ => none

/-- A value is a read that goes to the home of a first-tier line. -/
def chanVal (s : State) (core : Nat) : PVal → Bool
  | .late q n _ past [] => atChannel s core past n q
  | _ => false

/-- The loads of a group that wait to be performed at a channel; the words of one access are one request, at the row of the first that goes
there. -/
def lateReqs (s : State) (core : Nat) (cls1 : Bool) (g : Group) : List Req :=
  g.pends.flatMap (fun p => p.vals.filterMap (fun v =>
    match v.2.place? with
    | some (q, _) =>
      if chanVal s core v.2 && !reachLeft s core (q.pa / 128)
          && !(p.whole && g.pends.any (fun o => o.load == p.load && decide (o.reg < p.reg) && o.vals.any (fun u => u.1 == v.1 && chanVal s core u.2)))
      then some ⟨rowOf q.pa, cls1, p.load⟩ else none
    | none => none))

/-- The requests of a group's instructions that a channel has turned away. -/
def askReqs (cls1 : Bool) (g : Group) : List Req :=
  if !g.canIssue then []
  else g.splits.flatMap (fun sp => match sp.st, sp.ask with
    | .ready, some a => a.rows.map (fun r => ⟨r.1, cls1, r.2⟩)
    | _, _ => [])

/-- The requests of engine commands that channels have turned away. -/
def cmdReqs (s : State) : List Req :=
  s.cores.flatMap (fun c => ((c.2.cmdq ++ c.2.bankq).filter (fun m => m.st == .started)).flatMap (fun m => m.rows.map (fun r =>
    ⟨r.1, (s.team? m.team).any (fun t => s.clsOf t == 1), r.2⟩)))

/-- The accesses of walks and of the front end that channels have turned away; they are of class 0 (DESIGN CHOICE, log 66). -/
def frontReqs (s : State) : List Req := s.rowWaits.map (fun w => ⟨rowOf w.pa, false, w.order⟩)

/-- The write-backs that drains have asked for; they are of class 0, since a dirty line has no launch (DESIGN CHOICE, log 66). -/
def backReqs (s : State) : List Req :=
  (s.wbs.filter (fun w => (l1Line? s w.core w.line).any (fun l => l.dirty != 0))).map (fun w => ⟨rowOf (128 * w.line), false, w.order⟩)

/-- The ordinary requests that wait for channels: loads, instructions, commands, write-backs, walks and the front end (R342). -/
def waitingReqs (s : State) : List Req :=
  s.groups.flatMap (fun g => match s.team? g.team with
    | none => []
    | some t =>
      let cls1 := s.clsOf t == 1
      lateReqs s t.core cls1 g ++ (if t.placed then askReqs cls1 g else [])) ++ cmdReqs s ++ backReqs s ++ frontReqs s

/-- The channel of a request. -/
def Req.chan (r : Req) : Nat := chanOf (2048 * r.row)

/-- The ordinary requests that wait for a channel. -/
def chanReqs (s : State) (chan : Nat) : List Req := (waitingReqs s).filter (fun r => r.chan == chan)

/-- A request is served before another (R344). -/
def Req.before (a b : Req) : Bool := if a.cls1 != b.cls1 then a.cls1 else decide (a.order < b.order)

/-- The row that a window serves next (R344). -/
def nextRow (l : List Req) : Option Nat :=
  (l.foldl (fun b r => match b with
    | none => some r
    | some c => some (if r.before c then r else c)) none).map (fun r => r.row)

/-- ARBW of a window (Table 14.13). -/
def Win.most (w : Win) : Nat := Nat.max 1 (w.arbc.toNat % 16)

/-- ARBT of a window has passed (Table 14.13). -/
def Win.late (w : Win) (dtime : Nat) : Bool := bitsOf w.arbc.toNat 15 8 != 0 && decide (w.opened + bitsOf w.arbc.toNat 15 8 ≤ dtime)

/-- Requests for the row that a window serves are left. -/
def Win.busy (w : Win) (l : List Req) : Bool := l.any (fun r => w.row == some r.row)

/-- A window is at its end: at an activation boundary, with ARBW used, no request pending, or ARBT passed (R344). -/
def Win.over (w : Win) (dtime : Nat) (l : List Req) : Bool :=
  !w.busy l && (decide (w.most ≤ w.acts) || l.isEmpty || w.late dtime)

/-- A request to a row served: at once where no run has the channel; else by a window of the run, which activates the row when its turn
comes (R342, R344). -/
def serveRow (s : State) (pa : Nat) : Option State :=
  let chan := chanOf pa
  match runOn s chan with
  | none => some s
  | some r =>
    match r.wins.find? (fun w => w.chan == chan) with
    | none => none
    | some w =>
      let l := chanReqs s chan
      if w.row = some (rowOf pa) then some s
      else if w.busy l || decide (w.most ≤ w.acts) || w.late s.dtime || nextRow l != some (rowOf pa) then none
      else some (s.setRun { r with wins := r.wins.map (fun (x : Win) =>
        if x.chan = chan then { x with acts := x.acts + 1, row := some (rowOf pa) } else x) })

/-! ### Walks that wait (R220, R342, R395) -/

/-- An access that a channel has turned away waits for it, once. -/
def waitRow (s : State) (pa : Nat) (want : RowWant) : State :=
  if s.rowWaits.any (fun w => w.pa == pa && w.want == want) then s
  else { s.fresh with rowWaits := s.rowWaits ++ [⟨pa, s.uid, want⟩] }

/-- The entry of a table at an address, read at its home. -/
def readEntry (s : State) (agent ctx lvl va pa : Nat) : State :=
  tookEntry s agent ⟨ctx, lvl, va, BitVec.ofNat 64 (ofBytes (s.readPa pa 8)), badMem s pa 8⟩

/-- The request of an agent for an entry outside the part, in the 64 bytes that hold it: of the host or of a peer (Table 20.2, R448). -/
def askFar (s : State) (agent ctx lvl va pa : Nat) : State :=
  let w : WalkRead := ⟨ctx, lvl, va, pa % 64⟩
  let host := regionOf pa == .host
  let at_ := pa / 64 * 64
  if s.remotes.any (fun r => r.core == agent && r.walk == some w) then s
  else s.fresh.request { uid := s.uid, core := agent, grp := noGrp, host := host, kind := .read, addr := if host then hostAddr s at_ else at_, len := 64, data := [], mask := [], walk := some w, since := s.dtime }

/-- The entry that the walk of an address by an agent still needs is asked for: of its home outside the part, or of the channel that holds it. Its
access is tried again once the entry is there. -/
def askEntry (s : State) (agent ctx va : Nat) : State :=
  match walk s ctx (va % 2 ^ 56) (s.core agent).tbls with
  | .ask lvl a =>
    let base := va % 2 ^ 56 / entrySpan lvl * entrySpan lvl
    if isFar s a 8 then askFar s agent ctx lvl base a
    else match serveRow s a with
      | some s1 => readEntry s1 agent ctx lvl base a
      | none => waitRow s a (.entry agent ctx lvl base)
  | _ => s

/-- No bank run holds the channel of an address that the front end reaches, or a window serves its row; or the state in which it waits (R342). -/
def chanReady (s : State) (pa : Nat) : Except State State :=
  if regionOf pa != .tier1 then .ok s
  else match serveRow s pa with
    | some s1 => .ok { s1 with rowWaits := s1.rowWaits.filter (fun w => !(w.pa == pa && w.want == .write)) }
    | none => .error (waitRow s pa .write)

/-- The front end may go on to an access: its walk has every entry, and no bank run holds the channel of its place; or the state in which it waits
(R342, R395, R460). -/
def frontReady (s : State) (ctx : Nat) (a : Acc) (va : Nat) : Except State State :=
  match xlate s (partWho ctx) a va with
  | .error c => if c = cAWAITED then .error (askEntry s frontEnd ctx va) else .ok s
  | .ok y => chanReady s y.pa

/-! ### Lines that the front end reads (R182, R188, R201, R220, R264, R342) -/

/-- A line kept for an operation, as its home gives it now. -/
def keepLine (s : State) (op : FrontOp) (pa : Nat) : State :=
  { s with fetched := s.fetched ++ [⟨op, pa / 128, some (s.readPa (pa / 128 * 128) 128)⟩] }

/-- The request of an operation for a line outside the part, once. -/
def askLine (s : State) (op : FrontOp) (pa va : Nat) : State :=
  let host := regionOf pa == .host
  let at_ := if host then hostAddr s (pa / 128 * 128) else pa / 128 * 128
  if s.remotes.any (fun r => r.op == some op && r.addr == at_) then s
  else s.fresh.request { uid := s.uid, core := frontEnd, grp := noGrp, host := host, kind := .read, addr := at_, len := 128, data := [], mask := [], va := va, fill := !host && holds s (regionKey pa), op := some op, since := s.dtime }

/-- The line of an address may be read by an operation: it has come from outside, or no bank run holds its channel; or the state in which the
operation waits for it. -/
def lineReady (s : State) (op : FrontOp) (pa va : Nat) : Except State State :=
  if s.fetched.any (fun f => f.op == op && f.line == pa / 128) then .ok s
  else if isFar s (pa / 128 * 128) 128 then .error (askLine s op pa va)
  else if regionOf pa != .tier1 then .ok s
  else match serveRow s pa with
    | none => .error (waitRow s pa (.line op))
    | some s1 => .ok (if (runOn s (chanOf pa)).isSome then keepLine s1 op pa else s1)

/-- The lines of several addresses may be read, each an address and its virtual address. -/
def linesReady (s : State) (op : FrontOp) (ls : List (Nat × Nat)) : Except State State :=
  let r := ls.foldl (fun (a : State × Bool) l => match lineReady a.1 op l.1 l.2 with
    | .ok s1 => (s1, a.2)
    | .error s1 => (s1, false)) (s, true)
  if r.2 then .ok r.1 else .error r.1

/-- Bytes that an operation reads: of a line that has come for it, else at the L2 or home (R264). -/
def frontBytes (s : State) (op : FrontOp) (pa len : Nat) : List Byte :=
  (List.range len).map (fun i => match s.fetched.find? (fun f => f.op == op && f.line == (pa + i) / 128) with
    | some f => (f.data.getD []).getD ((pa + i) % 128) 0
    | none => s.readByte (pa + i))

/-- Bytes that an operation reads meet an uncorrectable error, here or outside (R371, R423). -/
def frontBad (s : State) (op : FrontOp) (pa len : Nat) : Bool :=
  badMem s pa len || s.fetched.any (fun f => f.op == op && f.data.isNone && decide (pa / 128 ≤ f.line) && decide (128 * f.line < pa + len))

/-- An operation has ended: nothing that it has read or asked for is used again. -/
def endOp (s : State) (op : FrontOp) : State :=
  endWalk { s with
    fetched := s.fetched.filter (fun f => f.op != op)
    remotes := s.remotes.map (fun (r : Remote) => if r.op = some op then { r with op := none } else r)
    rowWaits := s.rowWaits.filter (fun w => w.want != .line op) } frontEnd

/-- An instruction of a core has failed a check: what its walks and its reads of a ring may not be used for again goes (R401). -/
def failWalk (s : State) (core : Nat) : State :=
  endWalk (endWalk { s with fetched := s.fetched.filter (fun f => f.data.isSome) } core) frontEnd

/-- What an agent loads unasked: the leaf of a walk and the table entries on the way, or the read of an entry that lies further off (R401). -/
def tlbLoad (s : State) (agent ctx va : Nat) : State :=
  let c := s.core agent
  match walk s ctx (va % 2 ^ 56) c.tbls with
  | .leaf l ts =>
    let s1 := tlbFill s agent ctx va ⟨0, l.e, l.lvl⟩
    s1.setCore agent { s1.core agent with tbls := ts.filter (fun t => !c.tbls.contains t) ++ c.tbls }
  | .ask _ _ => askEntry s agent ctx va
  | _ => endWalk s agent

/-- A read of a place served where it stands (R342). -/
def serveRead (s : State) (core : Nat) (past : Bool) (size : Nat) (p : Place) : Option State :=
  if atChannel s core past size p then serveRow s p.pa else some s

/-- Requests to rows served in order, with the rows of those that are turned away. -/
def serveRows (s : State) (pas : List Nat) : State × List Nat :=
  pas.foldl (fun a pa => match serveRow a.1 pa with
    | some s1 => (s1, a.2)
    | none => (a.1, rowOf pa :: a.2)) (s, [])

/-- The dirty lines of a core that are served written back, with the rows of those that are turned away (R342). -/
def drainServed (s : State) (core : Nat) : State × List Nat :=
  ((s.core core).l1.filter (fun l => l.dirty != 0 && regionOf (128 * l.line) == .tier1)).foldl (fun a l =>
    match serveRow a.1 (128 * l.line) with
    | some s1 => (cleanLine s1 core l, a.2)
    | none => (a.1, rowOf (128 * l.line) :: a.2)) (s, [])

/-! ### Drains that wait for channels (R236, R342) -/

/-- A dirty line wanted at its home: written back, once no bank run holds its channel; until then it is a request that waits. -/
def wantBack (s : State) (core : Nat) (l : L1Line) : State :=
  match (if regionOf (128 * l.line) == .tier1 then serveRow s (128 * l.line) else some s) with
  | some s1 => cleanLine s1 core l
  | none =>
    if s.wbs.any (fun w => w.core == core && w.line == l.line) then s
    else { s.fresh with wbs := s.wbs ++ [⟨core, l.line, s.uid⟩] }

/-- A drain of the dirty lines of a core that meet a test, as far as the channels serve it. -/
def drainWait (s : State) (core : Nat) (p : L1Line → Bool) : State :=
  ((s.core core).l1.filter (fun l => l.dirty != 0 && p l)).foldl (fun s l => wantBack s core l) s

/-- A dirty line of a core that meets a test is left. -/
def dirtyLeft (s : State) (core : Nat) (p : L1Line → Bool) : Bool := (s.core core).l1.any (fun l => l.dirty != 0 && p l)

/-- A line of an epoch at or below a recorded one. -/
def upTo (ep : Word) (l : L1Line) : Bool := decide (l.epoch.toNat ≤ ep.toNat)

/-- The drain request of a record of a home line: the record is removed when its drain completes (R236). -/
def drainRec (s : State) (r : HomeRec) : State :=
  let s1 := drainWait s r.core (upTo r.epoch)
  if dirtyLeft s1 r.core (upTo r.epoch) then s1 else { s1 with homeRecs := s1.homeRecs.filter (fun x => x != r) }

/-- A load or atomic of a core reaches a home line: every other core recorded there is sent a drain request (R236). -/
def reachWait (s : State) (core line : Nat) : State :=
  (s.homeRecs.filter (fun r => r.line == line && r.core != core)).foldl drainRec s

/-! ### Loads performed after their issue -/

/-- The value of an engine-state register (R260). -/
def engineReg (t : Team) (n : Nat) : Nat :=
  if n = 0x24 then t.ces.toNat else if n = 0x26 then t.cea.toNat else t.mcb.toNat

/-- A value not yet taken performed: none while it awaits the group's own records, drains of other cores or a channel. `more` marks a word that
goes with an earlier one of its access, to whose row their request was. -/
def performVal (more : Bool) (s : State) (t : Team) : PVal → Option (State × PVal)
  | .late p n sgn past [] =>
    if goesHome s t.core past n p && reachLeft s t.core (p.pa / 128) then none
    else (if more then some s else serveRead s t.core past n p).map (fun s1 => readLocal s1 t.core t.ctx past n sgn p)
  | .engine sr w => some (s, .known (BitVec.ofNat 32 (engineReg t sr / 2 ^ (32 * w))))
  | _ => none

/-- A word of a result: its load, its register, its lane. -/
abbrev WordId := Nat × Nat × Nat

/-- What a word awaits. -/
def Group.val? (g : Group) (w : WordId) : Option PVal :=
  (g.pends.find? (fun p => p.load == w.1 && p.reg == w.2.1)).bind (fun p => (p.vals.find? (fun v => v.1 == w.2.2)).map (fun v => v.2))

/-- A word's value replaced. -/
def Group.setVal (g : Group) (w : WordId) (v : PVal) : Group :=
  { g with pends := g.pends.map (fun p =>
      if p.load = w.1 ∧ p.reg = w.2.1 then { p with vals := p.vals.map (fun x => if x.1 = w.2.2 then (x.1, v) else x) } else p) }

/-- The words of a group's results that meet a test, in the order in which their instructions issued. -/
def Group.words (g : Group) (f : WordId → PVal → Bool) : List WordId :=
  g.pends.flatMap (fun p => (p.vals.filter (fun v => f (p.load, p.reg, v.1) v.2)).map (fun v => (p.load, p.reg, v.1)))

/-- The words of one access with a word: those of its lane where they are one access (R225), every word and lane of a register read
once (R260). -/
def Group.together (g : Group) (w : WordId) : List WordId :=
  match g.pends.find? (fun p => p.load == w.1 && p.reg == w.2.1), g.val? w with
  | some p, some (.engine _ _) => if p.whole then g.words (fun x v => x.1 == w.1 && (match v with
      | .engine _ _ => true
      | _ => false)) else [w]
  | some p, _ => if p.whole then g.words (fun x _ => x.1 == w.1 && x.2.2 == w.2.2) else [w]
  | _, _ => []

/-- An earlier load of the group reads a byte of a word and is not performed (R232: accesses to one byte keep their order). -/
def Group.waitsBehind (g : Group) (w : WordId) (v : PVal) : Bool :=
  match v.place? with
  | none => false
  | some (p, n) => g.pends.any (fun q => decide (q.load < w.1) && q.vals.any (fun x => match x.2.place? with
    | some (p1, n1) => p1.meets n1 p n
    | none => false))

/-- A word is still to be performed by this part. -/
def unperformed : PVal → Bool
  | .late _ _ _ _ _ => true
  | .engine _ _ => true
  | _ => false

/-- The words of an access performed together; none where one of them must wait. -/
def performWords (t : Team) (g : Group) : Bool → List WordId → State → Option (State × List (WordId × PVal))
  | _, [], s => some (s, [])
  | more, w :: ws, s =>
    match (g.val? w).filter unperformed with
    | none => performWords t g more ws s
    | some v =>
      if g.waitsBehind w v then none
      else match performVal more s t v with
        | none => none
        | some r => (performWords t g (more || chanVal s t.core v) ws r.1).map (fun q => (q.1, (w, r.2) :: q.2))

/-- The home lines that words reach. -/
def wordLines (s : State) (core : Nat) (g : Group) (ws : List WordId) : List Nat :=
  ws.filterMap (fun w => match g.val? w with
    | some (.late p n _ past []) => if goesHome s core past n p then some (p.pa / 128) else none
    | _ => none)

/-- An overwritten word of a mirror page that a plain load of the group may still return, freely chosen, and the group's older words after it
(R232, R437, R446): one load of a word never returns an older value than an earlier one did. -/
def staleWord (s : State) (g : Group) (w : WordId) : Option (PVal × List (Nat × Word)) :=
  match g.val? w with
  | some (.late (.phys va y) n sgn false []) =>
    if !eM y.e || g.waitsBehind w (.late (.phys va y) n sgn false []) || (g.together w).length != 1 then none
    else
      let old := g.stale.filter (fun x => x.1 == y.pa / 4)
      let k := Config.freePick s.draws (2 ^ 82 + 2 ^ 13 * w.1 + 2 ^ 8 * w.2.2 + w.2.1) % (old.length + 1)
      old[k]?.map (fun x => (.known (loadedWord n sgn (((bytesOf 4 x.2.toNat).drop (y.pa % 4)).take n)),
        g.stale.filter (fun x => x.1 != y.pa / 4) ++ old.take (k + 1)))
  | _ => none

/-- The overwritten words that a group's loads of words at home leave behind them. -/
def Group.sawHome (g : Group) (ws : List WordId) : Group :=
  { g with stale := g.stale.filter (fun x => !ws.any (fun w => match g.val? w with
      | some (.late p _ _ _ _) => p.mirror && p.pa / 4 == x.1
      | _ => false)) }

/-- A word of a group's results performed, with the words of its access, where nothing holds it (R225, R226, R342, R436). -/
def performWord (u : Nat) (s : State) (w : WordId) : State :=
  match s.group? u with
  | none => s
  | some g =>
    match s.team? g.team with
    | none => s
    | some t =>
      match staleWord s g w with
      | some x => s.modGroup u (fun g => { g with stale := x.2 }.setVal w x.1)
      | none =>
        let s1 := (wordLines s t.core g (g.together w)).foldl (fun s l => reachWait s t.core l) s
        match performWords t g false (g.together w) s1 with
        | none => s1
        | some r => r.1.modGroup u (fun g => r.2.foldl (fun g x => g.setVal x.1 x.2) (g.sawHome (r.2.map (fun x => x.1))))

/-- The words of a group's results that meet a test performed in order. -/
def performIf (s : State) (u : Nat) (f : WordId → PVal → Bool) : State :=
  match s.group? u with
  | none => s
  | some g => (g.words f).foldl (performWord u) s

/-- A value is an access of this part that is not performed. -/
def isLate (v : PVal) : Bool := v.place?.isSome

/-- Every load of a group performed that may be: before a release or a fence (R232). -/
def settle (s : State) (u : Nat) : State := performIf s u (fun _ v => isLate v)

/-- An access of a list shares a byte with a value's. -/
def touches (ws : List (Place × Nat)) (v : PVal) : Bool :=
  match v.place? with
  | some (p, n) => ws.any (fun w => w.1.meets w.2 p n)
  | none => false

/-- The loads of a group that share a byte with accesses performed before them (R151, R228). -/
def settleAt (s : State) (u : Nat) (ws : List (Place × Nat)) : State := performIf s u (fun _ v => touches ws v)

/-- The loads of every group performed that meet a test of their place: before a frame or a region is given away. -/
def settleWhere (s : State) (f : Place → Bool) : State :=
  s.groups.foldl (fun s g => performIf s g.uid (fun _ v => match v.place? with
    | some (p, _) => f p
    | none => false)) s

/-- A load of the group that shares a byte with accesses is not performed. -/
def lateAt (g : Group) (ws : List (Place × Nat)) : Bool := g.pends.any (fun p => p.vals.any (fun v => touches ws v.2))

/-- A load of the group is not performed. -/
def anyLate (g : Group) : Bool := g.pends.any (fun p => p.vals.any (fun v => isLate v.2))

/-- The requests that a release of a group at a scope must find answered (R232, R422): its own, which at TEAM scope the order of the requests
of one core to a line keeps (R421); and at POD scope or wider the remote writes and atomics of its core. Those of an engine command are its own. -/
def outRequests (s : State) (u core sc : Nat) : List Nat :=
  (s.remotes.filter (fun r => r.cmd.isNone && ((decide (2 ≤ sc) && r.grp == u)
      || (decide (5 ≤ sc) && r.core == core && r.kind != .read)))).map (fun r => r.uid)

/-- The mirror records of a group that await their own application. -/
def ownRecords (s : State) (u : Nat) : List Nat :=
  ((s.lintel.q1 ++ s.lintel.q0 ++ s.lintel.sent).filter (fun r => r.grp == u)).map (fun r => r.uid)

/-- What a release of a group at a scope must find performed (R232, R422, R437): its requests and its mirror records. -/
def outstanding (s : State) (u core sc : Nat) : List Nat := outRequests s u core sc ++ ownRecords s u

/-- A record of a group is applied: what waited for it no longer does, and a load that waited for it alone is performed at once, before a
later record of the group can be applied (R151, R436). -/
def recordApplied (s : State) (id : Nat) : State :=
  let drop (l : List Nat) : List Nat := l.filter (fun r => r != id)
  let free (v : PVal) : PVal := match v with
    | .late p n sgn past l => .late p n sgn past (drop l)
    | .after l => .after (drop l)
    | v => v
  let hit (v : PVal) : Bool := match v with
    | .late _ _ _ _ l => l.contains id
    | _ => false
  let ws := s.groups.map (fun g => (g.uid, g.words (fun _ v => hit v)))
  let s1 : State := { s with groups := s.groups.map (fun (g : Group) =>
    { g with pends := g.pends.map (fun (p : Pend) => { p with vals := p.vals.map (fun v => (v.1, free v.2)) }) }) }
  ws.foldl (fun s x => x.2.foldl (performWord x.1) s) s1

/-- A word of a load performed at a turn of the agenda, after the earlier loads of its bytes (R226, R232). -/
def performTurn (s : State) (load reg lane : Nat) : State :=
  match s.groups.find? (fun g => (g.val? (load, reg, lane)).isSome) with
  | none => s
  | some g =>
    match (g.val? (load, reg, lane)).bind PVal.place? with
    | none => performWord g.uid s (load, reg, lane)
    | some (p, n) => performWord g.uid (performIf s g.uid (fun w v => decide (w.1 < load) && touches [(p, n)] v)) (load, reg, lane)

/-- What every word of every group awaits replaced by a function of it. -/
def mapVals (s : State) (f : PVal → PVal) : State :=
  { s with groups := s.groups.map (fun (g : Group) =>
    { g with pends := g.pends.map (fun (p : Pend) => { p with vals := p.vals.map (fun v => (v.1, f v.2)) }) }) }

/-- What parks splits has come about: the values that meet a test are known, and LOAD_RETURN frees their splits (R407, R426). -/
def endParks (s : State) (f : PVal → Bool) : State := mapVals s (fun v => if f v then .known 0 else v)

/-- A value has been returned and may be written: its access is performed, its request answered, its record applied. -/
def arrived : PVal → Bool
  | .known _ => true
  | .bad _ _ => true
  | .refused _ => true
  | .after l => l.isEmpty
  | _ => false

end Sys2Proof.Machine
end

