-- ==== Sys2Proof/Machine/Operands.lean ====
section
/-! DEFINITION. Operands: reading lane registers with the choice of R32, the history (R20, R21), uniform names (Table 03.3), writing
lane registers with the marks of in-flight and failed registers (R32, R372). -/

namespace Sys2Proof.Machine

open Sys2Proof

/-- What an issuing instruction sees: the state, its group, team and launch record, its split entry and bit S. -/
structure Ix where
  s : State
  g : Group
  t : Team
  lr : LRec
  e : Nat
  sp : Split
  sw : Bool

/-- The lanes in act (R24). -/
def Ix.act (x : Ix) : Lanes := actOf x.g x.sp

/-- The lanes of AM. -/
def Ix.am (x : Ix) : Lanes := x.sp.am

/-- The lowest lane of AM. -/
def Ix.low (x : Ix) : Nat := lowestLane x.sp.am

/-- The core of the team. -/
def Ix.core (x : Ix) : Nat := x.t.core

/-- The values a register awaits in a lane that are known. -/
def pendingVals (g : Group) (r lane : Nat) : List Word :=
  g.pends.filterMap (fun p =>
    if p.reg = r then
      match p.vals.find? (fun v => v.1 == lane) with
      | some (_, .known w) => some w
      | _ => none
    else none)

/-- A lane register as it stands. -/
def Group.reg (g : Group) (lane r : Nat) : Word := mget 0 g.regs (regKey lane r)

/-- A read of a lane register (R32): while it is in flight, freely the value it holds or a returned value. `site` tells the reads of
one instruction apart. -/
def readReg (s : State) (g : Group) (site lane r : Nat) : Word :=
  match pendingVals g r lane with
  | [] => g.reg lane r
  | vs => (g.reg lane r :: vs).getD (Config.freePick s.draws ((site * 32 + lane) * 112 + r) % (vs.length + 1)) 0

/-- The number of the register that word k of a run starting at an operand names. -/
def opReg : LaneOp → Nat → Option Nat
  | .v n, k => some (n.val + k)
  | .o n, k => some (96 + n.val + k)
  | _, _ => none

/-- Word k of the run at a lane operand, in a lane (R14, R16, R21). -/
def readWord (x : Ix) (site : Nat) (op : LaneOp) (lane k : Nat) : Word :=
  match op with
  | .v n => readReg x.s x.g site lane (n.val + k)
  | .o n => readReg x.s x.g site lane (96 + n.val + k)
  | .lx => mget 0 x.g.hist (histKey lane 1)
  | .h n => mget 0 x.g.hist (histKey lane (n.val + 1))
  | .z => 0
  | .li => BitVec.ofNat 32 lane

/-- The value of a run of w registers in a lane, lowest word first (R16). -/
def readRun (x : Ix) (site : Nat) (op : LaneOp) (w lane : Nat) : Nat :=
  packEls 32 ((List.range w).map (fun k => (readWord x site op lane k).toNat))

/-- A pending value of a register marked as written since its issue (R32). -/
def markDirty (ps : List Pend) (r lane : Nat) : List Pend :=
  ps.map (fun p => if p.reg = r then { p with dirty := p.dirty ||| laneBit lane } else p)

/-- A lane register written (R32, R372): its failure in the lane is cleared. -/
def writeReg (g : Group) (lane r : Nat) (v : Word) : Group :=
  { g with
    regs := mset 0 g.regs (regKey lane r) v
    pends := markDirty g.pends r lane
    failed := g.failed.filter (fun f => !(f.reg == r && f.lane == lane))
    badRegs := g.badRegs.filter (fun k => k != regKey lane r) }

/-- Word k of a run at a destination written in a lane; `z` discards it. -/
def writeWord (g : Group) (op : LaneOp) (lane k : Nat) (v : Word) : Group :=
  match opReg op k with
  | some r => writeReg g lane r v
  | none => g

/-- A run of w registers written in a lane. -/
def writeRun (g : Group) (op : LaneOp) (w lane v : Nat) : Group :=
  (List.range w).foldl (fun g k => writeWord g op lane k (BitVec.ofNat 32 (v / 2 ^ (32 * k)))) g

/-- The history shifted, with its new first entries (R20): `res` in the lanes of act, 0 in the other lanes of AM. -/
def enterHist (g : Group) (e : Nat) (act : Lanes) (res : Nat → Nat) : Group :=
  let sp := g.split e
  let lanes := lanesOf sp.am
  let h := lanes.foldl (fun h i =>
    let h6 := (List.range 6).foldl (fun h' j => mset 0 h' (histKey i (7 - j)) (mget 0 h (histKey i (6 - j)))) h
    mset 0 h6 (histKey i 1) (if act.getLsbD i then BitVec.ofNat 32 (res i) else 0)) g.hist
  { g with hist := h }.setSplit e { sp with hv := min 7 (sp.hv + 1) }

/-- The sid operand: the set number in a set slot of the team, or all ones (R184). -/
def setInSlot (l : Launch) (tix slot : Nat) : Option Nat :=
  (List.range l.sets.length).find? (fun n =>
    match l.sets[n]? with
    | some q => q.slot == slot && (match q.list with
      | some ms => ms.contains tix
      | none => decide (q.first ≤ tix) && (tix - q.first) % (max q.stride 1) == 0 && decide ((tix - q.first) / (max q.stride 1) < q.count))
    | none => false)

/-- A uniform operand at width 1 (Table 03.3). -/
def readUni1 (x : Ix) : UniOp → Word
  | .g n => x.g.ureg n.val
  | .gz => 0
  | .tix => BitVec.ofNat 32 x.t.tix
  | .gix => BitVec.ofNat 32 x.g.gix
  | .gcn => BitVec.ofNat 32 x.lr.gpt
  | .cor => BitVec.ofNat 32 (x.t.core % 80)
  | .clu => BitVec.ofNat 32 (x.t.core % 80 / 8)
  | .die => BitVec.ofNat 32 (dieOf x.t.core)
  | .lch => BitVec.ofNat 32 x.t.lch
  | .dtl => BitVec.ofNat 32 x.s.dtime
  | .dth => BitVec.ofNat 32 (x.s.dtime / 2 ^ 32)
  | .wrs => x.t.wrs
  | .ams => x.sp.am
  | .sid n => match x.s.launch? x.t.lch with
    | some l => match setInSlot l x.t.tix n.val with
      | some k => BitVec.ofNat 32 k
      | none => 0xFFFFFFFF
    | none => 0xFFFFFFFF

/-- A uniform operand of one register, or of an aligned pair when wide (R109). -/
def readUni (x : Ix) (wide : Bool) (op : UniOp) : Nat :=
  match wide, op with
  | true, .g n => (x.g.ureg n.val).toNat + 2 ^ 32 * (x.g.ureg (n.val + 1)).toNat
  | _, o => (readUni1 x o).toNat

/-- A uniform destination of one register, or of an aligned pair when wide. -/
def writeUni (g : Group) (wide : Bool) (d : Fin 64) (v : Nat) : Group :=
  let g1 := g.setUreg d.val (BitVec.ofNat 32 v)
  if wide then g1.setUreg (d.val + 1) (BitVec.ofNat 32 (v / 2 ^ 32)) else g1

/-- The 64-bit value of an aligned pair of uniform registers. -/
def readGPair (g : Group) (a : Fin 64) : Nat := (g.ureg a.val).toNat + 2 ^ 32 * (g.ureg (a.val + 1)).toNat

end Sys2Proof.Machine
end

