-- ==== Sys2Proof/Machine/Flags.lean ====
section
/-! DEFINITION. The sticky flags `fx` (R27), and the writing of a fixed-latency result of each lane with its flags, its
generator and its history entry (R19, R20, R27, R28). -/

namespace Sys2Proof.Machine

open Sys2Proof

/-- `fx` with flags ORed in (R27). -/
def orFx (g : Group) (fl : Nat) : Group := { g with fx := g.fx ||| BitVec.ofNat 32 fl }

/-- The result of one lane: the value of its run, the flags it raises, and its generator afterwards when it steps it. -/
structure LaneRes where
  val : Nat
  flags : Nat := 0
  seed : Option Word := none

/-- The results of the lanes of act, each computed from the state before the instruction. -/
def resultsOf (x : Ix) (r : Nat → LaneRes) : List (Nat × LaneRes) := (lanesOf x.act).map (fun i => (i, r i))

/-- One lane's result written. -/
def putResult (d : LaneOp) (w : Nat) (g : Group) (q : Nat × LaneRes) : Group :=
  let g1 := orFx (writeRun g d w q.1 q.2.val) q.2.flags
  match q.2.seed with
  | some v => { g1 with seeds := setAt g1.seeds q.1 v }
  | none => g1

/-- A fixed-latency result with a lane destination: every lane of act writes its run, and the instruction enters the history. -/
def putResults (x : Ix) (d : LaneOp) (w : Nat) (r : Nat → LaneRes) : Group :=
  let rs := resultsOf x r
  enterHist (rs.foldl (putResult d w) x.g) x.e x.act (fun i =>
    match rs.find? (fun q => q.1 == i) with
    | some q => q.2.val
    | none => 0)

end Sys2Proof.Machine
end

