-- ==== Sys2Proof/Machine/Divergence.lean ====
section
/-! DEFINITION. Divergence (07): joining and merging of splits (R159 to R161), exit of lanes (R162), division by BRK (R165), frames
(R166), partition by target (R167) and serial mode (R168 to R170). All of it changes the group alone. -/

namespace Sys2Proof.Machine

open Sys2Proof

/-- The numbers of the entries that meet a test. -/
def entriesIf (g : Group) (p : Split → Bool) : List Nat := (List.range 4).filter (fun e => p (g.split e))

/-- The lowest FREE entry (R154). -/
def freeEntry? (g : Group) : Option Nat := (entriesIf g (fun sp => sp.st == .free)).head?

/-- The lowest FREE frame (R154). -/
def freeFrame? (g : Group) : Option Nat := (List.range 16).find? (fun f => !(g.frame f).use)

/-- The union of the AMs of entries. -/
def amUnion (g : Group) (es : List Nat) : Lanes := es.foldl (fun m e => m ||| (g.split e).am) 0

/-- An entry set FREE. -/
def freeSplit (g : Group) (e : Nat) : Group :=
  g.setSplit e { g.split e with st := .free, am := 0, ser := false, srem := 0, sdone := 0, wait := .none, ask := none, word := none }

/-- The JOINED entries of a frame. -/
def joinedOf (g : Group) (f : Nat) : List Nat := entriesIf g (fun sp => sp.st == .joined && sp.frame == f)

/-- R160: the frame merges now. -/
def mergeable (g : Group) (f : Nat) : Bool :=
  let x := g.frame f
  x.use && x.fm != 0 && amUnion g (joinedOf g f) == x.fm

/-- The merge of a frame (R160); a merged split whose PC is its parent frame's join enters JOINED at once (R159). -/
def mergeFrame (clock : Nat) (g : Group) (f : Nat) : Group :=
  let x := g.frame f
  let es := joinedOf g f
  match es with
  | [] => g
  | e :: rest =>
    let g1 := rest.foldl freeSplit g
    let again := x.parent < 16 && (g.frame x.parent).use && (g.frame x.parent).join == x.join
    let sp := { g.split e with am := x.fm, pc := x.join, mr := x.fmr, hv := 0, frame := x.parent,
                               st := if again then .joined else .ready, since := clock }
    (g1.setSplit e sp).setFrame f {}

/-- Every frame that may merge merges, inner ones first through coinciding joins (R160). -/
def mergeFrames (clock : Nat) : Nat → Group → Group
  | 0, g => g
  | n + 1, g =>
    match (List.range 16).find? (mergeable g) with
    | some f => mergeFrames clock n (mergeFrame clock g f)
    | none => g

/-- Two failures of one instruction: PEER_TOKEN before MEMORY_UNCORRECTABLE (Table 18.5), the lanes together, the lowest lane's address. -/
def joinFail (a b : Option (Nat × Lanes × Nat)) : Option (Nat × Lanes × Nat) :=
  match a, b with
  | none, y => y
  | x, none => x
  | some x, some y =>
    if x.1 = y.1 then some (x.1, x.2.1 ||| y.2.1, if lowestLane x.2.1 ≤ lowestLane y.2.1 then x.2.2 else y.2.2)
    else if x.1 = cPEER_TOKEN then some x else some y

/-- What two splits that merge have asked for the instruction at their PC (Table 20.3). -/
def joinAsk (a b : Option Ask) : Option Ask :=
  match a, b with
  | none, y => y
  | x, none => x
  | some x, some y => some { reqs := x.reqs ++ y.reqs, ok := x.ok ++ y.ok, held := x.held ++ y.held, fail := joinFail x.fail y.fail, rows := x.rows ++ y.rows
                             served := x.served ++ y.served }

/-- What the merge of two splits has asked: where one alone has fetched the word at their PC, the fetch of the other asks no more (R152). -/
def mergeAsk (a b : Split) : Option Ask :=
  if a.word.isSome && b.word.isNone then a.ask else if a.word.isNone && b.word.isSome then b.ask else joinAsk a.ask b.ask

/-- Two entries merge by R161. -/
def sameSpot (a b : Split) : Bool :=
  (a.st == .ready || a.st == .sparked) && (b.st == .ready || b.st == .sparked) && !a.ser && !b.ser
    && a.frame == b.frame && a.pc == b.pc

/-- The first pair of entries that merge by R161. -/
def samePair? (g : Group) : Option (Nat × Nat) :=
  [(0, 1), (0, 2), (0, 3), (1, 2), (1, 3), (2, 3)].find? (fun p => sameSpot (g.split p.1) (g.split p.2))

/-- The merge of two entries at one PC (R161). -/
def mergePair (g : Group) (i j : Nat) : Group :=
  let a := g.split i
  let b := g.split j
  let m := a.am ||| b.am
  let mr := if lowestLane a.am ≤ lowestLane b.am then a.mr else b.mr
  let parked := (a.st == .sparked || b.st == .sparked) && g.inFlight m
  (freeSplit g j).setSplit i { a with am := m, mr := mr, hv := 0, st := if parked then .sparked else .ready,
                                      ask := mergeAsk a b, word := a.word.orElse (fun _ => b.word) }

/-- Every merge of R161. A split that a frame merge or a release has made READY at the PC of a READY split merges with it like one that an
instruction has brought there: DEDUCED (log 61). -/
def mergeSame (g : Group) : Group :=
  let once (g : Group) : Group := match samePair? g with
    | some p => mergePair g p.1 p.2
    | none => g
  once (once (once g))

/-- The next serial turn begins (R169). -/
def beginTurn (clock : Nat) (sp : Split) : Split :=
  let i := lowestLane sp.srem
  { sp with srem := sp.srem &&& ~~~laneBit i, am := laneBit i, pc := sp.spc, mr := sp.smr, hv := 0, st := .ready,
            ask := none, word := none, since := clock }

/-- The end point E of serial mode: the join PC of the split's frame (R168). -/
def serialEnd? (g : Group) (sp : Split) : Option Word :=
  if sp.frame < 16 then some (g.frame sp.frame).join else none

/-- What follows a turn that has ended: the next turn, or the end of serial mode (R169, R170). -/
def afterTurn (clock : Nat) (g : Group) (e : Nat) : Group :=
  let sp := g.split e
  if sp.srem ≠ 0 then g.setSplit e (beginTurn clock sp)
  else if sp.sdone = 0 then freeSplit g e
  else mergeFrames clock 17 (g.setSplit e { sp with ser := false, am := sp.sdone, sdone := 0, pc := (serialEnd? g sp).getD sp.pc, hv := 0, st := .joined })

/-- Serial mode starts at an instruction of an entry (R168). -/
def startSerial (clock : Nat) (g : Group) (e : Nat) : Group :=
  let sp := g.split e
  g.setSplit e (beginTurn clock { sp with ser := true, spc := sp.pc, smr := sp.mr, srem := sp.am, sdone := 0 })

/-- R30, R137: the in-flight results and failures of exited lanes are discarded. -/
def dropLanes (g : Group) (m : Lanes) : Group :=
  { g with
    pends := (g.pends.map (fun p => { p with vals := p.vals.filter (fun v => !m.getLsbD v.1) })).filter (fun p => !p.vals.isEmpty)
    failed := g.failed.filter (fun f => !m.getLsbD f.lane) }

/-- EXIT of lanes of an entry (R137, R162): EXM, the frame masks, the entry, and the merges a smaller frame mask allows. -/
def exitLanes (clock : Nat) (g : Group) (e : Nat) (m : Lanes) : Group :=
  let g1 := dropLanes { g with
    exm := g.exm ||| m
    frames := g.frames.map (fun f => if f.use then (if f.fm &&& ~~~m = 0 then {} else { f with fm := f.fm &&& ~~~m }) else f) } m
  let sp := g1.split e
  let left := sp.am &&& ~~~m
  let g2 :=
    if left ≠ 0 then g1.setSplit e { sp with am := left }
    else if sp.ser then afterTurn clock (g1.setSplit e { sp with am := 0 }) e
    else freeSplit g1 e
  mergeFrames clock 17 g2

/-- The next PC (R130). -/
def nextPc (pc : Word) : Word := pc + 4

/-- The target of a format D word (R66). -/
def branchTarget (pc : Word) (off : BitVec 21) : Word := pc + 4 + 4 * off.signExtend 32

/-- The lanes of a mask whose predicate, negated or not, is 1. -/
def predLanes (g : Group) (m : Lanes) (k : Nat) (n : Bool) : Lanes := m &&& (if n then ~~~g.pred k else g.pred k)

/-- BRK (R165). -/
def brkSplit (clock : Nat) (g : Group) (e k : Nat) (n : Bool) (target : Word) : Group :=
  let sp := g.split e
  let t := predLanes g sp.am k n
  let next := nextPc sp.pc
  if sp.ser then g.setSplit e { sp with pc := if t ≠ 0 then target else next }
  else if t = 0 then g.setSplit e { sp with pc := next }
  else if t = sp.am then g.setSplit e { sp with pc := target }
  else match freeEntry? g with
    | some f =>
      (g.setSplit f { st := .ready, pc := target, am := t, mr := sp.mr, frame := sp.frame, since := clock }).setSplit e
        { sp with am := sp.am &&& ~~~t, pc := next, hv := 0 }
    | none => startSerial clock g e

/-- JPT (R166). -/
def jptSplit (clock : Nat) (g : Group) (e : Nat) (target : Word) : Group :=
  let sp := g.split e
  if sp.ser then g.setSplit e { sp with pc := nextPc sp.pc }
  else match freeFrame? g with
    | some f =>
      (g.setFrame f ⟨true, target, sp.am, sp.mr, sp.frame⟩).setSplit e { sp with frame := f, pc := nextPc sp.pc }
    | none => startSerial clock g e

/-- The partitions of lanes by target, ordered by their lowest lane (R167). -/
def partitions : List (Nat × Word) → List (Word × Lanes)
  | [] => []
  | (i, t) :: rest =>
    let ps := partitions rest
    match ps.find? (fun p => p.1 == t) with
    | some p => (t, p.2 ||| laneBit i) :: ps.filter (fun q => q.1 != t)
    | none => (t, laneBit i) :: ps

/-- The transfer of the lanes of an entry to their targets (R135, R167, R168). -/
def jumpSplit (clock : Nat) (g : Group) (e : Nat) (targets : List (Nat × Word)) : Group :=
  let sp := g.split e
  let free := entriesIf g (fun x => x.st == .free)
  match partitions targets with
  | [] => g
  | [(t, _)] => g.setSplit e { sp with pc := t }
  | (t, m) :: rest =>
    if rest.length ≤ free.length then
      (rest.zip free).foldl (fun g x => g.setSplit x.2 { st := .ready, pc := x.1.1, am := x.1.2, mr := sp.mr, frame := sp.frame, since := clock })
        (g.setSplit e { sp with am := m, pc := t, hv := 0 })
    else startSerial clock g e

/-- The join of a split about to issue at its frame's join PC, or the end of its serial turn at E (R159, R169, R170). -/
def atJoin (g : Group) (sp : Split) : Bool := sp.frame < 16 && (g.frame sp.frame).use && (g.frame sp.frame).join == sp.pc

/-- SPLIT_JOIN (R159, R160). -/
def joinSplit (clock : Nat) (g : Group) (e : Nat) : Group :=
  mergeFrames clock 17 (g.setSplit e { g.split e with st := .joined })

/-- SERIAL_TURN_END at E (R169, R170). -/
def endTurn (clock : Nat) (g : Group) (e : Nat) : Group :=
  let sp := g.split e
  afterTurn clock (g.setSplit e { sp with sdone := sp.sdone ||| sp.am, am := 0 }) e

end Sys2Proof.Machine
end

