-- ==== Sys2Proof/Machine/Sync.lean ====
section
/-! DEFINITION. What releases waiting splits: semaphores (R252), the team and set barriers (R198, R199), set phases (R200), work
queues (R201 to R203), and the retirement of a group (R162, R198 to R200). -/

namespace Sys2Proof.Machine

open Sys2Proof

/-- A waiting split released: READY at the PC where it continues, or parked by R31 (R31, R158, R197). -/
def releaseSplit (clock : Nat) (g : Group) (sp : Split) : Split :=
  { sp with st := if sp.park && g.inFlight sp.lanes then .sparked else .ready,
            pc := sp.cont, wait := .none, wid := 0, park := false, since := clock }

/-- A release recorded in a split that stays WAITING until its group resumes (R362 step 2). -/
def recordRelease (sp : Split) : Split := { sp with wait := .freed, wid := 0 }

/-- A group is stopped by a trap, so that a release of one of its table's splits is recorded (R362 step 2). -/
def Group.frozen (g : Group) : Bool := g.raised.isSome || g.stop.isSome

/-- The waiting splits of a group that meet a test released: in its table, where they then merge by R161, or, of a stopped group and of a saved
block, recorded (R362 step 2). The release of a wait is an acquire of the group (R231). -/
def releaseIf (clock : Nat) (g : Group) (p : Split → Bool) : Group :=
  let p1 (sp : Split) : Bool := sp.st == .waiting && p sp
  let note (sp : Split) : Split := if p1 sp then recordRelease sp else sp
  let free (sp : Split) : Split := if p1 sp then releaseSplit clock g sp else sp
  let g1 : Group :=
    { g with splits := g.splits.map (if g.frozen then note else free), saved := g.saved.map (fun b => { b with splits := b.splits.map note })
             stale := if g.splits.any p1 || g.saved.any (fun b => b.splits.any p1) then [] else g.stale }
  if !g.frozen && g.splits.any p1 then mergeSame g1 else g1

/-- The split of a wait released. -/
def releaseWid (s : State) (wid : Nat) : State :=
  { s with groups := s.groups.map (fun g => releaseIf s.clock g (fun sp => sp.wid == wid)) }

/-- A semaphore of a team. -/
def Team.sem (t : Team) (n : Nat) : Sem := mget {} t.sems n

/-- A semaphore replaced. -/
def Team.setSem (t : Team) (n : Nat) (x : Sem) : Team := { t with sems := mset {} t.sems n x }

/-- The serving loop of R252: the count left, the waiters served and the waiters left. -/
def semServe : Nat → List (Nat × Nat) → Nat × List Nat × List (Nat × Nat)
  | v, [] => (v, [], [])
  | v, (w, n) :: t => if n ≤ v then let r := semServe (v - n) t; (r.1, w :: r.2.1, r.2.2) else (v, [], (w, n) :: t)

/-- A semaphore increment by n (R252): the new semaphore and the waits served. -/
def semAdd (x : Sem) (n : Nat) : Sem × List Nat :=
  let v := if x.val + n > 65535 then 65535 else x.val + n
  let r := semServe v x.waiters
  ({ val := r.1, ovf := x.ovf || decide (x.val + n > 65535), waiters := r.2.2 }, r.2.1)

/-- An increment of a team's semaphore (R252); held for a team that is not placed (R375). -/
def semIncr (s : State) (team n k : Nat) : State :=
  match s.team? team with
  | none => s
  | some t =>
    if !t.placed then s.setTeam { t with held := t.held ++ List.replicate k (.incr n) }
    else
      let r := semAdd (t.sem n) k
      r.2.foldl releaseWid (s.setTeam (t.setSem n r.1))

/-- Waiters leave the queues of a team's semaphores unserved, and then the loop of R252 runs (R379, R388). -/
def semLeave (s : State) (team : Nat) (wids : List Nat) : State :=
  match s.team? team with
  | none => s
  | some t =>
    let rs := t.sems.map (fun x => (x.1, semAdd { x.2 with waiters := x.2.waiters.filter (fun w => !wids.contains w.1) } 0))
    (rs.flatMap (fun r => r.2.2)).foldl releaseWid (s.setTeam (rs.foldl (fun t r => t.setSem r.1 r.2.1) t))

/-- A team is a member of a set (Table 08.6). -/
def memberOf (q : SetSt) (tix : Nat) : Bool :=
  match q.list with
  | some ms => ms.contains tix
  | none => decide (q.first ≤ tix) && (tix - q.first) % (max q.stride 1) == 0 && decide ((tix - q.first) / (max q.stride 1) < q.count)

/-- The groups of a team. -/
def groupsOf (s : State) (team : Nat) : List Group := s.groups.filter (fun g => g.team == team)

/-- The entries of a group that hold lanes. -/
def held (g : Group) : List Split := g.splits.filter (fun sp => sp.st != .free)

/-- Every entry that holds lanes waits at a barrier that meets a test, at one PC (R198); a group that a diversion takes from its wait has not
arrived (R379). -/
def arrivedAt (g : Group) (p : Wait → Bool) : Bool :=
  match held g with
  | [] => false
  | sp :: rest => g.hold != .divert && p sp.wait && rest.all (fun q => p q.wait && q.pc == sp.pc)

/-- Waiting at BART. -/
def isBart : Wait → Bool
  | .bart => true
  | _ => false

/-- Waiting at BARS of a slot. -/
def isBars (slot : Nat) : Wait → Bool
  | .bars n _ _ => n == slot
  | _ => false

/-- Every split of a group, those of its saved block with them. -/
def allSplits (g : Group) : List Split :=
  g.splits ++ (match g.saved with
    | some b => b.splits
    | none => [])

/-- Every waiting split of a group whose wait meets a test released, with `kd` of a set barrier written with a value (R198, R199). -/
def releaseGroup (clock : Nat) (g : Group) (p : Wait → Bool) (v : Bool) : Group :=
  let g1 := (allSplits g).foldl (fun g sp => match sp.wait with
    | .bars _ kd act => if p sp.wait then g.setPred kd act (if v then BitVec.allOnes 32 else 0) else g
    | _ => g) g
  releaseIf clock g1 (fun sp => p sp.wait)

/-- The groups of a team released from a barrier. -/
def releaseTeam (s : State) (team : Nat) (p : Wait → Bool) (v : Bool) : State :=
  { s with groups := s.groups.map (fun g => if g.team = team then releaseGroup s.clock g p v else g) }

/-- Every group of a team has retired or arrived, and some group waits. -/
def teamAt (s : State) (team : Nat) (p : Wait → Bool) : Bool :=
  (groupsOf s team).all (fun g => g.retired || arrivedAt g p) && (groupsOf s team).any (fun g => arrivedAt g p)

/-- The team barrier tested (R198). -/
def testBart (s : State) (team : Nat) : State :=
  if teamAt s team isBart then releaseTeam s team isBart true else s

/-- The live member teams of a set. -/
def membersLive (s : State) (l : Launch) (q : SetSt) : List Team :=
  s.teams.filter (fun t => t.lch == l.lch && !t.killed && memberOf q t.tix)

/-- A set of a launch replaced. -/
def setSet (l : Launch) (n : Nat) (q : SetSt) : Launch := { l with sets := setAt l.sets n q }

/-- A core recorded at the barriers of a set with its epoch (R236). -/
def SetSt.record (q : SetSt) (core : Nat) (epoch : Word) : SetSt :=
  { q with recs := (core, epoch) :: q.recs.filter (fun r => r.1 != core) }

/-- The cores recorded at the barriers of a set drained to their epochs, as far as the channels serve them; the record of one that has drained
is removed (R236, R342). -/
def drainSet (s : State) (lch n : Nat) : State :=
  match s.launch? lch with
  | none => s
  | some l =>
    match l.sets[n]? with
    | none => s
    | some q =>
      let s1 := q.recs.foldl (fun s r => drainWait s r.1 (upTo r.2)) s
      s1.setLaunch (setSet l n { q with recs := q.recs.filter (fun r => dirtyLeft s1 r.1 (upTo r.2)) })

/-- Every core recorded at the barriers of a set has drained. -/
def setDrained (s : State) (lch n : Nat) : Bool := (s.launch? lch).all (fun l => (l.sets[n]?).all (fun q => q.recs.isEmpty))

/-- A set barrier tested (R199): every live member team has arrived, or its groups have all retired. Its completion drains the recorded
cores first, and is an acquire of each member's core (R236). -/
def testBars (s : State) (l : Launch) (n : Nat) (q : SetSt) : State :=
  let ms := membersLive s l q
  let p := isBars q.slot
  let done := ms.all (fun t => (groupsOf s t.uid).all (fun g => g.retired || arrivedAt g p))
    && ms.any (fun t => (groupsOf s t.uid).any (fun g => arrivedAt g p))
    && decide (q.count ≤ ms.length + (q.count - q.counter))
  if q.cores && done then
    let s1 := drainSet s l.lch n
    if setDrained s1 l.lch n then ms.foldl (fun s t => acquireCore (releaseTeam s t.uid p true) t.core) s1 else s1
  else s

/-- The sets of a launch that contain a team, with their numbers. -/
def setsOf (l : Launch) (tix : Nat) : List (Nat × SetSt) :=
  ((List.range l.sets.length).zip l.sets).filter (fun x => memberOf x.2 tix)

/-- The phase of a set tested after an arrival or a retirement (R200). -/
def testPhase (l : Launch) (q : SetSt) : SetSt :=
  if q.count * l.lr.gpt - q.gone ≤ q.arrivals then { q with phase := q.phase + 1, arrivals := 0 } else q

/-- A group that has exited all its lanes retires (R162): it leaves the expected counts of R200 and counts as arrived at every
barrier of its team and sets. The retirement is a release at SYSTEM scope, which waits for what it must find performed (R231, R236,
R422). -/
def retireGroup (s0 : State) (u : Nat) : State :=
  match s0.group? u with
  | none => s0
  | some g =>
    let core := ((s0.team? g.team).map (fun t => t.core)).getD 0
    let s := drainWait s0 core (fun _ => true)
    if dirtyLeft s core (fun _ => true) || !(outstanding s u core 6).isEmpty then s else
    let s1 := s.setGroup { g with retired := true, pends := [], failed := [] }
    match s1.team? g.team with
    | none => s1
    | some t =>
      let s2 := testBart s1 t.uid
      match s2.launch? t.lch with
      | none => s2
      | some l =>
        let l1 := (setsOf l t.tix).foldl (fun l x => setSet l x.1 (testPhase l { x.2 with gone := x.2.gone + 1 })) l
        (setsOf l1 t.tix).foldl (fun s x => testBars s l1 x.1 x.2) (s2.setLaunch l1)

/-- The groups whose lanes have all exited, and which could not retire at once, retire (R162, R422). -/
def retirePending (s : State) : State :=
  (s.groups.filter (fun g => g.exm == 0xFFFFFFFF && !g.retired)).foldl (fun s g => retireGroup s g.uid) s

/-- A drain has gone on: the groups that waited for it retire, and the set barriers that waited for it complete (R162, R199, R236). -/
def afterBack (s : State) : State :=
  (s.launches.flatMap (fun l => (List.range l.sets.length).map (fun n => (l.lch, n)))).foldl (fun s p =>
    match s.launch? p.1 with
    | none => s
    | some l => match l.sets[p.2]? with
      | none => s
      | some q => testBars s l p.2 q) (retirePending s)

/-- The barriers of a group's team and sets tested. -/
def retest (s : State) (u : Nat) : State :=
  match (s.group? u).bind (fun g => s.team? g.team) with
  | none => s
  | some t =>
    let s1 := testBart s t.uid
    match s1.launch? t.lch with
    | none => s1
    | some l => (setsOf l t.tix).foldl (fun s x => testBars s l x.1 x.2) s1

/-! ### Work and launch queues (R201 to R203) -/

/-- A queue is configured (R201). -/
def Queue.ok (q : Queue) : Bool := decide (4 ≤ q.log2n) && decide (q.log2n ≤ 16)

/-- A queue is empty. -/
def Queue.empty (q : Queue) : Bool := q.pi == q.ci

/-- A queue is full. -/
def Queue.full (q : Queue) : Bool := (q.pi - q.ci).toNat == 2 ^ q.log2n

/-- A queue of a context replaced. -/
def setQueue (c : Ctx) (launch : Bool) (n : Nat) (q : Queue) : Ctx :=
  if launch then { c with lq := mset {} c.lq n q } else { c with wq := mset {} c.wq n q }

/-- Bytes of a record of a queue. -/
def recBytes (launch : Bool) : Nat := if launch then 256 else 64

/-- The ring address of a record's index. -/
def ringVa (q : Queue) (launch : Bool) (idx : Word) : Nat :=
  q.base / 4096 * 4096 + recBytes launch * (idx.toNat % 2 ^ q.log2n)

/-- The ring address of the next record a POP or an ENQ reaches, translated (R201). -/
def ringXlate (s : State) (ctx : Nat) (launch : Bool) (q : Queue) (idx : Word) (a : Acc) : Except Nat Xl :=
  xlate s (partWho ctx) a (ringVa q launch idx)

/-- A record appended to a queue with room whose ring address is translated; `from_` is the enqueuing class plus one, or 0. -/
def appendRec (s : State) (ctx : Nat) (launch : Bool) (n pa : Nat) (b : List Byte) (from_ : Nat) : State :=
  let s1 := endWalk (s.writePa frontEnd noGrp pa b) frontEnd
  let c := s1.ctx ctx
  let q := queueOf c launch n
  let c1 := setQueue c launch n { q with pi := q.pi + 1 }
  s1.setCtx ctx (if launch then { c1 with lqFrom := mset 0 c1.lqFrom (n * 2 ^ 32 + q.pi.toNat) from_ } else c1)

/-- The group, entry and split of a wait, searched in the running tables. -/
def findWid (s : State) (wid : Nat) : Option (Group × Split) :=
  s.groups.findSome? (fun g =>
    match (allSplits g).find? (fun sp => sp.st == .waiting && sp.wid == wid) with
    | some sp => some (g, sp)
    | none => none)

/-- A wait can be served: its group is not being saved or saved (R202). -/
def widLive (s : State) (wid : Nat) : Bool :=
  match findWid s wid with
  | some (g, _) => g.hold != .preempt
  | none => true

/-- A record taken by a POP of a group (R202): written to scratch once the group's loads of those bytes are performed (R151), its index to
gd, CI incremented, with an acquire. -/
def popTake (s : State) (ctx n : Nat) (g : Group) (off gd pa : Nat) : State :=
  match s.team? g.team with
  | none => s
  | some t =>
    let c := s.ctx ctx
    let q := queueOf c false n
    let s0 := settleAt s g.uid [(.scr t.core (t.ssBase + off) off, 64)]
    let s1 := endOp (s0.setScr t.core (t.ssBase + off) (frontBytes s0 (.pop ctx n) pa 64)) (.pop ctx n)
    let s2 := s1.modGroup g.uid (fun g => g.setUreg gd q.ci)
    acquireCore (s2.setCtx ctx (setQueue c false n { q with ci := q.ci + 1 })) t.core

/-- A wait given up: its split stands READY at its own instruction again, where the failure of its ring address, or of the record's words,
traps (R201, R371). -/
def reissueWid (s : State) (wid : Nat) : State :=
  { s with groups := s.groups.map (fun g =>
      let fix (sp : Split) : Split := if sp.st == .waiting && sp.wid == wid then { sp with cont := sp.pc, park := false } else sp
      releaseIf s.clock { g with splits := g.splits.map fix, saved := g.saved.map (fun b => { b with splits := b.splits.map fix }) }
        (fun sp => sp.wid == wid)) }

/-- The record at the head of a work queue may be taken: its physical address, none where it does not translate or is damaged; or the state in which
the front end waits for its bytes (R201, R220, R342). -/
def popReady (s : State) (ctx n : Nat) : Except State (State × Option Nat) :=
  let q := queueOf (s.ctx ctx) false n
  match ringXlate s ctx false q q.ci .load with
  | .error c => if c = cAWAITED then .error (askEntry s frontEnd ctx (ringVa q false q.ci)) else .ok (endOp s (.pop ctx n), none)
  | .ok y =>
    match lineReady s (.pop ctx n) y.pa (ringVa q false q.ci) with
    | .error s1 => .error s1
    | .ok s1 => if frontBad s1 (.pop ctx n) y.pa 64 then .ok (endOp s1 (.pop ctx n), none) else .ok (s1, some y.pa)

/-- The first waiting POP of a queue with a record served (R201, R202), and whether the next one may be. -/
def servePop (s : State) (ctx n : Nat) : Option (State × Bool) :=
  let c := s.ctx ctx
  let q := queueOf c false n
  if q.empty then none
  else match c.pops.find? (fun p => p.1 == n && widLive s p.2) with
    | none => none
    | some p =>
      let gone (s : State) : State := s.setCtx ctx { s.ctx ctx with pops := (s.ctx ctx).pops.filter (fun y => y != p) }
      match findWid s p.2 with
      | some (g, sp) =>
        match popReady s ctx n with
        | .error s1 => some (s1, false)
        | .ok r =>
          match sp.wait, r.2 with
          | .pop _ off gd, some pa => some (releaseWid (popTake (gone r.1) ctx n g off gd pa) p.2, true)
          | _, _ => some (reissueWid (gone r.1) p.2, true)
      | none => some (gone s, true)

/-- The class of the launch of a group, plus one; 0 for none. -/
def fromClass (s : State) (g : Group) : Nat :=
  match s.team? g.team with
  | some t => match s.launch? t.lch with
    | some l => l.lr.cls + 1
    | none => 0
  | none => 0

/-- The first waiting ENQ.W of a queue with room appends (R203), and whether the next one may. -/
def serveEnq (s : State) (ctx : Nat) (launch : Bool) (n : Nat) : Option (State × Bool) :=
  let c := s.ctx ctx
  let q := queueOf c launch n
  if q.full then none
  else match c.enqs.find? (fun p => p.1 == launch && p.2.1 == n && widLive s p.2.2) with
    | none => none
    | some p =>
      let gone (s : State) : State := s.setCtx ctx { s.ctx ctx with enqs := (s.ctx ctx).enqs.filter (fun y => y != p) }
      match findWid s p.2.2 with
      | some (g, sp) =>
        match frontReady s ctx .store (ringVa q launch q.pi) with
        | .error s1 => some (s1, false)
        | .ok s1 =>
          match sp.wait, ringXlate s1 ctx launch q q.pi .store with
          | .enqw _ _ b, .ok x => some (releaseWid (appendRec (gone s1) ctx launch n x.pa b (fromClass s1 g)) p.2.2, true)
          | _, _ => some (reissueWid (endWalk (gone s1) frontEnd) p.2.2, true)
      | none => some (gone s, true)

/-- Every waiter that a change of a queue can serve served in order. -/
def serveQueue (ctx : Nat) (launch : Bool) (n : Nat) : Nat → State → State
  | 0, s => s
  | k + 1, s =>
    match (if launch then none else servePop s ctx n) with
    | some r => if r.2 then serveQueue ctx launch n k r.1 else r.1
    | none => match serveEnq s ctx launch n with
      | some r => if r.2 then serveQueue ctx launch n k r.1 else r.1
      | none => s

/-- The waiters of a queue served, with enough turns for all of them. -/
def serveAll (s : State) (ctx : Nat) (launch : Bool) (n : Nat) : State :=
  serveQueue ctx launch n ((s.ctx ctx).pops.length + (s.ctx ctx).enqs.length + 1) s

end Sys2Proof.Machine
end

