-- ==== Sys2Proof/Machine/Ops.lean ====
section
/-! DEFINITION. The issue of an instruction with its checks in the order of R76, the taking of a trap and the return from one
(R362 to R367), the stop of a group and its record (R367 to R370), and what follows an instruction: the park of bit S (R31), the
merge of R161, the end of a handler (R366), the retirement of a group (R162). -/

namespace Sys2Proof.Machine

open Sys2Proof

/-! ### Taking a trap -/

/-- `tca` of a trap (Table 17.2). -/
def tcaOf (t : Trap) : Word :=
  BitVec.ofNat 32 (t.cause + (if t.fetch then 256 else 0) + (if t.deferred then 512 else 0))

/-- A trap's PC as it is recorded (R138, R362 step 1). -/
def trapPc (pc : Word) (t : Trap) : Word := if t.next then nextPc pc else pc

/-- The synchronous trap record of a group (Table 17.5). -/
def trapRecord (s : State) (g : Group) (t : Team) (nested tfail : Bool) : List Byte :=
  mkRecord 64 [(0, 1, 1), (1, 1, g.tca.toNat % 256),
    (2, 1, (if nested then 1 else 0) + bitsOf g.tca.toNat 8 8 * 2 + bitsOf g.tca.toNat 9 9 * 4 + (if tfail then 8 else 0)),
    (4, 4, t.lch), (8, 4, t.tix), (0x0C, 1, g.gix), (0x0D, 1, t.core % 80), (0x0E, 1, dieOf t.core),
    (0x10, 4, g.tpc.toNat), (0x14, 4, g.tam.toNat), (0x18, 4, g.tfm.toNat), (0x1C, 4, g.tca.toNat),
    (0x20, 8, g.tva.toNat), (0x30, 8, s.dtime)]

/-! ### The writing of trap records (R369, R370, R460) -/

/-- A record of the group raised earlier is not written yet (R370: the records of one group appear in the order in which they were raised). -/
def earlierRec (s : State) (ctx : Nat) (grp : Option Nat) (ord : Nat) : Bool :=
  match grp with
  | none => false
  | some u => (s.group? u).any (fun g => g.records.any (fun r => decide (r.ord < ord)))
    || (s.posts ++ (s.ctx ctx).hold0 ++ (s.ctx ctx).hold1).any (fun r => r.grp == some u && decide (r.ord < ord))

/-- The release at SYSTEM scope that the writing of a record is, for the core that raised it: its drain as far as the channels serve it, and
whether all that it orders has been performed (R236, R369, R422). -/
def recRelease (s : State) (core : Option Nat) : State × Bool :=
  match core with
  | none => (s, true)
  | some c =>
    let s1 := drainWait s c (fun _ => true)
    (s1, !dirtyLeft s1 c (fun _ => true) && !s1.remotes.any (fun r => r.core == c && r.cmd.isNone && r.kind != .read))

/-- The ring's next record may be written, or the state in which its write waits for a walk or a channel (R342, R395). -/
def ringReady (s : State) (ctx : Nat) : Except State State := frontReady s ctx .cmdWrite (ringSlot (s.ctx ctx))

/-- An asynchronous record written; where the ring cannot be, it is dropped and counted (R460). -/
def ringPut (s : State) (ctx : Nat) (b : List Byte) : State := endWalk ((ringWrite s ctx b).getD (ringDrop s ctx)) frontEnd

/-- An asynchronous record that is ready, written, once a release of the core that raised it has been performed, and the ring is reached; `gone` takes
it from where it waited. -/
def asyncPut (s : State) (r : AsyncRec) (ctx : Nat) (gone : State → State) : State × Bool :=
  let x := recRelease s r.core
  if !x.2 then (x.1, false)
  else match ringReady x.1 ctx with
    | .error s1 => (s1, false)
    | .ok s1 => (ringPut (gone s1) ctx r.bytes, true)

/-- The records of a die's holding queue written in order while the ring has room (R370). -/
def flushHolds (ctx die : Nat) : Nat → State → State
  | 0, s => s
  | n + 1, s =>
    let c := s.ctx ctx
    match holdOf c die with
    | [] => s
    | r :: rest =>
      let gone (s : State) : State := s.setCtx ctx (setHold (s.ctx ctx) die rest)
      if ringLog c = 0 then flushHolds ctx die n (ringDrop (gone s) ctx)
      else if ringFull c then s
      else
        let x := asyncPut s r ctx gone
        if x.2 then flushHolds ctx die n x.1 else x.1

/-- A posted record that is ready: written, held for room, or dropped (Table 17.6). -/
def postRec (s : State) (r : AsyncRec) : State :=
  let gone (s : State) : State := { s with posts := s.posts.filter (fun q => q.ord != r.ord) }
  let c := s.ctx r.ctx
  if earlierRec s r.ctx r.grp r.ord then s
  else if ringLog c = 0 then ringDrop (gone s) r.ctx
  else if ringFull c then
    let s1 := ringLost (gone s) r.ctx
    let c1 := s1.ctx r.ctx
    if (holdOf c1 r.die).length < 16 then s1.setCtx r.ctx (setHold c1 r.die (holdOf c1 r.die ++ [r])) else ringDrop s1 r.ctx
  else (asyncPut s r r.ctx gone).1

/-- The asynchronous records of a context that a die has posted: those that it holds, then the others (R370). -/
def flushPosts (s : State) (ctx die : Nat) : State :=
  let s1 := flushHolds ctx die 17 s
  (s1.posts.filter (fun r => r.ctx == ctx && r.die == die)).foldl postRec s1

/-- The first record of a stopped or resumed group: ready once its group's earlier records and what a release at SYSTEM scope of its core orders
have been performed; written where the ring has room, and kept, LOST set once, where it is full; lost where the ring is disabled or does not
translate (R369, R370, R460). -/
def flushRecords (s : State) (u : Nat) : State :=
  match s.group? u with
  | none => s
  | some g =>
    match g.records, s.team? g.team with
    | r :: rest, some t =>
      let put (l : List SyncRec) (s : State) : State := s.modGroup u (fun g => { g with records := l })
      if earlierRec s t.ctx (some u) r.ord then s
      else if ringLog (s.ctx t.ctx) = 0 then put rest s
      else
        let x := recRelease s (some t.core)
        if !(x.2 && (outstanding x.1 u t.core 6).isEmpty) then x.1
        else if ringFull (x.1.ctx t.ctx) then (if r.ready then x.1 else put ({ r with ready := true } :: rest) (ringLost x.1 t.ctx))
        else match ringReady x.1 t.ctx with
          | .error s1 => s1
          | .ok s1 => put rest (endWalk ((ringWrite s1 t.ctx r.bytes).getD s1) frontEnd)
    | _, _ => s

/-- A group stopped, with its synchronous record, which is written at once where nothing keeps it back (R367, R369, R370). -/
def stopGroup (s : State) (u : Nat) (nested tfail : Bool) : State :=
  match s.group? u with
  | none => s
  | some g =>
    match s.team? g.team with
    | none => s
    | some t =>
      let r : SyncRec := { ord := s.uid, bytes := trapRecord s g t nested tfail }
      flushRecords (s.fresh.modGroup u (fun g => { g with stop := some ⟨nested, tfail⟩, records := g.records ++ [r] })) u

/-- The trap registers written (R362 step 4); `tva` takes the address that the trap carries, whole (DESIGN CHOICE, log 63). -/
def setTrapRegs (g : Group) (r : Raised) : Group :=
  { g with
    raised := none
    tpc := trapPc r.pc r.trap
    tam := r.am
    tfm := r.trap.tfm
    tca := tcaOf r.trap
    tva := BitVec.ofNat 64 r.trap.tva }

/-- The one split of a handler (R363). -/
def handlerSplit (clock : Nat) (am : Lanes) (pc : Word) : Split :=
  { st := .ready, pc := pc, am := am, mr := 0, hv := 0, frame := 31, since := clock }

/-- The divergence block saved (R362 step 5), and the handler entered as one split (R363). -/
def enterHandler (clock : Nat) (g : Group) (e : Nat) (traph : Word) : Group :=
  { g with
    saved := some ⟨e, g.splits, g.frames⟩
    inHandler := true
    splits := [handlerSplit clock g.tam traph, {}, {}, {}]
    frames := List.replicate 16 {} }

/-- TRAP_ENTRY: the trap state recorded, then the handler, or the stop of a group without one or in one (R362, R363, R364, R367). -/
def enterTrap (s : State) (u : Nat) : State :=
  match s.group? u with
  | none => s
  | some g =>
    match g.raised, s.team? g.team with
    | some r, some t =>
      let g1 := setTrapRegs g r
      let traph := (s.lrOf t).traph
      if g.inHandler then stopGroup (s.setGroup g1) u true false
      else if traph = 0xFFFFFFFF then
        stopGroup (s.setGroup { g1 with saved := some ⟨r.e, g1.splits, g1.frames⟩ }) u false false
      else s.setGroup (enterHandler s.clock g1 r.e (BitVec.ofNat 32 traph))
    | _, _ => s

/-- A home told of a request that it holds: that it be performed, which it answers, or withdrawn (R423, Table 20.3, DESIGN CHOICE, log 18). -/
def tellHome (core grp : Nat) (keep : Bool) (s : State) (h : Nat × Nat) : State :=
  let r : Remote := { uid := s.uid, core := core, grp := grp, kind := if keep then .perform h.1 else .withdraw h.1, addr := h.2, len := 0, data := [], mask := [], since := s.dtime }
  if keep then s.fresh.request r else s.fresh.emit r

/-- The requests that homes hold for splits withdrawn: nothing of their instructions is performed (R9, R423). -/
def withdrawAsks (s : State) (core grp : Nat) (sps : List Split) : State :=
  (sps.flatMap (fun sp => (sp.ask.getD {}).held)).foldl (tellHome core grp false) s

/-- A split's instruction holds what it has translated, and is still to be completed (Table 20.3). -/
def Split.keeps (sp : Split) : Bool := sp.ask.any (fun a => a.kept.isSome)

/-- The splits of a group that issue nothing as it stands: those of a saved block, and all of a group that may not issue. -/
def Group.idle (g : Group) : List Split := (g.saved.map (fun b => b.splits)).getD [] ++ (if g.canIssue then [] else g.splits)

/-- An instruction that homes hold, or that has asked for a fill, begun anew; one that its home has performed is left to end (R423, log 18). -/
def Split.restart (sp : Split) : Split :=
  { sp with ask := sp.ask.bind (fun a => if !a.reqs.isEmpty || a.kept.isNone || (a.held.isEmpty && !a.ok.isEmpty) then some a else none) }

/-- A trap of an instruction of a split: the group stops, and the entry is made at once when no load or atomic of the group is in
flight, or by TRAP_ENTRY once they have returned (R362). -/
def takeTrap (s : State) (g : Group) (e : Nat) (t : Trap) : State :=
  let sp := g.split e
  let s1 := s.setGroup { g.setSplit e { sp with ask := none, word := none } with raised := some ⟨e, sp.pc, sp.am, t⟩ }
  let s2 := withdrawAsks { s1 with draws := s1.draws + 1 } (((s.team? g.team).map (fun t => t.core)).getD 0) g.uid [sp]
  if g.quiet then enterTrap s2 g.uid else s2

/-! ### Returning from a trap -/

/-- A split as a group that resumes finds it: HV 0, READY where its release was recorded (R362 step 2, R365), and no longer parked where
nothing of its lanes is in flight. -/
def resumeSplit (clock : Nat) (g : Group) (sp0 : Split) : Split :=
  let sp := { (if sp0.st == .waiting && sp0.wait == .freed then releaseSplit clock g sp0 else sp0) with hv := 0, since := clock }
  if sp.st == .sparked && !g.inFlight sp.lanes then { sp with st := .ready } else sp

/-- The saved block restored with split e at a PC, HV 0 in every split, and the lanes that the handler ended removed from split e
(R365, R366); splits that TRET leaves at one PC merge (R161). A handler split that waits at SWAIT or YIELD meanwhile is discarded, but its waiter stays in
the semaphore's queue, and a later increment is spent on it: R365 does not say (DESIGN CHOICE, log 72). -/
def restoreSaved (clock : Nat) (g : Group) (b : Saved) (pc : Word) : Group :=
  let g1 : Group := { g with splits := b.splits.map (resumeSplit clock g), frames := b.frames, saved := none, inHandler := false, stop := none }
  let g2 := g1.setSplit b.e { g1.split b.e with pc := pc, word := none }
  let gone := g.tam &&& g.exm
  mergeSame (if gone = 0 then g2 else exitLanes clock g2 b.e gone)

/-- The end of a handler whose lanes have all exited (R366). -/
def endHandler (clock : Nat) (g : Group) : Group :=
  match g.inHandler, g.saved with
  | true, some b => if g.tam &&& ~~~g.exm = 0 then restoreSaved clock g b g.tpc else g
  | _, _ => g

/-! ### Checks before an instruction (R76) -/

/-- What checks 2 to 4 of Table 03.8 ask of an instruction: its privilege, its engine major, its source and destination runs (`srcsBy` those that MR.TY sizes), the lanes
that read its sources, the predicates and uniform registers it reads (`unisBy` those that its fields decide), and the conditions of its own with their
cause; and, before any
check, whether a full queue holds it back (R261, R301, R326). -/
structure Needs where
  priv : Bool := false
  major : Option Nat := none
  srcs : List (LaneOp × Nat) := []
  srcsBy : Ix → List (LaneOp × Nat) := fun _ => []
  dsts : List (LaneOp × Nat) := []
  lanes : Ix → Lanes := Ix.act
  guarded : Bool := true
  preds : Ix → List Nat := fun _ => []
  unis : List Nat := []
  unisBy : Ix → List Nat := fun _ => []
  bad : Ix → Option Nat := fun _ => none
  blocked : Ix → Bool := fun _ => false

/-- A condition of check 4 that traps ILLEGAL_OPERAND. -/
def illegalIf (b : Bool) : Option Nat := if b then some cILLEGAL_OPERAND else none

/-- A trap of checks 1 to 4: every lane of AM, `tva` 0 (R76). -/
def amTrap (x : Ix) (c : Nat) : Trap := { cause := c, tfm := x.am }

/-- The role of a group (Table 08.2). -/
def roleOf (lr : LRec) (gix : Nat) : Nat := bitsOf lr.roles (2 * gix + 1) (2 * gix)

/-- A role may issue an engine major (Table 08.2). -/
def roleMay (role major : Nat) : Bool :=
  if major = 0x3B ∨ major = 0x3C then role == 0 || role == 1
  else if major = 0x3D then role == 0 || role == 2
  else true

/-- A run lies below REGS and a history name is valid (R15, R21). -/
def runFits (x : Ix) (r : LaneOp × Nat) : Bool :=
  match r.1 with
  | .v n => decide (n.val + r.2 ≤ x.lr.regs)
  | .lx => decide (1 ≤ x.sp.hv)
  | .h n => decide (n.val + 1 ≤ x.sp.hv)
  | _ => true

/-- The codes of the registers of a run. -/
def runRegs (r : LaneOp × Nat) : List Nat := (List.range r.2).filterMap (opReg r.1)

/-- The failed registers that an instruction reads (R372). -/
def failedRead (n : Needs) (x : Ix) : List FailedReg :=
  x.g.failed.filter (fun f => (n.lanes x).getLsbD f.lane && (n.srcs ++ n.srcsBy x).any (fun r => (runRegs r).contains f.reg))

/-- The uniform registers that an operand names. -/
def uniNums (wide : Bool) : UniOp → List Nat
  | .g n => if wide then [n.val, n.val + 1] else [n.val]
  | _ => []

/-- An instruction reads a damaged word of a register file, a predicate or a uniform register (R373). -/
def damagedRead (n : Needs) (x : Ix) : Bool :=
  x.g.badRegs.any (fun k => (n.lanes x).getLsbD (k / 112) && (n.srcs ++ n.srcsBy x).any (fun r => (runRegs r).contains (k % 112)))
    || (n.preds x ++ (if n.guarded && mrGE x.sp.mr then [mrGK x.sp.mr] else [])).any (fun k => x.g.badPreds.getD k 0 &&& x.am != 0)
    || (n.unis ++ n.unisBy x).any (fun k => x.g.badUnis.contains k)

/-- Checks 2 to 4 in order (R76, R372, R373). -/
def preCheck (n : Needs) (x : Ix) : Option Trap :=
  if n.priv && !x.g.priv then some (amTrap x cPRIV)
  else if (match n.major with
      | some m => !roleMay (roleOf x.lr x.g.gix) m
      | none => false) then some (amTrap x cILLEGAL_ROLE)
  else if !((n.srcs ++ n.srcsBy x).all (runFits x) && n.dsts.all (runFits x)) then some (amTrap x cILLEGAL_OPERAND)
  else match n.bad x with
    | some c => some (amTrap x c)
    | none =>
      let fs := failedRead n x
      match fs.find? (fun f => fs.all (fun h => decide (f.lane ≤ h.lane))) with
      | some f => some { cause := if f.token then cPEER_TOKEN else cMEMORY_UNCORRECTABLE,
                         tfm := maskOf (fun i => fs.any (fun h => h.lane == i)), tva := f.va, deferred := true }
      | none => if damagedRead n x then some (amTrap x cMEMORY_UNCORRECTABLE) else none

/-! ### What follows an instruction -/

/-- Where a split goes after its instruction: to the next word, or there with a park whatever bit S holds, to a target, or where its own
effect has left it (`stay`), or nowhere because its effect has replaced the split table (`gone`); or the instruction has not issued
and the scheduler passes the split over (`again`, R261). -/
inductive Next where
  | step
  | park
  | jump (t : Word)
  | stay
  | gone
  | again
deriving DecidableEq, Repr

/-- The PC, the park of bit S and the merge of R161 (R31, R130, R158, R161, R195); a serial turn that ends by EXIT may park its split. -/
def settleSplit (clock e : Nat) (sw : Bool) (nx : Next) (g : Group) : Group :=
  match nx with
  | .again => g
  | .gone =>
    let sp := g.split e
    mergeSame (if sw && sp.ser && sp.st == .ready && g.inFlight sp.lanes then g.setSplit e { sp with st := .sparked } else g)
  | _ =>
    let sp := g.split e
    let pc := match nx with
      | .step | .park => nextPc sp.pc
      | .jump t => t
      | _ => sp.pc
    let st := if (sw || nx == .park) && sp.st == .ready && g.inFlight sp.lanes then SplitSt.sparked else sp.st
    mergeSame (g.setSplit e { sp with pc := pc, st := st, since := clock, ask := none, word := none })

/-- A failure cleared without a read posts UE_UNDELIVERED, and so does the exit of a lane that holds one (R372). -/
def postUndelivered (s : State) (t : Team) (grp : Nat) (exm : Lanes) (old new : List FailedReg) : State :=
  (old.filter (fun f => (!f.read || exm.getLsbD f.lane) && !(new.any (fun h => h.reg == f.reg && h.lane == f.lane)))).foldl
    (fun s f => postAsync s (dieOf t.core) t.ctx 0x22 t.lch f.va f.pa (some t.core) (some grp)) s

/-- The end of a group whose lanes have all exited (R162). Where lanes remain, the entry that has gone may have been the last that
kept its group from arriving, so the barriers are tested (R198, R199). -/
def retireIfDone (s : State) (u : Nat) (nx : Next) : State :=
  match s.group? u with
  | some g =>
    if g.exm = 0xFFFFFFFF && !g.retired then retireGroup s u
    else if nx = .gone then retest s u else s
  | none => s

/-- A SPARKED split whose in-flight set is empty becomes READY in the next clock (R34). -/
def unpark (clock : Nat) (g : Group) : Group :=
  { g with splits := g.splits.map (fun sp =>
      if sp.st == .sparked && !g.inFlight sp.lanes then { sp with st := .ready, since := clock + 1 } else sp) }

/-- What follows the effect of an instruction of a split. -/
def finish (x : Ix) (s : State) (nx : Next) : State :=
  let s1 := s.modGroup x.g.uid (fun g => endHandler x.s.clock (settleSplit x.s.clock x.e x.sw nx g))
  let s2 := match s1.group? x.g.uid with
    | some g => postUndelivered s1 x.t g.uid g.exm x.g.failed g.failed
    | none => s1
  let s3 := retireIfDone s2 x.g.uid nx
  { s3 with
    draws := s3.draws + 1
    passed := if nx = .again then (x.g.uid, x.e) :: s3.passed else s3.passed }

/-- What `exec` of a lane instruction sees: the split that `State.issuer` names, when it is READY and its group may issue. -/
def ixOf (s : State) : Option Ix :=
  match s.issuer with
  | none => none
  | some i =>
    match s.group? i.grp with
    | none => none
    | some g =>
      match s.team? g.team with
      | none => none
      | some t =>
        if g.canIssue && (g.split i.e).st == .ready then
          some { s := s, g := g, t := t, lr := s.lrOf t, e := i.e, sp := g.split i.e, sw := i.sw }
        else none

/-- The failed registers that a deferred trap has delivered are marked read (R372). -/
def markRead (n : Needs) (x : Ix) : Group :=
  { x.g with failed := x.g.failed.map (fun f => if (failedRead n x).contains f then { f with read := true } else f) }

/-- The homes that an instruction has asked have not all answered (Table 20.3). -/
def askWaits (sp : Split) : Bool := sp.ask.any (fun a => !a.reqs.isEmpty)

/-- The trap of a store or reduction that a home has refused or failed (R423, Table 20.3). -/
def askTrap (sp : Split) : Option Trap :=
  if askWaits sp then none else (sp.ask.bind (fun a => a.fail)).map (fun f => { cause := f.1, tfm := f.2.1, tva := f.2.2 })

/-- A cause that a walk, or a read of memory, gives: the walk has ended with it (R400, R371). -/
def endsWalk (c : Nat) : Bool := [cPAGE_NOT_PRESENT, cPAGE_PERMISSION, cFRAME_BUSY, cPEER_TOKEN, cMEMORY_UNCORRECTABLE].contains c

/-- The trap of an instruction's own checks; where a walk awaits an entry nothing is decided, and the split is passed over (R220, R342, R395). -/
def ownTrap (x : Ix) (s : State) (t : Trap) : State :=
  if t.cause = cAWAITED then finish x (askEntry s x.core x.t.ctx t.tva) .again
  else takeTrap (if endsWalk t.cause then failWalk s x.core else s) x.g x.e t

/-- An instruction has passed its checks and resolved its places and operands, and waits for homes (Table 20.3): they are not made again. -/
def keptOf (x : Ix) : Option Kept := x.sp.ask.bind (fun a => a.kept)

/-- The issue of an instruction: checks 2 to 4, then its own check 5 and effect, then what follows. A split that is held for a verdict, or
that a full queue holds back, is passed over (R261, R425); one whose homes have refused it traps at its instruction. -/
def issue (n : Needs) (body : Ix → Except Trap (State × Next)) (s : State) : Host.Outcome State Fault Refusal :=
  match ixOf s with
  | none => .fault .noIssuer
  | some x =>
    match askTrap x.sp with
    | some t => .next (takeTrap s x.g x.e t)
    | none =>
      if askWaits x.sp || n.blocked x then .next (finish x s .again)
      else match (if (keptOf x).isSome then none else preCheck n x) with
        | some t => .next (takeTrap s (if t.deferred then markRead n x else x.g) x.e t)
        | none =>
          match body x with
          | .error t => .next (ownTrap x s t)
          | .ok r => .next (finish x r.1 r.2)

/-- An instruction whose effect is on its group alone, with no check 5. -/
def issueG (n : Needs) (body : Ix → Group × Next) (s : State) : Host.Outcome State Fault Refusal :=
  issue n (fun x => let r := body x; .ok (x.s.setGroup r.1, r.2)) s

/-- A trap of check 5 that names some lanes (R148). -/
def laneTrap (c : Nat) (lanes : Lanes) (tva : Nat) : Trap := { cause := c, tfm := lanes, tva := tva }

/-! ### Releases (R232, R236, R422) -/

/-- The issuing split turned away by channels that bank runs hold (R342): it is passed over, its requests to their rows wait, and the rows that
have been served need no other turn (DEDUCED, log 29). -/
def turnAway (x : Ix) (s : State) (rows : List Nat) (served : List Nat := []) : State × Next :=
  let a := ((s.group? x.g.uid).bind (fun g => (g.split x.e).ask)).getD {}
  let old := a.rows.filter (fun r => rows.contains r.1)
  let new := rows.filter (fun r => !old.any (fun o => o.1 == r))
  (s.fresh.modGroup x.g.uid (fun g =>
    g.setSplit x.e { g.split x.e with ask := some { a with rows := old ++ new.map (fun r => (r, s.uid)), served := a.served ++ served } }), .again)

/-- An instruction that is a release action of a scope: what it must find performed is performed, an eager one with the drain of the
core's dirty lines, and then its own effect follows; until then the split is passed over. One whose own effect is on mirror pages alone goes
behind the group's earlier records in Lintel order and does not wait for them (R437, R444). -/
def released (x : Ix) (scope : Option Nat) (eager : Bool) (k : Ix → State × Next) (mirror : Bool := false) : State × Next :=
  match scope with
  | none => k x
  | some n =>
    let s1 := settle x.s x.g.uid
    let r := if eager then drainServed s1 x.core else (s1, [])
    if !r.2.isEmpty then turnAway x r.1 r.2
    else
      let s2 := if eager then drainCore r.1 x.core else r.1
      match s2.group? x.g.uid with
      | none => (s2, .again)
      | some g =>
        if anyLate g || !(if mirror then outRequests s2 g.uid x.core n else outstanding s2 g.uid x.core n).isEmpty then (s2, .again)
        else k { x with s := s2, g := g }

/-! ### Waiting -/

/-- The issuing split set WAITING under a wait, to continue at a PC (R158, R197); `park` says that it then parks by R31. -/
def waitAt (x : Ix) (g : Group) (wid : Nat) (w : Wait) (cont : Word) (park : Bool) : Group :=
  g.setSplit x.e { g.split x.e with st := .waiting, wait := w, wid := wid, cont := cont, park := park }

/-- What the lanes of AM of the issuing split await put in flight without a register, so that the split parks (R407, R426). -/
def parkOn (x : Ix) (s : State) (v : PVal) : State :=
  s.modGroup x.g.uid (fun g => { g with pends := g.pends ++ [{ load := x.s.uid, reg := zReg, vals := (lanesOf x.am).map (fun i => (i, v)) }] })

/-- The issuing split set WAITING, to continue at the next word. -/
def waitSplit (x : Ix) (g : Group) (wid : Nat) (w : Wait) : Group := waitAt x g wid w (nextPc x.sp.pc) x.sw

end Sys2Proof.Machine
end

