-- ==== Sys2Proof/Machine/Integer.lean ====
section
/-! DEFINITION. Integer, logic, shift, selection, bit-field and immediate instructions of the lanes (04 R89 to R105). -/

namespace Sys2Proof.Machine

open Sys2Proof

/-! ### Types and elements (R35, R71, R89, R90) -/

/-- MR.TY of the issuing split. -/
def Ix.ty (x : Ix) : Nat := mrTY x.sp.mr

/-- MR.SAT of the issuing split. -/
def Ix.sat (x : Ix) : Bool := mrSAT x.sp.mr

/-- Element width of an integer type code (Table 02.1). -/
def intBits (ty : Nat) : Nat := if ty < 2 then 32 else if ty < 4 then 16 else if ty < 6 then 8 else 64

/-- An integer type code is signed. -/
def intSigned (ty : Nat) : Bool := ty % 2 == 0

/-- A 64-bit type. -/
def is64 (ty : Nat) : Bool := ty == 6 || ty == 7

/-- R71: a run field of width 1 under a 64-bit type, `z` excepted. -/
def bad64 (ty : Nat) (fs : List (LaneOp × Nat)) : Bool := is64 ty && fs.any (fun f => f.2 == 1 && f.1 != .z)

/-- The check of an instruction governed by an integer MR.TY (R71, R89). -/
def intBad (fs : List (LaneOp × Nat)) (x : Ix) : Option Nat := illegalIf (decide (8 ≤ x.ty) || bad64 x.ty fs)

/-- Elements of a run of w registers under elements of n bits; the 64-bit zero of `z` is one (R71). -/
def elCount (n w : Nat) : Nat := max 1 (32 * w / n)

/-- `el` of R90. -/
def elInt (sg : Bool) (n v j : Nat) : Int := if sg then sx (elOf n v j) n else (elOf n v j : Int)

/-- The results of the elements of a run: values packed, flags ORed. -/
def packRes (n : Nat) (rs : List (Nat × Nat)) : LaneRes :=
  { val := packEls n (rs.map (·.1)), flags := rs.foldl (fun f r => f ||| r.2) 0 }

/-- An element operation of n bits: signedness, SAT, the elements a, b and d. -/
abbrev ElOp := Bool → Bool → Nat → Int → Int → Int → Nat × Nat

/-- One lane of an element operation on runs already read. -/
def elLane (x : Ix) (w : Nat) (f : ElOp) (va vb vd : Nat) : LaneRes :=
  let n := intBits x.ty
  let sg := intSigned x.ty
  packRes n ((List.range (elCount n w)).map (fun j => f sg x.sat n (elInt sg n va j) (elInt sg n vb j) (elInt sg n vd j)))

/-- The needs of a format A lane instruction. -/
def needs3 (w : Nat) (d a b : LaneOp) (readsD : Bool) (bad : Ix → Option Nat) : Needs :=
  { srcs := [(a, w), (b, w)] ++ (if readsD then [(d, w)] else []), dsts := [(d, w)], bad := bad }

/-- A format A element instruction governed by MR.TY. -/
def intOp3 (w : Width) (d a b : LaneOp) (readsD : Bool) (f : ElOp) : State → Host.Outcome State Fault Refusal :=
  let n := w.regs
  issueG (needs3 n d a b readsD (intBad [(d, n), (a, n), (b, n)])) (fun x =>
    (putResults x d n (fun i => elLane x n f (readRun x 0 a n i) (readRun x 1 b n i)
      (if readsD then readRun x 2 d n i else 0)), .step))

/-- A format N element instruction governed by MR.TY. -/
def intOp2 (w : Width) (d a : LaneOp) (f : ElOp) : State → Host.Outcome State Fault Refusal :=
  let n := w.regs
  issueG { srcs := [(a, n)], dsts := [(d, n)], bad := intBad [(d, n), (a, n)] } (fun x =>
    (putResults x d n (fun i => elLane x n f (readRun x 0 a n i) 0 0), .step))

/-! ### The element operations -/

/-- `fit` (R39, R90). -/
def fit (sg sat : Bool) (n : Nat) (v : Int) : Nat × Nat := fitInt sg sat n v

/-- ADD (R93). -/
def elAdd : ElOp := fun sg sat n a b _ => fit sg sat n (a + b)
/-- SUB (R93). -/
def elSub : ElOp := fun sg sat n a b _ => fit sg sat n (a - b)
/-- RSUB (R93). -/
def elRsub : ElOp := fun sg sat n a b _ => fit sg sat n (b - a)
/-- ABSD (R93). -/
def elAbsd : ElOp := fun _ _ n a b _ => ((a - b).natAbs % 2 ^ n, 0)
/-- MUL (R93). -/
def elMul : ElOp := fun sg sat n a b _ => fit sg sat n (a * b)
/-- MULH (R93). -/
def elMulh : ElOp := fun _ _ n a b _ => (pat (Int.fdiv (a * b) ((2 ^ n : Nat) : Int)) n, 0)
/-- MAD (R93). -/
def elMad : ElOp := fun sg sat n a b d => fit sg sat n (a * b + d)
/-- MADH (R93). -/
def elMadh : ElOp := fun _ _ n a b d => (pat (Int.fdiv (a * b + d) ((2 ^ n : Nat) : Int)) n, 0)
/-- MIN (R96). -/
def elMin : ElOp := fun _ _ n a b _ => (pat (if a ≤ b then a else b) n, 0)
/-- MAX (R96). -/
def elMax : ElOp := fun _ _ n a b _ => (pat (if a ≤ b then b else a) n, 0)

/-- SHL of R95 on n-bit patterns. -/
def shlBits (n x s : Nat) : Nat := if s < n then (x * 2 ^ s) % 2 ^ n else 0
/-- SHR of R95. -/
def shrBits (n x s : Nat) : Nat := if s < n then x / 2 ^ s else 0
/-- SHA of R95. -/
def shaBits (n x s : Nat) : Nat :=
  pat (if s < n then Int.fdiv (sx x n) ((2 ^ s : Nat) : Int) else if sx x n < 0 then -1 else 0) n
/-- ROT of R95. -/
def rotBits (n x s : Nat) : Nat :=
  let t := s % n
  (x * 2 ^ t + x / 2 ^ (n - t)) % 2 ^ n

/-- A shift as an element operation (R95). -/
def elShift (f : Nat → Nat → Nat → Nat) : ElOp := fun _ _ n a b _ => (f n (pat a n) (pat b n), 0)

/-! ### Register operations (R94, R97 to R99) -/

/-- One lane of an operation on each 32-bit register of runs already read. -/
def regLane (w : Nat) (f : Word → Word → Word → Word) (va vb vd : Nat) : LaneRes :=
  { val := mapEls 32 w (fun k => (f (BitVec.ofNat 32 (elOf 32 va k)) (BitVec.ofNat 32 (elOf 32 vb k))
      (BitVec.ofNat 32 (elOf 32 vd k))).toNat) }

/-- A format A instruction on 32-bit registers. -/
def regOp3 (w : Width) (d a b : LaneOp) (readsD : Bool) (f : Word → Word → Word → Word) :
    State → Host.Outcome State Fault Refusal :=
  let n := w.regs
  issueG (needs3 n d a b readsD (fun _ => none)) (fun x =>
    (putResults x d n (fun i => regLane n f (readRun x 0 a n i) (readRun x 1 b n i)
      (if readsD then readRun x 2 d n i else 0)), .step))

/-- A format N instruction on 32-bit registers. -/
def regOp2 (w : Width) (d a : LaneOp) (f : Word → Word) : State → Host.Outcome State Fault Refusal :=
  let n := w.regs
  issueG { srcs := [(a, n)], dsts := [(d, n)] } (fun x =>
    (putResults x d n (fun i => regLane n (fun v _ _ => f v) (readRun x 0 a n i) 0 0), .step))

/-- The position, length and top of IBITF (R98): pos, whether len is 0, and the width top − pos. -/
def bitField (b : Word) : Nat × Bool × Nat :=
  let pos := b.toNat % 32
  let len := bitsOf b.toNat 13 8
  (pos, len == 0, min (pos + len) 32 - pos)

/-- BFX (R98). -/
def bfxWord (a b : Word) : Word :=
  let f := bitField b
  if f.2.1 then 0 else BitVec.ofNat 32 ((a.toNat / 2 ^ f.1) % 2 ^ f.2.2)

/-- BFXS (R98). -/
def bfxsWord (a b : Word) : Word :=
  let f := bitField b
  if f.2.1 then 0 else BitVec.ofNat 32 (pat (sx (a.toNat / 2 ^ f.1) f.2.2) 32)

/-- BFI (R98). -/
def bfiWord (a b d : Word) : Word :=
  let f := bitField b
  let m : Word := if f.2.1 then 0 else BitVec.ofNat 32 ((2 ^ f.2.2 - 1) * 2 ^ f.1)
  (d &&& ~~~m) ||| (BitVec.ofNat 32 (a.toNat * 2 ^ f.1) &&& m)

/-- One byte of PERM (R98). -/
def permByte (a : Word) (c : Nat) : Nat :=
  let y := elOf 8 a.toNat (c % 4)
  if bitOf c 3 then 0 else if bitOf c 2 then (if 128 ≤ y then 255 else 0) else y

/-- PERM (R98). -/
def permWord (a b : Word) : Word := BitVec.ofNat 32 (mapEls 8 4 (fun j => permByte a (elOf 4 b.toNat j)))

/-- Leading zero bits of a register (Table 04.3). -/
def clzWord (a : Word) : Word := BitVec.ofNat 32 (if a = 0 then 32 else 31 - Nat.log2 a.toNat)

/-- One bits of a register (Table 04.3). -/
def popcWord (a : Word) : Word := BitVec.ofNat 32 ((lanesOf a).length)

/-- Bits reversed (Table 04.3). -/
def brevWord (a : Word) : Word := BitVec.ofNat 32 (mapEls 1 32 (fun k => elOf 1 a.toNat (31 - k)))

/-- Bytes reversed (Table 04.3). -/
def bswapWord (a : Word) : Word := BitVec.ofNat 32 (mapEls 8 4 (fun k => elOf 8 a.toNat (3 - k)))

/-- ANDN (R94). -/
def andnWord (a b : Word) : Word := a &&& ~~~b

/-! ### IADD, IMUL, ILOGIC, ISHIFT, ISEL, IBITF -/

/-- ADD (R93). -/
def execAdd (w : Width) (d a b : LaneOp) (s : State) : Host.Outcome State Fault Refusal := intOp3 w d a b false elAdd s
/-- SUB (R93). -/
def execSub (w : Width) (d a b : LaneOp) (s : State) : Host.Outcome State Fault Refusal := intOp3 w d a b false elSub s
/-- RSUB (R93). -/
def execRsub (w : Width) (d a b : LaneOp) (s : State) : Host.Outcome State Fault Refusal := intOp3 w d a b false elRsub s
/-- ABSD (R93). -/
def execAbsd (w : Width) (d a b : LaneOp) (s : State) : Host.Outcome State Fault Refusal := intOp3 w d a b false elAbsd s
/-- MUL (R93). -/
def execMul (w : Width) (d a b : LaneOp) (s : State) : Host.Outcome State Fault Refusal := intOp3 w d a b false elMul s
/-- MULH (R93). -/
def execMulh (w : Width) (d a b : LaneOp) (s : State) : Host.Outcome State Fault Refusal := intOp3 w d a b false elMulh s
/-- MAD (R91, R93). -/
def execMad (w : Width) (d a b : LaneOp) (s : State) : Host.Outcome State Fault Refusal := intOp3 w d a b true elMad s
/-- MADH (R91, R93). -/
def execMadh (w : Width) (d a b : LaneOp) (s : State) : Host.Outcome State Fault Refusal := intOp3 w d a b true elMadh s
/-- AND (R94). -/
def execAnd (w : Width) (d a b : LaneOp) (s : State) : Host.Outcome State Fault Refusal :=
  regOp3 w d a b false (fun p q _ => p &&& q) s
/-- OR (R94). -/
def execOr (w : Width) (d a b : LaneOp) (s : State) : Host.Outcome State Fault Refusal :=
  regOp3 w d a b false (fun p q _ => p ||| q) s
/-- XOR (R94). -/
def execXor (w : Width) (d a b : LaneOp) (s : State) : Host.Outcome State Fault Refusal :=
  regOp3 w d a b false (fun p q _ => p ^^^ q) s
/-- ANDN (R94). -/
def execAndn (w : Width) (d a b : LaneOp) (s : State) : Host.Outcome State Fault Refusal :=
  regOp3 w d a b false (fun p q _ => andnWord p q) s
/-- SHL (R95). -/
def execShl (w : Width) (d a b : LaneOp) (s : State) : Host.Outcome State Fault Refusal :=
  intOp3 w d a b false (elShift shlBits) s
/-- SHR (R95). -/
def execShr (w : Width) (d a b : LaneOp) (s : State) : Host.Outcome State Fault Refusal :=
  intOp3 w d a b false (elShift shrBits) s
/-- SHA (R95). -/
def execSha (w : Width) (d a b : LaneOp) (s : State) : Host.Outcome State Fault Refusal :=
  intOp3 w d a b false (elShift shaBits) s
/-- ROT (R95). -/
def execRot (w : Width) (d a b : LaneOp) (s : State) : Host.Outcome State Fault Refusal :=
  intOp3 w d a b false (elShift rotBits) s
/-- MIN (R96). -/
def execMin (w : Width) (d a b : LaneOp) (s : State) : Host.Outcome State Fault Refusal := intOp3 w d a b false elMin s
/-- MAX (R96). -/
def execMax (w : Width) (d a b : LaneOp) (s : State) : Host.Outcome State Fault Refusal := intOp3 w d a b false elMax s

/-- The issuing split with its guard off: act is AM. -/
def Ix.unguarded (x : Ix) : Ix := { x with sp := { x.sp with mr := x.sp.mr &&& ~~~(0x10 : DWord) } }

/-- The selector of a lane (R97). -/
def selector (x : Ix) (i : Nat) : Bool := (x.g.pred (mrGK x.sp.mr)).getLsbD i != mrGN x.sp.mr

/-- SEL (R24, R97): in every lane of AM. -/
def execSel (w : Width) (d a b : LaneOp) (s : State) : Host.Outcome State Fault Refusal :=
  let n := w.regs
  issueG { srcs := [(a, n), (b, n)], dsts := [(d, n)], lanes := Ix.am, guarded := false, preds := fun x => [mrGK x.sp.mr] }
    (fun x => (putResults x.unguarded d n (fun i =>
      { val := if selector x i then readRun x 0 a n i else readRun x 1 b n i }), .step)) s

/-- SELZ (R97). -/
def execSelz (w : Width) (d a b : LaneOp) (s : State) : Host.Outcome State Fault Refusal :=
  regOp3 w d a b false (fun p q _ => if q = 0 then 0 else p) s
/-- BFX (R98). -/
def execBfx (w : Width) (d a b : LaneOp) (s : State) : Host.Outcome State Fault Refusal :=
  regOp3 w d a b false (fun p q _ => bfxWord p q) s
/-- BFXS (R98). -/
def execBfxs (w : Width) (d a b : LaneOp) (s : State) : Host.Outcome State Fault Refusal :=
  regOp3 w d a b false (fun p q _ => bfxsWord p q) s
/-- BFI (R91, R98). -/
def execBfi (w : Width) (d a b : LaneOp) (s : State) : Host.Outcome State Fault Refusal :=
  regOp3 w d a b true (fun p q r => bfiWord p q r) s
/-- PERM (R98). -/
def execPerm (w : Width) (d a b : LaneOp) (s : State) : Host.Outcome State Fault Refusal :=
  regOp3 w d a b false (fun p q _ => permWord p q) s

/-! ### Compares (R104, R105) -/

/-- A condition of Table 04.6 between two elements of n bits. -/
def relHolds (r : Rel) (n : Nat) (a b : Int) : Bool :=
  match r with
  | .eq => a == b
  | .ne => a != b
  | .lt => decide (a < b)
  | .le => decide (a ≤ b)
  | .gt => decide (b < a)
  | .ge => decide (b ≤ a)
  | .tst => (pat a n &&& pat b n) != 0
  | .ntst => (pat a n &&& pat b n) == 0

/-- The combining codes of Table 04.6: the new predicate of the lanes of a mask. -/
def combine (cb : Comb) (old new : Lanes) : Lanes :=
  match cb with
  | .set => new
  | .and => old &&& new
  | .or => old ||| new
  | .xor => old ^^^ new

/-- A predicate result written in the lanes of act. -/
def putPred (x : Ix) (kd : Nat) (cb : Comb) (new : Lanes) : Group := x.g.setPred kd x.act (combine cb (x.g.pred kd) new)

/-- The predicates a combining compare reads. -/
def combReads (cb : Comb) (kd : Nat) : List Nat :=
  match cb with
  | .set => []
  | _ => [kd]

/-- The type and width check of an integer compare (R71, R104). -/
def cmpBad (wide : Bool) (fs : List LaneOp) (x : Ix) : Option Nat :=
  illegalIf (decide (8 ≤ x.ty) || (wide && !is64 x.ty) || (!wide && is64 x.ty && fs.any (fun f => f != .z)))

/-- The condition over the elements of two runs (R104). -/
def cmpLane (x : Ix) (any : Bool) (rel : Rel) (va : Nat) (vb : Nat → Int) : Bool :=
  let n := intBits x.ty
  let cs := (List.range (elCount n 1)).map (fun j => relHolds rel n (elInt (intSigned x.ty) n va j) (vb j))
  if any then cs.any id else cs.all id

/-- ICMP (R104, R105). -/
def execIcmp (wide any : Bool) (rel : Rel) (cb : Comb) (kd : Fin 8) (a b : LaneOp) (s : State) : Host.Outcome State Fault Refusal :=
  let w := if wide then 2 else 1
  issueG { srcs := [(a, w), (b, w)], preds := fun _ => combReads cb kd.val, bad := cmpBad wide [a, b] } (fun x =>
    (putPred x kd.val cb (maskOf (fun i => x.act.getLsbD i && (
      let vb := readRun x 1 b w i
      cmpLane x any rel (readRun x 0 a w i) (fun j => elInt (intSigned x.ty) (intBits x.ty) vb j)))), .step)) s

/-- `wrap` of an exact integer as a value of a type (R39). -/
def wrapInt (sg : Bool) (n : Nat) (v : Int) : Int := if sg then sx (pat v n) n else (pat v n : Int)

/-- CMPI (R105). -/
def execCmpi (wide any : Bool) (rel : Rel) (kd : Fin 8) (a : LaneOp) (i9 : BitVec 9) (s : State) : Host.Outcome State Fault Refusal :=
  let w := if wide then 2 else 1
  issueG { srcs := [(a, w)], bad := cmpBad wide [a] } (fun x =>
    (putPred x kd.val .set (maskOf (fun i => x.act.getLsbD i &&
      cmpLane x any rel (readRun x 0 a w i) (fun _ => wrapInt (intSigned x.ty) (intBits x.ty) i9.toInt))), .step)) s

/-! ### IUN (R99 to R101) -/

/-- MOV (R99). -/
def execMov (w : Width) (d a : LaneOp) (s : State) : Host.Outcome State Fault Refusal := regOp2 w d a id s
/-- NOT (R99). -/
def execNot (w : Width) (d a : LaneOp) (s : State) : Host.Outcome State Fault Refusal := regOp2 w d a (fun v => ~~~v) s
/-- NEG (R99, R100). -/
def execNeg (w : Width) (d a : LaneOp) (s : State) : Host.Outcome State Fault Refusal :=
  intOp2 w d a (fun sg sat n a _ _ => fit sg sat n (-a)) s
/-- ABS (R99, R100). -/
def execAbs (w : Width) (d a : LaneOp) (s : State) : Host.Outcome State Fault Refusal :=
  intOp2 w d a (fun sg sat n a _ _ => fit sg sat n (if a < 0 then -a else a)) s
/-- CLZ (R99). -/
def execClz (w : Width) (d a : LaneOp) (s : State) : Host.Outcome State Fault Refusal := regOp2 w d a clzWord s
/-- POPC (R99). -/
def execPopc (w : Width) (d a : LaneOp) (s : State) : Host.Outcome State Fault Refusal := regOp2 w d a popcWord s
/-- BREV (R99). -/
def execBrev (w : Width) (d a : LaneOp) (s : State) : Host.Outcome State Fault Refusal := regOp2 w d a brevWord s
/-- BSWAP (R99). -/
def execBswap (w : Width) (d a : LaneOp) (s : State) : Host.Outcome State Fault Refusal := regOp2 w d a bswapWord s

/-- KTOI (R99). -/
def execKtoi (d : LaneOp) (k : Fin 8) (s : State) : Host.Outcome State Fault Refusal :=
  issueG { dsts := [(d, 1)], preds := fun _ => [k.val] } (fun x =>
    (putResults x d 1 (fun i => { val := if (x.g.pred k.val).getLsbD i then 1 else 0 }), .step)) s

/-- ITOK (R99, R100). -/
def execItok (kd : Fin 8) (a : LaneOp) (s : State) : Host.Outcome State Fault Refusal :=
  issueG { srcs := [(a, 1)] } (fun x =>
    (putPred x kd.val .set (maskOf (fun i => readRun x 0 a 1 i != 0)), .step)) s

/-- KGET (R99). -/
def execKget (d : LaneOp) (s : State) : Host.Outcome State Fault Refusal :=
  issueG { dsts := [(d, 1)], preds := fun _ => List.range 8 } (fun x =>
    (putResults x d 1 (fun i => { val := mapEls 1 8 (fun k => if (x.g.pred k).getLsbD i then 1 else 0) }), .step)) s

/-- KPUT (R99, R101). -/
def execKput (a : LaneOp) (s : State) : Host.Outcome State Fault Refusal :=
  issueG { srcs := [(a, 1)] } (fun x =>
    ((List.range 8).foldl (fun g m => g.setPred m x.act (maskOf (fun i => bitOf (readRun x 0 a 1 i) m))) x.g, .step)) s

/-- MOVG (R99, R100). -/
def execMovg (wide : Bool) (d : LaneOp) (g : UniOp) (s : State) : Host.Outcome State Fault Refusal :=
  let w := if wide then 2 else 1
  issueG { dsts := [(d, w)], unis := uniNums wide g } (fun x =>
    (putResults x d w (fun _ => { val := readUni x wide g }), .step)) s

/-- SEXT (R99); m is the width less one. -/
def execSext (w : Width) (d a : LaneOp) (m : Fin 32) (s : State) : Host.Outcome State Fault Refusal :=
  regOp2 w d a (fun v => BitVec.ofNat 32 (pat (sx v.toNat (m.val + 1)) 32)) s

/-- ZEXT (R99); m is the width less one. -/
def execZext (w : Width) (d a : LaneOp) (m : Fin 32) (s : State) : Host.Outcome State Fault Refusal :=
  regOp2 w d a (fun v => BitVec.ofNat 32 (v.toNat % 2 ^ (m.val + 1))) s

/-! ### Immediate forms (R102, R103) -/

/-- ADDI (R102). -/
def execAddi (w : Width) (d a : LaneOp) (i9 : BitVec 9) (s : State) : Host.Outcome State Fault Refusal :=
  intOp2 w d a (fun sg sat n a _ _ => fit sg sat n (a + i9.toInt)) s
/-- SHLI (R102). -/
def execShli (w : Width) (d a : LaneOp) (m : Fin 64) (s : State) : Host.Outcome State Fault Refusal :=
  intOp2 w d a (fun _ _ n a _ _ => (shlBits n (pat a n) m.val, 0)) s
/-- SHRI (R102). -/
def execShri (w : Width) (d a : LaneOp) (m : Fin 64) (s : State) : Host.Outcome State Fault Refusal :=
  intOp2 w d a (fun _ _ n a _ _ => (shrBits n (pat a n) m.val, 0)) s
/-- SHAI (R102). -/
def execShai (w : Width) (d a : LaneOp) (m : Fin 64) (s : State) : Host.Outcome State Fault Refusal :=
  intOp2 w d a (fun _ _ n a _ _ => (shaBits n (pat a n) m.val, 0)) s
/-- ROTI (R102). -/
def execRoti (w : Width) (d a : LaneOp) (m : Fin 64) (s : State) : Host.Outcome State Fault Refusal :=
  intOp2 w d a (fun _ _ n a _ _ => (rotBits n (pat a n) m.val, 0)) s
/-- ANDI (R102). -/
def execAndi (w : Width) (d a : LaneOp) (i7 : BitVec 7) (s : State) : Host.Outcome State Fault Refusal :=
  regOp2 w d a (fun v => v &&& i7.signExtend 32) s
/-- ORI (R102). -/
def execOri (w : Width) (d a : LaneOp) (i7 : BitVec 7) (s : State) : Host.Outcome State Fault Refusal :=
  regOp2 w d a (fun v => v ||| i7.signExtend 32) s
/-- XORI (R102). -/
def execXori (w : Width) (d a : LaneOp) (i7 : BitVec 7) (s : State) : Host.Outcome State Fault Refusal :=
  regOp2 w d a (fun v => v ^^^ i7.signExtend 32) s
/-- ANDNI (R102). -/
def execAndni (w : Width) (d a : LaneOp) (i7 : BitVec 7) (s : State) : Host.Outcome State Fault Refusal :=
  regOp2 w d a (fun v => andnWord v (i7.signExtend 32)) s

/-- MOVI's placement of I16 over an old value (Table 04.5). -/
def placeImm (h : Nat) (i16 : BitVec 16) (old : Word) : Word :=
  if h = 0 then i16.signExtend 32
  else if h = 1 then i16.zeroExtend 32
  else if h = 2 then (i16.zeroExtend 32 <<< 16) ||| (old &&& 0xFFFF)
  else i16.zeroExtend 32 ||| (old &&& 0xFFFF0000)

/-- A MOVI form (R103). -/
def moviOp (h : Nat) (d : LaneOp) (i16 : BitVec 16) : State → Host.Outcome State Fault Refusal :=
  issueG { srcs := if 2 ≤ h then [(d, 1)] else [], dsts := [(d, 1)] } (fun x =>
    (putResults x d 1 (fun i => { val := (placeImm h i16 (if 2 ≤ h then readWord x 2 d i 0 else 0)).toNat }), .step))

/-- MOVI (R103). -/
def execMovi (d : LaneOp) (i16 : BitVec 16) (s : State) : Host.Outcome State Fault Refusal := moviOp 0 d i16 s
/-- MOVI.Z (R103). -/
def execMoviZ (d : LaneOp) (i16 : BitVec 16) (s : State) : Host.Outcome State Fault Refusal := moviOp 1 d i16 s
/-- MOVI.H (R91, R103). -/
def execMoviH (d : LaneOp) (i16 : BitVec 16) (s : State) : Host.Outcome State Fault Refusal := moviOp 2 d i16 s
/-- MOVI.L (R91, R103). -/
def execMoviL (d : LaneOp) (i16 : BitVec 16) (s : State) : Host.Outcome State Fault Refusal := moviOp 3 d i16 s

/-! ### MODE and KOP (R23, R106 to R108) -/

/-- A new quarter of MR that MODE refuses (R23). -/
def modeBad (q : Nat) (i16 : BitVec 16) : Bool :=
  let v := i16.toNat
  if q = 0 then bitOf v 15 || decide (14 ≤ bitsOf v 9 5) || decide (6 ≤ bitsOf v 12 10)
  else if q = 1 then bitsOf v 15 13 != 0
  else if q = 2 then bitsOf v 15 12 != 0 || bitsOf v 11 10 == 3
  else bitsOf v 15 6 != 0 || !decide (bitsOf v 5 0 % 8 = 0 ∧ bitsOf v 5 0 ≤ 56)

/-- A quarter of MR replaced (R22). -/
def setQuarter (mr : DWord) (q : Nat) (i16 : BitVec 16) : DWord :=
  (mr &&& ~~~((0xFFFF : DWord) <<< (16 * q))) ||| ((i16.zeroExtend 64 : DWord) <<< (16 * q))

/-- MODE (R22, R23, R108). -/
def execMode (q : Fin 4) (i16 : BitVec 16) (s : State) : Host.Outcome State Fault Refusal :=
  issueG { guarded := false, bad := fun _ => illegalIf (modeBad q.val i16) } (fun x =>
    (x.g.setSplit x.e { x.sp with mr := setQuarter x.sp.mr q.val i16 }, .step)) s

/-- A predicate, negated or not. -/
def predOr (g : Group) (neg : Bool) (k : Nat) : Lanes := if neg then ~~~g.pred k else g.pred k

/-- A KOP (R106). -/
def kop (kd : Fin 8) (na : Bool) (ka : Fin 8) (nb : Bool) (kb : Fin 8) (f : Lanes → Lanes → Lanes) :
    State → Host.Outcome State Fault Refusal :=
  issueG { preds := fun _ => [ka.val, kb.val] } (fun x =>
    (putPred x kd.val .set (f (predOr x.g na ka.val) (predOr x.g nb kb.val)), .step))

/-- KAND (R106). -/
def execKand (kd : Fin 8) (na : Bool) (ka : Fin 8) (nb : Bool) (kb : Fin 8) (s : State) : Host.Outcome State Fault Refusal :=
  kop kd na ka nb kb (fun p q => p &&& q) s
/-- KOR (R106). -/
def execKor (kd : Fin 8) (na : Bool) (ka : Fin 8) (nb : Bool) (kb : Fin 8) (s : State) : Host.Outcome State Fault Refusal :=
  kop kd na ka nb kb (fun p q => p ||| q) s
/-- KXOR (R106). -/
def execKxor (kd : Fin 8) (na : Bool) (ka : Fin 8) (nb : Bool) (kb : Fin 8) (s : State) : Host.Outcome State Fault Refusal :=
  kop kd na ka nb kb (fun p q => p ^^^ q) s
/-- KANDN (R106). -/
def execKandn (kd : Fin 8) (na : Bool) (ka : Fin 8) (nb : Bool) (kb : Fin 8) (s : State) : Host.Outcome State Fault Refusal :=
  kop kd na ka nb kb (fun p q => p &&& ~~~q) s

end Sys2Proof.Machine
end

