-- ==== Sys2Proof/Machine/Trans.lean ====
section
/-! DEFINITION. The functions of FUN whose results are faithful, and the square root (05 R120 to R122): each exact value is formed as a
rational that lies in the same gap between representable values as the exact real, and the choice of R121 is Config's (log 7). -/

namespace Sys2Proof.Machine

open Sys2Proof

/-- Bits of fixed-point precision with which a transcendental value is formed (log 7). -/
def fixBits : Nat := 640

/-- 1 in fixed point. -/
def fixOne : Nat := 2 ^ fixBits

/-- The integer square root of n, by k bits from the top. -/
def isqrtBits : Nat → Nat → Nat → Nat
  | 0, _, r => r
  | k + 1, n, r => if (r + 2 ^ k) * (r + 2 ^ k) ≤ n then isqrtBits k n (r + 2 ^ k) else isqrtBits k n r

/-- The integer square root. -/
def isqrt (n : Nat) : Nat := isqrtBits (Nat.log2 n / 2 + 1) n 0

/-- A partial sum of a series whose next term is the last one multiplied by x and divided by a step's divisor, all in fixed point;
`sub` says that the terms alternate. -/
def series (x : Int) (dv : Nat → Nat) (alt : Bool) : Nat → Nat → Int → Int → Int
  | 0, _, _, acc => acc
  | n + 1, k, term, acc =>
    let t := term * x / (fixOne : Int) / (dv k : Int)
    let t' := if alt then -t else t
    series x dv alt n (k + 1) t' (acc + t')

/-- The sum of z^(2k+1) / (2k+1), with or without alternating signs: atanh and atan of a small z in fixed point. -/
def arcSeries (z2 : Int) (alt : Bool) : Nat → Nat → Int → Int → Int
  | 0, _, _, acc => acc
  | n + 1, k, pw, acc =>
    let p := pw * z2 / (fixOne : Int)
    let p' := if alt then -p else p
    arcSeries z2 alt n (k + 1) p' (acc + p' / (2 * k + 1 : Nat))

/-- atanh of a fixed-point z of magnitude at most 1/3. -/
def atanhFix (z : Int) : Int := arcSeries (z * z / (fixOne : Int)) false 210 1 z z

/-- atan of a fixed-point z of magnitude at most 1/5. -/
def atanFix (z : Int) : Int := arcSeries (z * z / (fixOne : Int)) true 150 1 z z

/-- ln 2 in fixed point: 2 atanh(1/3). -/
def ln2Fix : Int := 2 * atanhFix ((fixOne / 3 : Nat) : Int)

/-- π in fixed point, by Machin's formula. -/
def piFix : Int := 16 * atanFix ((fixOne / 5 : Nat) : Int) - 4 * atanFix ((fixOne / 239 : Nat) : Int)

/-- e^t − 1 of a fixed-point t of magnitude at most 1. -/
def expm1Fix (t : Int) : Int := series t (fun k => k) false 140 1 (fixOne : Int) 0

/-- sin t of a fixed-point t from 0 to π/2. -/
def sinFix (t : Int) : Int :=
  series (t * t / (fixOne : Int)) (fun k => (2 * k) * (2 * k + 1)) true 75 1 t t

/-- A fixed-point value that lies strictly between representable values, as a real. -/
def offGrid (neg : Bool) (v : Int) : FVal := .fin neg (2 * v.toNat + 1) (2 * fixOne)

/-- num/den in fixed point. -/
def toFix (num den : Nat) : Int := ((num * fixOne / den : Nat) : Int)

/-- 2^x for a real x = ±num/den that is no integer, when −400 < x < 400. -/
def exp2Val (neg : Bool) (num den : Nat) : FVal :=
  let f : Nat := num % den
  let whole : Int := if neg then -((num / den : Nat) : Int) - 1 else ((num / den : Nat) : Int)
  let frac : Int := if neg then toFix (den - f) den else toFix f den
  let m := (fixOne : Int) + expm1Fix (frac * ln2Fix / (fixOne : Int))
  let p := scale2 (2 * m.toNat + 1) (2 * fixOne) whole
  .fin false p.1 p.2

/-- log2 of a positive real that is no power of 2. -/
def log2Val (num den : Nat) : FVal :=
  let e := floorLog2 num den
  let p := scale2 num den (-e)
  let z := toFix (p.1 - p.2) (p.1 + p.2)
  let v := e * (fixOne : Int) + 2 * atanhFix z * (fixOne : Int) / ln2Fix
  if v < 0 then offGrid true (-v) else offGrid false v

/-- sin(π × a) for a real a = num/den ≥ 0 whose double is no integer. -/
def sinPiVal (neg : Bool) (num den : Nat) : FVal :=
  let a := num % (2 * den)
  let flip := decide (den ≤ a)
  let b := a % den
  let c := if den < 2 * b then den - b else b
  offGrid (neg != flip) (sinFix (toFix c den * piFix / (fixOne : Int)))

/-- tanh of a real num/den > 0. -/
def tanhVal (neg : Bool) (num den : Nat) : FVal :=
  let o : Int := (fixOne : Int)
  if 200 * den ≤ num then offGrid neg (o - 2)
  else if 2 * num ≤ den then
    let m := expm1Fix (toFix (2 * num) den)
    offGrid neg (m * o / (m + 2 * o))
  else
    let t := toFix (2 * num) den
    let k := t / ln2Fix
    let m := o + expm1Fix (t - k * ln2Fix)
    let big := m * ((2 ^ k.toNat : Nat) : Int)
    offGrid neg (o - 2 * o * o / (big + o))

/-- √(num/den) of a positive real: exact when it is rational, else a real in the same gap of a grid far finer than any format's. -/
def sqrtVal (num den : Nat) : FVal :=
  let p := num * 4 ^ 320 / den
  let r := isqrt p
  if r * r * den = num * 4 ^ 320 then .fin false r (2 ^ 320) else .fin false (2 * r + 1) (2 ^ 321)

/-- A faithful result for an exact value that is not representable (R121): the lower or upper neighbour as Config chooses, with the
overflow, underflow and inexact flags. -/
def faithful (f : FFmt) (sat : Bool) (op input : Nat) (v : FVal) : Rnd :=
  match v with
  | .fin s num den =>
    let x := floorLog2 num den
    let qe := max x (eminOf f) - fracBits f
    let lo := (roundMag .rtz s 0 num den qe).1
    let top := decodeF f (maxFinite f)
    if ltF top (.fin false num den) then
      ⟨if sat then withSign f s (maxFinite f) else infResult f false s, flOF + flNX⟩
    else
      let k := if Config.faithfulUp op (fmtKey f) input then lo + 1 else lo
      ⟨withSign f s (encMag f k qe), flNX + (if x < eminOf f then flUF else 0)⟩
  | v => roundF f .rne sat 0 v

/-- A value that is representable is returned as it is; any other by `faithful` (R121). -/
def exactOr (f : FFmt) (sat : Bool) (op input : Nat) (v : FVal) : Rnd :=
  let r := roundF f .rtz false 0 v
  if r.flags = 0 then r else faithful f sat op input v

/-- The value −∞ or +∞ of a division by zero (R42). -/
def dzInf (f : FFmt) (neg : Bool) : Rnd := ⟨infResult f false neg, flDZ⟩

/-- An invalid operation (R42). -/
def invalidR (f : FFmt) : Rnd := ⟨canonNaN f, flNV⟩

/-- An exact small integer of a format. -/
def exactInt (f : FFmt) (neg : Bool) (n : Nat) : Rnd := ⟨(roundF f .rtz false 0 (.fin neg n 1)).bits, 0⟩

/-- FRSQ (R120 to R122); v is the operand, `input` its encoding. -/
def frsqF (f : FFmt) (sat : Bool) (input : Nat) (v : FVal) : Rnd :=
  match v with
  | .nan => ⟨canonNaN f, 0⟩
  | .inf s => if s then invalidR f else ⟨0, 0⟩
  | .fin s num den => if num = 0 then dzInf f s else if s then invalidR f else exactOr f sat 3 input (sqrtVal den num)

/-- FEXP2 (R120 to R122). -/
def fexp2F (f : FFmt) (sat : Bool) (input : Nat) (v : FVal) : Rnd :=
  match v with
  | .nan => ⟨canonNaN f, 0⟩
  | .inf s => if s then ⟨0, 0⟩ else ⟨infResult f false false, 0⟩
  | .fin s num den =>
    if num = 0 then exactInt f false 1
    else if 400 * den ≤ num then faithful f sat 5 input (if s then dyadic false 1 (-400) else dyadic false 1 400)
    else if num % den = 0 then
      let k : Int := if s then -((num / den : Nat) : Int) else ((num / den : Nat) : Int)
      exactOr f sat 5 input (dyadic false 1 k)
    else faithful f sat 5 input (exp2Val s num den)

/-- FLOG2 (R120 to R122). The zero that x = 1 gives is +0 under every rounding mode: Table 05.5 gives k alone (DESIGN CHOICE, log 64). -/
def flog2F (f : FFmt) (sat : Bool) (input : Nat) (v : FVal) : Rnd :=
  match v with
  | .nan => ⟨canonNaN f, 0⟩
  | .inf s => if s then invalidR f else ⟨infResult f false false, 0⟩
  | .fin s num den =>
    if num = 0 then dzInf f true
    else if s then invalidR f
    else
      let e := floorLog2 num den
      let p := scale2 num den (-e)
      if p.1 = p.2 then exactInt f (decide (e < 0)) e.natAbs else faithful f sat 6 input (log2Val num den)

/-- FSIN (R120 to R122). -/
def fsinF (f : FFmt) (sat : Bool) (input : Nat) (v : FVal) : Rnd :=
  match v with
  | .nan => ⟨canonNaN f, 0⟩
  | .inf _ => invalidR f
  | .fin s num den =>
    if num % den = 0 then ⟨withSign f s 0, 0⟩
    else if 2 * num % den = 0 then exactInt f (s != decide (den < num % (2 * den))) 1
    else faithful f sat 7 input (sinPiVal s num den)

/-- FCOS (R120 to R122): cos(π x) is sin(π (|x| + 1/2)). -/
def fcosF (f : FFmt) (sat : Bool) (input : Nat) (v : FVal) : Rnd :=
  match v with
  | .nan => ⟨canonNaN f, 0⟩
  | .inf _ => invalidR f
  | .fin _ num den =>
    if num % den = 0 then exactInt f (num / den % 2 == 1) 1
    else if 2 * num % den = 0 then ⟨0, 0⟩
    else faithful f sat 8 input (sinPiVal false (2 * num + den) (2 * den))

/-- FTANH (R120 to R122). -/
def ftanhF (f : FFmt) (sat : Bool) (input : Nat) (v : FVal) : Rnd :=
  match v with
  | .nan => ⟨canonNaN f, 0⟩
  | .inf s => exactInt f s 1
  | .fin s num den => if num = 0 then ⟨withSign f s 0, 0⟩ else faithful f sat 9 input (tanhVal s num den)

/-- FRCP (R120, R122): the exact reciprocal, before rounding. -/
def rcpPre (v : FVal) : Pre :=
  match v with
  | .nan => ⟨.nan, 0⟩
  | .inf s => ⟨.fin s 0 1, 0⟩
  | .fin s num den => if num = 0 then ⟨.inf s, flDZ⟩ else ⟨.fin s den num, 0⟩

/-- FSQRT (R120, R122): the square root, before rounding. -/
def sqrtPre (v : FVal) : Pre :=
  match v with
  | .nan => ⟨.nan, 0⟩
  | .inf s => if s then ⟨.nan, flNV⟩ else ⟨.inf false, 0⟩
  | .fin s num den => if num = 0 then ⟨.fin s 0 1, 0⟩ else if s then ⟨.nan, flNV⟩ else ⟨sqrtVal num den, 0⟩

end Sys2Proof.Machine
end

