-- ==== Sys2Proof/Machine/Float.lean ====
section
/-! DEFINITION. Floating-point, conversion, packing and dot-product instructions of the lanes (05). -/

namespace Sys2Proof.Machine

open Sys2Proof

/-- The floating-point format of a type code (Table 02.1). -/
def fmtOf (ty : Nat) : FFmt :=
  if ty = 8 then .fp32 else if ty = 9 then .bf16 else if ty = 10 then .fp16
  else if ty = 11 then .e4m3 else if ty = 12 then .e5m2 else .e2m1

/-- The element width of a type code (Table 02.1). -/
def tyBits (ty : Nat) : Nat := if ty < 8 then intBits ty else fmtBits (fmtOf ty)

/-- MR.RM as a mode. -/
def Ix.rm (x : Ix) : RMode := rmodeOf (mrRM x.sp.mr)

/-- MR.FTZ. -/
def Ix.ftz (x : Ix) : Bool := mrFTZ x.sp.mr

/-- The element format of MR.TY. -/
def Ix.fmt (x : Ix) : FFmt := fmtOf x.ty

/-- The type check of FADD, FFMA, FMINMAX and FUN (R114). -/
def floatBad (x : Ix) : Option Nat := illegalIf (!(x.ty == 8 || x.ty == 9 || x.ty == 10))

/-- One step of the elements of a lane in order: the generator stepped when the element rounds under RSR (R54, R115). -/
def rndStep (rsr : Bool) (op : Nat → Nat → Rnd) (a : Word × Nat × List Nat) (j : Nat) : Word × Nat × List Nat :=
  let s := if rsr then rsrStep a.1 else a.1
  let r := op (rsrN s) j
  (s, a.2.1 ||| r.flags, a.2.2 ++ [r.bits])

/-- A lane's elements computed in order: `rsr` says that each steps the generator; `op` takes the number of R55 and the element. -/
def rndEls (n cnt : Nat) (rsr : Bool) (seed : Word) (op : Nat → Nat → Rnd) : LaneRes :=
  let r := (List.range cnt).foldl (rndStep rsr op) (seed, 0, [])
  { val := packEls n r.2.2, flags := r.2.1, seed := if rsr then some r.1 else none }

/-- MR.RM is RSR. -/
def Ix.isRsr (x : Ix) : Bool := x.rm == .rsr

/-- A floating-point element operation of a lane: it takes the number of R55 and the encodings a, b, d. -/
def floatLane (x : Ix) (i w : Nat) (rounds : Bool) (va vb vd : Nat) (f : Nat → Nat → Nat → Nat → Rnd) : LaneRes :=
  let n := fmtBits x.fmt
  rndEls n (32 * w / n) (rounds && x.isRsr) (x.g.seed i) (fun n16 j => f n16 (elOf n va j) (elOf n vb j) (elOf n vd j))

/-- `val` of R115. -/
def Ix.vl (x : Ix) (v : Nat) : FVal := valF x.fmt x.ftz v

/-- `fround` of R115 in the element format. -/
def Ix.fround (x : Ix) (n16 : Nat) (p : Pre) : Rnd := froundF x.fmt x.rm x.sat x.ftz n16 p

/-- A format A floating-point instruction that rounds: its exact value from a, b and d (R116). -/
def floatOp3 (w : Width) (d a b : LaneOp) (readsD : Bool) (f : RMode → FVal → FVal → FVal → Pre) :
    State → Host.Outcome State Fault Refusal :=
  let n := w.regs
  issueG (needs3 n d a b readsD floatBad) (fun x =>
    (putResults x d n (fun i => floatLane x i n true (readRun x 0 a n i) (readRun x 1 b n i)
      (if readsD then readRun x 2 d n i else 0)
      (fun n16 p q r => x.fround n16 (f x.rm (x.vl p) (x.vl q) (x.vl r)))), .step))

/-- FADD (R116). -/
def execFadd (w : Width) (d a b : LaneOp) (s : State) : Host.Outcome State Fault Refusal :=
  floatOp3 w d a b false (fun rm p q _ => addF rm p q) s
/-- FSUB (R116). -/
def execFsub (w : Width) (d a b : LaneOp) (s : State) : Host.Outcome State Fault Refusal :=
  floatOp3 w d a b false (fun rm p q _ => addF rm p (negF q)) s
/-- FMUL (R116). -/
def execFmul (w : Width) (d a b : LaneOp) (s : State) : Host.Outcome State Fault Refusal :=
  floatOp3 w d a b false (fun _ p q _ => mulF p q) s
/-- FRSUB (R116). -/
def execFrsub (w : Width) (d a b : LaneOp) (s : State) : Host.Outcome State Fault Refusal :=
  floatOp3 w d a b false (fun rm p q _ => addF rm q (negF p)) s
/-- FFMA (R116). -/
def execFfma (w : Width) (d a b : LaneOp) (s : State) : Host.Outcome State Fault Refusal :=
  floatOp3 w d a b true (fun rm p q r => fmaF rm p q r) s
/-- FFMS (R116). -/
def execFfms (w : Width) (d a b : LaneOp) (s : State) : Host.Outcome State Fault Refusal :=
  floatOp3 w d a b true (fun rm p q r => fmaF rm p q (negF r)) s
/-- FNMA (R116). -/
def execFnma (w : Width) (d a b : LaneOp) (s : State) : Host.Outcome State Fault Refusal :=
  floatOp3 w d a b true (fun rm p q r => fmaF rm (negF p) q r) s
/-- FNMS (R116). -/
def execFnms (w : Width) (d a b : LaneOp) (s : State) : Host.Outcome State Fault Refusal :=
  floatOp3 w d a b true (fun rm p q r => fmaF rm (negF p) q (negF r)) s

/-- An operand encoding as FMINMAX, FABS and FNEG return it: a subnormal under FTZ as zero of its sign (R52). -/
def ftzBits (f : FFmt) (ftz : Bool) (v : Nat) : Nat :=
  match valF f ftz v with
  | .fin s 0 _ => withSign f s 0
  | _ => v

/-- The smaller or larger of two encodings (R117); `prop` makes one NaN a NaN. -/
def minMaxF (f : FFmt) (ftz big prop : Bool) (p q : Nat) : Nat :=
  let a := valF f ftz p
  let b := valF f ftz q
  if isNaN a && isNaN b then canonNaN f
  else if isNaN a then (if prop then canonNaN f else ftzBits f ftz q)
  else if isNaN b then (if prop then canonNaN f else ftzBits f ftz p)
  else if big then (if ltZeroF a b then ftzBits f ftz q else ftzBits f ftz p)
  else (if ltZeroF b a then ftzBits f ftz q else ftzBits f ftz p)

/-- A FMINMAX instruction (R117). -/
def minMaxOp (w : Width) (d a b : LaneOp) (big prop : Bool) : State → Host.Outcome State Fault Refusal :=
  let n := w.regs
  issueG (needs3 n d a b false floatBad) (fun x =>
    (putResults x d n (fun i => floatLane x i n false (readRun x 0 a n i) (readRun x 1 b n i) 0
      (fun _ p q _ => ⟨minMaxF x.fmt x.ftz big prop p q, 0⟩)), .step))

/-- FMIN (R117). -/
def execFmin (w : Width) (d a b : LaneOp) (s : State) : Host.Outcome State Fault Refusal := minMaxOp w d a b false false s
/-- FMAX (R117). -/
def execFmax (w : Width) (d a b : LaneOp) (s : State) : Host.Outcome State Fault Refusal := minMaxOp w d a b true false s
/-- FMINM (R117). -/
def execFminm (w : Width) (d a b : LaneOp) (s : State) : Host.Outcome State Fault Refusal := minMaxOp w d a b false true s
/-- FMAXM (R117). -/
def execFmaxm (w : Width) (d a b : LaneOp) (s : State) : Host.Outcome State Fault Refusal := minMaxOp w d a b true true s

/-- A relation of Table 05.3. -/
def frelHolds (r : FRel) (a b : FVal) : Bool :=
  let num := !isNaN a && !isNaN b
  match r with
  | .eq => num && eqF a b
  | .ne => !num || !eqF a b
  | .lt => num && ltF a b
  | .le => num && !ltF b a
  | .gt => num && ltF b a
  | .ge => num && !ltF a b
  | .num => num
  | .nan => !num

/-- FCMP (R118, R119). -/
def execFcmp (wide any : Bool) (rel : FRel) (cb : Comb) (kd : Fin 8) (a b : LaneOp) (s : State) : Host.Outcome State Fault Refusal :=
  let w := if wide then 2 else 1
  issueG { srcs := [(a, w), (b, w)], preds := fun _ => combReads cb kd.val,
           bad := fun x => illegalIf (wide || (floatBad x).isSome) } (fun x =>
    let n := fmtBits x.fmt
    (putPred x kd.val cb (maskOf (fun i => x.act.getLsbD i && (
      let va := readRun x 0 a w i
      let vb := readRun x 1 b w i
      let cs := (List.range (32 / n)).map (fun j => frelHolds rel (x.vl (elOf n va j)) (x.vl (elOf n vb j)))
      if any then cs.any id else cs.all id))), .step)) s

/-! ### FUN (R120 to R124) -/

/-- A FUN instruction: an element operation on an encoding; `rounds` says that MR.RM governs it. -/
def funOp (w : Width) (d a : LaneOp) (rounds : Bool) (f : Ix → Nat → Nat → Rnd) : State → Host.Outcome State Fault Refusal :=
  let n := w.regs
  issueG { srcs := [(a, n)], dsts := [(d, n)], bad := floatBad } (fun x =>
    (putResults x d n (fun i => floatLane x i n rounds (readRun x 0 a n i) 0 0 (fun n16 p _ _ => f x n16 p)), .step))

/-- An operand with its sign bit replaced (FABS, FNEG). -/
def signedBits (x : Ix) (p : Nat) (f : Bool → Bool) : Rnd :=
  let q := ftzBits x.fmt x.ftz p
  let top := 2 ^ (fmtBits x.fmt - 1)
  if isNaN (x.vl p) then ⟨canonNaN x.fmt, 0⟩ else ⟨withSign x.fmt (f (decide (top ≤ q))) (q % top), 0⟩

/-- A faithful function with the flush of R52 (R121). The flush takes an exact FEXP2 result that is subnormal as well, with UF and NX, by the
last bullet of R121, although R122 gives an exact result no flag (DESIGN CHOICE, log 64). -/
def faithOp (f : FFmt → Bool → Nat → FVal → Rnd) (x : Ix) (_ : Nat) (p : Nat) : Rnd :=
  flushF x.fmt x.ftz (f x.fmt x.sat (ftzBits x.fmt x.ftz p) (x.vl p))

/-- FABS (R120, R122). -/
def execFabs (w : Width) (d a : LaneOp) (s : State) : Host.Outcome State Fault Refusal :=
  funOp w d a false (fun x _ p => signedBits x p (fun _ => false)) s
/-- FNEG (R120, R122). -/
def execFneg (w : Width) (d a : LaneOp) (s : State) : Host.Outcome State Fault Refusal :=
  funOp w d a false (fun x _ p => signedBits x p (fun b => !b)) s
/-- FRCP (R120, R122). -/
def execFrcp (w : Width) (d a : LaneOp) (s : State) : Host.Outcome State Fault Refusal :=
  funOp w d a true (fun x n16 p => x.fround n16 (rcpPre (x.vl p))) s
/-- FRSQ (R120 to R122). -/
def execFrsq (w : Width) (d a : LaneOp) (s : State) : Host.Outcome State Fault Refusal := funOp w d a false (faithOp frsqF) s
/-- FSQRT (R120, R122). -/
def execFsqrt (w : Width) (d a : LaneOp) (s : State) : Host.Outcome State Fault Refusal :=
  funOp w d a true (fun x n16 p => x.fround n16 (sqrtPre (x.vl p))) s
/-- FEXP2 (R120 to R122). -/
def execFexp2 (w : Width) (d a : LaneOp) (s : State) : Host.Outcome State Fault Refusal := funOp w d a false (faithOp fexp2F) s
/-- FLOG2 (R120 to R122). -/
def execFlog2 (w : Width) (d a : LaneOp) (s : State) : Host.Outcome State Fault Refusal := funOp w d a false (faithOp flog2F) s
/-- FSIN (R120 to R122). -/
def execFsin (w : Width) (d a : LaneOp) (s : State) : Host.Outcome State Fault Refusal := funOp w d a false (faithOp fsinF) s
/-- FCOS (R120 to R122). -/
def execFcos (w : Width) (d a : LaneOp) (s : State) : Host.Outcome State Fault Refusal := funOp w d a false (faithOp fcosF) s
/-- FTANH (R120 to R122). -/
def execFtanh (w : Width) (d a : LaneOp) (s : State) : Host.Outcome State Fault Refusal := funOp w d a false (faithOp ftanhF) s
/-- FRND (R123). -/
def execFrnd (w : Width) (d a : LaneOp) (s : State) : Host.Outcome State Fault Refusal :=
  funOp w d a true (fun x n16 p => frndF x.fmt x.rm n16 (x.vl p)) s

/-- The class bit of an encoding (Table 05.6). -/
def classBit (f : FFmt) (ftz : Bool) (p : Nat) : Nat :=
  match valF f ftz p with
  | .nan => 8
  | .inf s => if s then 0 else 7
  | .fin s num _ =>
    let sub := p / 2 ^ fracBits f % 2 ^ expBits f == 0
    if num = 0 then (if s then 3 else 4) else if sub then (if s then 2 else 5) else (if s then 1 else 6)

/-- FCLASS (R124). -/
def execFclass (w : Width) (d a : LaneOp) (s : State) : Host.Outcome State Fault Refusal :=
  funOp w d a false (fun x _ p => ⟨2 ^ classBit x.fmt x.ftz p, 0⟩) s

/-! ### CVT (R125 to R127) -/

/-- The code of a type. -/
def etyCode : ETy → Nat
  | .s32 => 0 | .n32 => 1 | .s16x2 => 2 | .n16x2 => 3 | .s8x4 => 4 | .n8x4 => 5 | .s64 => 6 | .n64 => 7
  | .f32 => 8 | .bf16x2 => 9 | .f16x2 => 10 | .e4m3x4 => 11 | .e5m2x4 => 12 | .e2m1x8 => 13

/-- The number of elements of a CVT; 0 when it is no integer (R126). -/
def cvtE (w : Nat) (d : LaneOp) (dt : Nat) : Nat :=
  if tyBits dt = 64 ∧ w = 1 then (if d = .z then 1 else 0) else w * 32 / tyBits dt

/-- The registers of a CVT's source: the run, or the single register of a portion (R126). -/
def cvtWs (ty e : Nat) : Nat := if 32 ≤ e * tyBits ty then e * tyBits ty / 32 else 1

/-- A source operand may start a run of ws registers (R126). -/
def cvtSrcOk (a : LaneOp) (ws : Nat) : Bool :=
  match a with
  | .v n => n.val % ws == 0
  | .o n => n.val % ws == 0 && decide (ws ≤ 4)
  | .z => true
  | _ => ws == 1

/-- The conditions of R126 that trap ILLEGAL_OPERAND at check 4. -/
def cvtBad (w : Nat) (d a : LaneOp) (part dt : Nat) (x : Ix) : Option Nat :=
  let e := cvtE w d dt
  let ns := tyBits x.ty
  let ws := cvtWs x.ty e
  illegalIf (e == 0 || decide (14 ≤ x.ty) || !(ws == 1 || ws == 2 || ws == 4 || ws == 8) || !cvtSrcOk a ws
    || (if 32 ≤ e * ns then part != 0 else !decide (part < 32 / (e * ns))))

/-- The value of a source element of an integer or floating-point type. -/
def srcVal (ty : Nat) (ftz : Bool) (v : Nat) : FVal :=
  if ty < 8 then ofIntF (elInt (intSigned ty) (intBits ty) v 0) else valF (fmtOf ty) ftz v

/-- The least and greatest value of an integer type. -/
def intRange (ty : Nat) : Int × Int :=
  let n := intBits ty
  if intSigned ty then (-((2 ^ (n - 1) : Nat) : Int), ((2 ^ (n - 1) : Nat) : Int) - 1) else (0, ((2 ^ n : Nat) : Int) - 1)

/-- The conversion of one element (R56 to R58, R127). -/
def cvtEl (ty dt : Nat) (rm : RMode) (sat ftz trunc : Bool) (n16 v : Nat) : Rnd :=
  if 8 ≤ dt then
    flushF (fmtOf dt) ftz (roundF (fmtOf dt) rm sat n16 (srcVal ty ftz v))
  else if 8 ≤ ty then
    let r := toIntF (if trunc then .rtz else rm) n16 (intRange dt).1 (intRange dt).2 (srcVal ty ftz v)
    ⟨pat r.1 (intBits dt), r.2⟩
  else
    let r := fit (intSigned dt) sat (intBits dt) (elInt (intSigned ty) (intBits ty) v 0)
    ⟨r.1, r.2⟩

/-- A conversion rounds under MR.RM. -/
def cvtRounds (ty dt : Nat) (trunc : Bool) : Bool := decide (8 ≤ dt) || (decide (8 ≤ ty) && !trunc)

/-- CVT (R125 to R127). -/
def execCvt (w : Width) (d a : LaneOp) (trunc : Bool) (part : Fin 8) (dt : ETy) (s : State) : Host.Outcome State Fault Refusal :=
  let c := etyCode dt
  let e := cvtE w.regs d c
  issueG { srcsBy := fun x => [(a, cvtWs x.ty e)], dsts := [(d, w.regs)], bad := cvtBad w.regs d a part.val c } (fun x =>
    let ws := cvtWs x.ty e
    let ns := tyBits x.ty
    (putResults x d w.regs (fun i =>
      let v := readRun x 0 a ws i
      rndEls (tyBits c) e (cvtRounds x.ty c trunc && x.isRsr) (x.g.seed i) (fun n16 j =>
        cvtEl x.ty c x.rm x.sat x.ftz trunc n16 (elOf ns v (if 32 ≤ e * ns then j else part.val * e + j)))), .step)) s

/-! ### PACKF and DOT (R128, R129) -/

/-- cv of R128. -/
def packCv (x : Ix) (f : FFmt) (n16 v : Nat) : Rnd := flushF f x.ftz (roundF f x.rm x.sat n16 (valF .fp32 x.ftz v))

/-- A PACKF instruction: x then y of each register in order, and the old low half kept above an 8-bit pair. -/
def packOp (w : Width) (d a b : LaneOp) (f : FFmt) : State → Host.Outcome State Fault Refusal :=
  let n := w.regs
  let half := fmtBits f == 8
  issueG (needs3 n d a b half (fun _ => none)) (fun x =>
    (putResults x d n (fun i =>
      let va := readRun x 0 a n i
      let vb := readRun x 1 b n i
      let vd := if half then readRun x 2 d n i else 0
      let m := fmtBits f
      let r := rndEls m (2 * n) x.isRsr (x.g.seed i) (fun n16 j => packCv x f n16 (elOf 32 (if j % 2 = 0 then va else vb) (j / 2)))
      if half then
        { r with val := mapEls 32 n (fun k => elOf 16 r.val k + 2 ^ 16 * (elOf 32 vd k % 2 ^ 16)) }
      else r), .step))

/-- PACKF.BF16 (R128). -/
def execPackfBf16 (w : Width) (d a b : LaneOp) (s : State) : Host.Outcome State Fault Refusal := packOp w d a b .bf16 s
/-- PACKF.F16 (R128). -/
def execPackfF16 (w : Width) (d a b : LaneOp) (s : State) : Host.Outcome State Fault Refusal := packOp w d a b .fp16 s
/-- PACKF.E4M3 (R128). -/
def execPackfE4m3 (w : Width) (d a b : LaneOp) (s : State) : Host.Outcome State Fault Refusal := packOp w d a b .e4m3 s
/-- PACKF.E5M2 (R128). -/
def execPackfE5m2 (w : Width) (d a b : LaneOp) (s : State) : Host.Outcome State Fault Refusal := packOp w d a b .e5m2 s

/-- The exact sum of a dot product with the order of special values of R129. -/
def dotPre (rm : RMode) (d : FVal) (ps : List (FVal × FVal)) : Pre :=
  if isNaN d || ps.any (fun p => isNaN p.1 || isNaN p.2) then ⟨.nan, 0⟩
  else
    let qs := ps.map (fun p => mulF p.1 p.2)
    if qs.any (fun q => q.flags != 0) then ⟨.nan, flNV⟩
    else
      let vs := d :: qs.map (·.v)
      if vs.any (fun v => isInf v && signOf v) && vs.any (fun v => isInf v && !signOf v) then ⟨.nan, flNV⟩
      else ⟨(qs.foldl (fun acc q => (addF rm acc q.v).v) d), 0⟩

/-- A DOT instruction; `acc` says that d is read (R129). -/
def dotOp (w : Width) (d a b : LaneOp) (acc : Bool) : State → Host.Outcome State Fault Refusal :=
  let n := w.regs
  issueG { srcs := [(a, n), (b, n)] ++ (if acc then [(d, 1)] else []), dsts := [(d, 1)],
           bad := fun x => illegalIf (!(decide (2 ≤ x.ty ∧ x.ty ≤ 5) || decide (8 ≤ x.ty ∧ x.ty ≤ 13))) } (fun x =>
    let m := tyBits x.ty
    let cnt := 32 * n / m
    (putResults x d 1 (fun i =>
      let va := readRun x 0 a n i
      let vb := readRun x 1 b n i
      let vd := if acc then readRun x 2 d 1 i else 0
      if 8 ≤ x.ty then
        let ps := (List.range cnt).map (fun j => (x.vl (elOf m va j), x.vl (elOf m vb j)))
        rndEls 32 1 x.isRsr (x.g.seed i) (fun n16 _ =>
          froundF .fp32 x.rm x.sat x.ftz n16 (dotPre x.rm (valF .fp32 x.ftz vd) ps))
      else
        let sg := intSigned x.ty
        let sum := (List.range cnt).foldl (fun t j => t + elInt sg m va j * elInt sg m vb j) (elInt sg 32 vd 0)
        packRes 32 [fit sg x.sat 32 sum]), .step))

/-- DOT (R129). -/
def execDot (w : Width) (d a b : LaneOp) (s : State) : Host.Outcome State Fault Refusal := dotOp w d a b true s
/-- DOTZ (R129). -/
def execDotz (w : Width) (d a b : LaneOp) (s : State) : Host.Outcome State Fault Refusal := dotOp w d a b false s

end Sys2Proof.Machine
end

