-- ==== Sys2Proof/Machine/Atom.lean ====
section
/-! DEFINITION. The operations of the atomics (R241, R242), shared by the atomic majors, the requests of peers and the mirror records. -/

namespace Sys2Proof.Machine

open Sys2Proof

/-- The size of an atomic of a type in bytes (R241). -/
def atomBytes (ty : Nat) : Nat := if is64 ty then 8 else 4

/-- MR.TY and the operation form an atomic (R241). -/
def atomOk (op ty : Nat) : Bool :=
  ty == 0 || ty == 1 || is64 ty || (ty == 8 && (op == 0 || op == 1 || op == 2 || op == 6 || op == 7))

/-- f32 ADD of an atomic: RNE, subnormals kept, no saturation (R242). -/
def atomAddF (m b : Nat) : Nat := (froundF .fp32 .rne false false 0 (addF .rne (decodeF .fp32 m) (decodeF .fp32 b))).bits

/-- The new value of an atomic (R242): operation code of Table 03.7, type code of MR.TY, old value m, operands b and c. -/
def atomNew (op ty m b c : Nat) : Nat :=
  let n := 8 * atomBytes ty
  let int (v : Nat) : Int := elInt (intSigned ty) n v 0
  match op with
  | 0 => if ty = 8 then atomAddF m b else (m + b) % 2 ^ n
  | 1 => if ty = 8 then minMaxF .fp32 false false false m b else if int m ≤ int b then m else b
  | 2 => if ty = 8 then minMaxF .fp32 false true false m b else if int m ≤ int b then b else m
  | 3 => m &&& b
  | 4 => m ||| b
  | 5 => m ^^^ b
  | 6 => b
  | 7 => if m = c then b else m
  | 8 => if b ≤ m then 0 else (m + 1) % 2 ^ n
  | _ => if m = 0 ∨ b < m then b else m - 1

end Sys2Proof.Machine
end

