-- ==== Sys2Proof/Machine/Regs.lean ====
section
/-! DEFINITION. BAR0 (R454, Table 22.2): what a write without behaviour of its own stores in each register (R368, R431, R449 to
R455). -/

namespace Sys2Proof.Machine

open Sys2Proof

/-- The bytes [lo, hi) of a register taken from a write, the others from its value, or from 0 for the bits that are cleared by 1. -/
def overlay (old lo len new : Nat) (bytes : Nat) : Nat :=
  ofBytes ((List.range bytes).map (fun i =>
    BitVec.ofNat 8 (if lo ≤ i ∧ i < lo + len then new / 2 ^ (8 * (i - lo)) else old / 2 ^ (8 * i))))

/-- A register of the device written with its whole new value; read-only registers and reserved bits are ignored (R7). A PWRCAP above 4,095
is kept as 4,095, and acts as 3,600 (DESIGN CHOICE, log 52). -/
def setDevReg (s : State) (off v : Nat) : State :=
  match off with
  | 0x10 => { s with dev := { s.dev with mbaddr := v } }
  | 0x18 => { s with dev := { s.dev with mblen := v } }
  | 0x20 => { s with dev := { s.dev with peerid := v % 1024 } }
  | 0x28 => { s with dev := { s.dev with hwbase := v / 4096 * 4096 } }
  | 0x30 => { s with dev := { s.dev with b2base := v } }
  | 0x38 => { s with dev := { s.dev with dumpbase := v } }
  | 0x40 => { s with dev := { s.dev with dumplen := v } }
  | 0x50 => { s with dev := { s.dev with pwrcap := BitVec.ofNat 32 (Nat.min v 4095) } }
  | 0x60 => { s with lintel := { s.lintel with stn := v % 32, ctx := bitsOf v 11 8 } }
  | 0x68 => { s with lintel := { s.lintel with base := bitsOf v 55 28 } }
  | 0x78 => { s with lintel := { s.lintel with levt := v / 8 * 8 } }
  | 0x90 => { s with dev := { s.dev with attnonce := bytesOf 32 v } }
  | 0xB0 => { s with dev := { s.dev with attaddr := v } }
  | _ => s

/-- A queue register written: BASE; LOG2N of a queue that is empty (R201, R454). -/
def setQueueReg (q : Queue) (r v : Nat) : Queue :=
  if r = 0 then { q with base := v / 4096 * 4096 }
  else if r = 8 ∧ q.pi = q.ci then { q with log2n := v % 32 }
  else q

/-- A host command completed with a status (R455). -/
def hostDone (s : State) (c status : Nat) : State := s.setCtx c { s.ctx c with hsts := status, latched := [], hrec := none }

/-- The code of a latched host command is none of Table 22.3 while the part runs: the command is BAD (R455). -/
def rejectCode (s : State) (c : Nat) : State :=
  let x := s.ctx c
  if s.dev.boot == .running && x.hsts == 0 && !(decide (1 ≤ byteAt x.latched 0) && decide (byteAt x.latched 0 ≤ 5)) then hostDone s c 3
  else s

/-- A doorbell: HCMD is taken and HSTS is busy, unless a command is still busy (R455). -/
def ringDoor (s : State) (c : Nat) : State :=
  let x := s.ctx c
  if x.hsts = 0 then s else rejectCode (s.setCtx c { x with hsts := 0, latched := x.hcmd }) c

/-- A register of a context's block written with its whole new value; `low` are the bits of a write that clear (W1C). Bits [11:0] of TRBASE
are cleared by its write and read 0, and an LPSZ that is no multiple of 4 or is above 65,536 is kept and used as it is written: the spec
gives no outcome for either (DESIGN CHOICE, log 67). -/
def setCtxReg (s : State) (c o v low : Nat) : State :=
  let x := s.ctx c
  if o = 0xC0 then ringDoor s c
  else s.setCtx c (
    match o with
    | 0x00 => { x with en := x.en || bitOf v 0, ended := x.ended && !bitOf v 0 }
    | 0x08 => { x with pgroot := BitVec.ofNat 64 (bitsOf v 51 15 * 2 ^ 15 + v % 2) }
    | 0x10 => { x with gbase := v }
    | 0x18 => { x with glimit := v }
    | 0x20 => { x with lpsz := v }
    | 0x24 => { x with pthr := v }
    | 0x28 => { x with arbc := BitVec.ofNat 32 (v % 16 + 256 * bitsOf v 15 8) }
    | 0x30 => { x with trbase := v % 2 ^ 56 / 4096 * 4096 }
    | 0x38 => { x with trctl := BitVec.ofNat 32 (v % 32 + (if bitOf x.trctl.toNat 7 && !bitOf low 7 then 128 else 0)) }
    | 0x40 => { x with trci := BitVec.ofNat 32 v }
    | 0x44 => { x with trdrop := x.trdrop &&& ~~~(BitVec.ofNat 32 low) }
    | 0x48 => { x with savebase := v }
    | 0x50 => { x with savelen := v }
    | 0x80 => { x with hcmd := bytesOf 64 v }
    | _ =>
      if 0x1000 ≤ o ∧ o < 0x1800 then
        { x with wq := mset {} x.wq ((o - 0x1000) / 32) (setQueueReg (mget {} x.wq ((o - 0x1000) / 32)) ((o - 0x1000) % 32) v) }
      else if 0x1800 ≤ o ∧ o < 0x1A00 then
        { x with lq := mset {} x.lq ((o - 0x1800) / 32) (setQueueReg (mget {} x.lq ((o - 0x1800) / 32)) ((o - 0x1800) % 32) v) }
      else x)

/-- The registers that a write touches, be they of several queues. -/
def touched (s : State) (off len : Nat) : List (Nat × Nat × Nat) :=
  (((List.range ((off + len + 31) / 32 - off / 32)).flatMap (fun k => regsNear s (32 * (off / 32 + k)))).filter
    (fun r => decide (r.1 < off + len) && decide (off < r.1 + r.2.1))).eraseDups

/-- One register written by a write of `len` bytes at an offset. -/
def writeReg1 (s : State) (off len value : Nat) (r : Nat × Nat × Nat) : State :=
  let lo := off - r.1
  let sh := if off < r.1 then value / 2 ^ (8 * (r.1 - off)) else value
  let n := off + len - Nat.max off r.1
  let v := overlay r.2.2 lo n sh r.2.1
  if r.1 < 0x100000 then setDevReg s r.1 v
  else setCtxReg s ((r.1 - 0x100000) / 0x10000) (r.1 % 0x10000) v (overlay 0 lo n sh r.2.1)

/-- A write to BAR0 without behaviour of its own (R454). -/
def bar0Write (s : State) (off len value : Nat) : State :=
  (touched s off len).foldl (fun s r => writeReg1 s off len value r) s

end Sys2Proof.Machine
end

