-- ==== Sys2Proof/Machine/Tokens.lean ====
section
/-! DEFINITION. Releases that reach other parts (R422) and the holder's token table (R424, R427 to R429): the recall and the return of a
token, with the write-backs that come before it. -/

namespace Sys2Proof.Machine

open Sys2Proof

/-- A line of a core's L1 lies in a region of a peer's memory. -/
def inRegion (region line : Nat) : Bool := regionOf (line * 128) == .peer && regionKey (line * 128) == region

/-- The cores that the state lists. -/
def listedCores (s : State) : List Nat := s.cores.map (fun c => c.1)

/-- Every line that meets a test written back to its home, or to the part's own L2, and invalidated in every L1 of the part; its guest
copies are invalidated too (R428, R429). -/
def dropLines (s : State) (p : Nat → Bool) : State :=
  let s1 := (listedCores s).foldl (fun s c =>
    ((s.core c).l1.filter (fun l => p l.line)).foldl (fun s l => l1Drop (writeBackLine s c l) c l.line) s) s
  { s1 with
    guests := s1.guests.filter (fun g => !p g.line)
    dirs := s1.dirs.filter (fun d => !p (4 * d.1))
    homeRecs := s1.homeRecs.filter (fun r => !p r.line) }

/-- The damaged words of a line of the part's own L2 that hold a dirty byte (R373). -/
def badL2Words (s : State) (l : L2Line) : List Nat :=
  s.damage.filterMap (fun d => match d with
    | .mem w => if w / 32 == l.line && l.dirty &&& lineMask (w % 32 * 4) 4 != 0 then some w else none
    | _ => none)

/-- A line of the part's own L2 written to the peer, with a record where it holds damaged words (R373, R428). -/
def backL2 (ctx : Nat) (s : State) (l : L2Line) : State :=
  let core := 80 * homeDie (128 * l.line)
  let ws := badL2Words s l
  backDamaged (backRequest s core ctx (128 * l.line) (s.homeBytes (128 * l.line) 128) (soundBytes l.dirty l.line ws)) core ctx (128 * l.line) ws

/-- The lines of a region that the part's own L2 holds written to the peer and invalidated, with the errors of their words (R428, R429). -/
def dropL2 (s : State) (region ctx : Nat) : State :=
  let mine (l : L2Line) : Bool := inRegion region l.line
  let s1 := (s.l2.filter (fun l => mine l && l.dirty != 0)).foldl (backL2 ctx) s
  { s1 with
    l2 := s1.l2.filter (fun l => !mine l)
    damage := s1.damage.filter (fun d => match d with
      | .mem w => !inRegion region (w / 32)
      | _ => true) }

/-- Every load of a region performed, then every line of it written back and invalidated in every L1 and L2 of the part (R428, R429). -/
def dropRegion (s : State) (region ctx : Nat) : State :=
  dropL2 (dropLines (settleWhere s (fun p => p.isIn .peer && regionKey p.pa == region)) (inRegion region)) region ctx

/-- An entry of the token table replaced; an unlisted entry is FREE. -/
def setToken (s : State) (n : Nat) (t : TokEntry) : State := { s with tokens := mset {} s.tokens n t }

/-- The lowest FREE entry of the 256 (R427). -/
def freeToken? (s : State) : Option Nat := (List.range 256).find? (fun n => (mget {} s.tokens n).st == .free)

/-- Some write-back of a region still awaits its response. -/
def backOut (s : State) (region : Nat) : Bool :=
  s.remotes.any (fun r => r.wb && regionOf r.addr == .peer && regionKey r.addr == region)

/-- The instructions that await a region, in table order, by the team of each. -/
def ownWaits (s : State) (p : PVal → Bool) : List Nat :=
  s.groups.flatMap (fun g => (g.pends.filter (fun q => q.vals.any (fun v => p v.2))).map (fun _ => g.team))

/-- Awaits the return of a region's token. -/
def isOwnRel (region : Nat) : PVal → Bool
  | .ownRel r => r == region
  | _ => false

/-- Awaits a region's token. -/
def isOwn (region : Nat) : PVal → Bool
  | .own r _ => r == region
  | _ => false

/-- An entry whose write-backs have all been performed gives its token back or reports the recall, and is FREE (R428, R429). -/
def settleToken (s : State) (n : Nat) : State :=
  let t := mget {} s.tokens n
  if (t.st == .returning || t.st == .recalling) && !backOut s t.region then
    endParks ((setToken s n {}).send (if t.st == .returning then .tokenReturn t.region else .recallDone t.region)) (isOwnRel t.region)
  else s

/-- Every entry that may leave RECALLING or RETURNING does. -/
def settleTokens (s : State) : State := s.tokens.foldl (fun s e => settleToken s e.1) s

/-- The return of a held token (R428) or its recall (R429) begun. -/
def yieldToken (s : State) (n : Nat) (st : TokSt) : State :=
  let t := mget {} s.tokens n
  settleToken (dropRegion (setToken s n { t with st := st, count := 0 }) t.region (t.ctxs.headD 0)) n

/-! ### The home side (R424, R429, Table 20.5) -/

/-- A region of this part's own memory replaced. -/
def State.setHomeTok (s : State) (r : Nat) (h : HomeTok) : State := { s with homeToks := mset {} s.homeToks r h }

/-- A request of a peer that waits lies in a region of this part's own memory. -/
def Later.inOwn (r : Nat) : Later → Bool
  | .peer q => q.addr / 2 ^ 21 == r
  | .bar2 _ _ => false

/-- A region's frame, where it is one, is DIE, and the part holds no request for it of a peer that is still to be performed: its token may be
granted. -/
def grantable (s : State) (r : Nat) : Bool :=
  (decide (2 ^ 18 ≤ r) || (s.frame r).st == .die) && !s.heldReqs.any (fun q => q.addr / 2 ^ 21 == r)
    && !s.laters.any (Later.inOwn r)

/-- A place of a region of this part's own memory. -/
def Place.inOwn (r : Nat) (p : Place) : Bool := (p.isIn .tier1 || p.isIn .tier2) && p.pa / 2 ^ 21 == r

/-- The loads of a region of this part's own memory performed and its dirty lines written back, as far as the channels serve them. -/
def drainHome (s : State) (r : Nat) : State :=
  (listedCores s).foldl (fun s c => drainWait s c (fun l => l.line / 16384 == r)) (settleWhere s (Place.inOwn r))

/-- A load of a region is not performed, or a dirty line of it is not written back. -/
def homeLeft (s : State) (r : Nat) : Bool :=
  s.groups.any (fun g => g.pends.any (fun p => p.vals.any (fun v => v.2.place?.any (fun q => q.1.inOwn r))))
    || s.cores.any (fun c => c.2.l1.any (fun l => l.dirty != 0 && l.line / 16384 == r))

/-- Every line of a region invalidated in every L1. -/
def dropHome (s : State) (r : Nat) : State := dropLines s (fun l => l / 16384 == r)

/-- A recall sent to the holder of a region that is HELD. -/
def recallHome (s : State) (r : Nat) (bank : Bool) : State :=
  let h := s.homeTok r
  match h.holder with
  | some d => if h.recalling then s else (s.setHomeTok r { h with recalling := true, bank := bank }).send (.tokenRecall r d)
  | none => s

/-- A to-BANK shutter operation reaches a frame whose token a peer holds (Table 20.5). -/
def recallForBank (s : State) (r : Nat) : State := recallHome s r true

/-- The queue of a region served: the first request granted when the region is FREE and grantable, or the holder recalled for it. -/
def homeServe (s : State) (r : Nat) : State :=
  let h := s.homeTok r
  match h.queue, h.holder with
  | [], _ => s
  | d :: rest, none =>
    if grantable s r then
      let s0 := drainHome s r
      if homeLeft s0 r then s0
      else
        let s1 := (dropHome s0 r).setHomeTok r { holder := some d, queue := rest }
        let s2 := s1.send (.tokenGrant r d)
        if rest.isEmpty then s2 else recallHome s2 r false
    else s
  | e :: _, some d => if e != d && grantable s r then recallHome s r false else s

/-- The regions whose queues wait for a load or a write-back served again. -/
def serveHomes (s : State) : State := s.homeToks.foldl (fun s e => homeServe s e.1) s

/-! ### OWNACQ and OWNREL -/

/-- The check of OWNACQ and OWNREL at 4a and 4b (R426): the region of the address, or the cause. -/
def ownCheck (x : Ix) (va : Nat) : Except Nat Nat :=
  let w : Who := { ctx := x.t.ctx, priv := x.g.priv, core := some x.core }
  match xl4a x.s w va with
  | .error c => .error c
  | .ok y => if eKIND y.e != 3 || !xl4b x.s w .load va y then .error cPAGE_PERMISSION else .ok (regionKey y.pa)

/-- A held token taken once more by a context: COUNT and the acquire of R427. -/
def takeToken (s : State) (n core ctx : Nat) : State :=
  let t := mget {} s.tokens n
  acquireCore (setToken s n { t with count := t.count + 1, ctxs := ctx :: t.ctxs }) core

end Sys2Proof.Machine
end

