-- ==== Sys2Proof/Machine/Access.lean ====
section
/-! DEFINITION. The accesses of the lanes of one instruction: offsets (R145), the checks of Table 06.6 (R148, R211 to R214, R400), the
places they reach (R213, R214), the scopes of R230, what a load awaits at its place, and the writing of one word (10, 11, 20). -/

namespace Sys2Proof.Machine

open Sys2Proof

/-! ### Spaces and checks -/

/-- The words of a base field of a space (R144). -/
def baseWords (sp : Space) : Nat := if sp = .g then 2 else 1

/-- The offset of a lane: the base, and a number of bytes added (R145). Each address field of an instruction reads its registers on its own: an
in-flight register that two fields name may give each of them another value, for R32 speaks of one read (DESIGN CHOICE, log 4). `site` is the field. -/
def laneOff (x : Ix) (sp : Space) (a : LaneOp) (add : Int) (i : Nat) (site : Nat := 0) : Nat :=
  pat ((readRun x site a (baseWords sp) i : Int) + add) (32 * baseWords sp)

/-- The limit of a space's segment (Tables 01.6, 10.1). -/
def spaceLimit (x : Ix) : Space → Nat
  | .g => x.t.sgLimit
  | .s => x.t.ssLimit
  | .c => x.t.scLimit
  | .d => x.t.sdLimit
  | .l => x.g.slLimit

/-- One side of an instruction's accesses: its space, what it does, the bytes a lane reaches, and the offset of each lane. -/
structure Side where
  sp : Space
  acc : Acc
  size : Nat
  offs : List (Nat × Nat)

/-- The pieces of an access: words of 4 bytes, or its 1 or 2 bytes (R213, R225). -/
def pieces (size : Nat) : List Nat := if size < 4 then [0] else (List.range (size / 4)).map (fun k => 4 * k)

/-- The virtual address of the byte at an offset of G or L (Table 10.4). A sum at or past 2^56 wraps where it is translated: the spec gives
neither a wrap nor a fault (DESIGN CHOICE, log 63). -/
def spaceVa (x : Ix) (sp : Space) (lane o : Nat) : Nat :=
  if sp = .g then x.t.sgBase + o else x.g.slBase + o / 4 * 128 + lane * 4 + o % 4

/-- The team whose scratch a slot of the cluster names (R214, R277): the issuing team for its own core, else the placed team of the same
launch with the lowest `tix`. A firmware core holds no team (R451). -/
def teamOnCore (s : State) (t : Team) (core : Nat) : Option Team :=
  if core % 80 = 79 then none
  else if core = t.core then some t
  else (s.teams.filter (fun u => u.placed && !u.leaving && u.core == core && u.lch == t.lch)).foldl (fun b u =>
    match b with
    | none => some u
    | some v => if u.tix < v.tix then some u else b) none

/-- The core that a window offset of C names. -/
def slotCore (t : Team) (w : Nat) : Nat := t.core / 8 * 8 + bitsOf w 21 19

/-- The target team and position of a C offset (R214). -/
def cTarget (x : Ix) (o : Nat) : Option Team × Nat :=
  let w := x.t.scBase + o
  (teamOnCore x.s x.t (slotCore x.t w), bitsOf w 18 0)

/-- The trap of a step that some lanes fail, with the value of the lowest one (R148). -/
def failAt (c : Nat) (l : List (Nat × Option Nat)) : Option Trap :=
  match l.filterMap (fun p => p.2.map (fun v => (p.1, v))) with
  | [] => none
  | (i, v) :: rest => some (laneTrap c (maskOf (fun j => j == i || rest.any (fun q => q.1 == j))) v)

/-- Who makes an access of a split. -/
def Ix.who (x : Ix) (sp : Space) : Who := { ctx := x.t.ctx, priv := x.g.priv, lane := sp == .l, core := some x.core }

/-- The results of step 4 for each lane and piece. -/
def sideXlate (x : Ix) (sd : Side) : List (Nat × Nat × Except Nat Xl) :=
  sd.offs.flatMap (fun p => (pieces sd.size).map (fun u =>
    let va := spaceVa x sd.sp p.1 (p.2 + u)
    (p.1, va, xlate x.s (x.who sd.sp) sd.acc va)))

/-- The first sub-step of step 4 that any lane fails (R400). -/
def step4 (l : List (Nat × Nat × Except Nat Xl)) : Option Trap :=
  let errs := l.filterMap (fun p => match p.2.2 with
    | .error c => some (p.1, p.2.1 % 2 ^ 56, c)
    | .ok _ => none)
  match errs.foldl (fun b p => match b with
      | none => some p.2.2
      | some c => some (if stepOrder p.2.2 < stepOrder c then p.2.2 else c)) none with
  | none => none
  | some c => failAt c (errs.map (fun p => (p.1, if p.2.2 = c then some p.2.1 else none)))

/-- One step of Table 06.6 of one side. The address that a lane reports at steps 1 to 3 is its whole 64-bit offset, as Table 06.6 gives it,
although Table 01.6 zero-extends `tva` from 56 bits (DESIGN CHOICE, log 63). Where lanes fail step 3 with different causes, CLUSTER_ABSENT is
taken first and names its lanes alone: the spec orders the causes of one lane (DESIGN CHOICE, log 68). -/
def sideStep (x : Ix) (sd : Side) (n : Nat) : Option Trap :=
  if n = 1 then failAt cALIGN (sd.offs.map (fun p => (p.1, if p.2 % sd.size = 0 then none else some p.2)))
  else if n = 2 then failAt cSEG_LIMIT (sd.offs.map (fun p => (p.1, if p.2 + sd.size ≤ spaceLimit x sd.sp then none else some p.2)))
  else if n = 3 then
    if sd.sp = .c then
      match failAt cCLUSTER_ABSENT (sd.offs.map (fun p => (p.1, if (cTarget x p.2).1.isSome then none else some p.2))) with
      | some t => some t
      | none => failAt cSEG_LIMIT (sd.offs.map (fun p =>
          (p.1, match cTarget x p.2 with
            | (some t, q) => if q + sd.size ≤ (x.s.lrOf t).scr then none else some p.2
            | (none, _) => none)))
    else none
  else if sd.sp = .g ∨ sd.sp = .l then step4 (sideXlate x sd)
  else none

/-- Check 5 of some sides: each step for every side before the next step (R148, R269). -/
def check5 (x : Ix) (sds : List Side) : Option Trap :=
  ([1, 2, 3, 4].flatMap (fun n => sds.map (fun sd => (n, sd)))).findSome? (fun p => sideStep x p.2 p.1)

/-- The place of the piece at an offset that passed its checks (Table 10.4). -/
def placeOf (x : Ix) (sd : Side) (lane o : Nat) : Place :=
  match sd.sp with
  | .s => .scr x.core (x.t.ssBase + o) o
  | .c => match cTarget x o with
    | (some t, q) => .scr t.core (t.ssBase + q) o
    | (none, q) => .scr x.core q o
  | .d => .dscr (dieOf x.core) (x.t.sdBase + o) o
  | sp =>
    let va := spaceVa x sp lane o
    match xlate x.s (x.who sp) sd.acc va with
    | .ok y => .phys (va % 2 ^ 56) y
    | .error _ => .phys (va % 2 ^ 56) ⟨0, 0, 0⟩

/-- The places of every lane's pieces. -/
def sidePlaces (x : Ix) (sd : Side) : List (Nat × List Place) :=
  sd.offs.map (fun p => (p.1, (pieces sd.size).map (fun u => placeOf x sd p.1 (p.2 + u))))

/-- The leaves of an access noted in the core's TLB (R401). -/
def fillTlb (x : Ix) (s : State) (ps : List Place) : State :=
  ps.foldl (fun s p => match p with
    | .phys va y => tlbFill s x.core x.t.ctx va y
    | _ => s) s

/-! ### Scopes (R229, R230, R437) -/

/-- The code of a scope (Table 11.1). -/
def scopeCode : Scope → Nat
  | .group => 0
  | .team => 1
  | .cluster => 2
  | .die => 3
  | .device => 4
  | .pod => 5
  | .system => 6
  | .lintel => 7

/-- The widest scope of a space (Table 11.2). -/
def widest : Space → Nat
  | .l => 0
  | .s => 1
  | .c => 2
  | .d => 3
  | .g => 6

/-- The effective scope of an access (R230). -/
def effScope (sp : Space) (sc : Nat) : Nat := Nat.min sc (widest sp)

/-! ### Kinds of place -/

/-- A place of a peer whose region's token this part holds, so that the part's own caches serve it (R424). -/
def heldPeer (s : State) (p : Place) : Bool := p.isIn .peer && holds s (regionKey p.pa)

/-- An access of a place goes out as a request with a response: a peer's, unless its token is held; the host's, for reads and atomics. -/
def needsRequest (s : State) (store : Bool) (p : Place) : Bool := (p.isIn .peer && !heldPeer s p) || (p.isIn .host && !store)

/-- The part's own L2 holds the whole line of an address of a held region (R424). -/
def l2Full (s : State) (pa : Nat) : Bool := (s.l2Line? (pa / 128)).any (fun l => l.valid == BitVec.allOnes 128)

/-- A place of a held region whose line must be filled from the peer before a read (R424). -/
def needsFill (s : State) (core : Nat) (past : Bool) (size : Nat) (p : Place) : Bool :=
  heldPeer s p && !l2Full s p.pa && (past || p.past || !hitL1 s core p.pa size)

/-- A request of a core to the line of an address awaits its response (R421). -/
def lineOut (s : State) (core : Nat) (host : Bool) (addr : Nat) : Bool :=
  s.remotes.any (fun r => r.core == core && r.host == host && r.addr / 128 == addr / 128)

/-- An access of a place is passed over: the line awaits a response, or its token is being recalled or returned (R421, Table 20.3). -/
def placeBusy (s : State) (core : Nat) (p : Place) : Bool :=
  match p with
  | .phys _ y =>
    if regionOf y.pa == .peer then
      lineOut s core false y.pa || (match tokenOf s (regionKey y.pa) with
        | some (_, t) => t.st == .recalling || t.st == .returning
        | none => false)
    else if regionOf y.pa == .host then lineOut s core true (hostAddr s y.pa)
    else false
  | _ => false

/-- The rows of the first tier that accesses of places past the L1 reach (R342). -/
def homeRows (past : Bool) (ps : List Place) : List Nat := (ps.filter (fun p => p.isIn .tier1 && !p.mirror && (past || p.past))).map (fun p => p.pa)

/-! ### One word -/

/-- The records of a group that still await their own application and write a byte of a range of the window (R436). -/
def ownUpdates (s : State) (grp va len : Nat) : List Nat :=
  let l := s.lintel
  ((l.q1 ++ l.q0 ++ l.sent).filter (fun r => r.grp == grp && decide (r.va < va + len) &&
    decide (va < r.va + (if bitsOf r.hdr.toNat 31 28 = 0 then r.data.length else 2 ^ bitsOf r.hdr.toNat 38 36)))).map (fun r => r.uid)

/-- What a read leaves beside its value: the state, and the line requests already made by the instruction (R421). -/
abbrev ReadSt := State × List (Nat × Nat)

/-- A request of the instruction for the line of a peer, made once (R421); `fill` says that the part's own L2 takes the line (R424). -/
def lineRequest (core grp : Nat) (fill : Bool) (a : ReadSt) (pa va : Nat) : ReadSt × Nat :=
  match a.2.find? (fun q => q.1 == pa / 128) with
  | some q => (a, q.2)
  | none =>
    let u := a.1.uid
    let s1 := a.1.fresh.request { uid := u, core := core, grp := grp, kind := .read, addr := pa / 128 * 128, len := 128, data := [], mask := [], va := va, fill := fill, since := a.1.dtime }
    ((s1, (pa / 128, u) :: a.2), u)

/-- The bytes of a line of a held region that the core's own copy, of which an access past the L1 takes the dirty ones, or the part's own L2
holds. -/
def ownBytes (s : State) (core : Nat) (past : Bool) (pa len : Nat) : List (Option Byte) :=
  (List.range len).map (fun i =>
    let q := pa + i
    match (l1Line? s core (q / 128)).filter (fun l => (if past then l.dirty else l.valid).getLsbD (q % 128)) with
    | some l => some (l.data.getD (q % 128) 0)
    | none => if l2Has s q then some (s.homeByte q) else none)

/-- The request for bytes of the host window (R448). -/
def hostRead (s : State) (core grp pa va len : Nat) : Remote :=
  { uid := s.uid, core := core, grp := grp, host := true, kind := .read, addr := hostAddr s pa, len := len, data := [], mask := [], va := va, since := s.dtime }

/-- The place a number of bytes before a place of physical memory. -/
def Place.back (k : Nat) : Place → Place
  | .phys va y => .phys (va - k) { y with pa := y.pa - k }
  | p => p

/-- What a word of a lane awaits from its place (R149, R225, R399, R419 to R425, R436, R448, R454): an access of this part that is performed
later; or a request that goes out; a register of BAR0 is read at once. `at` is the word's offset in the access of `len` bytes that it is a
part of, and `recs` are the group's records that the access waits for. -/
def awaitPlace (core grp : Nat) (past : Bool) (size at_ len : Nat) (sgn : Bool) (recs : List Nat) (a : ReadSt) (p : Place) : ReadSt × PVal :=
  let s := a.1
  match p with
  | .phys va y =>
    match regionOf y.pa with
    | .mmio => (a, .known (loadedWord size sgn (bar0Bytes s (y.pa - 0xC0 * 2 ^ 32) size)))
    | .host =>
      if at_ = 0 then
        ((s.fresh.request (hostRead s core grp y.pa va len), (2 ^ 60 + y.pa, s.uid) :: a.2), .remote s.uid 0 size sgn (List.replicate size none) va)
      else (a, .remote (((a.2.find? (fun q => q.1 == 2 ^ 60 + y.pa - at_)).map (fun q => q.2)).getD 0) at_ size sgn (List.replicate size none) va)
    | .peer =>
      if heldPeer s p && !needsFill s core past len (Place.back at_ p) then (a, .late p size sgn past [])
      else
        let own := if heldPeer s p then ownBytes s core (past || p.past) y.pa size else List.replicate size none
        let q := lineRequest core grp (heldPeer s p) a y.pa va
        (q.1, .remote q.2 (y.pa % 128) size sgn own va)
    | _ => (a, .late p size sgn past recs)
  | p => (a, .late p size sgn past [])

/-- A word of a lane written at a place that answers with no response (R150, R217, R236, R399, R424, R448, R454). -/
def writePlace (core ctx : Nat) (past : Bool) (s : State) (p : Place) (b : List Byte) : State :=
  match p with
  | .scr c o _ => s.setScr c o b
  | .dscr d o _ => s.setDscr d o b
  | .phys _ y =>
    match regionOf y.pa with
    | .mmio | .host => s.writePa core 0 y.pa b
    | _ => if past || p.past then storeHome s core y.pa b else storeL1 s core ctx y.pa b

/-- A list in an order that is freely chosen (R226, R433). -/
def freeOrder {α : Type} (draw site : Nat) : Nat → List α → List α
  | 0, l => l
  | n + 1, l =>
    match l with
    | [] => []
    | a :: t =>
      let k := Config.freePick draw (2 ^ 50 + 2 ^ 8 * site + n) % (t.length + 1)
      let picked := (a :: t).getD k a
      picked :: freeOrder draw site n ((a :: t).eraseIdx k)

/-- The writes of an instruction or command that remain: for each place, one of those that reach it (R226, R270). -/
def winnersBy {α : Type} (draw : Nat) (key : α → Nat) (lane : α → Nat) (ws : List α) : List α :=
  ws.filter (fun w =>
    let same := ws.filter (fun v => key v == key w)
    match same[Config.freePick draw (2 ^ 60 + key w) % same.length]? with
    | some v => lane v == lane w
    | none => true)

/-- The stores of an instruction that remain (R226). -/
def winners (draw : Nat) (ws : List (Nat × Place × List Byte)) : List (Nat × Place × List Byte) :=
  winnersBy draw (fun w => w.2.1.key) (fun w => w.1) ws

/-! ### Mirror records (R433, R434) -/

/-- The bytes a record takes in a class queue. -/
def recSize (r : LintelRec) : Nat := 8 + r.data.length

/-- The bytes queued in a class queue. -/
def queuedBytes (q : List LintelRec) : Nat := (q.map recSize).foldl (· + ·) 0

/-- The class queue of a class. -/
def lintelQ (l : Lintel) (cls : Nat) : List LintelRec := if cls = 0 then l.q0 else l.q1

/-- Records appended to the class queue of a class. -/
def lintelPut (s : State) (cls : Nat) (rs : List LintelRec) : State :=
  if cls = 0 then { s with lintel := { s.lintel with q0 := s.lintel.q0 ++ rs } }
  else { s with lintel := { s.lintel with q1 := s.lintel.q1 ++ rs } }

/-- A record's header (Table 20.7). -/
def recHeader (off op aop sz aty core tag : Nat) : DWord :=
  BitVec.ofNat 64 (off % 2 ^ 28 + 2 ^ 28 * op + 2 ^ 32 * aop + 2 ^ 36 * sz + 2 ^ 39 * aty + 2 ^ 42 * core + 2 ^ 50 * (tag % 256))

/-- Bytes padded with zeros to a multiple of 8. -/
def pad8 (b : List Byte) : List Byte := b ++ List.replicate (roundUp b.length 8 - b.length) 0

/-- The code of a size of 1 to 32 bytes (Table 20.7). -/
def sizeCode (n : Nat) : Nat := Nat.log2 n

/-- ATY of a type code (Table 20.7). -/
def atyOf (ty : Nat) : Nat := if ty = 6 then 2 else if ty = 7 then 3 else if ty = 8 then 4 else ty

/-- The type code of an ATY. -/
def tyOfAty (a : Nat) : Nat := if a = 2 then 6 else if a = 3 then 7 else if a = 4 then 8 else a

/-- A store record of a lane's bytes. -/
def storeRec (s : State) (core grp va pa : Nat) (b : List Byte) : LintelRec :=
  { uid := s.uid, core := core, grp := grp, va := va, pa := pa, data := pad8 b,
    hdr := recHeader (va - s.lintel.base * 2 ^ 28) 0 0 (sizeCode b.length) 0 core s.uid }

/-- An atomic record of a lane. -/
def atomRec (s : State) (core grp va pa op ty b c : Nat) : LintelRec :=
  let n := atomBytes ty
  { uid := s.uid, core := core, grp := grp, va := va, pa := pa
    data := pad8 (bytesOf n b ++ (if op = 7 then bytesOf n c else []))
    hdr := recHeader (va - s.lintel.base * 2 ^ 28) 1 op (sizeCode n) (atyOf ty) core s.uid }

end Sys2Proof.Machine
end

