-- ==== Sys2Proof/Machine/Memory.lean ====
section
/-! DEFINITION. Loads and stores (06 R143 to R151, 10), ordered accesses, atomics and fences (11 R238 to R245), with what peers, the host
window and mirror pages add (20 R419 to R425, R432 to R437; 22 R448). -/

namespace Sys2Proof.Machine

open Sys2Proof

/-! ### Loads -/

/-- What a load or store adds to its form: bytes per lane, sign extension, the bytes added to the base, and for an ordered access its
scope and whether it acquires or releases. -/
structure AccForm where
  sp : Space
  size : Nat
  sgn : Bool := false
  add : Int := 0
  ord : Option (Nat × Bool) := none

/-- An access is performed past the L1: an ordered one of effective scope CLUSTER or wider (R236). -/
def AccForm.past (f : AccForm) : Bool :=
  match f.ord with
  | some (sc, _) => decide (2 ≤ effScope f.sp sc)
  | none => false

/-- An access is an acquire or a release. -/
def AccForm.strong (f : AccForm) : Bool :=
  match f.ord with
  | some (_, o) => o
  | none => false

/-- The effective scope of an ordered access; GROUP for a plain one. -/
def AccForm.scope (f : AccForm) : Nat :=
  match f.ord with
  | some (sc, _) => effScope f.sp sc
  | none => 0

/-- The side of an access over the lanes of act. -/
def sideOf (x : Ix) (f : AccForm) (acc : Acc) (a : LaneOp) : Side :=
  { sp := f.sp, acc := acc, size := f.size, offs := (lanesOf x.act).map (fun i => (i, laneOff x f.sp a f.add i)) }

/-- The bytes of one piece of an access. -/
def pieceLen (size : Nat) : Nat := Nat.min size 4

/-- The 8-byte ordered access is one access (R225). -/
def AccForm.whole (f : AccForm) : Bool := f.size == 8 && f.ord.isSome

/-- Its words lie beside each other, but in L, where they lie in two lines (R213). -/
def AccForm.joined (f : AccForm) : Bool := f.whole && f.sp != .l

/-- The group's own mirror records that a load of a place waits for (R436). -/
def placeRecs (x : Ix) (len : Nat) (p : Place) : List Nat := if p.mirror then ownUpdates x.s x.g.uid p.note len else []

/-- What the words of a lane await, in order. -/
def awaitLane (x : Ix) (f : AccForm) (a : ReadSt) (ps : List Place) : ReadSt × List PVal :=
  let n := pieceLen f.size
  let both := ps.flatMap (placeRecs x n)
  ((List.range ps.length).zip ps).foldl (fun r p =>
    let q := awaitPlace x.core x.g.uid f.past n (if f.joined then 4 * p.1 else 0) (if f.joined then f.size else n) f.sgn
      (if f.whole then both else placeRecs x n p.2) r.1 p.2
    (q.1, r.2 ++ [q.2])) (a, [])

/-- What every lane awaits. -/
def awaitLanes (x : Ix) (f : AccForm) (a : ReadSt) (ls : List (Nat × List Place)) : ReadSt × List (Nat × List PVal) :=
  ls.foldl (fun r l =>
    let q := awaitLane x f r.1 l.2
    (q.1, r.2 ++ [(l.1, q.2)])) (a, [])

/-- The in-flight registers of a long-latency result (R30): word k of each lane to register k of the run. -/
def pendsOf (load : Nat) (d : LaneOp) (w : Nat) (vals : List (Nat × List PVal)) (acq whole strong : Bool) : List Pend :=
  if vals.isEmpty then []
  else (List.range w).filterMap (fun k => (opReg d k).map (fun r =>
    { load := load, reg := r, vals := vals.map (fun l => (l.1, l.2.getD k (.known 0))), acq := acq, whole := whole, strong := strong }))

/-- What parks a split whose ordered access has the destination `z`: the first word of each lane (R239, R243). -/
def parkPend (load : Nat) (vals : List (Nat × List PVal)) (acq strong : Bool) : List Pend :=
  if vals.isEmpty then [] else [{ load := load, reg := zReg, vals := vals.map (fun l => (l.1, l.2.headD (.known 0))), acq := acq, strong := strong }]

/-- A word of a load with destination `z` performed and discarded (R30); an uncorrectable error that no register takes is posted (R371, R372). -/
def discardVal (x : Ix) (s : State) (v : PVal) : State :=
  match performVal false s x.t v with
  | some (s1, .bad va pa) => postAsync s1 (dieOf x.core) x.t.ctx 0x22 x.t.lch va pa (some x.core) (some x.g.uid)
  | some (s1, _) => s1
  | none => s

/-- A load with destination `z` performed and its data discarded (R30). -/
def discardVals (x : Ix) (s : State) (vals : List (Nat × List PVal)) : State := (vals.flatMap (fun l => l.2)).foldl (discardVal x) s

/-- The effect of a load that passed its checks and waits: the destination in flight, with what each of its words awaits, and the park of
an acquire (R30, R149, R226, R239). -/
def loadEffect (x : Ix) (f : AccForm) (w : Nat) (d : LaneOp) (ls : List (Nat × List Place)) : State × Next :=
  let s0 := fillTlb x x.s (ls.flatMap (fun l => l.2))
  let r := awaitLanes x f (s0.fresh, []) ls
  let acq := f.strong && decide (2 ≤ f.scope)
  let pends := if d != .z then pendsOf s0.uid d w r.2 acq f.whole f.strong else if f.strong then parkPend s0.uid r.2 acq true else []
  let s1 := if d == .z && !f.strong then discardVals x r.1.1 r.2 else r.1.1
  (s1.modGroup x.g.uid (fun g => { g with pends := g.pends ++ pends }), if f.strong && !ls.isEmpty then .park else .step)

/-- A load of every form (R149, R239): checks, waits, effect. -/
def loadOp (f : AccForm) (w : Nat) (d a : LaneOp) : State → Host.Outcome State Fault Refusal :=
  issue { srcs := [(a, baseWords f.sp)], dsts := [(d, w)] } (fun x =>
    let sd := sideOf x f .load a
    match check5 x [sd] with
    | some t => .error t
    | none =>
      let ls := sidePlaces x sd
      .ok (if (ls.flatMap (fun l => l.2)).any (placeBusy x.s x.core) then (x.s, .again) else loadEffect x f w d ls))

/-- The bytes that the offset field of a load or store adds to the base (R145). -/
def offBytes (off : BitVec 9) : Int := 4 * off.toInt

/-- The registers of a run width (Table 03.4). -/
def wRegs : Width → Nat
  | .x1 => 1
  | .x2 => 2
  | .x4 => 4
  | .x8 => 8

/-- The form of a plain access of a run. -/
def plainForm (sp : Space) (w : Width) (off : BitVec 9) : AccForm := { sp := sp, size := 4 * wRegs w, add := offBytes off }

/-- LDG (R143 to R149). -/
def execLdg (w : Width) (d a : LaneOp) (off : BitVec 9) (s : State) : Host.Outcome State Fault Refusal :=
  loadOp (plainForm .g w off) (wRegs w) d a s
/-- LDS (R143 to R149). -/
def execLds (w : Width) (d a : LaneOp) (off : BitVec 9) (s : State) : Host.Outcome State Fault Refusal :=
  loadOp (plainForm .s w off) (wRegs w) d a s
/-- LDC (R143 to R149, R214). -/
def execLdc (w : Width) (d a : LaneOp) (off : BitVec 9) (s : State) : Host.Outcome State Fault Refusal :=
  loadOp (plainForm .c w off) (wRegs w) d a s
/-- LDD (R143 to R149, R216). -/
def execLdd (w : Width) (d a : LaneOp) (off : BitVec 9) (s : State) : Host.Outcome State Fault Refusal :=
  loadOp (plainForm .d w off) (wRegs w) d a s
/-- LDL (R143 to R149, R213). -/
def execLdl (w : Width) (d a : LaneOp) (off : BitVec 9) (s : State) : Host.Outcome State Fault Refusal :=
  loadOp (plainForm .l w off) (wRegs w) d a s

/-- The size and signedness of a sub-word load (Table 06.5). -/
def subForm : SubKind → Nat × Bool
  | .u8 => (1, false)
  | .s8 => (1, true)
  | .u16 => (2, false)
  | .s16 => (2, true)

/-- LDX (R146, R147). -/
def execLdx (d a : LaneOp) (sp : Space) (kind : SubKind) (s : State) : Host.Outcome State Fault Refusal :=
  loadOp { sp := sp, size := (subForm kind).1, sgn := (subForm kind).2 } 1 d a s

/-- LDO (R238, R239). -/
def execLdo (wide : Bool) (d a : LaneOp) (sp : Space) (acq : Bool) (sc : Scope) (s : State) : Host.Outcome State Fault Refusal :=
  loadOp { sp := sp, size := if wide then 8 else 4, ord := some (scopeCode sc, acq) } (if wide then 2 else 1) d a s

/-! ### Stores -/

/-- The bytes of each piece of a lane's data (R150). -/
def storePieces (size v : Nat) : List (List Byte) := (pieces size).map (fun u => bytesOf (pieceLen size) (v / 2 ^ (8 * u)))

/-- The writes of the lanes: lane, place and bytes of each piece. -/
def writesOf (size : Nat) (ls : List (Nat × List Place)) (v : Nat → Nat) : List (Nat × Place × List Byte) :=
  ls.flatMap (fun l => (l.2.zip (storePieces size (v l.1))).map (fun q => (l.1, q.1, q.2)))

/-- The pieces of a wide ordered store joined into its one access (R225). -/
def joinPieces (wide : Bool) (ws : List (Nat × Place × List Byte)) : List (Nat × Place × List Byte) :=
  if !wide then ws
  else match ws with
    | a :: b :: t => (a.1, a.2.1, a.2.2 ++ b.2.2) :: joinPieces wide t
    | l => l

/-- The lines of a list of writes. -/
def linesOf (ws : List (Nat × Place × List Byte)) : List Nat :=
  ws.foldl (fun l w => if l.contains (w.2.1.pa / 128) then l else l ++ [w.2.1.pa / 128]) []

/-- The request of an instruction for one line of a peer, with the bytes of its writes (R421): its home accepts and performs it, or, where the
instruction reaches other lines too, holds it until they are accepted as well (Table 20.3, log 18). -/
def lineWrite (x : Ix) (hold : Bool) (s : State) (line : Nat) (ws : List (Nat × Place × List Byte)) : State :=
  let mine := ws.filter (fun w => w.2.1.pa / 128 == line)
  let put := mine.foldl (fun (l : List Byte × List Bool) w =>
    let o := w.2.1.pa % 128
    let n := w.2.2.length
    (l.1.take o ++ w.2.2 ++ l.1.drop (o + n), l.2.take o ++ List.replicate n true ++ l.2.drop (o + n)))
    (List.replicate 128 0, List.replicate 128 false)
  let va := match mine with
    | w :: _ => w.2.1.note
    | [] => 0
  s.fresh.request { uid := s.uid, core := x.core, grp := x.g.uid, kind := .write, addr := line * 128, len := 128, data := put.1, mask := put.2, va := va, lanes := maskOf (fun i => mine.any (fun w => w.1 == i)), ask := some x.am, hold := hold, ctx := x.t.ctx, since := s.dtime }

/-- The identifiers of the requests that a step has added. -/
def newRequests (before after : State) : List Nat := (after.remotes.drop before.remotes.length).map (fun r => r.uid)

/-- The issuing split held at its instruction, with what that has resolved, until the requests that a step has added are answered (Table 20.3). -/
def holdSplit (x : Ix) (k : Kept) (before after : State) : State × Next :=
  let a := x.sp.ask.getD {}
  (after.modGroup x.g.uid (fun g => g.setSplit x.e { g.split x.e with ask := some { a with reqs := newRequests before after, kept := some k } }), .again)

/-- The two operands of a lane. -/
def Kept.operands (k : Kept) (lane : Nat) : Nat × Nat := ((k.data.find? (fun d => d.1 == lane)).map (fun d => d.2)).getD (0, 0)

/-- What an instruction resolves at its issue: the places of its lanes, and two operands of each. -/
def keptNow (x : Ix) (ls : List (Nat × List Place)) (b c : Nat → Nat) : Kept :=
  { places := ls, data := ls.map (fun l => (l.1, b l.1, c l.1)), draw := x.s.draws }

/-- The places that an instruction has resolved. -/
def Kept.all (k : Kept) : List Place := k.places.flatMap (fun l => l.2)

/-- The home of a line has accepted what the lane of a split sends it. -/
def accepted (x : Ix) (line lane : Nat) : Bool := (x.sp.ask.getD {}).ok.any (fun a => a.1 == line && a.2.getLsbD lane)

/-- The access of a lane at a place is its home's: the home has accepted it, or it goes out as a request. A token that comes meanwhile does not take
back what a home has accepted (R425). -/
def goesOut (x : Ix) (store : Bool) (lane : Nat) (p : Place) : Bool := accepted x (p.pa / 128) lane || needsRequest x.s store p

/-- The homes of other lines have accepted too: those that hold a request of the split are told to perform it. -/
def performHeld (x : Ix) (s : State) : State := (x.sp.ask.getD {}).held.foldl (tellHome x.core x.g.uid true) s

/-- The local writes performed; a later one goes first, so that what they place on the agenda stands in their order. -/
def doWrites (x : Ix) (past : Bool) (s : State) (ws : List (Nat × Place × List Byte)) : State :=
  ws.reverse.foldl (fun s w => writePlace x.core x.t.ctx past s w.2.1 w.2.2) s

/-- A release by writes at home lines (R236). -/
def releaseLines (core : Nat) (s : State) (ls : List Nat) : State := ls.foldl (fun s l => releaseAt s core l) s

/-- The records of the lanes of a store to a mirror page, in an order freely chosen (R433). -/
def mirrorRecs (x : Ix) (s : State) (size : Nat) (ls : List (Nat × List Place)) (v : Nat → Nat) : State × List LintelRec :=
  let mine := ls.filter (fun l => (l.2.headD (.scr 0 0 0)).mirror)
  (freeOrder s.draws 1 32 mine).foldl (fun a l =>
    (a.1.fresh, a.2 ++ [storeRec a.1 x.core x.g.uid ((l.2.headD (.scr 0 0 0)).note) ((l.2.headD (.scr 0 0 0)).pa) (bytesOf size (v l.1))])) (s, [])

/-- Records find room in the class queue (R433); no records need none. -/
def roomFor (s : State) (cls : Nat) (rs : List LintelRec) : Bool :=
  rs.isEmpty || decide (queuedBytes (lintelQ s.lintel cls) + queuedBytes rs ≤ 65536)

/-- A place of device memory that is no mirror. -/
def atHome (p : Place) : Bool := (p.isIn .tier1 || p.isIn .tier2) && !p.mirror

/-- The rows that an instruction's writes and atomics reach (R342): those of its accesses past the L1, and those of lines that an older epoch
has left dirty in the L1 that takes the others. -/
def writeRows (x : Ix) (past : Bool) (ps : List Place) : List Nat :=
  homeRows past ps ++ (ps.filter (fun p => p.isIn .tier1 && !p.mirror && !(past || p.past) && (l1Line? x.s x.core (p.pa / 128)).any (fun l =>
    l.dirty != 0 && l.epoch != (x.s.core x.core).epoch))).map Place.pa

/-- The home lines that an instruction's atomics reach. -/
def atomLines (atom : Bool) (ps : List Place) : List Nat := if atom then (ps.filter atHome).map (fun p => p.pa / 128) else []

/-- The cores recorded at home lines that a core's atomics reach are sent drain requests, which are served as far as the channels allow (R236,
R342). -/
def reachAll (s : State) (core : Nat) (lines : List Nat) : State := lines.foldl (fun s l => reachWait s core l) s

/-- The state in which an instruction's writes and atomics may be performed: the lines of its places are not busy, the cores recorded at the
home lines that its atomics reach have drained (R236), the channels have served its rows (R342), and the group's loads of their bytes are
performed, of mirror bytes too (R151, R436); or the passing over. -/
def cleared (x : Ix) (past atom : Bool) (ps : List Place) (size : Nat) (k : State → State × Next) : State × Next :=
  if ps.any (placeBusy x.s x.core) then (x.s, .again)
  else
    let lines := atomLines atom ps
    let s0 := reachAll x.s x.core lines
    if lines.any (reachLeft s0 x.core) then (s0, .again)
    else
      let rows := (writeRows x past ps).filter (fun pa => !(x.sp.ask.getD {}).served.contains (rowOf pa))
      let r := serveRows s0 rows
      if !r.2.isEmpty then turnAway x r.1 r.2 ((rows.map rowOf).filter (fun n => !r.2.contains n))
      else
        let ws := ps.map (fun p => (p, size))
        let s1 := settleAt r.1 x.g.uid ws
        if (s1.group? x.g.uid).any (fun g => lateAt g ws) then (s1, .again) else k s1

/-- The effect of a store that passed its checks, waits and release (R150, R226, R421, R425, R433). The one line of a store is performed by the home
that accepts it; where a store reaches more, its homes perform it once all have accepted (Table 20.3, log 18). -/
def storeEffect (x : Ix) (f : AccForm) (lazy : Bool) (k : Kept) (s : State) : State × Next :=
  let v (i : Nat) : Nat := (k.operands i).1
  let s0 := fillTlb x s k.all
  let ws := winners k.draw (joinPieces f.joined (writesOf f.size k.places v))
  let out := ws.filter (fun w => goesOut x true w.1 w.2.1)
  let here := ws.filter (fun w => !goesOut x true w.1 w.2.1 && !w.2.1.mirror)
  let m := mirrorRecs x s0 f.size k.places v
  let ask := out.filter (fun w => !accepted x (w.2.1.pa / 128) w.1)
  if !roomFor s0 (x.s.clsOf x.t) m.2 then (x.s, .again)
  else if !ask.isEmpty then holdSplit x k s0 ((linesOf ask).foldl (fun s l => lineWrite x (decide (1 < (linesOf ws).length)) s l ask) s0)
  else
    let s1 := releaseLines x.core (doWrites x f.past { s0 with uid := m.1.uid } here) (if lazy then linesOf here else [])
    (lintelPut (performHeld x s1) (x.s.clsOf x.t) m.2, .step)

/-- The scope of the release that an ordered store makes; none for one that makes none. -/
def AccForm.relScope (f : AccForm) (ls : List (Nat × List Place)) : Option Nat := if f.strong && !ls.isEmpty then some f.scope else none

/-- A store of every form (R150, R239). A release at CLUSTER scope or wider leaves a record at the home lines it writes; one that writes
elsewhere drains the core first (R231, R236). A store that homes have been asked for goes on with what it resolved at its issue: it reads and
translates nothing anew (R9, R32, R148). -/
def storeOp (f : AccForm) (w : Nat) (d a : LaneOp) : State → Host.Outcome State Fault Refusal :=
  issue { srcs := [(a, baseWords f.sp), (d, w)] } (fun x =>
    let go (lazy : Bool) (k : Kept) (x : Ix) : State × Next := cleared x f.past false k.all (pieceLen f.size) (storeEffect x f lazy k)
    match keptOf x with
    | some k => .ok (go false k x)
    | none =>
      let sd := sideOf x f .store a
      match check5 x [sd] with
      | some t => .error t
      | none =>
        let ls := sidePlaces x sd
        let ps := ls.flatMap (fun l => l.2)
        let rel := f.strong && decide (2 ≤ f.scope)
        let lazy := rel && ps.all atHome && !fifthRecord x.s x.core (ps.map (fun p => p.pa / 128))
        .ok (released x (f.relScope ls) (rel && !lazy) (fun x => go lazy (keptNow x ls (fun i => readRun x 1 d w i) (fun _ => 0)) x) (ps.all Place.mirror)))

/-- STG (R143 to R150). -/
def execStg (w : Width) (d a : LaneOp) (off : BitVec 9) (s : State) : Host.Outcome State Fault Refusal :=
  storeOp (plainForm .g w off) (wRegs w) d a s
/-- STS (R143 to R150). -/
def execSts (w : Width) (d a : LaneOp) (off : BitVec 9) (s : State) : Host.Outcome State Fault Refusal :=
  storeOp (plainForm .s w off) (wRegs w) d a s
/-- STC (R143 to R150, R214, R215). -/
def execStc (w : Width) (d a : LaneOp) (off : BitVec 9) (s : State) : Host.Outcome State Fault Refusal :=
  storeOp (plainForm .c w off) (wRegs w) d a s
/-- STD (R143 to R150, R216). -/
def execStd (w : Width) (d a : LaneOp) (off : BitVec 9) (s : State) : Host.Outcome State Fault Refusal :=
  storeOp (plainForm .d w off) (wRegs w) d a s
/-- STL (R143 to R150, R213). -/
def execStl (w : Width) (d a : LaneOp) (off : BitVec 9) (s : State) : Host.Outcome State Fault Refusal :=
  storeOp (plainForm .l w off) (wRegs w) d a s

/-- STX (R146, R147). -/
def execStx (d a : LaneOp) (sp : Space) (half : Bool) (s : State) : Host.Outcome State Fault Refusal :=
  storeOp { sp := sp, size := if half then 2 else 1 } 1 d a s

/-- STO (R238, R239). -/
def execSto (wide : Bool) (d a : LaneOp) (sp : Space) (rel : Bool) (sc : Scope) (s : State) : Host.Outcome State Fault Refusal :=
  storeOp { sp := sp, size := if wide then 8 else 4, ord := some (scopeCode sc, rel) } (if wide then 2 else 1) d a s

/-! ### Atomics -/

/-- What the atomics of one instruction leave: the state, each lane's old value, and the records for the mirror. -/
structure AtomSt where
  s : State
  vals : List (Nat × List PVal) := []
  recs : List LintelRec := []

/-- The words of an old value. -/
def oldWords (ty m : Nat) : List PVal :=
  (List.range (atomBytes ty / 4)).map (fun k => .known (BitVec.ofNat 32 (m / 2 ^ (32 * k))))

/-- An atomic on bytes at hand: its old value, unless they hold an error (R372), and the state after its write. -/
def atomHere (op ty : Nat) (a : AtomSt) (lane note pa : Nat) (bad : Bool) (m b c : Nat) (put : State → List Byte → State) : AtomSt :=
  let n := atomBytes ty
  if bad then { a with vals := a.vals ++ [(lane, List.replicate (n / 4) (.bad note pa))] }
  else { a with s := put a.s (bytesOf n (atomNew op ty m b c)), vals := a.vals ++ [(lane, oldWords ty m)] }

/-- The first word's place. -/
def firstPlace (ps : List Place) : Place := ps.headD (.scr 0 0 0)

/-- The home addresses of an atomic of n bytes at pa, with their lengths: two where its second word lies in another
line of device memory (R241, R400). -/
def atomHalves (n pa : Nat) (ps : List Place) : List (Nat × Nat) :=
  match ps with
  | [_, .phys _ y] => if y.pa / 128 ≠ pa / 128 ∧ !eM y.e ∧ (regionOf y.pa == .tier1 || regionOf y.pa == .tier2) then [(pa, 4), (y.pa, 4)] else [(pa, n)]
  | _ => [(pa, n)]

/-- Bytes written by a core at the home addresses in order. -/
def putHalves (s : State) (core : Nat) : List (Nat × Nat) → List Byte → State
  | [], _ => s
  | h :: t, v => putHalves (ownHome s core h.1 (v.take h.2)) core t (v.drop h.2)

/-- The request of a lane's atomic to a peer or the host (R242, R418, R448). Each lane's atomic is a request of its own: R421 speaks of one request for the
lanes of a group that reach one line, but Table 20.2 gives a request no more than one atomic of 4 or 8 bytes (DESIGN CHOICE, log 18). -/
def atomRequest (x : Ix) (op ty : Nat) (a : AtomSt) (lane : Nat) (host : Bool) (addr va b c : Nat) (ask : Option Lanes := none)
    (hold : Bool := false) : AtomSt :=
  let n := atomBytes ty
  let s := a.s
  { a with
    s := s.fresh.request { uid := s.uid, core := x.core, grp := x.g.uid, host := host, kind := .atomic op ty, addr := addr, len := n, data := bytesOf n b ++ (if op = 7 then bytesOf n c else []), mask := [], va := va, lanes := laneBit lane, ask := ask, hold := hold, ctx := x.t.ctx, since := s.dtime }
    vals := a.vals ++ [(lane, (List.range (n / 4)).map (fun k => .remote s.uid (4 * k) 4 false (List.replicate 4 none) va))] }

/-- The atomic of one lane at its place (R242, R418, R424, R436, R448). -/
def atomLane (x : Ix) (op ty : Nat) (past : Bool) (a : AtomSt) (lane : Nat) (ps : List Place) (b c : Nat) : AtomSt :=
  let n := atomBytes ty
  let p := firstPlace ps
  let s := a.s
  match p with
  | .scr co o note => atomHere op ty a lane note 0 (badScr s co o n) (ofBytes (s.scrBytes co o n)) b c (fun s v => s.setScr co o v)
  | .dscr di o note => atomHere op ty a lane note 0 (badDscr s di o n) (ofBytes (s.dscrBytes di o n)) b c (fun s v => s.setDscr di o v)
  | .phys va y =>
    if needsRequest x.s false p then
      atomRequest x op ty a lane (regionOf y.pa == .host) (if regionOf y.pa == .host then hostAddr s y.pa else y.pa) va b c
    else if regionOf y.pa = .mmio then
      atomHere op ty a lane va 0 false (ofBytes (bar0Bytes s (y.pa - 0xC0 * 2 ^ 32) n)) b c (fun s v => writePlace x.core x.t.ctx past s p v)
    else if eM y.e then
      let r := atomRec s x.core x.g.uid va y.pa op ty b c
      { s := s.fresh, recs := a.recs ++ [r], vals := a.vals ++ [(lane, (List.range (n / 4)).map (fun k => .mirror r.uid k))] }
    else
      let hs := atomHalves n y.pa ps
      let g := hs.foldl (fun (g : Got) h =>
        let r := loadHome g.s x.core h.1 h.2
        { s := r.s, bytes := g.bytes ++ r.bytes, bad := g.bad || r.bad }) { s := s, bytes := [], bad := false }
      atomHere op ty { a with s := g.s } lane va y.pa g.bad (ofBytes g.bytes) b c (fun s v => putHalves s x.core hs v)

/-- D and B of an 8-byte atomic name pairs (R241). -/
def atomPair : LaneOp → Bool
  | .v n => n.val % 2 == 0
  | .o n => n.val % 2 == 0
  | .z => true
  | _ => false

/-- The widths of D and B under MR.TY. -/
def atomWords (x : Ix) : Nat := atomBytes x.ty / 4

/-- The needs of an atomic (R240, R241). -/
def atomNeeds (op : Nat) (sp : Space) (d a b : LaneOp) : Needs :=
  { srcs := [(a, baseWords sp)]
    srcsBy := fun x => (b, atomWords x) :: (if op = 7 then [(d, atomWords x)] else [])
    bad := fun x => illegalIf (!atomOk op x.ty || (is64 x.ty && !(atomPair d && atomPair b)) || !runFits x (d, atomWords x)) }

/-- The lanes whose atomic met an error that no register takes: UE_UNDELIVERED (R372). -/
def postAtoms (x : Ix) (s : State) (vals : List (Nat × List PVal)) : State :=
  vals.foldl (fun s v => match v.2 with
    | .bad va pa :: _ => postAsync s (dieOf x.core) x.t.ctx 0x22 x.t.lch va pa (some x.core) (some x.g.uid)
    | _ => s) s

/-- The lanes whose reductions go out to peers. -/
def atomsOut (x : Ix) (ls : List (Nat × List Place)) : List (Nat × List Place) :=
  ls.filter (fun l => (firstPlace l.2).isIn .peer && goesOut x false l.1 (firstPlace l.2))

/-- The requests of lanes' reductions to peers, each of which waits for its home to accept it (R421, Table 20.3). -/
def askAtoms (x : Ix) (op : Nat) (k : Kept) (hold : Bool) (s : State) (ls : List (Nat × List Place)) : State :=
  (ls.foldl (fun (a : AtomSt) l =>
    let p := firstPlace l.2
    atomRequest x op x.ty a l.1 false p.pa p.note (k.operands l.1).1 (k.operands l.1).2 (some (laneBit l.1)) hold) { s := s }).s

/-- The fills of the lines of held regions that the atomics need (R424). -/
def fillLines (x : Ix) (s : State) (ps : List Place) : State :=
  ((ps.filter (needsFill x.s x.core true 4)).foldl (fun (a : ReadSt) p => (lineRequest x.core x.g.uid true a p.pa p.note).1) (s, [])).1

/-- The atomics of an instruction in an order freely chosen (R226). -/
def atomRun (x : Ix) (op : Nat) (k : Kept) (ls : List (Nat × List Place)) (s : State) : AtomSt :=
  (freeOrder x.s.draws 2 32 ls).foldl (fun a l =>
    atomLane x op x.ty true a l.1 l.2 (k.operands l.1).1 (k.operands l.1).2) { s := s.fresh }

/-- MR.ORD asks for a release, or for an acquire (Table 11.3). -/
def ordRel (x : Ix) : Bool := mrORD x.sp.mr == 2 || mrORD x.sp.mr == 3
/-- (see `ordRel`) -/
def ordAcq (x : Ix) : Bool := mrORD x.sp.mr == 1 || mrORD x.sp.mr == 3

/-- The effect of the atomics of one instruction after checks, waits and release (R226, R242, R243). -/
def atomEffect (x : Ix) (op : Nat) (lazy acq strong : Bool) (d : LaneOp) (k : Kept) (s : State) : State × Next :=
  let ls := k.places
  let ps := k.all
  let s0 := fillTlb x s ps
  let fill := fillLines x s0 ps
  let out := if d == .z then atomsOut x ls else []
  let ask := out.filter (fun l => !accepted x ((firstPlace l.2).pa / 128) l.1)
  if fill.remotes.length ≠ s0.remotes.length then holdSplit x k s0 fill
  else if !ask.isEmpty then holdSplit x k s0 (askAtoms x op k (decide (1 < ls.length)) s0 ask)
  else
    let homes := if lazy then linesOf (ps.map (fun p => (0, p, []))) else []
    let r := atomRun x op k (ls.filter (fun l => !out.any (fun o => o.1 == l.1))) s0
    if !roomFor s0 (x.s.clsOf x.t) r.recs then (x.s, .again)
    else
      let far := r.vals.any (fun v => v.2.any (fun w => !arrived w))
      let s1 := releaseLines x.core (lintelPut (performHeld x r.s) (x.s.clsOf x.t) r.recs) homes
      let s2 := if acq && strong && !far then acquireCore s1 x.core else s1
      let s3 := if d == .z then postAtoms x s2 r.vals else s2
      let pends :=
        if d != .z then pendsOf s0.uid d (atomWords x) r.vals (acq && strong && far) false acq
        else if acq && far then parkPend s0.uid r.vals strong true else []
      (s3.modGroup x.g.uid (fun g => { (if acq && !far then g.acquired else g) with pends := g.pends ++ pends }), if acq then .park else .step)

/-- An atomic of a space (R240 to R243). A release at CLUSTER scope or wider leaves a record at the home lines it writes; one that goes
elsewhere, and one that also acquires, drains the core first, so that two of the latter synchronise as two fences do (R234, R236). -/
def atomOp (op : Nat) (sp : Space) (d a b : LaneOp) : State → Host.Outcome State Fault Refusal :=
  issue (atomNeeds op sp d a b) (fun x =>
    let f : AccForm := { sp := sp, size := atomBytes x.ty, ord := some (6, false) }
    let sc := effScope sp (mrSCOPE x.sp.mr)
    let strong := decide (2 ≤ sc)
    let go (lazy : Bool) (k : Kept) (x : Ix) : State × Next :=
      cleared x true true k.all 4 (atomEffect x op lazy (ordAcq x && !k.places.isEmpty) strong d k)
    match keptOf x with
    | some k => .ok (go false k x)
    | none =>
      let sd := sideOf x f (.atomic op x.ty) a
      match check5 x [sd] with
      | some t => .error t
      | none =>
        let ls := sidePlaces x sd
        let ps := ls.flatMap (fun l => l.2)
        let rel := ordRel x && !ls.isEmpty
        let lazy := rel && strong && !ordAcq x && ps.all atHome && !fifthRecord x.s x.core (ps.map (fun p => p.pa / 128))
        .ok (released x (if rel then some sc else none) (rel && strong && !lazy) (fun x =>
          go lazy (keptNow x ls (readRun x 1 b (atomWords x)) (readRun x 2 d (atomWords x))) x) (ps.all Place.mirror)))

/-- ATOMG.ADD (R240 to R243). -/
def execAtomgAdd (d a b : LaneOp) (s : State) : Host.Outcome State Fault Refusal := atomOp 0 .g d a b s
/-- ATOMG.MIN (R240 to R243). -/
def execAtomgMin (d a b : LaneOp) (s : State) : Host.Outcome State Fault Refusal := atomOp 1 .g d a b s
/-- ATOMG.MAX (R240 to R243). -/
def execAtomgMax (d a b : LaneOp) (s : State) : Host.Outcome State Fault Refusal := atomOp 2 .g d a b s
/-- ATOMG.AND (R240 to R243). -/
def execAtomgAnd (d a b : LaneOp) (s : State) : Host.Outcome State Fault Refusal := atomOp 3 .g d a b s
/-- ATOMG.OR (R240 to R243). -/
def execAtomgOr (d a b : LaneOp) (s : State) : Host.Outcome State Fault Refusal := atomOp 4 .g d a b s
/-- ATOMG.XOR (R240 to R243). -/
def execAtomgXor (d a b : LaneOp) (s : State) : Host.Outcome State Fault Refusal := atomOp 5 .g d a b s
/-- ATOMG.EXCH (R240 to R243). -/
def execAtomgExch (d a b : LaneOp) (s : State) : Host.Outcome State Fault Refusal := atomOp 6 .g d a b s
/-- ATOMG.CAS (R240 to R243). -/
def execAtomgCas (d a b : LaneOp) (s : State) : Host.Outcome State Fault Refusal := atomOp 7 .g d a b s
/-- ATOMG.INC (R240 to R243). -/
def execAtomgInc (d a b : LaneOp) (s : State) : Host.Outcome State Fault Refusal := atomOp 8 .g d a b s
/-- ATOMG.DEC (R240 to R243). -/
def execAtomgDec (d a b : LaneOp) (s : State) : Host.Outcome State Fault Refusal := atomOp 9 .g d a b s
/-- ATOMS.ADD (R240 to R243). -/
def execAtomsAdd (d a b : LaneOp) (s : State) : Host.Outcome State Fault Refusal := atomOp 0 .s d a b s
/-- ATOMS.MIN (R240 to R243). -/
def execAtomsMin (d a b : LaneOp) (s : State) : Host.Outcome State Fault Refusal := atomOp 1 .s d a b s
/-- ATOMS.MAX (R240 to R243). -/
def execAtomsMax (d a b : LaneOp) (s : State) : Host.Outcome State Fault Refusal := atomOp 2 .s d a b s
/-- ATOMS.AND (R240 to R243). -/
def execAtomsAnd (d a b : LaneOp) (s : State) : Host.Outcome State Fault Refusal := atomOp 3 .s d a b s
/-- ATOMS.OR (R240 to R243). -/
def execAtomsOr (d a b : LaneOp) (s : State) : Host.Outcome State Fault Refusal := atomOp 4 .s d a b s
/-- ATOMS.XOR (R240 to R243). -/
def execAtomsXor (d a b : LaneOp) (s : State) : Host.Outcome State Fault Refusal := atomOp 5 .s d a b s
/-- ATOMS.EXCH (R240 to R243). -/
def execAtomsExch (d a b : LaneOp) (s : State) : Host.Outcome State Fault Refusal := atomOp 6 .s d a b s
/-- ATOMS.CAS (R240 to R243). -/
def execAtomsCas (d a b : LaneOp) (s : State) : Host.Outcome State Fault Refusal := atomOp 7 .s d a b s
/-- ATOMS.INC (R240 to R243). -/
def execAtomsInc (d a b : LaneOp) (s : State) : Host.Outcome State Fault Refusal := atomOp 8 .s d a b s
/-- ATOMS.DEC (R240 to R243). -/
def execAtomsDec (d a b : LaneOp) (s : State) : Host.Outcome State Fault Refusal := atomOp 9 .s d a b s
/-- ATOMC.ADD (R240 to R243). -/
def execAtomcAdd (d a b : LaneOp) (s : State) : Host.Outcome State Fault Refusal := atomOp 0 .c d a b s
/-- ATOMC.MIN (R240 to R243). -/
def execAtomcMin (d a b : LaneOp) (s : State) : Host.Outcome State Fault Refusal := atomOp 1 .c d a b s
/-- ATOMC.MAX (R240 to R243). -/
def execAtomcMax (d a b : LaneOp) (s : State) : Host.Outcome State Fault Refusal := atomOp 2 .c d a b s
/-- ATOMC.AND (R240 to R243). -/
def execAtomcAnd (d a b : LaneOp) (s : State) : Host.Outcome State Fault Refusal := atomOp 3 .c d a b s
/-- ATOMC.OR (R240 to R243). -/
def execAtomcOr (d a b : LaneOp) (s : State) : Host.Outcome State Fault Refusal := atomOp 4 .c d a b s
/-- ATOMC.XOR (R240 to R243). -/
def execAtomcXor (d a b : LaneOp) (s : State) : Host.Outcome State Fault Refusal := atomOp 5 .c d a b s
/-- ATOMC.EXCH (R240 to R243). -/
def execAtomcExch (d a b : LaneOp) (s : State) : Host.Outcome State Fault Refusal := atomOp 6 .c d a b s
/-- ATOMC.CAS (R240 to R243). -/
def execAtomcCas (d a b : LaneOp) (s : State) : Host.Outcome State Fault Refusal := atomOp 7 .c d a b s
/-- ATOMC.INC (R240 to R243). -/
def execAtomcInc (d a b : LaneOp) (s : State) : Host.Outcome State Fault Refusal := atomOp 8 .c d a b s
/-- ATOMC.DEC (R240 to R243). -/
def execAtomcDec (d a b : LaneOp) (s : State) : Host.Outcome State Fault Refusal := atomOp 9 .c d a b s
/-- ATOMD.ADD (R240 to R243). -/
def execAtomdAdd (d a b : LaneOp) (s : State) : Host.Outcome State Fault Refusal := atomOp 0 .d d a b s
/-- ATOMD.MIN (R240 to R243). -/
def execAtomdMin (d a b : LaneOp) (s : State) : Host.Outcome State Fault Refusal := atomOp 1 .d d a b s
/-- ATOMD.MAX (R240 to R243). -/
def execAtomdMax (d a b : LaneOp) (s : State) : Host.Outcome State Fault Refusal := atomOp 2 .d d a b s
/-- ATOMD.AND (R240 to R243). -/
def execAtomdAnd (d a b : LaneOp) (s : State) : Host.Outcome State Fault Refusal := atomOp 3 .d d a b s
/-- ATOMD.OR (R240 to R243). -/
def execAtomdOr (d a b : LaneOp) (s : State) : Host.Outcome State Fault Refusal := atomOp 4 .d d a b s
/-- ATOMD.XOR (R240 to R243). -/
def execAtomdXor (d a b : LaneOp) (s : State) : Host.Outcome State Fault Refusal := atomOp 5 .d d a b s
/-- ATOMD.EXCH (R240 to R243). -/
def execAtomdExch (d a b : LaneOp) (s : State) : Host.Outcome State Fault Refusal := atomOp 6 .d d a b s
/-- ATOMD.CAS (R240 to R243). -/
def execAtomdCas (d a b : LaneOp) (s : State) : Host.Outcome State Fault Refusal := atomOp 7 .d d a b s
/-- ATOMD.INC (R240 to R243). -/
def execAtomdInc (d a b : LaneOp) (s : State) : Host.Outcome State Fault Refusal := atomOp 8 .d d a b s
/-- ATOMD.DEC (R240 to R243). -/
def execAtomdDec (d a b : LaneOp) (s : State) : Host.Outcome State Fault Refusal := atomOp 9 .d d a b s

/-! ### Fences -/

/-- What a fence waits for: the group's requests and records, and at POD scope or wider the remote writes of its core (R245, R422). -/
def fencePend (x : Ix) (s : State) (ids : List Nat) (acq strong : Bool) : State :=
  s.fresh.modGroup x.g.uid (fun g =>
    { g with pends := g.pends ++ [{ load := s.uid, reg := zReg, vals := (lanesOf x.am).map (fun i => (i, .after ids)), acq := acq, strong := strong }] })

/-- FENCE of a kind and scope (R236, R245): every kind finds the group's loads performed, those behind its own mirror records too (R436), and, at
CLUSTER scope or wider, its stores too, which
the drain of its core does; the split parks until what has gone out has its responses and the group's records are applied, and then the
invalidation of an acquiring fence is done. -/
def fenceOp (acq : Bool) (sc : Scope) : State → Host.Outcome State Fault Refusal :=
  issue { guarded := false } (fun x =>
    let eff := effScope .g (scopeCode sc)
    let s1 := settle x.s x.g.uid
    let r := if decide (2 ≤ eff) then drainServed s1 x.core else (s1, [])
    .ok (if !r.2.isEmpty then turnAway x r.1 r.2
      else if (r.1.group? x.g.uid).any anyLate then (r.1, .again)
      else
        let s2 := if decide (2 ≤ eff) then drainCore r.1 x.core else r.1
        let ids := outstanding s2 x.g.uid x.core (Nat.max 2 eff)
        let inv := acq && decide (2 ≤ eff)
        if ids.isEmpty then ((if inv then acquireCore s2 x.core else s2).modGroup x.g.uid (fun g => if acq then g.acquired else g), .park)
        else (fencePend x s2 ids inv acq, .park)))

/-- FENCE.ACQ (R244, R245). -/
def execFenceAcq (sc : Scope) (s : State) : Host.Outcome State Fault Refusal := fenceOp true sc s
/-- FENCE.REL (R244, R245). -/
def execFenceRel (sc : Scope) (s : State) : Host.Outcome State Fault Refusal := fenceOp false sc s
/-- FENCE.FULL (R244, R245). -/
def execFenceFull (sc : Scope) (s : State) : Host.Outcome State Fault Refusal := fenceOp true sc s

end Sys2Proof.Machine
end

