-- ==== Sys2Proof/Machine/Team.lean ====
section
/-! DEFINITION. The SEM instructions (12 R253 to R259) and the TEAM instructions: barriers, set phases, work and launch queues (08 R196 to
R203), validity and slack (17 R384 to R386). -/

namespace Sys2Proof.Machine

open Sys2Proof

/-! ### Semaphores -/

/-- The needs of an instruction that acts once per issue whatever act holds. -/
def onceNeeds : Needs := { guarded := false }

/-- SIG (R255, R259, R287): a release at TEAM scope, which asks nothing of the caches (R236). -/
def execSig (s : Fin 64) (n : BitVec 14) (st : State) : Host.Outcome State Fault Refusal :=
  issue onceNeeds (fun x => .ok (released x (some 1) false (fun x => (semIncr x.s x.t.uid s.val n.toNat, .step)))) st

/-- SWAIT and YIELD (R256, R257): the count taken, or the split at the end of the queue, to continue at a PC. -/
def semWait (sem n : Nat) (cont : Ix → Word) : State → Host.Outcome State Fault Refusal :=
  issue onceNeeds (fun x =>
    let q := x.t.sem sem
    if q.waiters.isEmpty && decide (n ≤ q.val) then
      .ok ((x.s.setTeam (x.t.setSem sem { q with val := q.val - n })).setGroup x.g.acquired, .jump (cont x))
    else
      let s1 := x.s.fresh.setTeam (x.t.setSem sem { q with waiters := q.waiters ++ [(x.s.uid, n)] })
      .ok (s1.setGroup (waitAt x x.g x.s.uid (.sem sem) (cont x) x.sw), .stay))

/-- SWAIT (R256). -/
def execSwait (s : Fin 64) (n : BitVec 14) (st : State) : Host.Outcome State Fault Refusal :=
  semWait s.val n.toNat (fun x => nextPc x.sp.pc) st

/-- YIELD (R257). -/
def execYield (s : Fin 64) (n : BitVec 14) (st : State) : Host.Outcome State Fault Refusal :=
  semWait s.val 1 (fun x => nextPc x.sp.pc + 4 * n.signExtend 32) st

/-- SPOLL (R258). -/
def execSpoll (d : LaneOp) (s : Fin 64) (clr : Bool) (st : State) : Host.Outcome State Fault Refusal :=
  issue { dsts := [(d, 1)] } (fun x =>
    let q := x.t.sem s.val
    let g := putResults x d 1 (fun _ => { val := q.val + (if q.ovf then 65536 else 0) })
    let s1 := if clr then x.s.setTeam (x.t.setSem s.val { q with ovf := false }) else x.s
    .ok (s1.setGroup g, .step)) st

/-! ### Barriers (R171, R198, R199, R364) -/

/-- BART and BARS trap in a handler (R364) and in a serial turn (R171); of the latter the spec names no check, and it is made at check 4
with the former, before ILLEGAL_OPERAND of an empty slot: DESIGN CHOICE (log 12). -/
def barrierBad (x : Ix) : Option Nat := if x.g.inHandler || x.sp.ser then some cBARRIER_MISMATCH else none

/-- Another split of the group waits at a barrier of a different PC, or at a BARS of another slot than the one issued (R198). -/
def barrierClash (x : Ix) (slot : Option Nat) : Bool :=
  x.g.splits.any (fun sp => sp.st == .waiting && (match sp.wait with
    | .bart => sp.pc != x.sp.pc
    | .bars n _ _ => sp.pc != x.sp.pc || slot != some n
    | _ => false))

/-- BART (R198). -/
def execBart (s : State) : Host.Outcome State Fault Refusal :=
  issue { onceNeeds with bad := barrierBad } (fun x =>
    if barrierClash x none then .error (amTrap x cBARRIER_MISMATCH)
    else .ok (released x (some 1) false (fun x =>
      (testBart (x.s.fresh.setGroup (waitSplit x x.g x.s.uid .bart)) x.t.uid, .stay)))) s

/-- The set in a set slot of the team, with its number and launch (R184). -/
def slotSet (x : Ix) (slot : Nat) : Option (Launch × Nat × SetSt) :=
  match x.s.launch? x.t.lch with
  | none => none
  | some l =>
    match setInSlot l x.t.tix slot with
    | none => none
    | some k => l.sets[k]?.map (fun q => (l, k, q))

/-- The conditions of check 4 of BARS (R171, R199, R364). The BARRIER_MISMATCH of serial mode (R197) is met here, before the
ILLEGAL_OPERAND of an empty slot: no rule gives its check (DESIGN CHOICE, log 12). -/
def barsBad (slot : Nat) (x : Ix) : Option Nat :=
  match barrierBad x with
  | some c => some c
  | none => illegalIf (match slotSet x slot with
    | some (_, _, q) => !q.cores
    | none => true)

/-- A core recorded at the barriers of a set of a launch with its epoch (R236). -/
def recordSet (s : State) (lch n core : Nat) : State :=
  match s.launch? lch with
  | none => s
  | some l =>
    match l.sets[n]? with
    | none => s
    | some q => s.setLaunch (setSet l n (q.record core (s.core core).epoch))

/-- BARS (R199, R389): its arrival records the core, whose dirty lines the completion drains; on a broken set it completes at once. -/
def execBars (kd : Fin 8) (slot : Fin 4) (s : State) : Host.Outcome State Fault Refusal :=
  issue { onceNeeds with bad := barsBad slot.val } (fun x =>
    if barrierClash x (some slot.val) then .error (amTrap x cBARRIER_MISMATCH)
    else match slotSet x slot.val with
      | none => .error (amTrap x cILLEGAL_OPERAND)
      | some (_, k, q) => .ok (released x (some 4) q.broken (fun x =>
        if q.broken then (x.s.setGroup (x.g.setPred kd.val x.act 0), .step)
        else
          let s1 := recordSet x.s x.t.lch k x.core
          let s2 := s1.fresh.setGroup (waitSplit x x.g s1.uid (.bars slot.val kd.val x.act))
          (match s2.launch? x.t.lch with
            | some l => testBars s2 l k q
            | none => s2, .stay)))) s

/-- ARR (R200). -/
def execArr (d : Fin 64) (slot : Fin 4) (s : State) : Host.Outcome State Fault Refusal :=
  issue { onceNeeds with bad := fun x => illegalIf (slotSet x slot.val).isNone } (fun x =>
    match slotSet x slot.val with
    | none => .error (amTrap x cILLEGAL_OPERAND)
    | some (l, k, q) => .ok (released x (some 4) false (fun x =>
      let q1 := q.record x.core (x.s.core x.core).epoch
      ((x.s.setLaunch (setSet l k (testPhase l { q1 with arrivals := q1.arrivals + 1 }))).setGroup (x.g.setUreg d.val q.phase), .step)))) s

/-- ATRY (R200): one that yields 1 drains the cores that have arrived, and is an acquire (R236). -/
def execAtry (kd : Fin 8) (a : UniOp) (slot : Fin 4) (s : State) : Host.Outcome State Fault Refusal :=
  issue { onceNeeds with unis := uniNums false a, bad := fun x => illegalIf (slotSet x slot.val).isNone } (fun x =>
    match slotSet x slot.val with
    | none => .error (amTrap x cILLEGAL_OPERAND)
    | some (l, k, q) =>
      let n := (q.phase - readUni1 x a).toNat
      let c := decide (1 ≤ n) && decide (n ≤ 2 ^ 31)
      let s1 := if c then drainSet x.s l.lch k else x.s
      if c && !setDrained s1 l.lch k then .ok (s1, .again)
      else
        let s2 := if c then acquireCore s1 x.core else s1
        .ok (s2.modGroup x.g.uid (fun g => g.setPred kd.val x.act (if c then BitVec.allOnes 32 else 0)), .step)) s

/-! ### Work and launch queues (R201 to R203) -/

/-- The checks of a queue record's place in scratch: ALIGN, then SEG_LIMIT, `tva` the offset (R202, R203); an error in bytes that the
instruction reads (R371). -/
def scratchCheck (x : Ix) (off len : Nat) (reads : Bool) : Option Trap :=
  if off % len ≠ 0 then some (laneTrap cALIGN x.am off)
  else if x.t.ssLimit < off + len then some (laneTrap cSEG_LIMIT x.am off)
  else if reads && badScr x.s x.core (x.t.ssBase + off) len then some (laneTrap cMEMORY_UNCORRECTABLE x.am off)
  else none

/-- The pair g(a), g(a+1). -/
def queuePair (x : Ix) (a : Fin 64) : Nat × Nat := ((x.g.ureg a.val).toNat, (x.g.ureg (a.val + 1)).toNat)

/-- The context of the issuing team. -/
def Ix.cx (x : Ix) : Ctx := x.s.ctx x.t.ctx

/-- POP (R202). The slot of the ring is translated at issue, be a record there or not (R201); its bytes are those that their home gives, and until they
are there the split is passed over (R220, R342). A record with a word in error is not taken: its POP is the instruction that would consume it, and
traps (R371, DESIGN CHOICE, log 36). -/
def execPop (d : Fin 64) (a : Fin 64) (s : State) : Host.Outcome State Fault Refusal :=
  issue { onceNeeds with
      unis := [a.val, a.val + 1]
      bad := fun x => illegalIf (x.g.inHandler || decide (64 ≤ (queuePair x a).2) || !(queueOf x.cx false (queuePair x a).2).ok) }
    (fun x =>
      let off := (queuePair x a).1
      let n := (queuePair x a).2
      let q := queueOf x.cx false n
      match scratchCheck x off 64 false with
      | some t => .error t
      | none =>
        match ringXlate x.s x.t.ctx false q q.ci .load with
        | .error c =>
          if c = cAWAITED then .ok (askEntry x.s frontEnd x.t.ctx (ringVa q false q.ci), .again)
          else .error (laneTrap c x.am (ringVa q false q.ci % 2 ^ 56))
        | .ok y =>
          if q.empty then
            let c := x.cx
            let s1 := x.s.fresh.setCtx x.t.ctx { c with pops := c.pops ++ [(n, x.s.uid)] }
            .ok (s1.setGroup (waitSplit x x.g x.s.uid (.pop n off d.val)), .stay)
          else match lineReady x.s (.pop x.t.ctx n) y.pa (ringVa q false q.ci) with
            | .error s1 => .ok (s1, .again)
            | .ok s1 =>
              if frontBad s1 (.pop x.t.ctx n) y.pa 64 then .error (laneTrap cMEMORY_UNCORRECTABLE x.am (ringVa q false q.ci % 2 ^ 56))
              else .ok (serveAll (popTake s1 x.t.ctx n x.g off d.val y.pa) x.t.ctx false n, .step)) s

/-- The queue that an ENQ selects (R203): whether it takes launch records, and its number. -/
def enqSel (x : Ix) (a : Fin 64) : Option (Bool × Nat) :=
  let v := (queuePair x a).2
  let launch := bitOf v 31
  let n := bitsOf v 5 0
  if bitsOf v 30 6 ≠ 0 ∨ (launch ∧ 16 ≤ n) ∨ !(queueOf x.cx launch n).ok then none else some (launch, n)

/-- The append of ENQ and ENQ.W; `full` says what a full queue does (R203). -/
def enqOp (a : Fin 64) (handlerBad : Bool) (full : Ix → State → Bool → Nat → List Byte → State × Next) (done : Ix → State → State) :
    State → Host.Outcome State Fault Refusal :=
  issue { onceNeeds with
      unis := [a.val, a.val + 1], bad := fun x => illegalIf ((handlerBad && x.g.inHandler) || (enqSel x a).isNone) } (fun x =>
    match enqSel x a with
    | none => .error (amTrap x cILLEGAL_OPERAND)
    | some (launch, n) =>
      let off := (queuePair x a).1
      let len := recBytes launch
      let q := queueOf x.cx launch n
      match scratchCheck x off len true with
      | some t => .error t
      | none =>
        match ringXlate x.s x.t.ctx launch q q.pi .store with
        | .error c =>
          if c = cAWAITED then .ok (askEntry x.s frontEnd x.t.ctx (ringVa q launch q.pi), .again)
          else .error (laneTrap c x.am (ringVa q launch q.pi % 2 ^ 56))
        | .ok y =>
          .ok (released x (some 4) true (fun x =>
            let b := x.s.scrBytes x.core (x.t.ssBase + off) len
            if q.full then full x x.s launch n b
            else match (if regionOf y.pa == .tier1 then serveRow x.s y.pa else some x.s) with
              | none => turnAway x x.s [rowOf y.pa]
              | some s1 => (done x (serveAll (appendRec s1 x.t.ctx launch n y.pa b (fromClass s1 x.g)) x.t.ctx launch n), .step))))

/-- ENQ's kd written in the lanes of act of its group as it stands. -/
def enqPred (kd : Nat) (v : Bool) (x : Ix) (s : State) : State :=
  s.modGroup x.g.uid (fun g => g.setPred kd x.act (if v then BitVec.allOnes 32 else 0))

/-- ENQ (R203). -/
def execEnq (kd : Fin 8) (a : Fin 64) (s : State) : Host.Outcome State Fault Refusal :=
  enqOp a false (fun x s _ _ _ => (enqPred kd.val false x s, .step)) (enqPred kd.val true) s

/-- ENQ.W (R203). -/
def execEnqW (a : Fin 64) (s : State) : Host.Outcome State Fault Refusal :=
  enqOp a true (fun x s launch n b =>
    let c := s.ctx x.t.ctx
    let s1 := s.fresh.setCtx x.t.ctx { c with enqs := c.enqs ++ [(launch, n, s.uid)] }
    (s1.setGroup (waitSplit x x.g s.uid (.enqw launch n b)), .stay)) (fun _ s => s) s

/-! ### Validity and slack (R385, R386) -/

/-- VALID (R385). -/
def execValid (a : Fin 64) (s : State) : Host.Outcome State Fault Refusal :=
  issue { onceNeeds with unis := [a.val, a.val + 1] } (fun x => .ok (released x (some 4) true (fun x =>
    (match x.s.launch? x.t.lch with
      | some l => x.s.setLaunch { l with v := l.v ||| BitVec.ofNat 64 (readGPair x.g a) }
      | none => x.s, .step)))) s

/-- The launch of the issuing team's value, or a free value for a firmware team, which has no launch (log 4). -/
def launchVal (x : Ix) (f : Launch → Nat) : Nat :=
  match x.s.launch? x.t.lch with
  | some l => f l
  | none => Config.freePick x.s.draws (2 ^ 71) % 2 ^ 64

/-- RDVALID (R385). -/
def execRdvalid (a : Fin 64) (s : State) : Host.Outcome State Fault Refusal :=
  issue onceNeeds (fun x =>
    .ok ((acquireCore x.s x.core).modGroup x.g.uid (fun g => writeUni g true a (launchVal x (fun l => l.v.toNat))), .step)) s

/-- The teams of a launch not yet finished (R192): those that exist, and those never placed while the launch may still place them. -/
def unfinished (s : State) (l : Launch) : Nat :=
  (s.teams.filter (fun t => t.lch == l.lch && !t.killed)).length
    + (if l.st == .wrapping || l.st == .ended then 0 else l.lr.teams - l.nextTix - l.early.length)

/-- The slack of a launch (R192). -/
def slackOf (s : State) (l : Launch) : Int :=
  (l.lr.deadline : Int) - l.lr.budget - s.dtime - l.lr.cost * unfinished s l

/-- RDSLK (R386). -/
def execRdslk (a : Fin 64) (s : State) : Host.Outcome State Fault Refusal :=
  issueG onceNeeds (fun x => (writeUni x.g true a (launchVal x (fun l => pat (slackOf x.s l) 64)), .step)) s

end Sys2Proof.Machine
end

