-- ==== Sys2Proof/Machine/Engine.lean ====
section
/-! DEFINITION. Engine commands (12): the queues (R261), the issue of CPY and ECMD (R263, R268 to R272, R325, R326), the ranges a command
reaches (R273, R400) and what it asks of peers and the host (R423, R430, R448), and the completion of every command (R262). -/

namespace Sys2Proof.Machine

open Sys2Proof

/-! ### Events -/

/-- The counter of the free values moved on (log 4). -/
def bump (s : State) : State := { s with draws := s.draws + 1 }

/-- An event whose subject is a number. -/
def onNum (f : State → Nat → State) (s : State) : Host.Outcome State Fault Refusal :=
  match s.subject with
  | .num n => .next (bump (f s n))
  | _ => .fault .noSubject

/-- An event whose subject is a pair of numbers. -/
def onPair (f : State → Nat → Nat → State) (s : State) : Host.Outcome State Fault Refusal :=
  match s.subject with
  | .pair a b => .next (bump (f s a b))
  | _ => .fault .noSubject

/-- An event without a subject. -/
def onNone (f : State → State) (s : State) : Host.Outcome State Fault Refusal := .next (bump (f s))

/-! ### Commands in their queues -/

/-- Every command of a core's queues. -/
def CoreSt.cmds (c : CoreSt) : List Cmd := c.cmdq ++ c.bankq ++ c.mq0 ++ c.mq1

/-- The queues of a core with each command changed or removed. -/
def CoreSt.mapCmds (c : CoreSt) (f : Cmd → Option Cmd) : CoreSt :=
  { c with cmdq := c.cmdq.filterMap f, bankq := c.bankq.filterMap f, mq0 := c.mq0.filterMap f, mq1 := c.mq1.filterMap f }

/-- A command with its core. -/
def State.cmd? (s : State) (uid : Nat) : Option (Nat × Cmd) :=
  s.cores.findSome? (fun c => (c.2.cmds.find? (fun m => m.uid == uid)).map (fun m => (c.1, m)))

/-- A command replaced in its queue. -/
def State.setCmd (s : State) (core : Nat) (m : Cmd) : State :=
  s.setCore core ((s.core core).mapCmds (fun x => some (if x.uid = m.uid then m else x)))

/-- A matrix command. -/
def isMx : CmdKind → Bool
  | .mma | .mzero | .mdrain => true
  | _ => false

/-- A command of the bank queue. -/
def isBank : CmdKind → Bool
  | .brun | .shut => true
  | _ => false

/-- The queue of a core that holds commands of a kind and class: the command queue, the bank queue, or a class queue (R261, R301, R326). -/
def CoreSt.queue (c : CoreSt) (k : CmdKind) (cls : Nat) : List Cmd :=
  if isMx k then (if cls = 0 then c.mq0 else c.mq1) else if isBank k then c.bankq else c.cmdq

/-- The entries of such a queue. -/
def queueSize (k : CmdKind) : Nat := if isMx k then 16 else if isBank k then 8 else 64

/-- Two kinds of command share a queue. -/
def sameQueue (a b : CmdKind) : Bool := isMx a == isMx b && isBank a == isBank b

/-- A command appended to its queue. -/
def CoreSt.addCmd (c : CoreSt) (m : Cmd) (cls : Nat) : CoreSt :=
  if isMx m.kind then (if cls = 0 then { c with mq0 := c.mq0 ++ [m] } else { c with mq1 := c.mq1 ++ [m] })
  else if isBank m.kind then { c with bankq := c.bankq ++ [m] }
  else { c with cmdq := c.cmdq ++ [m] }

/-- A queue has an entry for a command. -/
def CoreSt.room (c : CoreSt) (k : CmdKind) (cls : Nat) : Bool := decide ((c.queue k cls).length < queueSize k)

/-- The restored commands of a team that find an entry, in their order (R261, R376): those that wait behind one of their queue stay. -/
def refillTeam (s : State) (t : Team) : State :=
  let cls := s.clsOf t
  let r := t.waitq.foldl (fun (a : CoreSt × List Cmd) m =>
    if a.1.room m.kind cls && !a.2.any (fun x => sameQueue x.kind m.kind) then (a.1.addCmd m cls, a.2) else (a.1, a.2 ++ [m])) (s.core t.core, [])
  if t.waitq.isEmpty then s else (s.setCore t.core r.1).setTeam { t with waitq := r.2 }

/-- A command's entry freed, and given to a restored command that waits for one. -/
def State.dropCmd (s : State) (core uid : Nat) : State :=
  let c := s.core core
  let s1 := s.setCore core { c.mapCmds (fun x => if x.uid = uid then none else some x) with mrun := if c.mrun = some uid then none else c.mrun }
  (s1.teams.filter (fun t => t.placed && t.core == core && !t.waitq.isEmpty)).foldl refillTeam s1

/-- Every command of a team, with its core. -/
def teamCmds (s : State) (team : Nat) : List (Nat × Cmd) :=
  s.cores.flatMap (fun c => (c.2.cmds.filter (fun m => m.team == team)).map (fun m => (c.1, m)))

/-- The command has a descriptor and a completion record. -/
def hasRecord : CmdKind → Bool
  | .louver | .cpym | .brun | .shut => true
  | _ => false

/-- RSTAT of a descriptor (R272). -/
def rstatOf (m : Cmd) : Nat := fieldAt m.desc 0x34 4

/-- The context of a command's team. -/
def cmdCtx (s : State) (m : Cmd) : Nat := ((s.team? m.team).map (fun t => t.ctx)).getD 0

/-- The class of a command: its launch's (R262). -/
def cmdCls (s : State) (m : Cmd) : Nat :=
  match s.team? m.team with
  | some t => s.clsOf t
  | none => 0

/-- R262 from step 2 on, by which an entry of the queue is freed (R287): the record, the acquire, the increment of ASEM; held by the part for an unplaced team (R375). -/
def completeCmd (s : State) (core : Nat) (m : Cmd) : State :=
  match s.team? m.team with
  | none => s.dropCmd core m.uid
  | some t =>
    let s1 := s.dropCmd core m.uid
    if !t.placed then
      let recs : List Held := if hasRecord m.kind then [.record (rstatOf m) m.record] else []
      s1.setTeam { t with held := t.held ++ recs ++ [.incr (mrASEM m.mr)] }
    else
      let s2 := if hasRecord m.kind then s1.setScr t.core (t.ssBase + rstatOf m) m.record else s1
      let s3 := if mrAACQ m.mr || (m.kind == .shut && m.record.length == 16 && byteAt m.desc 0x05 == 0 && byteAt m.record 0 == 1) then acquireCore s2 t.core else s2
      semIncr s3 t.uid (mrASEM m.mr) 1

/-! ### `wrs` (Table 17.11) -/

/-- `wrs` CANCELLED (Table 17.11). -/
def wrsCANCELLED : Nat := 2
/-- `wrs` CUT. -/
def wrsCUT : Nat := 4
/-- `wrs` MMASTOP. -/
def wrsMMASTOP : Nat := 8

/-- Bits ORed into a team's `wrs`. -/
def orWrs (s : State) (team n : Nat) : State :=
  match s.team? team with
  | some t => s.setTeam { t with wrs := t.wrs ||| BitVec.ofNat 32 n }
  | none => s

/-! ### Status codes (Tables 12.9, 14.8, R430) -/

/-- OK. -/
def stOK : Nat := 0x01
/-- REJ_FIELD. -/
def stFIELD : Nat := 0x02
/-- REJ_DMW. -/
def stDMW : Nat := 0x03
/-- REJ_SIZE. -/
def stSIZE : Nat := 0x04
/-- REJ_OVERLAP. -/
def stOVERLAP : Nat := 0x05
/-- REJ_CONV. -/
def stCONV : Nat := 0x06
/-- ERR_SEG. -/
def stSEG : Nat := 0x07
/-- ERR_PAGE. -/
def stPAGE : Nat := 0x08
/-- ERR_FRAME_BUSY. -/
def stFRAME : Nat := 0x09
/-- ERR_UNCORRECTABLE. -/
def stUE : Nat := 0x0A
/-- CANCELLED. -/
def stCANCELLED : Nat := 0x0B
/-- ERR_PEER_TOKEN (R430). -/
def stTOKEN : Nat := 0x13

/-- A completion record of Table 12.8 or 14.9. -/
def cmdRecord (status flags b2 b3 w faddr : Nat) : List Byte :=
  mkRecord 16 [(0, 1, status), (1, 1, flags), (2, 1, b2), (3, 1, b3), (4, 4, w), (8, 8, faddr)]

/-! ### Ranges of G that a command reaches -/

/-- The pieces of a range that lie in one 64 KiB page each: address and length. -/
def pageChunks : Nat → Nat → Nat → List (Nat × Nat)
  | 0, _, _ => []
  | n + 1, lo, len =>
    if len = 0 then []
    else
      let k := Nat.min len (65536 - lo % 65536)
      (lo, k) :: pageChunks n (lo + k) (len - k)

/-- The pieces of a range. -/
def chunksOf (lo len : Nat) : List (Nat × Nat) := pageChunks (len / 65536 + 2) lo len

/-- No status of Table 12.9: a walk of a range awaits an entry (`cAWAITED`). -/
def stAWAITED : Nat := 0x100

/-- The status of a failed step 4 of a command (R400, R430); a damaged page-table entry is ERR_UNCORRECTABLE (R371). -/
def stageStatus (c : Nat) : Nat :=
  if c = cFRAME_BUSY then stFRAME else if c = cPEER_TOKEN then stTOKEN else if c = cAWAITED then stAWAITED
  else if c = cMEMORY_UNCORRECTABLE then stUE else stPAGE

/-- The first failing check of a command on its ranges: pages, then frames, then tokens, with the lowest failing address (R273, R285); or
the pieces of its ranges as they are translated, each with its leaf. Where pages of several ranges fail one check the lowest address of all
is taken: the spec speaks of one range; a failing page is named by the lowest address of the range in its failing 64 KiB, in a larger leaf too
(DESIGN CHOICE, log 68). -/
def rangeCheck (s : State) (w : Who) (rs : List (Acc × Nat × Nat)) : Except (Nat × Nat) (List (Nat × Nat × Xl)) :=
  let all := rs.flatMap (fun r => (chunksOf r.2.1 r.2.2).map (fun p => (p, xlate s w r.1 p.1)))
  let errs := all.filterMap (fun p => match p.2 with
    | .error c => some (stageStatus c, p.1.1)
    | .ok _ => none)
  match [stAWAITED, stUE, stPAGE, stFRAME, stTOKEN].findSome? (fun st =>
    match errs.filter (fun e => e.1 == st) with
    | [] => none
    | e :: rest => some (rest.foldl (fun b q => if q.2 < b.2 then q else b) e)) with
  | some e => .error e
  | none => .ok (all.filterMap (fun p => match p.2 with
    | .ok y => some (p.1.1, p.1.2, y)
    | .error _ => none))

/-- The pieces that a check translated, as a command keeps them. -/
def mapsOf (l : List (Nat × Nat × Xl)) : List (Nat × Nat × Nat) := l.map (fun p => (p.1, p.2.1, p.2.2.pa))

/-- The translations of a check noted in the TLB of its agent (R401). -/
def fillMaps (s : State) (w : Who) (l : List (Nat × Nat × Xl)) : State :=
  match w.core with
  | some a => l.foldl (fun s p => tlbFill s a w.ctx p.1 p.2.2) s
  | none => s

/-- The physical address of a virtual one in the pieces that a command keeps. -/
def mapPa (maps : List (Nat × Nat × Nat)) (va : Nat) : Option Nat :=
  (maps.find? (fun p => decide (p.1 ≤ va) && decide (va < p.1 + p.2.1))).map (fun p => p.2.2 + (va - p.1))

/-- An address is of memory outside the part that the part does not hold: a peer's or the host's. -/
def isOutside (s : State) (pa : Nat) : Bool :=
  (regionOf pa == .peer && !(holds s (regionKey pa) && l2Full s pa)) || regionOf pa == .host

/-- The answer of the outside to a command's read of a line. -/
def Cmd.line? (m : Cmd) (pa : Nat) : Option CmdAns := m.got.find? (fun a => !a.wr && a.key == pa / 128)

/-- Bytes that a command reads at a physical address: what the outside has answered for a line of its own, else at the L2 or home
(R264). -/
def Cmd.bytesAt (m : Cmd) (s : State) (pa len : Nat) : List Byte :=
  (List.range len).map (fun i => match (if isMem (pa + i) then none else m.line? (pa + i)) with
    | some a => a.data.getD ((pa + i) % 128) 0
    | none => s.readByte (pa + i))

/-- Bytes of a range of G read at its L2 or home (R264). -/
def readG (s : State) (m : Cmd) (va len : Nat) : List Byte :=
  (chunksOf va len).flatMap (fun p => match mapPa m.maps p.1 with
    | some pa => m.bytesAt s pa p.2
    | none => List.replicate p.2 0)

/-- The first word of a range of G whose read meets an error (R273, R373). -/
def badG (s : State) (m : Cmd) (va len : Nat) : Option Nat :=
  (chunksOf va len).findSome? (fun p => (mapPa m.maps p.1).bind (fun pa =>
    let far := (m.got.filter (fun a => !a.wr && a.status == stUE && decide (pa / 128 ≤ a.key) && decide (128 * a.key < pa + p.2))).map
      (fun a => Nat.max p.1 (p.1 + 128 * a.key - pa))
    let near := s.damage.filterMap (fun d => match d with
      | .mem w => if pa < 4 * w + 4 ∧ 4 * w < pa + p.2 then some (p.1 + (4 * w - pa)) else none
      | _ => none)
    match far ++ near with
    | [] => none
    | b :: rest => some (rest.foldl Nat.min b)))

/-- Bytes written by a command of a core at a physical address as a store past the L1 writes them: the core's own dirty bytes of their lines
are written back first (R236, R264). -/
def cmdStore (s : State) (core : Nat) (m : Cmd) (pa : Nat) (b : List Byte) : State :=
  ((List.range ((pa + b.length + 127) / 128 - pa / 128)).foldl (fun s i => flushOwn s core (pa / 128 + i)) s).writePa core m.grp pa b (some m.uid)

/-- Bytes of a range of G written at their home, or sent to a peer or the host (R264, R418, R448). -/
def writeG (s : State) (m : Cmd) (core va : Nat) (b : List Byte) : State :=
  (chunksOf va b.length).foldl (fun s p => match mapPa m.maps p.1 with
    | some pa => cmdStore s core m pa ((b.drop (p.1 - va)).take p.2)
    | none => s) s

/-- The rows of channels that bank runs have which a command's ranges reach and which have not been served (R342). -/
def Cmd.rowsLeft (m : Cmd) (s : State) (rs : List (Nat × Nat)) : List Nat :=
  if s.runs.isEmpty then []
  else (rs.flatMap (fun r => (chunksOf r.1 r.2).flatMap (fun p => match mapPa m.maps p.1 with
    | some pa => if regionOf pa == .tier1 then (List.range ((pa + p.2 + 2047) / 2048 - pa / 2048)).map (fun i => pa / 2048 + i) else []
    | none => []))).eraseDups.filter (fun row => (runOn s (chanOf (2048 * row))).isSome && !m.served.contains row)

/-- The requests of a command to the rows of its ranges: they are ordinary requests, which windows serve; a row that has been served needs no
other turn, and the data move once every row has been (R342, R344, DEDUCED, log 29). -/
def serveCmd (s : State) (core : Nat) (m : Cmd) (rs : List (Nat × Nat)) : State × Cmd × Bool :=
  let rows := m.rowsLeft s rs
  if rows.isEmpty then (s, m, true)
  else
    let r := serveRows s (rows.map (fun n => 2048 * n))
    let old := m.rows.filter (fun x => r.2.contains x.1)
    let new := r.2.filter (fun n => !old.any (fun o => o.1 == n))
    let m1 : Cmd := { m with rows := old ++ new.map (fun n => (n, s.uid)), served := m.served ++ rows.filter (fun n => !r.2.contains n) }
    ((if new.isEmpty then r.1 else r.1.fresh).setCmd core m1, m1, r.2.isEmpty)

/-! ### What a command asks of peers and the host (R423, R430, R448) -/

/-- The lines of a piece: their physical addresses, each with the virtual address of its first byte in the piece. -/
def pieceLines (va len pa : Nat) : List (Nat × Nat) :=
  (List.range ((pa + len + 127) / 128 - pa / 128)).map (fun i =>
    let l := 128 * (pa / 128 + i)
    (l, if l ≤ pa then va else va + (l - pa)))

/-- The lines outside that a command reads at addresses and has no answer for. -/
def readsLeft (s : State) (m : Cmd) (rs : List (Nat × Nat)) : List (Nat × Nat) :=
  (rs.flatMap (fun r => (chunksOf r.1 r.2).flatMap (fun p => match mapPa m.maps p.1 with
    | some pa => if isMem pa then [] else pieceLines p.1 p.2 pa
    | none => []))).filter (fun l => isOutside s l.1 && (m.line? l.1).isNone)

/-- The regions of peers that a command writes at addresses and has not asked. -/
def asksLeft (s : State) (m : Cmd) (rs : List (Nat × Nat)) : List (Nat × Nat) :=
  ((rs.flatMap (fun r => (chunksOf r.1 r.2).filterMap (fun p => (mapPa m.maps p.1).map (fun pa => (pa, p.1))))).filter (fun l =>
    regionOf l.1 == .peer && !holds s (regionKey l.1) && !m.got.any (fun a => a.wr && a.key == regionKey l.1))).foldl
      (fun l p => if l.any (fun q => regionKey q.1 == regionKey p.1) then l else l ++ [p]) []

/-- A command's read of a line outside: of a peer, also as the fill of a held region, or of the host. -/
def cmdRead (core : Nat) (m : Cmd) (s : State) (l : Nat × Nat) : State :=
  let host := regionOf l.1 == .host
  s.fresh.request { uid := s.uid, core := core, grp := m.grp, host := host, kind := .read, addr := if host then hostAddr s l.1 else l.1, len := 128, data := [], mask := [], va := l.2, fill := !host && holds s (regionKey l.1), cmd := some m.uid, since := s.dtime }

/-- A command's question whether the home of a region accepts its writes (R430). -/
def cmdAsk (core : Nat) (m : Cmd) (s : State) (l : Nat × Nat) : State :=
  s.fresh.request { uid := s.uid, core := core, grp := m.grp, kind := .write, addr := 128 * (l.1 / 128), len := 128, data := List.replicate 128 0, mask := List.replicate 128 false, va := l.2, ask := some 0, cmd := some m.uid, since := s.dtime }

/-- What a command needs from the outside before its data move: the requests made, or none once each has its answer. -/
def gather (s : State) (core : Nat) (m : Cmd) (reads writes : List (Nat × Nat)) : Option State :=
  if !m.need.isEmpty then some s
  else
    let rs := readsLeft s m reads
    let ws := asksLeft s m writes
    if rs.isEmpty && ws.isEmpty then none
    else
      let s1 := ws.foldl (cmdAsk core m) (rs.foldl (cmdRead core m) s)
      some (s1.setCmd core { m with st := .started, need := (s1.remotes.drop s.remotes.length).map (fun r => r.uid) })

/-- The token that a home has refused a command: ERR_PEER_TOKEN with the lowest refused address of the range that R273 gives. -/
def tokenFail (m : Cmd) (rs : List (Nat × Nat)) : Option (Nat × Nat) :=
  rs.findSome? (fun r =>
    match ((m.got.filter (fun a => a.status == stTOKEN && decide (r.1 ≤ a.va) && decide (a.va < r.1 + r.2))).map
        (fun a => Nat.max r.1 (a.va / 65536 * 65536))) with
    | [] => none
    | b :: rest => some (stTOKEN, rest.foldl Nat.min b))

/-- An error of the outside on a command's write: ERR_UNCORRECTABLE (R423). -/
def writeFail (m : Cmd) : Option (Nat × Nat) := (m.got.find? (fun a => a.wr && a.status != 0)).map (fun a => (a.status, a.va))

/-- The space of a command's range: its bytes, errors and segment limit. G offsets count from `sg.base`, others from the team's segment. -/
structure Span where
  sp : Space
  lo : Nat
  len : Nat
deriving DecidableEq, Repr

/-- The limit of a space of a team. -/
def teamLimit (t : Team) : Space → Nat
  | .g => t.sgLimit
  | .s => t.ssLimit
  | .c => t.scLimit
  | .d => t.sdLimit
  | .l => 0

/-- Who a command is (R262, R400, R401): a CPYM translates by its core's TLB, the others by those of their die's engines. -/
def cmdWho (t : Team) (m : Cmd) : Who :=
  { ctx := t.ctx, priv := m.priv, core := some (if m.kind = .cpym then t.core else 160 + dieOf t.core) }

/-- The address of a span that a record names. -/
def spanAddr (t : Team) (r : Span) : Nat := if r.sp = .g then t.sgBase + r.lo else r.lo

/-- The bytes of a span. -/
def readSpan (s : State) (t : Team) (m : Cmd) (r : Span) : List Byte :=
  match r.sp with
  | .g => readG s m (t.sgBase + r.lo) r.len
  | .d => s.dscrBytes (dieOf t.core) (t.sdBase + r.lo) r.len
  | _ => s.scrBytes t.core (t.ssBase + r.lo) r.len

/-- The first word of a span whose read meets an error. -/
def badSpan (s : State) (t : Team) (m : Cmd) (r : Span) : Option Nat :=
  match r.sp with
  | .g => badG s m (t.sgBase + r.lo) r.len
  | sp =>
    let base := if sp = .d then t.sdBase else t.ssBase
    (List.range ((r.len + 3) / 4)).findSome? (fun k =>
      let o := r.lo + 4 * k
      if (if sp = .d then badDscr s (dieOf t.core) (base + o) 4 else badScr s t.core (base + o) 4) then some o else none)

/-- The bytes of a span written. -/
def writeSpan (s : State) (t : Team) (m : Cmd) (sp : Space) (lo : Nat) (b : List Byte) : State :=
  match sp with
  | .g => writeG s m t.core (t.sgBase + lo) b
  | .d => s.setDscr (dieOf t.core) (t.sdBase + lo) b
  | _ => s.setScr t.core (t.ssBase + lo) b

/-- A span fits its segment. -/
def spanFits (t : Team) (r : Span) : Bool := decide (r.lo + r.len ≤ teamLimit t r.sp)

/-- Two spans overlap in one space. -/
def spansMeet (a b : Span) : Bool :=
  a.sp == b.sp && decide (0 < a.len) && decide (0 < b.len) && decide (a.lo < b.lo + b.len) && decide (b.lo < a.lo + a.len)

/-! ### Issue -/

/-- The issue of a command: AREL's release, an eager drain at every scope, and the group's loads of scratch, which come before the
command's accesses (R263). -/
def cmdIssue (x : Ix) (k : Ix → State × Next) : State × Next :=
  released x (if mrAREL x.sp.mr then some (mrSCOPE x.sp.mr) else none) true (fun x =>
    let s1 := performIf x.s x.g.uid (fun _ v => match v.place? with
      | some (.phys _ _, _) => false
      | some _ => true
      | none => false)
    k { x with s := s1, g := (s1.group? x.g.uid).getD x.g })

/-- The queue of a command has no entry for it, or a restored command of the team waits for one; the completion
of a command frees an entry (R261, R287, R301, R326). -/
def noEntry (kind : CmdKind) (x : Ix) : Bool :=
  !(x.s.core x.core).room kind (x.s.clsOf x.t) || x.t.waitq.any (fun m => sameQueue m.kind kind)

/-- A command queued on the issuing core. -/
def enqueue (x : Ix) (m : Cmd) : State := x.s.fresh.setCore x.core ((x.s.core x.core).addCmd m (x.s.clsOf x.t))

/-- A new command of the issuing split. -/
def newCmd (x : Ix) (kind : CmdKind) (st : CmdSt) (desc : List Byte) : Cmd :=
  { uid := x.s.uid, team := x.t.uid, grp := x.g.uid, kind := kind, st := st, mr := x.sp.mr, priv := x.g.priv, desc := desc }

/-- The end of a copy at a place. -/
def cpyEnd : Place → CpyEnd
  | .scr c o n => ⟨false, scrKey c o, n⟩
  | .dscr d o n => ⟨false, dscrKey d o, n⟩
  | .phys va y => ⟨true, y.pa, va⟩

/-- The bytes of a copy size (Table 12.6). -/
def cpyBytes : CpySize → Nat
  | .b4 => 4
  | .b8 => 8
  | .b16 => 16

/-- CPY (R268, R269): source space and destination space. Its places are those that its checks translate at its issue, before the release of
AREL, and its core's TLB holds them (R400, R401, R406). -/
def cpyOp (sz : CpySize) (src dst : Space) (d a : LaneOp) : State → Host.Outcome State Fault Refusal :=
  issue { major := some 0x3B, srcs := [(a, baseWords src), (d, baseWords dst)], blocked := noEntry (.cpy 0 []) } (fun x =>
    let n := cpyBytes sz
    let offs (sp : Space) (op : LaneOp) (site : Nat) : List (Nat × Nat) := (lanesOf x.act).map (fun i => (i, laneOff x sp op 0 i site))
    let sa : Side := { sp := src, acc := .cmdRead, size := n, offs := offs src a 0 }
    let sd : Side := { sp := dst, acc := .cmdWrite, size := n, offs := offs dst d 1 }
    match check5 x [sa, sd] with
    | some t => .error t
    | none =>
      let places (sd : Side) : List Place := sd.offs.map (fun p => placeOf x sd p.1 p.2)
      let pairs := ((places sa).zip (places sd)).map (fun q => (cpyEnd q.1, cpyEnd q.2))
      let phys := (pairs.flatMap (fun p => [p.1, p.2])).filter (fun e => e.phys)
      .ok (cmdIssue x (fun y =>
        let y1 : Ix := { y with s := fillTlb y y.s (places sa ++ places sd) }
        (enqueue y1 { newCmd y1 (.cpy n pairs) .started [] with maps := phys.map (fun e => (e.note, n, e.key)) }, .step))))

/-- CPY.GS (R268, R269). -/
def execCpyGs (sz : CpySize) (d a : LaneOp) (s : State) : Host.Outcome State Fault Refusal := cpyOp sz .g .s d a s
/-- CPY.SG (R268, R269). -/
def execCpySg (sz : CpySize) (d a : LaneOp) (s : State) : Host.Outcome State Fault Refusal := cpyOp sz .s .g d a s
/-- CPY.GC (R268, R269). -/
def execCpyGc (sz : CpySize) (d a : LaneOp) (s : State) : Host.Outcome State Fault Refusal := cpyOp sz .g .c d a s
/-- CPY.SS (R268, R269). -/
def execCpySs (sz : CpySize) (d a : LaneOp) (s : State) : Host.Outcome State Fault Refusal := cpyOp sz .s .s d a s

/-- The checks of an ECMD at its issue (R272): the descriptor's place, then RSTAT. -/
def ecmdCheck (x : Ix) (o : Nat) (desc : List Byte) : Option Trap :=
  match scratchCheck x o 64 true with
  | some t => some t
  | none =>
    let r := fieldAt desc 0x34 4
    if r % 16 ≠ 0 then some (laneTrap cALIGN x.am r)
    else if x.t.ssLimit < r + 16 then some (laneTrap cSEG_LIMIT x.am r)
    else none

/-- ECMD (R271, R272, R325): into the command queue, or the bank queue for bank runs and shutter operations. -/
def ecmdOp (kind : CmdKind) (a : LaneOp) : State → Host.Outcome State Fault Refusal :=
  issue { major := some 0x3C, guarded := false, srcs := [(a, 1)], lanes := fun x => laneBit x.low, blocked := noEntry kind } (fun x =>
    let o := (readWord x 0 a x.low 0).toNat
    let desc := x.s.scrBytes x.core (x.t.ssBase + o) 64
    match ecmdCheck x o desc with
    | some t => .error t
    | none => .ok (cmdIssue x (fun x => (enqueue x (newCmd x kind .queued desc), .step))))

/-- LOUVER (R271, R272). -/
def execLouver (a : LaneOp) (s : State) : Host.Outcome State Fault Refusal := ecmdOp .louver a s
/-- CPYM (R271, R272). -/
def execCpym (a : LaneOp) (s : State) : Host.Outcome State Fault Refusal := ecmdOp .cpym a s
/-- BRUN (R271, R272, R325). -/
def execBrun (a : LaneOp) (s : State) : Host.Outcome State Fault Refusal := ecmdOp .brun a s
/-- SHUT (R271, R272, R325). -/
def execShut (a : LaneOp) (s : State) : Host.Outcome State Fault Refusal := ecmdOp .shut a s

/-! ### The data of a lane copy (R266, R269, R270, R273) -/

/-- Bytes at an end of a copy. -/
def endBytes (s : State) (m : Cmd) (e : CpyEnd) (o n : Nat) : List Byte :=
  if e.phys then m.bytesAt s (e.key + o) n else (List.range n).map (fun i => mget blankByte s.scr (e.key + o + i))

/-- The error that the read of a word of a copy meets, or that its write met at its home: its status. -/
def endError (s : State) (m : Cmd) (wr : Bool) (e : CpyEnd) (o : Nat) : Option Nat :=
  if e.phys then
    if wr then
      if isMem (e.key + o) then (if homeRefuses s (e.key + o) then some stTOKEN else none)
      else (m.got.find? (fun a => a.wr && a.key == regionKey (e.key + o) && a.status != 0)).map (fun a => a.status)
    else if badMem s (e.key + o) 4 then some stUE
    else if homeRefuses s (e.key + o) then some stTOKEN
    else (m.line? (e.key + o)).bind (fun a => if a.status = 0 then none else some a.status)
  else if !wr && badScr s (e.key / 2 ^ 19) (e.key % 2 ^ 19 + o) 4 then some stUE else none

/-- A word written at an end of a copy. -/
def endWrite (s : State) (core : Nat) (m : Cmd) (e : CpyEnd) (o : Nat) (b : List Byte) : State :=
  if e.phys then cmdStore s core m (e.key + o) b else s.setScr (e.key / 2 ^ 19) (e.key % 2 ^ 19 + o) b

/-- An error of a copy recorded in `ces` and `cea`: the first since the last write gives CODE and the address, a later one sets MORE (Tables
12.3, 12.4). -/
def noteError (t : Team) (status addr : Nat) : Team :=
  if t.cesErr then { t with ces := t.ces ||| 0x100 }
  else { t with cesErr := true, ces := (t.ces &&& 0x100) ||| BitVec.ofNat 32 status, cea := BitVec.ofNat 64 addr }

/-- Errors of a copy recorded in order. -/
def noteErrors (s : State) (team : Nat) (es : List (Nat × Nat)) : State :=
  match s.team? team with
  | some t => s.setTeam (es.foldl (fun t e => noteError t e.1 e.2) t)
  | none => s

/-- The words of a copy: lane number, source, destination and offset. -/
def cpyWords (size : Nat) (pairs : List (CpyEnd × CpyEnd)) : List (Nat × CpyEnd × CpyEnd × Nat) :=
  ((List.range pairs.length).zip pairs).flatMap (fun p => (pieces size).map (fun o => (p.1, p.2.1, p.2.2, o)))

/-- A copy performed: every source read, then every destination written that met no error. A token that has gone since the issue refuses
a word as a home does (R430). -/
def moveCpy (s : State) (core : Nat) (m : Cmd) (size : Nat) (pairs : List (CpyEnd × CpyEnd)) : State :=
  let ws := cpyWords size pairs
  let errOf (w : Nat × CpyEnd × CpyEnd × Nat) : Option (Nat × Nat) :=
    match endError s m false w.2.1 w.2.2.2 with
    | some st => some (st, w.2.1.note + w.2.2.2)
    | none => (endError s m true w.2.2.1 w.2.2.2).map (fun st => (st, w.2.2.1.note + w.2.2.2))
  let good := ws.filter (fun w => (errOf w).isNone)
  let key (w : Nat × CpyEnd × CpyEnd × Nat) : Nat := 2 * (w.2.2.1.key + w.2.2.2) + (if w.2.2.1.phys then 1 else 0)
  let s1 := (winnersBy s.draws key (fun w => w.1) good).foldl (fun st w =>
    endWrite st core m w.2.2.1 w.2.2.2 (endBytes s m w.2.1 w.2.2.2 4)) s
  noteErrors s1 m.team (ws.filterMap errOf)

/-- A command that has done its work, with the requests that its writes have made: it completes once they are answered. -/
def endCmd (before after : State) (core : Nat) (m : Cmd) (record : List Byte) : State :=
  after.setCmd core { m with st := .ended, record := record, got := [], rows := [], served := [], need := (after.remotes.drop before.remotes.length).map (fun r => r.uid) }

/-- A command whose check does not pass: it asks for the entry that a walk of it awaits, to be checked again (R220, R342, R395), or ends with its status
and address. -/
def failCheck (s : State) (core : Nat) (t : Team) (m : Cmd) (e : Nat × Nat) : State :=
  let a := (cmdWho t m).core.getD core
  if e.1 = stAWAITED then askEntry s a t.ctx e.2
  else
    let s1 := endWalk s a
    endCmd s1 s1 core m (cmdRecord e.1 0 0 0 0 e.2)

/-- The sources and destinations of a copy in G. -/
def cpyRanges (m : Cmd) (pairs : List (CpyEnd × CpyEnd)) (size : Nat) : List (Nat × Nat) × List (Nat × Nat) :=
  ((pairs.filter (fun p => p.1.phys)).map (fun p => (p.1.note, size)), (pairs.filter (fun p => p.2.phys && !m.maps.isEmpty)).map (fun p => (p.2.note, size)))

/-- The data of a started command, once channels have served its rows and the outside has answered. -/
def whenReady (s : State) (core : Nat) (m : Cmd) (reads writes : List (Nat × Nat)) (go : State → State) : State :=
  let x := serveCmd s core m (reads ++ writes)
  match gather x.1 core x.2.1 reads writes with
  | some s1 => s1
  | none => if x.2.2 then go x.1 else x.1

/-- A copy that has not moved its data: it asks the outside, waits for a channel, or moves. -/
def runCpy (s : State) (core : Nat) (m : Cmd) (size : Nat) (pairs : List (CpyEnd × CpyEnd)) : State :=
  let r := cpyRanges m pairs size
  whenReady s core m r.1 r.2 (fun s => endCmd s (moveCpy s core m size pairs) core m [])

/-- A command may complete: its work has ended, each of its requests is answered, and, of a matrix command, it heads its class queue (R262,
R302). -/
def canComplete (c : CoreSt) (m : Cmd) : Bool :=
  m.st == .ended && m.need.isEmpty && (!isMx m.kind || (c.mq0.head?.any (fun h => h.uid == m.uid)) || (c.mq1.head?.any (fun h => h.uid == m.uid)))

/-- What a completing command still does: the words that an MDRAIN owes, the errors of its writes (R304, R423, R430). -/
def lastWrites (s : State) (core : Nat) (m : Cmd) : State :=
  let s1 := m.out.foldl (fun s w => s.setScr core w.1 w.2) s
  match m.kind with
  | .cpy _ _ => noteErrors s1 m.team ((m.got.filter (fun a => a.status != 0)).map (fun a => (a.status, a.va)))
  | _ => s1

/-- The record of a command whose write failed outside (R273). -/
def finalRecord (m : Cmd) : List Byte :=
  match m.kind, writeFail m with
  | .cpym, some e | .louver, some e => cmdRecord e.1 0 (byteAt m.record 2) (byteAt m.record 3) 0 e.2
  | _, _ => m.record

/-- ENGINE_COMMAND_COMPLETE: the data of a copy moved, or the last writes, the record, the acquire, the signal, and the entry freed (R261,
R262). -/
def completeNum (s : State) (uid : Nat) : State :=
  match s.cmd? uid with
  | none => s
  | some (core, m) =>
    match m.kind, m.st with
    | .cpy n pairs, .started => runCpy s core m n pairs
    | _, _ => if canComplete (s.core core) m then completeCmd (lastWrites s core m) core { m with record := finalRecord m } else s

/-- ENGINE_COMMAND_COMPLETE (R262). -/
def execEngineCommandComplete (s : State) : Host.Outcome State Fault Refusal := onNum completeNum s

/-! ### CPYM (R275 to R279) -/

/-- A command of the command queue may be executed: the CPYM and Louver commands of one queue start in queue order (R261), and one that
has started and awaits answers goes on. -/
def firstQueued (s : State) (core uid : Nat) : Bool :=
  (s.core core).cmdq.any (fun m => m.uid == uid && m.st == .started)
    || (match (s.core core).cmdq.find? (fun m => m.st == .queued) with
      | some m => m.uid == uid
      | none => false)

/-- The field check of a CPYM descriptor (Table 12.10). -/
def cpymFieldsOk (b : List Byte) : Bool :=
  let f := fieldAt b
  let rows := f 0x14 2
  let rb := f 0x16 2
  f 0x00 8 % 16 == 0 && f 0x08 4 % 16 == 0
    && (rows == 1 || (f 0x0C 4 % 16 == 0 && f 0x10 4 % 16 == 0 && decide (rb ≤ f 0x10 4)))
    && decide (1 ≤ rows) && decide (rows ≤ 4096) && decide (16 ≤ rb) && decide (rb ≤ 65520) && rb % 16 == 0
    && f 0x18 1 != 0 && (decide (f 0x19 1 ≤ 15) || f 0x19 1 == 0xFF) && (decide (f 0x1A 1 ≤ 63) || f 0x1A 1 == 0xFF)
    && decide (f 0x1B 1 ≤ 1) && zeroAt b 0x1C 24 && zeroAt b 0x38 8

/-- The span of a CPYM's source, from its first byte to its last. -/
def cpymSpan (b : List Byte) : Span :=
  let f := fieldAt b
  { sp := if f 0x1B 1 = 1 then .s else .g, lo := f 0x00 8
    len := (if f 0x14 2 = 1 then 0 else (f 0x14 2 - 1) * f 0x0C 4) + f 0x16 2 }

/-- The rows of a CPYM's source. -/
def cpymRows (b : List Byte) : List Span :=
  let f := fieldAt b
  (List.range (f 0x14 2)).map (fun r => { sp := (cpymSpan b).sp, lo := f 0x00 8 + r * f 0x0C 4, len := f 0x16 2 })

/-- The place of a CPYM's rows in a receiver's scratch. -/
def cpymDest (b : List Byte) : Span :=
  let f := fieldAt b
  { sp := .s, lo := f 0x08 4, len := (if f 0x14 2 = 1 then 0 else (f 0x14 2 - 1) * f 0x10 4) + f 0x16 2 }

/-- The checks of R276: a status and address, or the pieces of the source as they are translated. The source range of a strided CPYM runs from SRC to
the end of its last row, the gaps between its rows among it: the spec does not say whether they are translated (DESIGN CHOICE, log 68). -/
def cpymCheck (s : State) (t : Team) (m : Cmd) : Except (Nat × Nat) (List (Nat × Nat × Xl)) :=
  let b := m.desc
  let src := cpymSpan b
  if !cpymFieldsOk b then .error (stFIELD, 0)
  else if !spanFits t src then .error (stSEG, spanAddr t src)
  else match (if src.sp = .g then rangeCheck s (cmdWho t m) [(.cmdRead, spanAddr t src, src.len)] else .ok []) with
    | .error e => .error e
    | .ok l =>
      if src.sp == .s && bitOf (fieldAt b 0x18 1) (t.core % 8) && spansMeet src (cpymDest b) then .error (stOVERLAP, 0)
      else .ok l

/-- A slot tested and, when it accepts, delivered to (R277, R278): the state, DELIV and REFUSE. -/
def cpymSlot (t : Team) (m : Cmd) (rows : List (List Byte)) (a : State × Nat × Nat) (slot : Nat) : State × Nat × Nat :=
  let s := a.1
  let b := m.desc
  let buf := fieldAt b 0x19 1
  let rsem := fieldAt b 0x1A 1
  let refused : State × Nat × Nat := (s, a.2.1, a.2.2 + 2 ^ slot)
  match teamOnCore s ((s.team? t.uid).getD t) (t.core / 8 * 8 + slot) with
  | none => refused
  | some u =>
    if (s.lrOf u).scr < (cpymDest b).lo + (cpymDest b).len then refused
    else if buf ≠ 0xFF ∧ bitOf u.mcb.toNat buf then refused
    else
      let s1 := if buf = 0xFF then s else s.setTeam { u with mcb := u.mcb ||| BitVec.ofNat 32 (2 ^ buf) }
      let s2 := ((List.range rows.length).zip rows).foldl (fun s r => s.setScr u.core (u.ssBase + fieldAt b 0x08 4 + r.1 * fieldAt b 0x10 4) r.2) s1
      (if rsem = 0xFF then s2 else semIncr s2 u.uid rsem 1, a.2.1 + 2 ^ slot, a.2.2)

/-- The data of a CPYM that passed its checks: the source read once, then every slot of MASK in an order freely chosen (R277, R278). -/
def cpymMove (s : State) (core : Nat) (t : Team) (m : Cmd) : State :=
  let spans := cpymRows m.desc
  match (tokenFail m [(spanAddr t (cpymSpan m.desc), (cpymSpan m.desc).len)]).orElse (fun _ => (spans.findSome? (badSpan s t m)).map (fun a => (stUE, a))) with
  | some e => endCmd s s core m (cmdRecord e.1 0 0 0 0 e.2)
  | none =>
    let rows := spans.map (readSpan s t m)
    let slots := (List.range 8).filter (bitOf (fieldAt m.desc 0x18 1))
    let r := (freeOrder s.draws 3 8 slots).foldl (cpymSlot t m rows) (s, 0, 0)
    endCmd s r.1 core m (cmdRecord stOK 0 r.2.1 r.2.2 0 0)

/-- CPYM_EXECUTE of a command: the checks, once, and then the data. -/
def cpymNum (s : State) (uid : Nat) : State :=
  match s.cmd? uid with
  | none => s
  | some (core, m) =>
    match s.team? m.team with
    | none => s
    | some t =>
      let reads (m : Cmd) : List (Nat × Nat) := (cpymRows m.desc).filterMap (fun r => if r.sp = .g then some (spanAddr t r, r.len) else none)
      if m.kind ≠ .cpym ∨ m.st = .ended ∨ !firstQueued s core uid then s
      else if m.st = .started then whenReady s core m (reads m) [] (fun s => cpymMove s core t m)
      else match cpymCheck s t m with
        | .error e => failCheck s core t m e
        | .ok l =>
          let m1 := { m with st := .started, maps := mapsOf l }
          let s1 := (fillMaps s (cmdWho t m) l).setCmd core m1
          whenReady s1 core m1 (reads m1) [] (fun s => cpymMove s core t m1)

/-- CPYM_EXECUTE (R276 to R279). -/
def execCpymExecute (s : State) : Host.Outcome State Fault Refusal := onNum cpymNum s

end Sys2Proof.Machine
end

