-- ==== Sys2Proof/Machine/Louver.lean ====
section
/-! DEFINITION. The Louver layout engine (12 R280 to R286): its descriptor and checks, the map of elements, frame rows and conversion. -/

namespace Sys2Proof.Machine

open Sys2Proof

/-- The space of a code of CTL.SSP or CTL.DSP (Table 12.13). -/
def lvSpace (c : Nat) : Space := if c = 0 then .g else if c = 1 then .s else .d

/-- A Louver descriptor's fields (Tables 12.12, 12.13). -/
structure Lv where
  src : Nat
  dst : Nat
  dmw : Nat
  ext : List Nat
  ctl : Nat
  scl : Nat

/-- The fields of a descriptor. -/
def lvOf (b : List Byte) : Lv :=
  let f := fieldAt b
  { src := f 0 8, dst := f 8 8, dmw := f 0x10 8, ext := (List.range 12).map (fun a => f (0x18 + 2 * a) 2), ctl := f 0x30 4, scl := f 0x38 8 }

/-- NDIM. -/
def Lv.ndim (v : Lv) : Nat := bitsOf v.ctl 19 16
/-- CONV. -/
def Lv.conv (v : Lv) : Nat := bitsOf v.ctl 15 13
/-- FRAME mode. -/
def Lv.frame (v : Lv) : Bool := bitsOf v.ctl 12 11 == 1
/-- The destination space. -/
def Lv.dsp (v : Lv) : Space := lvSpace (bitsOf v.ctl 10 8)
/-- The source space. -/
def Lv.ssp (v : Lv) : Space := lvSpace (bitsOf v.ctl 6 4)
/-- Bits of an element. -/
def Lv.bits (v : Lv) : Nat := 2 ^ (bitsOf v.ctl 2 0 + 2)
/-- The extents of the source axes. -/
def Lv.exts (v : Lv) : List Nat := v.ext.take v.ndim
/-- OUTDIMS (R281). -/
def Lv.outs (v : Lv) : Nat := bitsOf v.dmw 63 60
/-- sa(j). -/
def Lv.sa (v : Lv) (j : Nat) : Nat := bitsOf v.dmw (5 * j + 3) (5 * j)
/-- MERGE of output axis j. -/
def Lv.merge (v : Lv) (j : Nat) : Bool := bitOf v.dmw (5 * j + 4)
/-- The extents of the output axes, outermost first. -/
def Lv.outExts (v : Lv) : List Nat := (List.range v.ndim).map (fun j => v.exts.getD (v.sa j) 1)
/-- The product of a list. -/
def prod (l : List Nat) : Nat := l.foldl (· * ·) 1
/-- The number of elements. -/
def Lv.count (v : Lv) : Nat := prod v.exts
/-- The first output axis of the chain of merges that ends at the last axis (R282). -/
def Lv.rowAxis (v : Lv) : Nat := go v (v.ndim - 1) v.ndim
where
  /-- The chain followed outward from an axis. -/
  go (v : Lv) : Nat → Nat → Nat
    | 0, _ => 0
    | j + 1, _ => if v.merge j then go v j 0 else j + 1
/-- The row length L (R282). -/
def Lv.row (v : Lv) : Nat := prod (v.outExts.drop v.rowAxis)
/-- The number of rows. -/
def Lv.rows (v : Lv) : Nat := v.count / Nat.max v.row 1
/-- Lp of R284. -/
def Lv.padded (v : Lv) : Nat := roundUp v.row 32

/-- The digits of a number under extents, outermost first. -/
def digits : List Nat → Nat → List Nat
  | [], _ => []
  | _ :: t, n => n / prod t :: digits t (n % prod t)

/-- The number of digits under extents. -/
def undigits : List Nat → List Nat → Nat
  | e :: es, x :: xs => x * prod es + undigits es xs + 0 * e
  | _, _ => 0

/-- The source element of an output element (R282). -/
def Lv.srcOf (v : Lv) (o : Nat) : Nat :=
  let y := digits v.outExts o
  let x := (List.range v.ndim).map (fun a =>
    match (List.range v.ndim).find? (fun j => v.sa j == a) with
    | some j => y.getD j 0
    | none => 0)
  undigits v.exts x

/-! ### Checks (R285) -/

/-- Check 1: the fields. -/
def Lv.fieldsOk (v : Lv) : Bool :=
  let code (c : Nat) : Bool := c == 0 || c == 1 || c == 3
  bitsOf v.ctl 31 24 == 0 && !bitOf v.ctl 7 && !bitOf v.ctl 3
    && decide (bitsOf v.ctl 23 20 ≤ 4) && decide (1 ≤ v.ndim) && decide (v.ndim ≤ 12) && decide (v.conv ≤ 2)
    && decide (bitsOf v.ctl 12 11 ≤ 1) && code (bitsOf v.ctl 10 8) && code (bitsOf v.ctl 6 4) && decide (bitsOf v.ctl 2 0 ≤ 4)
    && v.exts.all (fun e => decide (1 ≤ e)) && (v.ext.drop v.ndim).all (fun e => e == 0)
    && v.src % 32 == 0 && v.dst % (if v.frame then 2 ^ 21 else 32) == 0 && (!v.frame || v.dsp == .g)
    && (if v.conv ≠ 0 ∧ !v.frame then v.scl % 32 == 0 else v.scl == 0)

/-- Check 2: DMW (R281). -/
def Lv.dmwOk (v : Lv) : Bool :=
  v.outs != 0 && v.outs == v.ndim && (List.range v.outs).all (fun j => decide (v.sa j < v.ndim))
    && noRepeats ((List.range v.outs).map v.sa) && !v.merge (v.outs - 1) && bitsOf v.dmw 59 (5 * v.outs) == 0

/-- Check 3: conversion (R284). -/
def Lv.convOk (v : Lv) : Bool := v.conv == 0 || (v.bits == 16 && !(v.frame && v.conv == 2))

/-- Check 4: sizes (R282 to R284). -/
def Lv.sizesOk (v : Lv) : Bool :=
  decide (v.count * v.bits / 8 ≤ 2 ^ 32)
    && (v.bits != 4 || ((v.exts.getLastD 0) % 2 == 0 && (v.outExts.getLastD 0) % 2 == 0))
    && (!v.frame || (if v.conv = 0 then decide (v.row * v.bits / 8 ≤ 2048) else decide (v.row ≤ 3840)))

/-- The number of scales. -/
def Lv.scales (v : Lv) : Nat := v.rows * (v.padded / 32)

/-- The source, destination and scale ranges. -/
def Lv.spans (v : Lv) : Span × Span × Span :=
  ({ sp := v.ssp, lo := v.src, len := v.count * v.bits / 8 },
   { sp := v.dsp, lo := v.dst
     len := if v.frame then (v.rows + 1023) / 1024 * 2 ^ 21 else if v.conv ≠ 0 then v.rows * (v.padded / 2) else v.count * v.bits / 8 },
   { sp := v.dsp, lo := v.scl
     len := if v.conv = 0 ∨ v.frame then 0 else if v.conv = 1 then v.scales else 3 * ((v.scales + 1) / 2) })

/-- The ranges of G that a Louver command reads and writes. -/
def lvRanges (t : Team) (v : Lv) : List (Acc × Nat × Nat) :=
  let r := v.spans
  ([(Acc.cmdRead, r.1), (Acc.cmdWrite, r.2.1), (Acc.cmdWrite, r.2.2)].filter (fun q => q.2.sp == .g && decide (0 < q.2.len))).map
    (fun q => (q.1, spanAddr t q.2, q.2.len))

/-- Every check of R285 in order: the status and address of the first that fails, or the pieces of its ranges as they are translated. Where several of
its ranges pass the limit of their segment, FADDR names the source, then the destination, then the scales: R285 does not say which (DESIGN CHOICE,
log 68). -/
def lvCheck (s : State) (t : Team) (m : Cmd) : Except (Nat × Nat) (List (Nat × Nat × Xl)) :=
  let v := lvOf m.desc
  let r := v.spans
  if !v.fieldsOk then .error (stFIELD, 0)
  else if !v.dmwOk then .error (stDMW, 0)
  else if !v.convOk then .error (stCONV, 0)
  else if !v.sizesOk then .error (stSIZE, 0)
  else if spansMeet r.1 r.2.1 || spansMeet r.1 r.2.2 || spansMeet r.2.1 r.2.2 then .error (stOVERLAP, 0)
  else match [r.1, r.2.1, r.2.2].find? (fun q => decide (0 < q.len) && !spanFits t q) with
    | some q => .error (stSEG, spanAddr t q)
    | none => rangeCheck s (cmdWho t m) (lvRanges t v)

/-! ### The move (R282 to R284) -/

/-- Source element k. -/
def lvElem (s : State) (t : Team) (m : Cmd) (v : Lv) (k : Nat) : Nat :=
  let b := ofBytes (readSpan s t m { sp := v.ssp, lo := v.src + k * v.bits / 8, len := (v.bits + 7) / 8 })
  if v.bits = 4 then elOf 4 b (k % 2) else b

/-- The elements of an output row. -/
def lvRow (s : State) (t : Team) (m : Cmd) (v : Lv) (r : Nat) : List Nat :=
  (List.range v.row).map (fun i => lvElem s t m v (v.srcOf (r * v.row + i)))

/-- An output row quantised into blocks of 32 (R48, R284). -/
def lvBlocks (s : State) (t : Team) (m : Cmd) (v : Lv) (r : Nat) : List QBlock :=
  let els := lvRow s t m v r
  let bf := if v.conv = 1 then BlockFmt.mxfp4 else .dbf4
  (List.range (v.padded / 32)).map (fun b =>
    quantise bf (rmodeOf (bitsOf v.ctl 23 20)) 1 ((List.range 32).map (fun i =>
      match els[32 * b + i]? with
      | some e => (decodeF .bf16 e, true)
      | none => (.fin false 0 1, false))))

/-- The bytes of the elements of blocks, two to a byte (R46). -/
def blockBytes (qs : List QBlock) : List Byte :=
  let els := qs.flatMap (fun q => q.els)
  bytesOf (els.length / 2) (packEls 4 els)

/-- A row's bytes in its bank slot of a frame (R283, R284). -/
def lvFrameRow (s : State) (t : Team) (m : Cmd) (v : Lv) (r : Nat) : List Byte × Nat :=
  if v.conv = 0 then (bytesOf 2048 (packEls v.bits (lvRow s t m v r)), 0)
  else
    let qs := lvBlocks s t m v r
    let d := blockBytes qs
    let sc := qs.map (fun q => BitVec.ofNat 8 q.scale)
    (d ++ List.replicate (1920 - d.length) 0 ++ sc ++ List.replicate (128 - sc.length) 0, qs.foldl (fun f q => f ||| q.flags) 0)

/-- The data of a Louver command moved: every element is read from the state before the command; the state and the flags. -/
def lvMove (s : State) (t : Team) (m : Cmd) : State × Nat :=
  let v := lvOf m.desc
  let rows := List.range v.rows
  if v.frame then
    rows.foldl (fun a r =>
      let b := lvFrameRow s t m v r
      (writeSpan a.1 t m .g (v.dst + r / 1024 * 2 ^ 21 + r % 1024 * 2048) b.1, a.2 ||| b.2)) (s, 0)
  else if v.conv = 0 then
    (rows.foldl (fun a r =>
      let n := v.row * v.bits / 8
      writeSpan a t m v.dsp (v.dst + r * n) (bytesOf n (packEls v.bits (lvRow s t m v r)))) s, 0)
  else
    let bs := rows.map (fun r => (r, lvBlocks s t m v r))
    let s1 := bs.foldl (fun a p => writeSpan a t m v.dsp (v.dst + p.1 * (v.padded / 2)) (blockBytes p.2)) s
    let codes := bs.flatMap (fun p => p.2.map (fun q => q.scale))
    let sc := if v.conv = 1 then codes.map (BitVec.ofNat 8) else bytesOf (3 * ((codes.length + 1) / 2)) (packEls 12 codes)
    (writeSpan s1 t m v.dsp v.scl sc, bs.foldl (fun f p => p.2.foldl (fun f q => f ||| q.flags) f) 0)

/-- The data of a Louver command that passed its checks, or the error that they meet (R273, R430). -/
def lvData (s : State) (core : Nat) (t : Team) (m : Cmd) : State :=
  let v := lvOf m.desc
  match (tokenFail m ((lvRanges t v).map (fun r => r.2))).orElse (fun _ => (badSpan s t m v.spans.1).map (fun a => (stUE, a))) with
  | some e => endCmd s s core m (cmdRecord e.1 0 0 0 0 e.2)
  | none =>
    let r := lvMove s t m
    endCmd s r.1 core m (cmdRecord stOK r.2 0 0 0 0)

/-- The reads and the writes of G among a Louver command's ranges. -/
def lvReadsWrites (t : Team) (m : Cmd) : List (Nat × Nat) × List (Nat × Nat) :=
  let l := lvRanges t (lvOf m.desc)
  ((l.filter (fun r => r.1 == .cmdRead)).map (fun r => r.2), (l.filter (fun r => r.1 != .cmdRead)).map (fun r => r.2))

/-- A started Louver command: it asks the outside, waits for a channel, or moves its data. -/
def lvGo (s : State) (core : Nat) (t : Team) (m : Cmd) : State :=
  whenReady s core m (lvReadsWrites t m).1 (lvReadsWrites t m).2 (fun s => lvData s core t m)

/-- The commands that a die's Louver may take next: the one it has begun, and the first queued command of each core's queue, when it is a
Louver command (R261, R286). -/
def lvReady (s : State) (die : Nat) : List Cmd :=
  s.cores.filterMap (fun c =>
    if dieOf c.1 = die then
      match c.2.cmdq.find? (fun m => m.st == .queued || (m.st == .started && m.kind == .louver)) with
      | some m => if m.kind = .louver then some m else none
      | none => none
    else none)

/-- A Louver command is taken before another: one that has begun, then class 1 before 0, then the earliest accepted (R286). -/
def lvBefore (s : State) (m n : Cmd) : Bool :=
  if (m.st == .started) != (n.st == .started) then m.st == .started
  else if cmdCls s m != cmdCls s n then decide (cmdCls s n < cmdCls s m)
  else decide (m.uid < n.uid)

/-- The next command of a die's Louver (R286). -/
def lvNext (s : State) (die : Nat) : Option Cmd :=
  (lvReady s die).foldl (fun b m =>
    match b with
    | none => some m
    | some n => if lvBefore s m n then some m else some n) none

/-- LOUVER_EXECUTE on a die: the next command is started and checked, once, and then performed. -/
def louverDie (s : State) (die : Nat) : State :=
  match lvNext s die with
  | none => s
  | some m =>
    match s.cmd? m.uid, s.team? m.team with
    | some (core, _), some t =>
      if m.st = .started then lvGo s core t m
      else match lvCheck s t m with
        | .error e => failCheck s core t m e
        | .ok l =>
          let m1 := { m with st := .started, maps := mapsOf l }
          lvGo ((fillMaps s (cmdWho t m) l).setCmd core m1) core t m1
    | _, _ => s

/-- LOUVER_EXECUTE (R285, R286); its subject is the die. -/
def execLouverExecute (s : State) : Host.Outcome State Fault Refusal := onNum louverDie s

end Sys2Proof.Machine
end

