-- ==== Sys2Proof/Machine/Matrix.lean ====
section
/-! DEFINITION. The matrix engine (13): the checks and the queueing of MMA, MZERO and MDRAIN (R292 to R301), the start of a command (R302), a
K-step of an MMA (R305 to R307), MZERO (R308), MDRAIN (R309 to R311) and MSTAT (R312). -/

namespace Sys2Proof.Machine

open Sys2Proof

/-! ### Accumulators (R288, R290) -/

/-- The place of a 32-bit word of a team's region. -/
def accKey (s : State) (t : Team) (off : Nat) : Nat := t.core * 65536 + s.clsOf t * 32768 + (t.accBase + off) / 4

/-- A word of a team's region. -/
def accGet (s : State) (t : Team) (off : Nat) : Word := mget 0 s.acc (accKey s t off)

/-- A word of a team's region written; its error is lost. -/
def accPut (s : State) (t : Team) (off : Nat) (v : Word) : State :=
  let k := accKey s t off
  { s with
    acc := mset 0 s.acc k v
    damage := s.damage.filter (fun d => d != .acc (k / 65536) (k % 65536)) }

/-- A word of a team's region holds an error. -/
def accBad (s : State) (t : Team) (off : Nat) : Bool :=
  let k := accKey s t off
  s.damage.contains (.acc (k / 65536) (k % 65536))

/-- Flags ORed into a team's MSTAT (R290). -/
def orMstat (s : State) (team fl : Nat) : State :=
  match s.team? team with
  | some t => s.setTeam { t with mstat := t.mstat ||| BitVec.ofNat 32 fl }
  | none => s

/-- MSTAT.META (Table 13.1). -/
def msMETA : Nat := 0x20
/-- MSTAT.UE (Table 13.1). -/
def msUE : Nat := 0x40

/-! ### Formats (R292, R293) -/

/-- The element format of a matrix format code; none for S8 and the reserved codes (Table 13.3). -/
def mmaFloat : Nat → Option FFmt
  | 0 => some .bf16
  | 1 => some .fp16
  | 2 => some .e4m3
  | 3 => some .e5m2
  | 4 => some .e2m1
  | _ => none

/-- Bits of an element of a matrix format code (Table 13.3). -/
def mmaBits (c : Nat) : Nat := if c ≤ 1 then 16 else if c = 4 then 4 else 8

/-- The pairs of Table 13.4 with the scale kinds that they allow. -/
def pairOk (a b sck : Nat) : Bool :=
  if a = 5 ∧ b = 5 then sck == 0
  else if 4 < a ∨ 4 < b then false
  else if a ≤ 1 ∨ b ≤ 1 then sck == 0
  else if a = 4 ∧ b = 4 then decide (sck ≤ 2)
  else decide (sck ≤ 1)

/-- The aligned group size of a pair (Table 13.4). -/
def groupSize (a b : Nat) : Nat := if a ≤ 1 ∧ b ≤ 1 then 8 else 32

/-! ### The uniform blocks (R299) -/

/-- The uniform blocks of a matrix command: M, N, K, FLAGS, the descriptor and TILE, with what MR gives. -/
structure Mx where
  mr : DWord
  blk : List Nat

/-- Field n of the blocks: 0 to 3 the shape, 4 to 11 the descriptor, 12 TILE. -/
def Mx.f (x : Mx) (n : Nat) : Nat := x.blk.getD n 0
/-- M. -/
def Mx.m (x : Mx) : Nat := x.f 0
/-- N. -/
def Mx.n (x : Mx) : Nat := x.f 1
/-- K. -/
def Mx.k (x : Mx) : Nat := x.f 2
/-- FLAGS. -/
def Mx.flags (x : Mx) : Nat := x.f 3
/-- TILE. -/
def Mx.tile (x : Mx) : Nat := x.f 12
/-- The number of 64-position groups (R294). -/
def Mx.gs64 (x : Mx) : Nat := (x.k + 63) / 64
/-- Elements of an A row (R294). -/
def Mx.aEls (x : Mx) : Nat := if mrSPN x.mr = 0 then x.k else x.gs64 * mrSPN x.mr
/-- Bytes of a row of elements (R294). -/
def rowBytes (els bits : Nat) : Nat := (els * bits + 7) / 8
/-- Bytes of the scales of a row of nb blocks (R295): dense bytes for E8M0, triples for E8M4. -/
def scaleRow (e8m4 : Bool) (nb : Nat) : Nat := if e8m4 then 3 * ((nb + 1) / 2) else nb
/-- Blocks of an operand row (R295). -/
def Mx.nb (x : Mx) : Nat := (x.k + 31) / 32
/-- Metadata bytes of a row (R296). -/
def Mx.mrow (x : Mx) : Nat := 3 * x.gs64 * mrSPN x.mr / 4
/-- The offset of a tile element (R288). -/
def Mx.at (x : Mx) (m n : Nat) : Nat := x.tile + (m * x.n + n) * 4
/-- The elements of the tile, row by row. -/
def Mx.els (x : Mx) : List (Nat × Nat) := (List.range x.m).flatMap (fun m => (List.range x.n).map (fun n => (m, n)))

/-- Bits of an element of a drain format (Table 13.9). -/
def drainBits (f : Nat) : Nat := if f = 0 ∨ f = 9 then 32 else if f ≤ 2 then 16 else if f ≤ 6 then 8 else 4
/-- The block format of a drain format (Table 13.9). -/
def drainBlock : Nat → Option BlockFmt
  | 5 => some .mxfp8e4m3
  | 6 => some .mxfp8e5m2
  | 7 => some .mxfp4
  | 8 => some .dbf4
  | _ => none
/-- DCTL.OFMT. -/
def Mx.ofmt (x : Mx) : Nat := bitsOf (x.f 10) 4 0
/-- DCTL.XFMT. -/
def Mx.xfmt (x : Mx) : Nat := bitsOf (x.f 10) 9 5
/-- DCTL.XEN. -/
def Mx.xen (x : Mx) : Bool := bitOf (x.f 10) 10
/-- Positions of an output row of length l, padded in a block format (R310). -/
def drainLen (f l : Nat) : Nat := if (drainBlock f).isSome then roundUp l 32 else l

/-! ### The checks at issue (R300) -/

/-- A value checked at check 5: its alignment, and the length of the range that starts there. -/
structure Chk where
  val : Nat
  len : Option Nat

/-- The values of an MMA in the order of Table 13.6. -/
def mmaChks (x : Mx) : List Chk :=
  let sc := mrSCK x.mr
  let side (off str els bits rows : Nat) : List Chk := [⟨off, some ((rows - 1) * str + rowBytes els bits)⟩, ⟨str, none⟩]
  let scl (off rows : Nat) : List Chk := if sc = 0 then [] else [⟨off, some (rows * scaleRow (sc == 2) x.nb)⟩]
  side (x.f 4) (x.f 5) x.aEls (mmaBits (mrAFMT x.mr)) x.m ++ scl (x.f 6) x.m
    ++ (if mrSPN x.mr = 0 then [] else [⟨x.f 7, some (x.m * x.mrow)⟩])
    ++ side (x.f 8) (x.f 9) x.k (mmaBits (mrBFMT x.mr)) x.n ++ scl (x.f 10) x.n

/-- The values of one output of an MDRAIN (R310). -/
def outChks (f off str soff rows l : Nat) : List Chk :=
  let lp := drainLen f l
  [⟨off, some ((rows - 1) * str + rowBytes lp (drainBits f))⟩, ⟨str, none⟩]
    ++ (if (drainBlock f).isSome then [⟨soff, some (rows * scaleRow (f == 8) (lp / 32))⟩] else [])

/-- The values of an MDRAIN in the order of Table 13.6. -/
def drainChks (x : Mx) : List Chk :=
  outChks x.ofmt (x.f 4) (x.f 5) (x.f 6) x.m x.n
    ++ (if x.xen then outChks x.xfmt (x.f 7) (x.f 8) (x.f 9) x.n x.m else [])

/-- Check 5 of a matrix command (R300): alignments, then ranges in scratch, then the tile in its region. -/
def mxCheck5 (am : Lanes) (limit accLen : Nat) (x : Mx) (cs : List Chk) : Option Trap :=
  match cs.find? (fun c => c.val % 16 ≠ 0) with
  | some c => some (laneTrap cALIGN am c.val)
  | none =>
    if x.tile % 4 ≠ 0 then some (laneTrap cALIGN am x.tile)
    else match cs.find? (fun c => match c.len with
        | some l => decide (limit < c.val + l)
        | none => false) with
      | some c => some (laneTrap cSEG_LIMIT am c.val)
      | none => if accLen < x.tile + x.m * x.n * 4 then some (laneTrap cSEG_LIMIT am x.tile) else none

/-- The shape is outside its limits, or a FLAGS bit other than the allowed one is set (R300). -/
def shapeBad (x : Mx) (needK : Bool) (allowed : Nat) : Bool :=
  !(decide (1 ≤ x.m) && decide (x.m ≤ 128) && decide (1 ≤ x.n) && decide (x.n ≤ 256) && (!needK || decide (1 ≤ x.k)))
    || !(x.flags == 0 || x.flags == allowed)

/-- DCTL breaks Table 13.8 or 13.9. -/
def dctlBad (x : Mx) : Bool :=
  decide (2048 ≤ x.f 10) || decide (9 < x.ofmt) || (x.xen && decide (9 < x.xfmt))

/-- The blocks as the issuing group holds them. -/
def mxOf (x : Ix) (t : UniOp) (a : Option (Fin 64)) (b : Fin 64) : Mx :=
  let g (r k : Nat) : Nat := (x.g.ureg (r + k)).toNat
  { mr := x.sp.mr
    blk := (List.range 4).map (g b.val) ++ (match a with
      | some r => (List.range 8).map (g r.val)
      | none => List.replicate 8 0) ++ [(readUni1 x t).toNat] }

/-- The uniform registers that an MMA reads of its descriptor: the scale and metadata offsets only where MR asks for them (Table 13.6). -/
def mmaReads (mr : DWord) : List Nat :=
  [0, 1, 4, 5, 7] ++ (if mrSCK mr = 0 then [] else [2, 6]) ++ (if mrSPN mr = 0 then [] else [3])

/-- The uniform registers that an MDRAIN reads of its descriptor, as its DCTL asks (Table 13.6). -/
def drainReads (dctl : Nat) : List Nat :=
  let block (f : Nat) : Bool := (drainBlock f).isSome
  [0, 1, 6, 7] ++ (if block (bitsOf dctl 4 0) then [2] else [])
    ++ (if bitOf dctl 10 then [3, 4] ++ (if block (bitsOf dctl 9 5) then [5] else []) else [])

/-- The uniform registers that a matrix command reads (R299): TILE, its shape, with K of an MMA alone, and its descriptor's. -/
def mxUnis (kind : CmdKind) (t : UniOp) (a : Option (Fin 64)) (b : Fin 64) (x : Ix) : List Nat :=
  uniNums false t ++ (if kind = .mma then [0, 1, 2, 3] else [0, 1, 3]).map (b.val + ·) ++ (match a with
    | some r => (if kind = .mma then mmaReads x.sp.mr else drainReads (x.g.ureg (r.val + 6)).toNat).map (r.val + ·)
    | none => [])

/-- A matrix command checked and queued in the class queue of its team's launch (R300, R301). -/
def mxOp (kind : CmdKind) (bad : Mx → Bool) (chks : Mx → List Chk) (t : UniOp) (a : Option (Fin 64)) (b : Fin 64) :
    State → Host.Outcome State Fault Refusal :=
  issue { major := some 0x3D, guarded := false, unisBy := mxUnis kind t a b, bad := fun x => illegalIf (bad (mxOf x t a b)), blocked := noEntry kind } (fun x =>
    let m := mxOf x t a b
    match mxCheck5 x.am x.t.ssLimit x.t.accLen m (chks m) with
    | some tr => .error tr
    | none => .ok (cmdIssue x (fun x => (enqueue x { newCmd x kind .queued [] with blk := m.blk }, .step))))

/-- MMA (R298 to R301). -/
def execMma (t : UniOp) (a : Fin 64) (b : Fin 64) (s : State) : Host.Outcome State Fault Refusal :=
  mxOp .mma (fun x => shapeBad x true 1 || !pairOk (mrAFMT x.mr) (mrBFMT x.mr) (mrSCK x.mr) || x.f 11 != 0) mmaChks t (some a) b s
/-- MZERO (R298 to R301, R308). -/
def execMzero (t : UniOp) (b : Fin 64) (s : State) : Host.Outcome State Fault Refusal :=
  mxOp .mzero (fun x => shapeBad x false 0) (fun _ => []) t none b s
/-- MDRAIN (R298 to R301, R309). -/
def execMdrain (t : UniOp) (a : Fin 64) (b : Fin 64) (s : State) : Host.Outcome State Fault Refusal :=
  mxOp .mdrain (fun x => shapeBad x false 2 || dctlBad x || x.f 11 != 0) drainChks t (some a) b s

/-- MSTAT (R312). -/
def execMstat (clr : Bool) (d : Fin 64) (s : State) : Host.Outcome State Fault Refusal :=
  issue { major := some 0x3D, guarded := false } (fun x =>
    let s1 := x.s.setGroup (x.g.setUreg d.val x.t.mstat)
    .ok (if clr then s1.setTeam { x.t with mstat := 0 } else s1, .step)) s

/-! ### The start of a command (R302) -/

/-- The command that the engine starts next: of queue 1 when it holds any, else of queue 0. -/
def mxNext (c : CoreSt) : Option Cmd :=
  match c.mq1 with
  | m :: _ => some m
  | [] => c.mq0.head?

/-- Every word of a tile zeroed (R308). -/
def zeroTile (s : State) (t : Team) (x : Mx) : State :=
  x.els.foldl (fun s p => accPut s t (x.at p.1 p.2) 0) s

/-- Some word of a tile holds an error. -/
def tileBad (s : State) (t : Team) (x : Mx) : Bool := x.els.any (fun p => accBad s t (x.at p.1 p.2))

/-! ### MDRAIN (R310, R311) -/

/-- The floating format of drain codes 1 to 4 (Table 13.9). -/
def drainFloat : Nat → FFmt
  | 1 => .bf16
  | 2 => .fp16
  | 3 => .e4m3
  | _ => .e5m2

/-- Elements rounded in order under codes 1 to 4: encodings, flags and generator (R311). -/
def drainRound (f : FFmt) (rm : RMode) (sat : Bool) : Word → List Word → List Nat × Nat × Word
  | g, [] => ([], 0, g)
  | g, w :: t =>
    let g1 := if rm == .rsr then rsrStep g else g
    let r := roundF f rm sat (rsrN g1) (decodeF .fp32 w.toNat)
    let rest := drainRound f rm sat g1 t
    (r.bits :: rest.1, r.flags ||| rest.2.1, rest.2.2)

/-- A row quantised block by block: encodings, scale codes, flags and generator (R48, R311). -/
def drainBlocks (bf : BlockFmt) (rm : RMode) : Nat → Word → List Word → List Nat × List Nat × Nat × Word
  | 0, g, _ => ([], [], 0, g)
  | n + 1, g, ws =>
    let here := ws.take 32
    let vs := here.map (fun w => (decodeF .fp32 w.toNat, true)) ++ List.replicate (32 - here.length) (FVal.fin false 0 1, false)
    let q := quantise bf rm g vs
    let rest := drainBlocks bf rm n q.gen (ws.drop 32)
    (q.els ++ rest.1, q.scale :: rest.2.1, q.flags ||| rest.2.2.1, rest.2.2.2)

/-- What a drain has produced: its writes in order, as scratch offset and byte, its flags and its generator. -/
structure Drained where
  out : List (Nat × Byte)
  flags : Nat
  gen : Word

/-- Bytes at consecutive offsets. -/
def bytesAt (off : Nat) (b : List Byte) : List (Nat × Byte) := ((List.range b.length).map (off + ·)).zip b

/-- A row written in a drain format at an offset, with its scales (R310, R311). -/
def drainRow (mr : DWord) (f off soff : Nat) (a : Drained) (ws : List Word) : Drained :=
  let rm := rmodeOf (mrRM mr)
  let lp := drainLen f ws.length
  let bits := drainBits f
  let nbytes := rowBytes lp bits
  match drainBlock f with
  | some bf =>
    let r := drainBlocks bf rm (lp / 32) a.gen ws
    let sc := if f = 8 then bytesOf (scaleRow true (lp / 32)) (packEls 12 r.2.1) else r.2.1.map (BitVec.ofNat 8)
    ⟨a.out ++ bytesAt off (bytesOf nbytes (packEls bits r.1)) ++ bytesAt soff sc, a.flags ||| r.2.2.1, r.2.2.2⟩
  | none =>
    if f = 0 ∨ f = 9 then ⟨a.out ++ bytesAt off (ws.flatMap (fun w => bytesOf 4 w.toNat)), a.flags, a.gen⟩
    else
      let r := drainRound (drainFloat f) rm (mrSAT mr) a.gen ws
      ⟨a.out ++ bytesAt off (bytesOf nbytes (packEls bits r.1)), a.flags ||| r.2.1, r.2.2⟩

/-- One output of a drain: its rows in ascending order. -/
def drainRows (mr : DWord) (f off str soff : Nat) (rows : List (List Word)) (a : Drained) : Drained :=
  ((List.range rows.length).zip rows).foldl (fun a r =>
    drainRow mr f (off + r.1 * str) (soff + r.1 * scaleRow (f == 8) (drainLen f r.2.length / 32)) a r.2) a

/-- The outputs of a drain: the main one, then the transposed one (R311). -/
def drainAll (s : State) (t : Team) (x : Mx) : Drained :=
  let w (m n : Nat) : Word := accGet s t (x.at m n)
  let a := drainRows x.mr x.ofmt (x.f 4) (x.f 5) (x.f 6) ((List.range x.m).map (fun m => (List.range x.n).map (w m))) ⟨[], 0, t.dgen⟩
  if x.xen then drainRows x.mr x.xfmt (x.f 7) (x.f 8) (x.f 9) ((List.range x.n).map (fun n => (List.range x.m).map (fun m => w m n))) a
  else a

/-- Bytes at absolute offsets gathered into the words that they fill; a byte of a word that they do not fill stands alone. -/
def wordParts (bs : List (Nat × Byte)) : List (Nat × List Byte) :=
  (bs.map (fun b => b.1 / 4)).eraseDups.flatMap (fun k =>
    let w := (List.range 4).filterMap (fun i => (bs.find? (fun b => b.1 == 4 * k + i)).map (fun b => b.2))
    if w.length = 4 then [(4 * k, w)] else (bs.filter (fun b => b.1 / 4 == k)).map (fun b => (b.1, [b.2])))

/-- The writes of a drain that remain, word by word: each byte holds one of the values written to it (R311). -/
def drainWords (draws : Nat) (t : Team) (out : List (Nat × Byte)) : List (Nat × List Byte) :=
  let ws := (List.range out.length).zip out
  wordParts ((winnersBy draws (fun w => w.2.1) (fun w => w.1) ws).map (fun w => (t.ssBase + w.2.1, w.2.2)))

/-- MDRAIN performed. Which words are written before the command completes is free, of a word that it writes in part too: `lastWrites` writes
the others, which the command keeps (R304, log 4). With an error in the tile MSTAT.UE is set, each output byte is freely written or not, whether the flags and the
generator's steps remain is free, and CLEAR is not applied (R311, log 4). -/
def runDrain (s : State) (core : Nat) (t : Team) (m : Cmd) (x : Mx) : State :=
  let d := drainAll s t x
  let bad := tileBad s t x
  let note (s : State) : State := match s.team? t.uid with
    | some u => s.setTeam { u with dgen := d.gen, mstat := u.mstat ||| BitVec.ofNat 32 d.flags }
    | none => s
  let ws := drainWords s.draws t (if bad then d.out.filter (fun w => Config.freePick s.draws (2 ^ 61 + w.1) % 2 == 1) else d.out)
  let early (w : Nat × List Byte) : Bool := Config.freePick s.draws (2 ^ 63 + w.1 / 4) % 2 == 1
  let s1 := (ws.filter early).foldl (fun s w => s.setScr core w.1 w.2) s
  let s2 :=
    if bad then orMstat (if Config.freePick s.draws (2 ^ 62) % 2 = 1 then note s1 else s1) t.uid msUE
    else if bitOf x.flags 1 then zeroTile (note s1) t x else note s1
  s2.setCmd core { m with st := .ended, out := ws.filter (fun w => !early w) }

/-- A matrix command taken by an idle engine: MZERO and MDRAIN are performed; an MMA started, its tile zeroed first when ZERO is 1, or
resumed where it stopped (R302, R305). -/
def startMx (s : State) (core : Nat) (m : Cmd) : State :=
  match s.team? m.team with
  | none => s
  | some t =>
    let x : Mx := ⟨m.mr, m.blk⟩
    let s0 := s.setCore core { s.core core with mrun := some m.uid }
    match m.kind with
    | .mzero => (zeroTile s0 t x).setCmd core { m with st := .ended }
    | .mdrain => runDrain s0 core t m x
    | .mma =>
      if m.st == .queued then (if bitOf x.flags 0 && m.step == 0 then zeroTile s0 t x else s0).setCmd core { m with st := .started } else s0
    | _ => s

/-- MATRIX_COMMAND_START on a core: nothing while the engine runs a command or the next one has ended. -/
def matrixStart (s : State) (core : Nat) : State :=
  match (s.core core).mrun, mxNext (s.core core) with
  | none, some m => if m.st == .ended then s else startMx s core m
  | _, _ => s

/-- MATRIX_COMMAND_START (R302); its subject is the core. -/
def execMatrixCommandStart (s : State) : Host.Outcome State Fault Refusal := onNum matrixStart s

/-! ### A K-step of an MMA (R305 to R307) -/

/-- Element j of a row of packed elements in scratch (R294): its place in bytes and its value. -/
def elAt (s : State) (t : Team) (row bits j : Nat) : Nat :=
  let o := t.ssBase + row + j * bits / 8
  let b := ofBytes (s.scrBytes t.core o (if bits = 16 then 2 else 1))
  if bits = 4 then (b / 2 ^ (4 * (j % 2))) % 16 else b

/-- The element's bytes hold an error. -/
def elBad (s : State) (t : Team) (row bits j : Nat) : Bool := badScr s t.core (t.ssBase + row + j * bits / 8) (if bits = 16 then 2 else 1)

/-- The scale of a block of a row (R295). -/
def sclAt (s : State) (t : Team) (sck off r nb b : Nat) : FVal :=
  if sck = 2 then e8m4Val (e8m4At (fun i => (s.scrBytes t.core (t.ssBase + i) 1 |> ofBytes)) (off + r * scaleRow true nb) b)
  else e8m0Val (ofBytes (s.scrBytes t.core (t.ssBase + off + r * nb + b) 1))

/-- The scale's bytes hold an error; one E8M4 scale reads the three bytes of its pair (DESIGN CHOICE, log 30). -/
def sclBad (s : State) (t : Team) (sck off r nb b : Nat) : Bool :=
  if sck = 2 then badScr s t.core (t.ssBase + off + r * scaleRow true nb + 3 * (b / 2)) 3
  else badScr s t.core (t.ssBase + off + r * nb + b) 1

/-- The 6-bit index of kept element t of a row (R296). -/
def idxAt (s : State) (t : Team) (x : Mx) (m j : Nat) : Nat :=
  bitsOf (ofBytes (s.scrBytes t.core (t.ssBase + x.f 7 + m * x.mrow + 3 * (j / 4)) 3)) (6 * (j % 4) + 5) (6 * (j % 4))

/-- The indices of group h of a row. -/
def idxRow (s : State) (t : Team) (x : Mx) (h m : Nat) : List Nat :=
  (List.range (mrSPN x.mr)).map (fun u => idxAt s t x m (h * mrSPN x.mr + u))

/-- Strictly ascending. -/
def ascending : List Nat → Bool
  | a :: b :: t => decide (a < b) && ascending (b :: t)
  | _ => true

/-- The metadata of group h of a row holds an error. -/
def idxBad (s : State) (t : Team) (x : Mx) (h m : Nat) : Bool :=
  badScr s t.core (t.ssBase + x.f 7 + m * x.mrow + 3 * (h * mrSPN x.mr / 4)) (3 * mrSPN x.mr / 4)

/-- The positions of row m that take part in K-step g, with the element of the A row that sits there (R61, R296, R305): `md` holds the
indices of the current 64-position group, SPN for each row. -/
def takePart (x : Mx) (md : List Byte) (gs g m : Nat) : List (Nat × Nat) :=
  let spn := mrSPN x.mr
  if spn = 0 then ((List.range gs).map (fun i => (g * gs + i, g * gs + i))).filter (fun p => decide (p.1 < x.k))
  else
    let h := g * gs / 64
    ((List.range spn).map (fun u => (64 * h + byteAt md (m * spn + u), h * spn + u))).filter
      (fun p => decide (g * gs ≤ p.1) && decide (p.1 < g * gs + gs) && decide (p.1 < x.k))

/-- The row of A. -/
def Mx.aRow (x : Mx) (m : Nat) : Nat := x.f 4 + m * x.f 5
/-- The row of B. -/
def Mx.bRow (x : Mx) (n : Nat) : Nat := x.f 8 + n * x.f 9

/-- An operand element's value, with its scale (R47). -/
def mxVal (s : State) (t : Team) (x : Mx) (fmt soff r row k j : Nat) : FVal :=
  let v := match mmaFloat fmt with
    | some f => decodeF f (elAt s t row (mmaBits fmt) j)
    | none => .nan
  if mrSCK x.mr = 0 then v else scaledF (sclAt s t (mrSCK x.mr) soff r x.nb (k / 32)) v

/-- The accumulator of an element after K-step g (R305). -/
def stepEl (s : State) (t : Team) (x : Mx) (ps : List (Nat × Nat)) (m n : Nat) : Rnd :=
  let acc := (accGet s t (x.at m n)).toNat
  let fa := mrAFMT x.mr
  let fb := mrBFMT x.mr
  if fa = 5 then
    accumI (mrSAT x.mr) acc ((ps.map (fun p => sx (elAt s t (x.aRow m) 8 p.2) 8 * sx (elAt s t (x.bRow n) 8 p.1) 8)).foldl (· + ·) 0)
  else accumF (mrSAT x.mr) acc (ps.map (fun p => (mxVal s t x fa (x.f 6) m (x.aRow m) p.1 p.2, mxVal s t x fb (x.f 10) n (x.bRow n) p.1 p.1)))

/-- The data that K-step g consumes hold an error (R307): elements that take part, their scales, and the tile's words in the rows in which
some element takes part. -/
def stepBad (s : State) (t : Team) (x : Mx) (parts : List (List (Nat × Nat))) : Bool :=
  let sck := mrSCK x.mr
  let rows := (List.range parts.length).zip parts
  let any := parts.flatMap (fun ps => ps.map (fun p => p.1))
  rows.any (fun r => !r.2.isEmpty && (List.range x.n).any (fun n => accBad s t (x.at r.1 n)))
    || rows.any (fun r => r.2.any (fun p => elBad s t (x.aRow r.1) (mmaBits (mrAFMT x.mr)) p.2
        || (sck != 0 && sclBad s t sck (x.f 6) r.1 x.nb (p.1 / 32))))
    || (List.range x.n).any (fun n => any.any (fun k => elBad s t (x.bRow n) (mmaBits (mrBFMT x.mr)) k
        || (sck != 0 && sclBad s t sck (x.f 10) n x.nb (k / 32))))

/-- The products of K-step g added to the tile, and its flags to MSTAT (R305). -/
def applyStep (s : State) (t : Team) (x : Mx) (parts : List (List (Nat × Nat))) : State :=
  let rs := x.els.filterMap (fun p =>
    match parts.getD p.1 [] with
    | [] => none
    | ps => some (x.at p.1 p.2, stepEl s t x ps p.1 p.2))
  orMstat (rs.foldl (fun s r => accPut s t r.1 (BitVec.ofNat 32 r.2.bits)) s) t.uid (rs.foldl (fun f r => f ||| r.2.flags) 0)

/-- The metadata read at K-step g of a sparse MMA (R304, R305): kept, read again at the first step of a group, or refused on META or UE. Where
one row's holds an error and another's does not ascend, UE is taken (DESIGN CHOICE, log 30). -/
def stepMeta (s : State) (t : Team) (m : Cmd) (x : Mx) (gs : Nat) : Except Nat (List Byte) :=
  if mrSPN x.mr = 0 ∨ (m.step * gs) % 64 ≠ 0 then .ok m.desc
  else
    let h := m.step * gs / 64
    let rows := List.range x.m
    if rows.any (idxBad s t x h) then .error msUE
    else if rows.any (fun r => !ascending (idxRow s t x h r)) then .error msMETA
    else .ok (rows.flatMap (fun r => (idxRow s t x h r).map (BitVec.ofNat 8)))

/-- An MMA that has ended a K-step: it goes on, or is suspended for queue 1 when it is of class 0 (R302). -/
def boundary (s : State) (core : Nat) (m : Cmd) : State :=
  let s1 := s.setCmd core m
  let c := s1.core core
  if m.st == .started && !c.mq1.isEmpty && c.mq0.any (fun x => x.uid == m.uid) then s1.setCore core { c with mrun := none } else s1

/-- MMA_K_STEP on a core whose engine runs an MMA; one that is to stop sets MMASTOP where steps are left (R380, R381). -/
def kStep (s : State) (core : Nat) : State :=
  match (s.core core).mrun with
  | none => s
  | some uid =>
    match (s.core core).cmds.find? (fun m => m.uid == uid) with
    | none => s
    | some m =>
      match s.team? m.team with
      | none => s
      | some t =>
        if m.kind ≠ .mma ∨ m.st ≠ .started then s
        else
          let x : Mx := ⟨m.mr, m.blk⟩
          let gs := groupSize (mrAFMT x.mr) (mrBFMT x.mr)
          match stepMeta s t m x gs with
          | .error fl => (orMstat s t.uid fl).setCmd core { m with st := .ended }
          | .ok md =>
            let parts := (List.range x.m).map (takePart x md gs m.step)
            if stepBad s t x parts then (orMstat s t.uid msUE).setCmd core { m with st := .ended }
            else
              let last := decide ((x.k + gs - 1) / gs ≤ m.step + 1)
              let s1 := applyStep s t x parts
              boundary (if m.stopAt && !last then orWrs s1 t.uid wrsMMASTOP else s1) core
                { m with st := if m.stopAt || last then .ended else .started, step := m.step + 1, desc := md }

/-- MMA_K_STEP (R305 to R307); its subject is the core. -/
def execMmaKStep (s : State) : Host.Outcome State Fault Refusal := onNum kStep s

end Sys2Proof.Machine
end

