-- ==== Sys2Proof/Machine/Bank.lean ====
section
/-! DEFINITION. The bank queue with the checks of shutter operations and bank runs (14 R321, R326 to R329), the ownership of frames (R319,
R322, R323), the grant of a run (R331), its bank commands (R332 to R339), its end (R333), and the windows of a channel (R342 to R344). -/

namespace Sys2Proof.Machine

open Sys2Proof

/-! ### Status codes (Table 14.8) -/

/-- REJ_CROSS. -/
def stCROSS : Nat := 0x0C
/-- REJ_ATTR. -/
def stATTR : Nat := 0x0D
/-- REJ_OWNER. -/
def stOWNER : Nat := 0x0E
/-- REJ_PROGRAM. -/
def stPROG : Nat := 0x0F
/-- ERR_SEGMENT. -/
def stSEGMENT : Nat := 0x10
/-- ERR_PROGRAM. -/
def stERRPROG : Nat := 0x11
/-- CUT. -/
def stCUT : Nat := 0x12

/-! ### Scopes (R328) -/

/-- The banks of a scope in order: stack and bank slot (R328, R338). -/
def banksOf (scope stk chn : Nat) : List (Nat × Nat) :=
  if scope = 0 then (List.range 32).map (fun i => (stk, 32 * chn + i))
  else if scope = 1 then (List.range 1024).map (fun i => (stk, i))
  else (List.range 8192).map (fun i => (i / 1024, i % 1024))

/-- The banks of a run. -/
def Run.banks (r : Run) : List (Nat × Nat) := banksOf r.scope r.stk r.chn

/-- The number of banks of a scope. -/
def bankCount (scope : Nat) : Nat := if scope = 0 then 32 else if scope = 1 then 1024 else 8192

/-- Two runs need a BGE in common. -/
def runsMeet (a b : Run) : Bool :=
  a.scope == 2 || b.scope == 2 || (a.stk == b.stk && (a.scope == 1 || b.scope == 1 || a.chn == b.chn))

/-! ### The frame list (Table 14.7) -/

/-- An entry of a frame list: its virtual address and length. -/
structure FEntry where
  va : Nat
  len : Nat
  zero : Bool

/-- The entries of a frame list in a team's scratch, at their virtual addresses. -/
def frameList (s : State) (t : Team) (off n : Nat) : List FEntry :=
  (List.range n).map (fun k =>
    let b := s.scrBytes t.core (t.ssBase + off + 16 * k) 16
    { va := t.sgBase + fieldAt b 0 8, len := fieldAt b 8 4, zero := zeroAt b 12 4 })

/-- Sub-steps 4a and 4b for the page of an entry, with R and W (R400). -/
def framePage (s : State) (t : Team) (m : Cmd) (va : Nat) : Except Nat Xl :=
  match xl4a s (cmdWho t m) va with
  | .error c => .error c
  | .ok y => if xl4b s (cmdWho t m) .cmdBoth va y then .ok y else .error cPAGE_PERMISSION

/-- A page that a bank run or shutter operation may name: a 2 MiB leaf in the first tier with C = 1 and P = 1 (R223, R321). -/
def frameLeaf (y : Xl) : Bool := y.lvl == 1 && eKIND y.e == 0 && eC y.e && eP y.e

/-- The leaves of the pages of entries, whose ranges are given, in order: nothing yet where a walk awaits an entry, ERR_UNCORRECTABLE where one is damaged
(R371, log 36), ERR_PAGE at the first page that fails (R273, R400), then, for a command that accesses them, ERR_PEER_TOKEN (R430). -/
def entryPages (s : State) (t : Team) (m : Cmd) (accesses : Bool) (rs : List (List (Nat × Nat))) : Except (Nat × Nat) (List (List (Nat × Xl))) :=
  let errs := rs.flatten.filterMap (fun p => match framePage s t m p.1 with
    | .error c => some (stageStatus c, p.1)
    | .ok _ => none)
  match [stAWAITED, stUE, stPAGE].findSome? (fun st => errs.find? (fun e => e.1 == st)) with
  | some e => .error e
  | none =>
    let ys := rs.map (fun r => r.filterMap (fun p => match framePage s t m p.1 with
      | .error _ => none
      | .ok y => some (p.1, y)))
    match ys.flatten.find? (fun p => accesses && homeRefuses s p.2.pa) with
    | some p => .error (stTOKEN, p.1)
    | none => .ok ys

/-- The leaves of entries as the TLB of the command's agent notes them (R401). -/
def fillPages (s : State) (t : Team) (m : Cmd) (ys : List (List (Nat × Xl))) : State :=
  fillMaps s (cmdWho t m) (ys.flatten.map (fun p => (p.1, 1, p.2)))

/-- The frame of an entry: that of its first page. -/
def entryFrame (ys : List (Nat × Xl)) : Nat := (ys.head?.map (fun p => frameOf p.2.pa)).getD 0

/-- The first entry of a list in scratch whose word holds an error. -/
def listBad (s : State) (t : Team) (m : Cmd) (off n : Nat) : Option Nat := badSpan s t m { sp := .s, lo := off, len := 16 * n }

/-! ### Shutter operations (R321 to R323) -/

/-- The fields of Table 14.5. -/
def shutFieldsOk (b : List Byte) : Bool :=
  let f := fieldAt b
  f 0 4 % 16 == 0 && decide (1 ≤ f 4 1) && decide (f 4 1 ≤ 8) && decide (f 5 1 ≤ 1) && zeroAt b 6 46 && zeroAt b 0x38 8

/-- The checks of R321: a status and address, or the leaves of the entries. -/
def shutCheck (s : State) (t : Team) (m : Cmd) : Except (Nat × Nat) (List (List (Nat × Xl))) :=
  let b := m.desc
  let off := fieldAt b 0 4
  let n := fieldAt b 4 1
  if !shutFieldsOk b then .error (stFIELD, 0)
  else if t.ssLimit < off + 16 * n then .error (stSEG, off)
  else match listBad s t m off n with
    | some a => .error (stUE, a)
    | none =>
      let es := frameList s t off n
      match es.find? (fun e => decide (t.sgLimit < e.va - t.sgBase + 1)) with
      | some e => .error (stSEG, e.va)
      | none =>
        match entryPages s t m false (es.map (fun e => [(e.va, 1)])) with
        | .error e => .error e
        | .ok ys =>
          match ys.flatten.find? (fun p => !frameLeaf p.2) with
          | some p => .error (stATTR, p.1)
          | none => .ok ys

/-- DIR of a shutter operation is to-BANK. -/
def toBank (m : Cmd) : Bool := fieldAt m.desc 5 1 == 1

/-- The shutter operations that have reached a frame and not left it. -/
def shutsAt (s : State) (f : Nat) : List Cmd :=
  s.cores.flatMap (fun c => c.2.bankq.filter (fun m => m.kind == .shut && m.st == .started && m.reach.isSome && m.blk[m.step]? == some f))

/-- A shutter operation is the first of those that have reached a frame: they act on it one at a time, in that order (R319). -/
def firstAt (s : State) (f : Nat) (m : Cmd) : Bool :=
  (shutsAt s f).all (fun x => x.uid == m.uid || decide (m.reach.getD s.uid < x.reach.getD 0))

/-- A shutter operation that has reached the frame it stands at, with its place in that frame's order (R319). -/
def reachFrame (s : State) (core : Nat) (m : Cmd) : State × Cmd :=
  if m.reach.isSome then (s, m)
  else
    let m1 : Cmd := { m with reach := some s.uid }
    (s.fresh.setCmd core m1, m1)

/-- A shutter operation that has done with the frame it stands at. -/
def nextFrame (m : Cmd) : Cmd := { m with step := m.step + 1, wait := false, reach := none }

/-- A shutter operation acts on the frames it need not wait for, in list order, and on each as the first of those that have reached it (R319); `wait`
marks a frame that it has itself set HANDING (Table 14.4, R322). A frame whose token a peer holds is recalled first (R429). -/
def shutGo : Nat → State → Nat → State
  | 0, s, _ => s
  | fuel + 1, s0, uid =>
    match s0.cmd? uid with
    | none => s0
    | some (core, m0) =>
      if m0.kind ≠ .shut ∨ m0.st ≠ .started ∨ m0.wait ∨ !m0.checked then s0
      else match m0.blk[m0.step]? with
        | none => s0.setCmd core { m0 with st := .ended, record := cmdRecord stOK 0 0 m0.lost 0 0 }
        | some f =>
          let s := (reachFrame s0 core m0).1
          let m := (reachFrame s0 core m0).2
          let fr := s.frame f
          if !firstAt s f m then s
          else match toBank m, fr.st with
          | true, .bank => shutGo fuel (s.setCmd core (nextFrame m)) uid
          | true, .die =>
            if (s.homeTok f).holder.isSome then recallForBank s f
            else (s.setFrame f { fr with st := .handing, ctx := cmdCtx s m }).setCmd core { m with wait := true }
          | false, .die => shutGo fuel (s.setCmd core (nextFrame m)) uid
          | _, _ => s

/-- The started shutter operations. -/
def shutsOf (s : State) : List Nat :=
  s.cores.flatMap (fun c => (c.2.bankq.filter (fun m => m.kind == .shut && m.st == .started)).map (fun m => m.uid))

/-- Operations tried in turn, so many times over. -/
def shutPasses (us : List Nat) : Nat → State → State
  | 0, s => s
  | n + 1, s => shutPasses us n (us.foldl (fun s u => shutGo 10 s u) s)

/-- Every started shutter operation tried until none goes on: each leaves at most eight frames, and one that leaves a frame lets the next act there
(R319). -/
def shutAll (s : State) : State := shutPasses (shutsOf s) (8 * (shutsOf s).length) s

/-- A command that touches a frame by the ranges that it has checked has not completed (R266, R322 step 3). -/
def frameTouched (s : State) (f : Nat) : Bool :=
  s.cores.any (fun c => c.2.cmds.any (fun m => m.maps.any (fun p => regionOf p.2.2 == .tier1 && frameOf p.2.2 == f)))

/-- A place lies in a frame. -/
def Place.inFrame (f : Nat) (p : Place) : Bool := p.isIn .tier1 && frameOf p.pa == f

/-- Some access to a frame has passed its check and is not performed: a record of this part's own that awaits its application, or a request that
the part holds for a peer (R322 step 3). -/
def frameAwaits (s : State) (f : Nat) : Bool :=
  let mine (pa : Nat) : Bool := regionOf pa == .tier1 && frameOf pa == f
  (s.lintel.q0 ++ s.lintel.q1 ++ s.lintel.sent).any (fun r => mine r.pa) || s.heldReqs.any (fun r => mine r.addr)
    || s.laters.any (Later.inOwn f)

/-- HANDING_DONE of a shutter operation: its HANDING frame becomes BANK once the accesses that passed their check are performed and the
commands that touch it have completed; no L2 keeps a line of it (R322 steps 3 to 5). -/
def handingDone (s : State) (uid : Nat) : State :=
  match s.cmd? uid with
  | none => s
  | some (core, m) =>
    match m.wait, m.blk[m.step]? with
    | true, some f =>
      if (s.frame f).st ≠ .handing ∨ frameTouched s f ∨ frameAwaits s f then s
      else
        let s1 := settleWhere s (Place.inFrame f)
        if s1.groups.any (fun g => g.pends.any (fun p => p.vals.any (fun v => v.2.place?.any (fun q => q.1.inFrame f)))) then s1
        else
          let s2 := dropGuests s1 (f * 2 ^ 21) (2 ^ 21)
          shutAll ((s2.setFrame f { s2.frame f with st := .bank }).setCmd core (nextFrame m))
    | _, _ => s

/-- HANDING_DONE (R322); its subject is the shutter operation. -/
def execHandingDone (s : State) : Host.Outcome State Fault Refusal := onNum handingDone s

/-- A frame returned to DIE; the requests for its token that waited are served (R429). -/
def freeFrame (s : State) (f : Nat) : State := homeServe (s.setFrame f {}) f

/-- TO_DIE_FRAME of a shutter operation, the first of those that have reached the frame (R319): its BANK frame, when no run holds it, becomes DIE, with
LOSTW reported (R323, Table 14.4). -/
def toDieFrame (s : State) (uid : Nat) : State :=
  match s.cmd? uid with
  | none => s
  | some (core, m) =>
    if m.kind ≠ .shut ∨ m.st ≠ .started ∨ toBank m then s
    else match m.blk[m.step]? with
      | none => s
      | some f =>
        let fr := s.frame f
        if fr.st ≠ .bank ∨ fr.hold ≠ 0 ∨ !firstAt s f m then s
        else
          let lost := if fr.lostw then 2 ^ m.step else 0
          shutAll ((freeFrame s f).setCmd core { nextFrame m with lost := m.lost + lost })

/-- TO_DIE_FRAME (R323); its subject is the shutter operation. -/
def execToDieFrame (s : State) : Host.Outcome State Fault Refusal := onNum toDieFrame s

/-! ### The checks of a bank run (R327 to R329) -/

/-- A bank run descriptor (Table 14.6). -/
structure BRun where
  prog : Nat
  flist : Nat
  xsrc : Nat
  xlen : Nat
  rdout : Nat
  plen : Nat
  nf : Nat
  scope : Nat
  stk : Nat
  chn : Nat
  psem : Nat

/-- The fields of a descriptor. -/
def brunOf (b : List Byte) : BRun :=
  let f := fieldAt b
  { prog := f 0 8, flist := f 8 4, xsrc := f 0x0C 4, xlen := f 0x10 4, rdout := f 0x14 4, plen := f 0x18 1, nf := f 0x19 1
    scope := f 0x1A 1, stk := f 0x1B 1, chn := f 0x1C 1, psem := f 0x1D 1 }

/-- Check 1 of Table 14.8. -/
def brunFieldsOk (b : List Byte) (d : BRun) : Bool :=
  d.prog % 4 == 0 && d.flist % 16 == 0 && d.xsrc % 32 == 0 && decide (d.xlen ≤ 32768) && d.xlen % 32 == 0 && d.rdout % 64 == 0
    && decide (1 ≤ d.nf) && decide (d.nf ≤ 8) && decide (d.scope ≤ 2) && (if d.scope = 2 then d.stk == 0 else decide (d.stk ≤ 7))
    && (if d.scope = 0 then decide (d.chn ≤ 31) else d.chn == 0) && (decide (d.psem ≤ 63) || d.psem == 0xFF)
    && zeroAt b 0x1E 22 && zeroAt b 0x38 8

/-- Entries of the frame list (R328). -/
def BRun.entries (d : BRun) : Nat := if d.scope = 2 then 8 * d.nf else d.nf

/-- Check 3: the first range that fails its segment limit (Table 14.8). -/
def brunSeg (t : Team) (d : BRun) : Option (Nat × Nat) :=
  if t.ssLimit < d.flist + 16 * d.entries then some (stSEG, d.flist)
  else if t.sdLimit < d.xsrc + d.xlen then some (stSEG, d.xsrc)
  else if t.sdLimit < d.rdout + 512 * bankCount d.scope then some (stSEG, d.rdout)
  else if t.sgLimit < d.prog + 4 * d.plen then some (stSEG, t.sgBase + d.prog)
  else none

/-- Checks 4 and 5 and the segments of check 6 over the entries. -/
def entriesBad (t : Team) (es : List FEntry) : Option (Nat × Nat) :=
  if es.any (fun e => e.len == 0 || !e.zero) then some (stFIELD, 0)
  else match es.find? (fun e => e.va / 2 ^ 21 != (e.va + e.len - 1) / 2 ^ 21) with
    | some e => some (stCROSS, e.va)
    | none => (es.find? (fun e => decide (t.sgLimit < e.va - t.sgBase + e.len))).map (fun e => (stSEG, e.va))

/-- The stack that entry k must lie in (R328). -/
def BRun.stackOf (d : BRun) (k : Nat) : Nat := if d.scope = 2 then k % 8 else d.stk

/-- Check 8: a program word is a bank command that fits PLEN and NF (R334). -/
def wordOk (d : BRun) (w : Word) : Bool :=
  match decodeBank w.toNat with
  | none => false
  | some (.bankLoop _ tgt) => decide (tgt.val < d.plen)
  | some (.bankOpen fs) => decide (fs.val < d.nf)
  | some _ => true

/-- The program's place in G. -/
def BRun.progVa (d : BRun) (t : Team) : Nat := t.sgBase + d.prog

/-- Of two failed checks of pages, the one that is made first: of walks, of pages, then of frames and tokens (R273). -/
def firstFail (a b : Nat × Nat) : Nat × Nat :=
  (([stAWAITED, stUE, stPAGE]).findSome? (fun st => if a.1 = st then some a else if b.1 = st then some b else none)).getD a

/-- Check 6 of a bank run: the pages of its program and of its entries, before the frames and tokens of either. -/
def brunPages (s : State) (t : Team) (m : Cmd) (es : List FEntry) : Except (Nat × Nat) (List (Nat × Nat × Xl) × List (List (Nat × Xl))) :=
  let d := brunOf m.desc
  match rangeCheck s (cmdWho t m) [(.cmdRead, d.progVa t, 4 * d.plen)], entryPages s t m true (es.map (fun e => chunksOf e.va e.len)) with
  | .ok l, .ok ys => .ok (l, ys)
  | .ok _, .error e => .error e
  | .error e, .ok _ => .error e
  | .error e, .error e1 => .error (firstFail e e1)

/-- Checks 1 to 7 of Table 14.8: a status and address, or the pieces of its program and the leaves of its entries. -/
def brunCheck (s : State) (t : Team) (m : Cmd) : Except (Nat × Nat) (List (Nat × Nat × Xl) × List (List (Nat × Xl))) :=
  let d := brunOf m.desc
  if !brunFieldsOk m.desc d then .error (stFIELD, 0)
  else if d.plen = 0 ∨ 64 < d.plen then .error (stSIZE, 0)
  else match brunSeg t d with
    | some e => .error e
    | none =>
      match listBad s t m d.flist d.entries with
      | some a => .error (stUE, a)
      | none =>
        let es := frameList s t d.flist d.entries
        match entriesBad t es with
        | some e => .error e
        | none =>
          match brunPages s t m es with
          | .error e => .error e
          | .ok r =>
            match ((List.range es.length).zip (es.zip r.2)).find? (fun p =>
                !(p.2.2.all (fun q => frameLeaf q.2) && entryFrame p.2.2 % 8 == d.stackOf p.1)) with
            | some p => .error (stATTR, p.2.1.va)
            | none => .ok r

/-- A list without repeats. -/
def dedup : List Nat → List Nat
  | [] => []
  | x :: t => if t.contains x then dedup t else x :: dedup t

/-- HOLD of each frame of a run changed once (Table 14.4). -/
def holdFrames (s : State) (fs : List Nat) (up : Bool) : State :=
  (dedup fs).foldl (fun s f =>
    let fr := s.frame f
    s.setFrame f { fr with hold := if up then fr.hold + 1 else fr.hold - 1 }) s

/-- The run that a bank run which has passed its owner check becomes, waiting for its BGEs. `blk` of its command are its frames, then their
pages. Its die and its place in die scratch stay those of this moment where its team is pre-empted and placed elsewhere: R375 and R376 move
neither (DESIGN CHOICE, log 71). -/
def newRun (s : State) (core : Nat) (t : Team) (m : Cmd) (prog : List Word) : Run :=
  let d := brunOf m.desc
  { uid := s.uid, cmd := m.uid, core := core, team := t.uid, ctx := t.ctx, cls := s.clsOf t, scope := d.scope, stk := d.stk, chn := d.chn
    frames := m.blk.take d.entries, vas := m.blk.drop d.entries, xsrc := t.sdBase + d.xsrc, xlen := d.xlen, rdout := t.sdBase + d.rdout
    psem := d.psem, die := dieOf t.core, prog := prog }

/-- The entry of a core's bank queue whose checks may begin (R326). -/
def bankNext (c : CoreSt) : Option Cmd :=
  match c.bankq.find? (fun m => m.st == .queued) with
  | none => none
  | some m =>
    let before := c.bankq.takeWhile (fun x => x.uid != m.uid)
    if before.all (fun x => if x.kind = .brun then x.checked || x.st == .ended else x.st == .ended && byteAt x.record 0 != stOK)
    then some m else none

/-- The entry of a core's queue that has passed its first checks: a bank run whose program is still to be read, or a to-BANK operation whose
release is not made (R322 step 1, R326). -/
def bankReading (c : CoreSt) : Option Cmd := c.bankq.find? (fun m => m.st == .started && !m.checked)

/-- A shutter operation that has passed its checks: a to-BANK operation drains the issuing core first, as far as the channels serve it (R322
step 1, R342). -/
def shutBegin (s : State) (core : Nat) (m : Cmd) : State :=
  let s1 := if toBank m then drainWait s core (fun _ => true) else s
  if toBank m && dirtyLeft s1 core (fun _ => true) then s1
  else shutGo 10 (s1.setCmd core { m with checked := true }) m.uid

/-- A command ended by a failed check. -/
def failCmd (s : State) (core : Nat) (m : Cmd) (e : Nat × Nat) : State := endCmd s s core m (cmdRecord e.1 0 0 0 0 e.2)

/-- Checks 8 and 9 of Table 14.8 on the program words and the frames as they stand; a run that passes holds its frames (R329, R340). -/
def brunStart (s : State) (core : Nat) (t : Team) (m : Cmd) : State :=
  let d := brunOf m.desc
  let va := d.progVa t
  match (tokenFail m [(va, 4 * d.plen)]).orElse (fun _ => (badG s m va (4 * d.plen)).map (fun a => (stUE, a))) with
  | some e => failCmd s core m e
  | none =>
    let bytes := readG s m va (4 * d.plen)
    let prog := (List.range d.plen).map (fun k => BitVec.ofNat 32 (fieldAt bytes (4 * k) 4))
    let fs := m.blk.take d.entries
    if !prog.all (wordOk d) then failCmd s core m (stPROG, 0)
    else if !fs.all (fun f => (s.frame f).st == .bank) then failCmd s core m (stOWNER, 0)
    else
      let s1 := (s.setCmd core { m with checked := true, maps := [], got := [], rows := [], served := [] }).fresh
      { holdFrames s1 fs true with runs := s.runs ++ [newRun s core t m prog] }

/-- A bank run that reads its program and makes its last checks, once the outside has answered and no open row holds it back. -/
def brunGo (s : State) (core : Nat) (t : Team) (m : Cmd) : State :=
  let d := brunOf m.desc
  whenReady s core m [(d.progVa t, 4 * d.plen)] [] (fun s => brunStart s core t m)

/-- The checks of the next entry of a bank queue begun (R321, R326, R329). The command keeps what it has translated: of a bank run, its program and
the pages of its entries, until it holds its frames (R405). -/
def bankBegin (s : State) (core : Nat) (t : Team) (m : Cmd) : State :=
  if m.kind = .shut then
    match shutCheck s t m with
    | .error e => failCheck s core t m e
    | .ok ys =>
      let m1 : Cmd := { m with st := .started, blk := ys.map entryFrame }
      shutBegin ((fillPages s t m ys).setCmd core m1) core m1
  else
    match brunCheck s t m with
    | .error e => failCheck s core t m e
    | .ok r =>
      let m1 := { m with st := .started, maps := mapsOf r.1 ++ r.2.flatten.map (fun p => (p.1, 1, p.2.pa))
                         blk := r.2.map entryFrame ++ r.2.map (fun ys => (ys.head?.map (fun p => p.1 / 2 ^ 21 * 2 ^ 21)).getD 0) }
      brunGo ((fillPages (fillMaps s (cmdWho t m) r.1) t m r.2).setCmd core m1) core t m1

/-- BANK_QUEUE_NEXT_CHECK on a core: a bank run that waits for its program, or a shutter operation for its release, goes on, or the next entry
begins (R326). -/
def bankCheck (s : State) (core : Nat) : State :=
  match bankReading (s.core core) with
  | some m =>
    match s.team? m.team with
    | some t => if m.kind = .shut then shutBegin s core m else brunGo s core t m
    | none => s
  | none =>
    match bankNext (s.core core) with
    | none => s
    | some m =>
      match s.team? m.team with
      | some t => bankBegin s core t m
      | none => s

/-- BANK_QUEUE_NEXT_CHECK (R326); its subject is the core. -/
def execBankQueueNextCheck (s : State) : Host.Outcome State Fault Refusal := onNum bankCheck s

/-! ### The end and the grant of a run (R331, R333) -/

/-- The frames of a context that has ended are DIE once every run of it has ended (Table 14.4). -/
def freeCtxFrames (s : State) (ctx : Nat) : State :=
  if !(s.ctx ctx).ended || s.runs.any (fun r => r.ctx == ctx) then s
  else shutAll ((s.frames.filter (fun x => x.2.ctx == ctx && x.2.st != .die)).foldl (fun s x => freeFrame s x.1) s)

/-- A run ended: its BGEs released, HOLD decremented, its record made; one that was cut sets CUT (R330, R333, R381). -/
def endRun (s : State) (r : Run) (status upc faddr : Nat) : State :=
  let s0 := { holdFrames s r.frames false with runs := s.runs.filter (fun x => x.uid != r.uid) }
  let s1 := if status = stCUT then orWrs s0 r.team wrsCUT else s0
  match s1.cmd? r.cmd with
  | some (core, m) => freeCtxFrames (shutAll (s1.setCmd core { m with st := .ended, record := cmdRecord status (r.status.toNat % 32) upc 0 r.nseg faddr })) r.ctx
  | none => freeCtxFrames (shutAll s1) r.ctx

/-- A running run is cut: at once when no row is open, else after its CLOSE (R333). -/
def cutRun (s : State) (r : Run) : State :=
  if r.openSlot.isNone then endRun s r stCUT r.upc 0 else s.setRun { r with cut := true }

/-- A run that waits is granted before another: class 1 first, then the earlier (R331). -/
def runBefore (a b : Run) : Bool := decide (b.cls < a.cls) || (a.cls == b.cls && decide (a.uid < b.uid))

/-- BANK_RUN_GRANT of a run: its BGEs are free and no earlier waiting run needs one of them; the image and the program are loaded. -/
def grantRun (s : State) (uid : Nat) : State :=
  match s.run? uid with
  | none => s
  | some r =>
    if r.st ≠ .waiting ∨ s.runs.any (fun x => x.uid != uid && runsMeet x r && (x.st != .waiting || runBefore x r)) then s
    else match (List.range (r.xlen / 4)).find? (fun k => badDscr s r.die (r.xsrc + 4 * k) 4) with
      | some k =>
        let sd := match s.team? r.team with
          | some t => t.sdBase
          | none => 0
        endRun s r stUE 0 (r.xsrc + 4 * k - sd)
      | none => s.setRun { r with st := .running, xbuf := msetList 0 [] 0 (s.dscrBytes r.die r.xsrc r.xlen) }

/-- BANK_RUN_GRANT (R331); its subject is the run. -/
def execBankRunGrant (s : State) : Host.Outcome State Fault Refusal := onNum grantRun s

/-! ### Windows and refresh (R342 to R344) -/

/-- The refreshes due of a run's channels taken, those alone that can no longer be postponed or all (R344). -/
def takeRefreshes (s : State) (r : Run) (all : Bool) : State :=
  { s with refresh := s.refresh.filter (fun x => !(r.spans x.1 && (all || x.2))) }

/-- The windows that the channels of a run with requests open at its boundary, each under the ARBC that stands (R342 to R344). -/
def newWins (s : State) (r : Run) : List Win :=
  (((waitingReqs s).map Req.chan).eraseDups.filter r.spans).map (fun c => { chan := c, opened := s.dtime, arbc := (s.ctx r.ctx).arbc })

/-- A running run stands at a boundary with no row open whose requests have not been served: the refreshes that can no longer be postponed are
taken, and channels with requests suspend it; with none pending, every refresh due is taken (R342, R344). -/
def atBoundary (s : State) (r : Run) : Option State :=
  if r.st ≠ .running ∨ r.openSlot.isSome ∨ r.served then none
  else match newWins s r with
    | [] => if s.refresh.any (fun x => r.spans x.1) then some (takeRefreshes s r true) else none
    | ws => some ((takeRefreshes s r false).setRun { r with st := .suspended, wins := ws, served := true })

/-- WINDOW_END of a run: every window is at its end; the refreshes due are taken and the run resumes at its next command (R342 to R344). -/
def windowEnd (s : State) (uid : Nat) : State :=
  match s.run? uid with
  | none => s
  | some r =>
    if r.st = .suspended ∧ r.wins.all (fun w => w.over s.dtime (chanReqs s w.chan)) then
      takeRefreshes (s.setRun { r with st := .running, wins := [] }) r true
    else s

/-- WINDOW_END (R344); its subject is the run. -/
def execWindowEnd (s : State) : Host.Outcome State Fault Refusal := onNum windowEnd s

/-- REFRESH_DUE of a channel, which may be one that can no longer be postponed: taken at once where no run has the channel, else noted until
the run's next boundary (R344). -/
def refreshDue (s : State) (chan : Nat) (must : Bool) : State :=
  if (runOn s chan).isNone then s
  else
    let was := s.refresh.any (fun x => x.1 == chan && x.2)
    { s with refresh := (chan, must || was) :: s.refresh.filter (fun x => x.1 != chan) }

/-- REFRESH_DUE (R316, R344); its subject is the channel, and 1 for a refresh that can no longer be postponed. -/
def execRefreshDue (s : State) : Host.Outcome State Fault Refusal := onPair (fun s c k => refreshDue s c (k == 1)) s

/-! ### Bank commands (R332 to R339) -/

/-- What a bank command does to its run: it goes on at a command, or the run ends. -/
inductive BankNx where
  | go (s : State) (r : Run) (upc : Nat)
  | stop (s : State) (r : Run) (status upc faddr : Nat)

/-- The governor delays OPENs of a class (R457). -/
def openDelayed (s : State) (cls : Nat) : Bool :=
  match s.dev.throttle with
  | .none => false
  | .openClass0 => cls == 0
  | _ => true

/-- A bank command of the run that `State.curRun` names: its effect, then the next command, or the end of the run at PLEN (Table 14.12). -/
def bankCmd (f : State → Run → BankNx) (s : State) : Host.Outcome State Fault Refusal :=
  match s.curRun.bind s.run? with
  | none => .fault .noRun
  | some r =>
    if r.st ≠ .running then .fault .noRun
    else
      match f s r with
      | .stop s1 r1 st upc fa => .next (bump (endRun (s1.setRun r1) r1 st upc fa))
      | .go s1 r1 upc =>
        let r2 := { r1 with upc := upc, served := false }
        let s2 := s1.setRun r2
        .next (bump (if r.prog.length ≤ upc then endRun s2 r2 stERRPROG upc 0 else s2))

/-- A command with an effect on the run's registers alone. -/
def bankReg (f : Run → Run) : State → Host.Outcome State Fault Refusal := bankCmd (fun s r => .go s (f r) (r.upc + 1))

/-- col of CA (R334). -/
def colNum (r : Run) (ca : Col) : Nat :=
  (ca.col.val + (match ca.xb with
    | some b => r.b.getD b.val 0
    | none => 0)) % 64

/-- The frame of a slot for a stack (R328). -/
def slotFrame (r : Run) (slot stk : Nat) : Nat := r.frames.getD (if r.scope = 2 then 8 * slot + stk else slot) 0

/-- The page of a slot for a stack. -/
def slotVa (r : Run) (slot stk : Nat) : Nat := r.vas.getD (if r.scope = 2 then 8 * slot + stk else slot) 0

/-- The physical address of a column of a bank's row (R221, R222). -/
def colPa (r : Run) (slot col : Nat) (b : Nat × Nat) : Nat := slotFrame r slot b.1 * 2 ^ 21 + b.2 * 2048 + col * 32

/-- A column command: the count of R335, then an open row and the command's own condition (Table 14.12), then, for a command that reads,
an error in the column (R339). -/
def colCmd (reads : Bool) (bad : Run → Nat → Bool) (ca : Col) (f : State → Run → Nat → Nat → State × Run) :
    State → Host.Outcome State Fault Refusal :=
  bankCmd (fun s r =>
    let col := colNum r ca
    if 64 ≤ r.segc then .stop s r stSEGMENT r.upc 0
    else match r.openSlot with
      | none => .stop s r stERRPROG r.upc 0
      | some slot =>
        if bad r col then .stop s r stERRPROG r.upc 0
        else match (if reads then r.banks.find? (fun b => badMem s (colPa r slot col b) 32) else none) with
          | some b => .stop s { r with status := r.status ||| 0x20 } stUE r.upc (slotVa r slot b.1 + b.2 * 2048 + col * 32)
          | none =>
            let x := f s r slot col
            .go x.1 { x.2 with segc := r.segc + 1 } (r.upc + 1))

/-- The key of a bank. -/
def bankNo (b : Nat × Nat) : Nat := 1024 * b.1 + b.2

/-- A column register of a bank. -/
def Run.c (r : Run) (b : Nat × Nat) (n : Nat) : Nat := mget 0 r.cs (bankNo b * 16 + n)

/-- A column register of every bank replaced. -/
def Run.setC (r : Run) (n : Nat) (f : Nat × Nat → Nat) : Run :=
  { r with cs := r.banks.foldl (fun m b => mset 0 m (bankNo b * 16 + n) (f b)) r.cs }

/-- An accumulator lane of a bank. -/
def Run.q (r : Run) (b : Nat × Nat) (n l : Nat) : Nat := mget 0 r.qs (bankNo b * 128 + 16 * n + l)

/-- Lane values with the flags they raised. -/
abbrev LaneVals := List (Nat × Rnd)

/-- An accumulator of every bank replaced, its lanes listed by number, with the flags to the status word. -/
def Run.setQ (r : Run) (n : Nat) (f : Nat × Nat → LaneVals) : Run :=
  r.banks.foldl (fun a b => (f b).foldl (fun a v =>
    { a with
      qs := mset 0 a.qs (bankNo b * 128 + 16 * n + v.1) v.2.bits
      status := a.status ||| BitVec.ofNat 32 v.2.flags }) a) r

/-- A column register of every bank computed lane by lane in BF16, with the flags to the status word. -/
def Run.mapC (r : Run) (n : Nat) (f : Nat × Nat → Nat → Rnd) : Run :=
  r.banks.foldl (fun a b =>
    let vs := (List.range 16).map (f b)
    { a with
      cs := mset 0 a.cs (bankNo b * 16 + n) (packEls 16 (vs.map (fun v => v.bits)))
      status := a.status ||| BitVec.ofNat 32 (vs.foldl (fun x v => x ||| v.flags) 0) }) r

/-- The value of a bank's column. -/
def colVal (s : State) (r : Run) (slot col : Nat) (b : Nat × Nat) : Nat := ofBytes (s.homeBytes (colPa r slot col b) 32)

/-- Element l of a BF16 column. -/
def bfEl (x l : Nat) : FVal := decodeF .bf16 (elOf 16 x l)

/-- A bank arithmetic result: RNE, the BGE's SAT, subnormals kept (R337). -/
def bankRound (r : Run) (f : FFmt) (p : Pre) : Rnd := froundF f .rne r.sat false 0 p

/-- NOP (R334). -/
def execBankNop (s : State) : Host.Outcome State Fault Refusal := bankReg id s

/-- OPEN (R334, R339, R457). -/
def execBankOpen (fs : Fin 8) (s : State) : Host.Outcome State Fault Refusal :=
  bankCmd (fun s r =>
    if r.openSlot.isSome then .stop s r stERRPROG r.upc 0
    else if openDelayed s r.cls then .go s r r.upc
    else .go s { r with openSlot := some fs.val, segc := 0 } (r.upc + 1)) s

/-- CLOSE, a row boundary, at which a cut takes effect (R333). -/
def execBankClose (s : State) : Host.Outcome State Fault Refusal :=
  bankCmd (fun s r =>
    match r.openSlot with
    | none => .stop s r stERRPROG r.upc 0
    | some _ =>
      let r1 := { r with openSlot := none, nseg := r.nseg + 1 }
      if r.cut then .stop s r1 stCUT (r.upc + 1) 0 else .go s r1 (r.upc + 1)) s

/-- RDC (R334). -/
def execBankRdc (d : Fin 16) (ca : Col) (s : State) : Host.Outcome State Fault Refusal :=
  colCmd true (fun _ _ => false) ca (fun s r slot col => (s, r.setC d.val (colVal s r slot col))) s

/-- WRC (R334). -/
def execBankWrc (c : Fin 16) (ca : Col) (s : State) : Host.Outcome State Fault Refusal :=
  colCmd false (fun _ _ => false) ca (fun s r slot col =>
    (r.banks.foldl (fun s b => s.setHome (colPa r slot col b) (bytesOf 32 (r.c b c.val))) s, r)) s

/-- The byte of an x-slot. -/
def xByte (r : Run) (slot o : Nat) : Nat := (mget 0 r.xbuf (4096 * slot + o)).toNat

/-- The term of MACX in BF16 (R336). -/
def macxBf (r : Run) (w bx col slot l : Nat) : Pre :=
  let e := (bx + col * 16 + l) % 2048
  let x := decodeF .bf16 (xByte r slot (2 * e) + 256 * xByte r slot (2 * e + 1))
  let wv := bfEl w l
  if isZero x then (if isNaN wv || isInf wv then ⟨.fin false 0 1, 0⟩ else mulF wv x) else mulF wv x

/-- The exact sum of terms, whose zero has the sign that R53 gives it. -/
def sumTerms : List FVal → FVal
  | [] => .fin false 0 1
  | a :: t => t.foldl (fun b c => (addF .rne b c).v) a

/-- The term of MACX in MXFP4 (R336). -/
def macxMx (r : Run) (b : Nat × Nat) (w bx col slot l : Nat) : Pre :=
  let p := bx + col * 64 + 4 * l
  let blk := 2 * col + l / 8
  let sc := e8m0Val (elOf 8 (r.c b (12 + blk / 32)) (blk % 32))
  let xs := (List.range 4).map (fun i => decodeF .e4m3 (xByte r slot ((p + i) % 4096)))
  if xs.all isZero then ⟨.fin false 0 1, 0⟩
  else if isNaN sc || xs.any isNaN then ⟨.nan, 0⟩
  else mulF sc (sumTerms ((List.range 4).map (fun i => (mulF (decodeF .e2m1 (elOf 4 w (4 * l + i))) (xs.getD i .nan)).v)))

/-- A term added to an accumulator lane. -/
def macxAdd (r : Run) (b : Nat × Nat) (n l : Nat) (t : Pre) : Rnd :=
  let p := addF .rne (decodeF .fp32 (r.q b n l)) t.v
  let x := bankRound r .fp32 p
  ⟨x.bits, x.flags ||| t.flags⟩

/-- MACX (R336). -/
def execBankMacx (q : Fin 8) (n : Fin 8) (slot : Fin 8) (xr : Fin 8) (ca : Col) (s : State) : Host.Outcome State Fault Refusal :=
  colCmd true (fun r col => r.wf && decide (60 ≤ col)) ca (fun s r os col =>
    let bx := r.b.getD xr.val 0
    (s, (List.range (n.val + 1)).foldl (fun a j =>
      a.setQ (q.val + j) (fun b =>
        let w := colVal s r os col b
        (List.range 16).map (fun l =>
          (l, macxAdd r b (q.val + j) l (if r.wf then macxMx r b w bx col (slot.val + j) l else macxBf r w bx col (slot.val + j) l))))) r)) s

/-- MACC (R337). -/
def execBankMacc (q : Fin 8) (c : Fin 16) (ca : Col) (s : State) : Host.Outcome State Fault Refusal :=
  colCmd true (fun _ _ => false) ca (fun s r os col =>
    (s, r.setQ q.val (fun b =>
      let w := colVal s r os col b
      (List.range 16).map (fun l => (l, bankRound r .fp32 (fmaF .rne (bfEl w l) (bfEl (r.c b c.val) l) (decodeF .fp32 (r.q b q.val l)))))))) s

/-- AXPY (R337). -/
def execBankAxpy (f : Fin 4) (d : Fin 16) (ca : Col) (s : State) : Host.Outcome State Fault Refusal :=
  colCmd true (fun _ _ => false) ca (fun s r os col =>
    let fv := decodeF .fp32 (r.f.getD f.val 0)
    (s, r.mapC d.val (fun b l => bankRound r .bf16 (fmaF .rne fv (bfEl (colVal s r os col b) l) (bfEl (r.c b d.val) l))))) s

/-- SCL (R337). -/
def execBankScl (f : Fin 4) (d : Fin 16) (c : Fin 16) (s : State) : Host.Outcome State Fault Refusal :=
  bankReg (fun r => r.mapC d.val (fun b l => bankRound r .bf16 (mulF (decodeF .fp32 (r.f.getD f.val 0)) (bfEl (r.c b c.val) l)))) s

/-- QZERO (R334). -/
def execBankQzero (q : Fin 8) (n : Fin 8) (s : State) : Host.Outcome State Fault Refusal :=
  bankReg (fun r => (List.range (n.val + 1)).foldl (fun a j => a.setQ (q.val + j) (fun _ => (List.range 16).map (fun l => (l, ⟨0, 0⟩)))) r) s

/-- One level of HSUM. -/
def hsumStep (n : Nat) (r : Run) (k : Nat) : Run :=
  r.setQ n (fun b => ((List.range 16).filter (fun l => l % (2 * k) == 0)).map (fun l =>
    (l, bankRound r .fp32 (addF .rne (decodeF .fp32 (r.q b n l)) (decodeF .fp32 (r.q b n (l + k)))))))

/-- HSUM (R337). -/
def execBankHsum (q : Fin 8) (s : State) : Host.Outcome State Fault Refusal :=
  bankReg (fun r => ([1, 2, 4, 8].foldl (hsumStep q.val) r).setQ q.val (fun _ => (List.range 15).map (fun l => (l + 1, ⟨0, 0⟩)))) s

/-- QST (R337). -/
def execBankQst (q : Fin 8) (d : Fin 16) (s : State) : Host.Outcome State Fault Refusal :=
  bankReg (fun r => r.mapC d.val (fun b l => bankRound r .bf16 ⟨decodeF .fp32 (r.q b q.val l), 0⟩)) s

/-- QOUT (R338, R339). -/
def execBankQout (q : Fin 8) (n : Fin 8) (s : State) : Host.Outcome State Fault Refusal :=
  bankCmd (fun s r =>
    if r.openSlot.isSome then .stop s r stERRPROG r.upc 0
    else
      let outs := ((List.range r.banks.length).zip r.banks).flatMap (fun p => (List.range (n.val + 1)).map (fun j =>
        (r.rdout + (p.1 * 8 + q.val + j) * 64, (List.range 16).flatMap (fun l => bytesOf 4 (r.q p.2 (q.val + j) l)))))
      .go (outs.foldl (fun s o => s.setDscr r.die o.1 o.2) s) r (r.upc + 1)) s

/-- SETB (R334). -/
def execBankSetb (b : Fin 8) (i : BitVec 16) (s : State) : Host.Outcome State Fault Refusal :=
  bankReg (fun r => { r with b := setAt r.b b.val i.toNat }) s

/-- ADDB (R334). -/
def execBankAddb (b : Fin 8) (i : BitVec 16) (s : State) : Host.Outcome State Fault Refusal :=
  bankReg (fun r => { r with b := setAt r.b b.val ((r.b.getD b.val 0 + i.toNat) % 65536) }) s

/-- SETF (R334): BF16 widened exactly. -/
def execBankSetf (f : Fin 4) (i : BitVec 16) (s : State) : Host.Outcome State Fault Refusal :=
  bankReg (fun r => { r with f := setAt r.f f.val (i.toNat * 65536) }) s

/-- LOOP (R334). -/
def execBankLoop (b : Fin 8) (tgt : Fin 64) (s : State) : Host.Outcome State Fault Refusal :=
  bankCmd (fun s r =>
    let v := (r.b.getD b.val 0 + 65535) % 65536
    .go s { r with b := setAt r.b b.val v } (if v ≠ 0 then tgt.val else r.upc + 1)) s

/-- FMT (R334). -/
def execBankFmt (sat : Bool) (wf : Bool) (s : State) : Host.Outcome State Fault Refusal :=
  bankReg (fun r => { r with sat := sat, wf := wf }) s

/-- SIG (R338). -/
def execBankSig (s : State) : Host.Outcome State Fault Refusal :=
  bankCmd (fun s r => .go (if r.psem = 0xFF then s else semIncr s r.team r.psem 1) r (r.upc + 1)) s

/-- END (R333, R334). -/
def execBankEnd (s : State) : Host.Outcome State Fault Refusal := bankCmd (fun s r => .stop s r stOK r.upc 0) s

end Sys2Proof.Machine
end

