-- ==== Sys2Proof/Machine/Control.lean ====
section
/-! DEFINITION. Branches, divergence, calls and indirect transfers (06 R130 to R135, 07 R163 to R170). -/

namespace Sys2Proof.Machine

open Sys2Proof

/-- The needs of a format D instruction, which the guard does not limit. -/
def branchNeeds (k : Nat) : Needs := { guarded := false, preds := fun _ => [k] }

/-- The lanes of AM for which a predicate condition holds. -/
def taken (x : Ix) (k : Nat) (n : Bool) : Lanes := predLanes x.g x.am k n

/-- A branch of the whole split (R164). -/
def branchIf (off : BitVec 21) (k : Nat) (p : Ix → Bool) : State → Host.Outcome State Fault Refusal :=
  issueG (branchNeeds k) (fun x => (x.g, if p x then .jump (branchTarget x.sp.pc off) else .step))

/-- BRA on a predicate (R131, R132). -/
def execBra (k : Fin 8) (n : Bool) (off : BitVec 21) (s : State) : Host.Outcome State Fault Refusal :=
  issueG { branchNeeds k.val with bad := fun x => illegalIf (taken x k.val n != 0 && taken x k.val n != x.am) } (fun x =>
    (x.g, if taken x k.val n = x.am then .jump (branchTarget x.sp.pc off) else .step)) s
/-- BRA, always (R131). -/
def execBraAlways (off : BitVec 21) (s : State) : Host.Outcome State Fault Refusal :=
  issueG { guarded := false } (fun x => (x.g, .jump (branchTarget x.sp.pc off))) s
/-- BANY (R163, R164). -/
def execBany (k : Fin 8) (n : Bool) (off : BitVec 21) (s : State) : Host.Outcome State Fault Refusal :=
  branchIf off k.val (fun x => taken x k.val n != 0) s
/-- BALL (R163, R164). -/
def execBall (k : Fin 8) (n : Bool) (off : BitVec 21) (s : State) : Host.Outcome State Fault Refusal :=
  branchIf off k.val (fun x => taken x k.val n == x.am) s
/-- BNONE (R163, R164). -/
def execBnone (k : Fin 8) (n : Bool) (off : BitVec 21) (s : State) : Host.Outcome State Fault Refusal :=
  branchIf off k.val (fun x => taken x k.val n == 0) s
/-- BRK (R163, R165, R168). -/
def execBrk (k : Fin 8) (n : Bool) (off : BitVec 21) (s : State) : Host.Outcome State Fault Refusal :=
  issueG (branchNeeds k.val) (fun x => (brkSplit x.s.clock x.g x.e k.val n (branchTarget x.sp.pc off), .stay)) s
/-- JPT (R163, R166, R168). -/
def execJpt (off : BitVec 21) (s : State) : Host.Outcome State Fault Refusal :=
  issueG { guarded := false } (fun x => (jptSplit x.s.clock x.g x.e (branchTarget x.sp.pc off), .stay)) s

/-- `o15` written in lanes with a return address (R16, R133, R135). -/
def writeLink (g : Group) (lanes : Lanes) (v : Word) : Group := (lanesOf lanes).foldl (fun g i => writeReg g i (96 + 15) v) g

/-- CALL (R133). -/
def execCall (off : BitVec 21) (s : State) : Host.Outcome State Fault Refusal :=
  issueG { guarded := false } (fun x => (writeLink x.g x.am (nextPc x.sp.pc), .jump (branchTarget x.sp.pc off))) s

/-- A JIND instruction (R135, R167): a target for each lane of AM, the ALIGN check, the write of `o15`, the transfer. -/
def jind (a : LaneOp) (link : Bool) : State → Host.Outcome State Fault Refusal :=
  issue { srcs := [(a, 1)] } (fun x =>
    let t (i : Nat) : Word := if x.act.getLsbD i then readWord x 0 a i 0 else nextPc x.sp.pc
    let wrong := maskOf (fun i => x.act.getLsbD i && (t i).toNat % 4 != 0)
    if wrong ≠ 0 then .error (laneTrap cALIGN wrong (t (lowestLane wrong)).toNat)
    else
      let g := if link then writeLink x.g x.act (nextPc x.sp.pc) else x.g
      .ok (x.s.setGroup (jumpSplit x.s.clock g x.e ((lanesOf x.am).map (fun i => (i, t i)))), .stay))

/-- RET (R134, R135). -/
def execRet (s : State) : Host.Outcome State Fault Refusal := jind (.o 15) false s
/-- JMPR (R134, R135). -/
def execJmpr (a : LaneOp) (s : State) : Host.Outcome State Fault Refusal := jind a false s
/-- CALLR (R134, R135). -/
def execCallr (a : LaneOp) (s : State) : Host.Outcome State Fault Refusal := jind a true s

end Sys2Proof.Machine
end

