-- ==== Sys2Proof/Machine/Launch.lean ====
section
/-! DEFINITION. Launches: the record and its checks (08 R181, R182), sets and gangs (R184 to R186), events and completion records (R187 to
R190, R460), resources and placement (R177 to R179, R193), and the acceptance of a record (R182, R183). -/

namespace Sys2Proof.Machine

open Sys2Proof

/-! ### Addresses of a context that the part itself reaches (R460) -/

/-- The pieces of a range in the order of their addresses, as they translate with a permission; none when a page fails, and none, by this
model's choice, where a peer holds the token of the memory: R425 speaks of groups alone, and R460 of what cannot be reached (log 36). -/
def partRange (s : State) (ctx : Nat) (a : Acc) (va len : Nat) : Option (List (Nat × Nat × Nat)) :=
  match rangeCheck s (partWho ctx) [(a, va, len)] with
  | .ok l => some (mapsOf l)
  | .error _ => none

/-- The lines of a range that the part reads: their physical addresses and virtual ones. -/
def rangeLines (l : List (Nat × Nat × Nat)) : List (Nat × Nat) := l.flatMap (fun p => pieceLines p.1 p.2.1 p.2.2)

/-- The part's check of a range is not decided: a walk of it awaits an entry. -/
def rangeWaits (s : State) (ctx : Nat) (a : Acc) (va len : Nat) : Option Nat :=
  match rangeCheck s (partWho ctx) [(a, va, len)] with
  | .error e => if e.1 = stAWAITED then some e.2 else none
  | .ok _ => none

/-- The bytes of a range may be read by an operation of the front end: its walks have every entry, and its lines have come from outside or through their
channels; or the state in which the operation waits (R220, R264, R342, R395). -/
def readReady (s : State) (op : FrontOp) (ctx va len : Nat) : Except State State :=
  match rangeWaits s ctx .cmdRead va len with
  | some v => .error (askEntry s frontEnd ctx v)
  | none => match partRange s ctx .cmdRead va len with
    | none => .ok s
    | some l => linesReady s op (rangeLines l)

/-- Several ranges, each an address and a length, may be read by an operation; or the state in which it waits for them. -/
def readsReady (s : State) (op : FrontOp) (ctx : Nat) (l : List (Nat × Nat)) : Except State State :=
  l.foldl (fun a r => match a with
    | .ok s1 => readReady s1 op ctx r.1 r.2
    | .error s1 => match readReady s1 op ctx r.1 r.2 with
      | .ok s2 => .error s2
      | .error s2 => .error s2) (.ok s)

/-- Bytes of a context read by an operation of the front end; none when a page fails. -/
def readCtx (s : State) (op : FrontOp) (ctx va len : Nat) : Option (List Byte) :=
  (partRange s ctx .cmdRead va len).map (fun l => l.flatMap (fun p => frontBytes s op p.2.2 p.2.1))

/-- The first damaged piece of a range that an operation of the front end reads: its virtual address, and its physical one. A page-table entry that
is damaged has none. -/
def readBad (s : State) (op : FrontOp) (ctx va len : Nat) : Option (Nat × Nat) :=
  match rangeCheck s (partWho ctx) [(.cmdRead, va, len)] with
  | .error e => if e.1 = stUE then some (e.2, 0) else none
  | .ok l => (mapsOf l).findSome? (fun p => if frontBad s op p.2.2 p.2.1 then some (p.1, p.2.2) else none)

/-- Bytes of a context that an operation of the front end reads whole and sound. -/
def readSound (s : State) (op : FrontOp) (ctx va len : Nat) : Option (List Byte) :=
  if (readBad s op ctx va len).isSome then none else readCtx s op ctx va len

/-- Damaged bytes that the front end reads are delivered to no instruction or command: they are posted as UE_UNDELIVERED (R371), and what they would
have said counts as bytes that cannot be read (DESIGN CHOICE, log 36). -/
def postLost (s : State) (op : FrontOp) (ctx lch va len : Nat) : State :=
  match readBad s op ctx va len with
  | some e => postAsync s 0 ctx 0x22 lch (e.1 % 2 ^ 56) e.2
  | none => s

/-- The bytes of a range may be written by the front end: its walks have every entry and no bank run holds its channels; or the state in which the
write waits (R342, R395). -/
def writeReady (s : State) (ctx va len : Nat) : Except State State :=
  match rangeWaits s ctx .cmdWrite va len with
  | some v => .error (askEntry s frontEnd ctx v)
  | none => match partRange s ctx .cmdWrite va len with
    | none => .ok s
    | some l => l.foldl (fun a p => match a with
      | .ok s1 => chanReady s1 p.2.2
      | .error s1 => .error s1) (.ok s)

/-- Bytes of a context written by the part, whole or not at all. -/
def writeCtx (s : State) (ctx va : Nat) (b : List Byte) : Option State :=
  (partRange s ctx .cmdWrite va b.length).map (fun l => l.foldl (fun s p => s.writePa frontEnd noGrp p.2.2 ((b.drop (p.1 - va)).take p.2.1)) s)

/-- RECORD_UNREACHABLE posted (R460); die 0 posts what belongs to no core. -/
def postUnreachable (s : State) (ctx lch va : Nat) : State := postAsync s 0 ctx 0x24 lch (va % 2 ^ 56) 0

/-! ### The record (R181, R182) -/

/-- The fields of a launch record (Table 08.3). -/
def parseRec (b : List Byte) : LRec :=
  let f := fieldAt b
  { code := f 0 8, args := f 8 8, entry := f 0x10 4, wrap := f 0x14 4, traph := f 0x18 4, teams := f 0x1C 4, gpt := f 0x20 1
    regs := f 0x21 1, cls := f 0x22 1, scr := f 0x24 4, acc := f 0x28 4, dscr := f 0x2C 4, roles := f 0x30 8, sets := f 0x38 8
    nsets := f 0x40 2, seed := f 0x44 4, deadline := f 0x48 8, budget := f 0x50 4, cost := f 0x54 4, ordered := bitOf (f 0x58 4) 0
    argsz := f 0x5C 4, waits := (List.range 4).map (fun k => (f (0x60 + 16 * k) 8, f (0x68 + 16 * k) 8)), done := f 0xA0 8
    donev := f 0xA8 4, crec := f 0xB0 8 }

/-- An offset of code that may be none. -/
def offsetOk (x : Nat) : Bool := x % 4 == 0 || x == 0xFFFFFFFF

/-- Every field is within its limits (Table 08.3); `from_` is the class plus one of an enqueuing launch, or 0 (R203). -/
def fieldsOk (b : List Byte) (r : LRec) (from_ : Nat) : Bool :=
  r.code % 4 == 0 && r.entry % 4 == 0 && offsetOk r.wrap && offsetOk r.traph && decide (1 ≤ r.teams)
    && decide (1 ≤ r.gpt) && decide (r.gpt ≤ 32) && decide (16 ≤ r.regs) && decide (r.regs ≤ 96) && r.regs % 8 == 0
    && decide (r.cls ≤ 1) && (from_ == 0 || decide (r.cls < from_)) && zeroAt b 0x23 1
    && decide (r.scr ≤ 524288) && r.scr % 4096 == 0 && decide (r.acc ≤ 131072) && decide (r.dscr ≤ 2 ^ 26) && r.dscr % 65536 == 0
    && decide (r.roles < 4 ^ r.gpt) && (r.nsets == 0 || r.sets % 32 == 0) && decide (r.nsets ≤ 256) && zeroAt b 0x42 2
    && decide (fieldAt b 0x58 4 ≤ 1) && decide (r.argsz ≤ 65536) && r.waits.all (fun w => w.1 % 8 == 0) && r.done % 8 == 0
    && bitsOf r.donev 30 16 == 0 && zeroAt b 0xAC 4 && r.crec % 64 == 0 && zeroAt b 0xB8 72

/-! ### Sets (R184, R185) -/

/-- The members of a set in order. -/
def setMembers (q : SetSt) : List Nat := q.list.getD ((List.range q.count).map (fun k => q.first + k * q.stride))

/-- A set read from its entry, and its list; none when it is malformed or cannot be read. -/
def parseSet (s : State) (op : FrontOp) (ctx teams : Nat) (b : List Byte) : Option SetSt :=
  let f := fieldAt b
  let ctl := f 0x0C 4
  let count := f 4 4
  let la := f 0x10 8
  let base : SetSt := { first := f 0 4, count := count, stride := f 8 4, list := none, slot := ctl % 4, cores := bitOf ctl 2, irq := bitOf ctl 3
                        vector := ctl / 65536, event := f 0x18 8, counter := count }
  if bitsOf ctl 15 4 ≠ 0 ∨ base.event % 8 ≠ 0 ∨ count = 0 ∨ teams < count then none
  else if la = 0 then
    if base.stride = 0 ∨ teams ≤ base.first + (count - 1) * base.stride then none else some base
  else if la % 4 ≠ 0 then none
  else match readSound s op ctx la (4 * count) with
    | none => none
    | some bs =>
      let ms := (List.range count).map (fun k => fieldAt bs (4 * k) 4)
      if ms.all (fun m => decide (m < teams)) && noRepeats ms then some { base with list := some ms } else none

/-- Two sets that contain one team use one slot (R185). -/
def slotsClash : List SetSt → Bool
  | [] => false
  | q :: t => t.any (fun p => p.slot == q.slot && (setMembers p).any (memberOf q)) || slotsClash t

/-- A list of options as an option of a list. -/
def allSome {α : Type} : List (Option α) → Option (List α)
  | [] => some []
  | none :: _ => none
  | some x :: t => (allSome t).map (x :: ·)

/-- The LISTs that a set table names, each an address and a length. -/
def setLists (s : State) (op : FrontOp) (ctx : Nat) (r : LRec) : List (Nat × Nat) :=
  match readSound s op ctx r.sets (32 * r.nsets) with
  | none => []
  | some b => (List.range r.nsets).filterMap (fun k =>
      let f := fieldAt ((b.drop (32 * k)).take 32)
      if f 0x10 8 = 0 ∨ f 0x10 8 % 4 ≠ 0 ∨ r.teams < f 4 4 then none else some (f 0x10 8, 4 * f 4 4))

/-- The set table of a launch and its LISTs may be read, or the state in which the front end waits for them (R220, R264, R460). -/
def setsReady (s : State) (op : FrontOp) (ctx : Nat) (r : LRec) : Except State State :=
  if r.nsets = 0 then .ok s
  else match readReady s op ctx r.sets (32 * r.nsets) with
    | .error s1 => .error s1
    | .ok s1 => readsReady s1 op ctx (setLists s1 op ctx r)

/-- The damaged ranges of a launch's set table and LISTs reported (R371, log 36). -/
def postSets (s : State) (op : FrontOp) (ctx lch : Nat) (r : LRec) : State :=
  if r.nsets = 0 then s
  else ((r.sets, 32 * r.nsets) :: setLists s op ctx r).foldl (fun a x => postLost a op ctx lch x.1 x.2) s

/-- The set table of a launch; none is BAD_SETS. -/
def parseSets (s : State) (op : FrontOp) (ctx : Nat) (r : LRec) : Option (List SetSt) :=
  if r.nsets = 0 then some []
  else match readSound s op ctx r.sets (32 * r.nsets) with
    | none => none
    | some b =>
      match allSome ((List.range r.nsets).map (fun k => parseSet s op ctx r.teams ((b.drop (32 * k)).take 32))) with
      | none => none
      | some qs => if slotsClash qs then none else some qs

/-! ### Events and the end of a launch (R187 to R190) -/

/-- The word of an event lies in a held region, and the part's own L2 lacks bytes of it: its line is filled before it is incremented (R424). -/
def bumpFills (s : State) (pa : Nat) : Bool := holds s (regionKey pa) && !(List.range 8).all (fun i => l2Has s (pa + i))

/-- The fill of the line of an event's word (R424). -/
def bumpFill (s : State) (ctx va pa : Nat) : State :=
  s.fresh.request { uid := s.uid, core := frontEnd, grp := noGrp, kind := .read, addr := pa / 128 * 128, len := 128, data := [], mask := [], va := va, fill := true, ctx := ctx, since := s.dtime }

/-- An event word incremented at its home (R188), in the part's own L2 for a line of a held region (R424), or by a request where it lies
outside the part (R418, R448). A word in error is left as it is, as an atomic leaves it, and reported (R371, R372, DESIGN CHOICE, log 36). -/
def bumpWord (s : State) (ctx lch va pa : Nat) : State :=
  if isMem pa || holds s (regionKey pa) then
    if badMem s pa 8 then postAsync s 0 ctx 0x22 lch va pa
    else s.setHome pa (bytesOf 8 (ofBytes (s.homeBytes pa 8) + 1))
  else if regionOf pa == .mmio then s.writePa frontEnd noGrp pa (bytesOf 8 (ofBytes (s.readPa pa 8) + 1))
  else
    let host := regionOf pa == .host
    s.fresh.request { uid := s.uid, core := frontEnd, grp := noGrp, host := host, kind := .atomic 0 6, addr := if host then hostAddr s pa else pa, len := 8, data := bytesOf 8 1, mask := List.replicate 8 true, va := va, ctx := ctx, since := s.dtime }

/-- An event's word may be incremented: no bank run holds its channel, and the cores recorded at its line have drained; or the state in which it waits
(R236, R342). -/
def bumpReady (s : State) (pa : Nat) : Except State State :=
  if !isMem pa then .ok s
  else
    let s1 := reachWait s frontEnd (pa / 128)
    if reachLeft s1 frontEnd (pa / 128) then .error s1
    else chanReady s1 pa

/-- WAITn of a launch is satisfied (R183): none when its word cannot be read. -/
def waitValue (s : State) (l : Launch) (n : Nat) : Option Bool :=
  let w := l.lr.waits.getD n (0, 0)
  if w.1 = 0 then some true
  else (readSound s (.waits l.lch) l.ctx w.1 8).map (fun b => decide (w.2 ≤ ofBytes b))

/-- ORDERED of a launch is satisfied (R183). -/
def orderedOk (s : State) (l : Launch) : Bool :=
  !l.lr.ordered || (match l.prev with
    | none => true
    | some p => match s.launch? p with
      | some q => q.st == .ended
      | none => true)

/-- The failing WAITn words of a launch reported once each (R371, R460). -/
def reportWaits (s : State) (l : Launch) : State :=
  (List.range 4).foldl (fun s n =>
    if (waitValue s l n).isNone && !(l.reported.getD n false) then
      let va := (l.lr.waits.getD n (0, 0)).1
      let s1 := if (readBad s (.waits l.lch) l.ctx va 8).isSome then postLost s (.waits l.lch) l.ctx l.lch va 8 else postUnreachable s l.ctx l.lch va
      match s1.launch? l.lch with
      | some l1 => s1.setLaunch { l1 with reported := setAt l1.reported n true }
      | none => s1
    else s) s

/-- The WAITn words of a launch may be read, or the state in which their test waits (R183, R220). -/
def waitsReady (s : State) (l : Launch) : Except State State :=
  readsReady s (.waits l.lch) l.ctx ((l.lr.waits.filter (fun w => w.1 != 0)).map (fun w => (w.1, 8)))

/-- A BLOCKED launch marked as having its words read, or not. -/
def setReading (s : State) (lch : Nat) (b : Bool) : State :=
  match s.launch? lch with
  | some l => s.setLaunch { l with reading := b }
  | none => s

/-- A BLOCKED launch tested, its words at hand: ELIGIBLE when every wait and ORDERED are satisfied (R183). -/
def testRead (s : State) (l : Launch) : State :=
  let s1 := reportWaits s l
  let ok := (List.range 4).all (fun n => waitValue s1 l n == some true) && orderedOk s1 l
  let s2 := endOp (setReading s1 l.lch false) (.waits l.lch)
  match s2.launch? l.lch with
  | some l1 => if ok then s2.setLaunch { l1 with st := .eligible } else s2
  | none => s2

/-- A BLOCKED launch tested (R183), once its words have been read. -/
def testBlocked (s : State) (lch : Nat) : State :=
  match s.launch? lch with
  | none => s
  | some l =>
    if l.st ≠ .blocked then s
    else match waitsReady s l with
      | .error s1 => setReading s1 lch true
      | .ok s1 => testRead s1 l

/-- The BLOCKED launches with a WAITn on an event word tested (R188): each reads its words anew. One whose walk awaits an entry may name the word. -/
def testWaiters (s : State) (pa : Nat) : State :=
  let named (l : Launch) : Bool := l.st == .blocked && l.lr.waits.any (fun w => w.1 != 0 && (match xlate s (partWho l.ctx) .cmdRead w.1 with
    | .ok y => y.pa == pa
    | .error c => c == cAWAITED))
  (s.launches.filter named).foldl (fun s l => testBlocked (endOp s (.waits l.lch)) l.lch) s

/-- The host interrupt of an event, where it has one (R188). -/
def sendIrq (s : State) (irq : Option Nat) : State :=
  match irq with
  | some v => s.send (.irq v)
  | none => s

/-- An event that waits, as it stands. -/
def keepRaise (s : State) (r : Raise) : State := { s with raises := s.raises ++ [r] }

/-- An event whose word cannot be reached: reported, and its interrupt sent (R460). -/
def raiseFail (s : State) (r : Raise) : State := sendIrq (postUnreachable (endWalk s frontEnd) r.ctx r.lch r.va) r.irq

/-- An event raised: its word incremented, then the launches that it may satisfy tested and its interrupt sent, once an increment outside the
part is performed (R188, R460). It waits for the entries of its walk, the fill of its line, and its channel (R342, R395, R424). -/
def raiseWord (s : State) (r : Raise) : State :=
  match xlate s (partWho r.ctx) .cmdBoth r.va with
  | .error c => if c = cAWAITED then keepRaise (askEntry s frontEnd r.ctx r.va) r else raiseFail s r
  | .ok y =>
    if bumpFills s y.pa then
      let s1 := bumpFill s r.ctx r.va y.pa
      keepRaise s1 { r with after := newRequests s s1, fill := true }
    else match bumpReady s y.pa with
      | .error s1 => keepRaise s1 r
      | .ok s1 =>
        let s2 := endWalk (bumpWord s1 r.ctx r.lch r.va y.pa) frontEnd
        let ids := newRequests s1 s2
        if ids.isEmpty then sendIrq (testWaiters s2 y.pa) r.irq else keepRaise s2 { r with pa := some y.pa, after := ids }

/-- The event of an address raised; address 0 names none. -/
def raiseNow (s : State) (r : Raise) : State := if r.va = 0 then s else raiseWord s r

/-- The completion record before an event written, or reported where it cannot be (R188, R460); then the event, once the record is performed. -/
def raiseRecord (s : State) (r : Raise) : State :=
  match r.crec with
  | none => raiseNow s r
  | some c => match writeReady s r.ctx c.1 c.2.length with
    | .error s1 => keepRaise s1 r
    | .ok s1 =>
      let s2 := endWalk ((writeCtx s1 r.ctx c.1 c.2).getD (postUnreachable s1 r.ctx r.lch c.1)) frontEnd
      let ids := newRequests s1 s2
      if ids.isEmpty || r.va == 0 then raiseNow s2 { r with crec := none } else keepRaise s2 { r with crec := none, after := ids }

/-- An event raised, after its completion record where it has one, then its interrupt (R188, R460). -/
def raiseEvent (s : State) (ctx lch va : Nat) (irq : Option Nat) (crec : Option (Nat × List Byte) := none) : State :=
  raiseRecord s { ctx := ctx, lch := lch, va := va, irq := irq, after := [], crec := crec }

/-- An event that waits for no request goes on: its record is written, it is raised, or, incremented, its launches are tested and its interrupt sent. -/
def raiseOn (s : State) (r : Raise) : State :=
  match r.pa with
  | none => raiseRecord s { r with fill := false }
  | some pa => sendIrq (testWaiters s pa) r.irq

/-- The events that wait for no request go on. -/
def raisesOn (s : State) : State :=
  (s.raises.filter (fun r => r.after.isEmpty)).foldl raiseOn { s with raises := s.raises.filter (fun r => !r.after.isEmpty) }

/-- The events that wait for a request which now has its response (R188); one whose line could not be filled is not raised (R424, R460). -/
def settleRaises (s : State) (id : Nat) (failed : Bool) : State :=
  let lost (r : Raise) : Bool := failed && r.fill && r.after.contains id
  let s1 := (s.raises.filter lost).foldl raiseFail s
  raisesOn { s1 with raises := (s.raises.filter (fun r => !lost r)).map (fun (r : Raise) => { r with after := r.after.filter (fun q => q != id) }) }

/-- STATUS of a launch that ends (R190). -/
def launchStatus (l : Launch) (reason : Nat) : Nat :=
  if reason ≠ 0 then 5 else if l.killedByHost then 4 else if l.overrun then 3 else if l.wrapped then 2 else 1

/-- The completion record (Table 08.7). -/
def complRecord (l : Launch) (reason : Nat) : List Byte :=
  mkRecord 64 [(0, 1, launchStatus l reason), (1, 1, reason), (4, 4, l.lch), (8, 4, l.donet), (0x0C, 4, l.unrun), (0x10, 8, l.v.toNat),
    (0x18, 8, l.endT), (0x20, 8, l.startT), (0x28, 4, l.traps)]

/-- A launch enters ENDED with a reason: its completion record, then, once that is performed, DONE, then the interrupt; and the launches ordered
behind it (R183, R188, R189). -/
def endLaunch (s : State) (lch reason : Nat) : State :=
  match s.launch? lch with
  | none => s
  | some l =>
    if l.st = .ended then s
    else
      let l1 := { l with st := .ended, endT := s.dtime }
      let s1 := s.setLaunch l1
      let s3 := raiseEvent s1 l1.ctx lch l1.lr.done (if bitOf l1.lr.donev 31 then some (l1.lr.donev % 65536) else none)
        (some (l1.lr.crec, complRecord l1 reason))
      ((s3.launches.filter (fun x => x.st == .blocked && x.prev == some lch)).map (fun x => x.lch)).foldl testBlocked s3

/-- The reason with which a launch ends (R190). -/
def endReason (l : Launch) : Nat := if l.teamFault then 4 else 0

/-- The counters of a set lowered by the members that meet a test; its EVENT when it reaches zero (R187). -/
def lowerSet (p : Nat → Bool) (lch : Nat) (s : State) (k : Nat) : State :=
  match s.launch? lch with
  | none => s
  | some l =>
    match l.sets[k]? with
    | none => s
    | some q =>
      let n := ((setMembers q).filter p).length
      let s1 := s.setLaunch (setSet l k { q with counter := q.counter - n })
      if 0 < n ∧ q.counter ≤ n then raiseEvent s1 l.ctx lch q.event (if q.irq then some q.vector else none) else s1

/-- Teams finished: the counters of their sets and of the launch fall, and a launch whose counter reaches zero ends (R187). -/
def finishTeams (s : State) (lch n : Nat) (p : Nat → Bool) : State :=
  match s.launch? lch with
  | none => s
  | some l =>
    let s1 := (List.range l.sets.length).foldl (lowerSet p lch) s
    match s1.launch? lch with
    | none => s1
    | some l1 =>
      let s2 := s1.setLaunch { l1 with counter := l1.counter - n }
      if l1.counter ≤ n ∧ 0 < n then endLaunch s2 lch (endReason l1) else s2

/-- A team of a launch has never been placed. -/
def neverPlaced (l : Launch) (tix : Nat) : Bool := decide (l.nextTix ≤ tix) && decide (tix < l.lr.teams) && !l.early.contains tix

/-- The number of teams never placed. -/
def neverCount (l : Launch) : Nat := l.lr.teams - l.nextTix - l.early.length

/-- The teams never placed counted as never run (R187, R377, R391). -/
def dropUnplaced (s : State) (lch : Nat) : State :=
  match s.launch? lch with
  | none => s
  | some l =>
    let n := neverCount l
    finishTeams (s.setLaunch { l with unrun := l.unrun + n, nextTix := l.lr.teams, early := [] }) lch n (neverPlaced l)

/-! ### Resources (R178, Table 08.1) -/

/-- Groups of a team on a quadrant. -/
def quadNeed (gpt q : Nat) : Nat := (gpt + 3 - q) / 4

/-- The teams placed on a core. -/
def teamsOn (s : State) (core : Nat) : List Team := s.teams.filter (fun t => t.placed && t.core == core)

/-- The group slots in use on a quadrant of a core. -/
def slotsUsed (s : State) (core q : Nat) : List Nat :=
  s.groups.filterMap (fun g =>
    if g.gix % 4 = q ∧ (teamsOn s core).any (fun t => t.uid == g.team) then some g.slot else none)

/-- Registers per lane in use on a quadrant of a core. -/
def regsUsed (s : State) (core q : Nat) : Nat :=
  ((teamsOn s core).map (fun t => (s.lrOf t).regs * quadNeed (s.lrOf t).gpt q)).foldl (· + ·) 0

/-- The lowest start of a free block of a size and alignment below a limit, among allocated blocks given as start and length. -/
def lowestFree (blocks : List (Nat × Nat)) (size align limit : Nat) : Option Nat :=
  let free (c : Nat) : Bool := decide (c + size ≤ limit) && blocks.all (fun b => !(decide (c < b.1 + b.2) && decide (b.1 < c + size)))
  match ((0 :: blocks.map (fun b => roundUp (b.1 + b.2) align)).filter free) with
  | [] => none
  | c :: rest => some (rest.foldl Nat.min c)

/-- The die scratch that launches may use on a die (R178, R451). -/
def dscrRoom (s : State) : Nat := 2 ^ 26 - roundUp s.dev.fwLen 65536

/-- The launches' allocations of die scratch on a die. -/
def dscrBlocks (s : State) (die : Nat) : List (Nat × Nat) :=
  s.launches.filterMap (fun l => (l.dscr.find? (fun d => d.1 == die)).map (fun d => (d.2, l.lr.dscr)))

/-- ACC rounded up to a multiple of 1,024 (R288). -/
def accNeed (l : Launch) : Nat := roundUp l.lr.acc 1024

/-- Where a team goes: its core and blocks, and the die-scratch base of its launch there. -/
structure Spot where
  core : Nat
  scr : Nat
  acc : Nat
  dscr : Nat
deriving DecidableEq, Repr

/-- A core on which a team of a launch fits, with the blocks it takes (R178). -/
def fitsOn (s : State) (l : Launch) (core : Nat) : Option Spot :=
  let ts := teamsOn s core
  let die := dieOf core
  let quadsOk := (List.range 4).all (fun q =>
    decide ((slotsUsed s core q).length + quadNeed l.lr.gpt q ≤ 16) && decide (regsUsed s core q + l.lr.regs * quadNeed l.lr.gpt q ≤ 1024))
  if !quadsOk then none
  else
    let d := match l.dscr.find? (fun d => d.1 == die) with
      | some d => some d.2
      | none => lowestFree (dscrBlocks s die) l.lr.dscr 65536 (dscrRoom s)
    match lowestFree (ts.map (fun t => (t.ssBase, (s.lrOf t).scr))) l.lr.scr 4096 524288,
        lowestFree ((ts.filter (fun t => s.clsOf t == l.lr.cls)).map (fun t => (t.accBase, t.accLen))) (accNeed l) 1024 131072, d with
    | some a, some b, some c => some ⟨core, a, b, c⟩
    | _, _, _ => none

/-- The cores of launches in the order of R179: every core but the firmware cores. -/
def launchCores : List Nat := (List.range 79) ++ (List.range 79).map (80 + ·)

/-- The first core on which a team of a launch fits (R179). -/
def firstFit (s : State) (l : Launch) : Option Spot := launchCores.findSome? (fitsOn s l)

/-! ### Placement (R177, R210, R376) -/

/-- The lowest free group slot of a quadrant of a core. -/
def freeSlot (s : State) (core q : Nat) : Nat := ((List.range 16).find? (fun n => !(slotsUsed s core q).contains n)).getD 0

/-- The base of a group's lane-private segment (R210). A sum at or past 2^64 is taken modulo 2^64: the spec gives no wrap (DESIGN CHOICE,
log 63). -/
def lprBase (s : State) (l : Launch) (tix gix : Nat) : Nat :=
  (roundUp (l.lr.args + l.lr.argsz) 128 + (tix * l.lr.gpt + gix) * 32 * (s.ctx l.ctx).lpsz) % 2 ^ 64

/-- A group at placement (Tables 01.2, 01.6, 07.1, 10.2). -/
def freshGroup (s : State) (l : Launch) (t : Team) (gix : Nat) : Group :=
  { uid := s.uid, team := t.uid, gix := gix, slot := freeSlot s t.core (gix % 4)
    seeds := (List.range 32).map (seedAt l.lr.seed t.tix)
    gs := mset 0 (mset 0 [] 0 (BitVec.ofNat 32 l.lr.args)) 1 (BitVec.ofNat 32 (l.lr.args / 2 ^ 32))
    slBase := lprBase s l t.tix gix, slLimit := (s.ctx l.ctx).lpsz
    splits := [{ st := .ready, pc := BitVec.ofNat 32 l.lr.entry, am := BitVec.allOnes 32, since := s.clock }, {}, {}, {}] }

/-- A team's segments and blocks at a spot (Table 10.2). -/
def seatTeam (s : State) (l : Launch) (t : Team) (p : Spot) : Team :=
  let c := s.ctx l.ctx
  { t with
    placed := true, core := p.core, order := s.uid, sgBase := c.gbase, sgLimit := c.glimit, ssBase := p.scr, ssLimit := l.lr.scr
    scBase := 0, scLimit := 0x400000, sdBase := p.dscr, sdLimit := l.lr.dscr, accBase := p.acc, accLen := accNeed l }

/-- The die scratch of a launch taken on a die. -/
def takeDscr (l : Launch) (die base : Nat) : Launch :=
  if l.dscr.any (fun d => d.1 == die) then l else { l with dscr := l.dscr ++ [(die, base)] }

/-- A block of scratch zeroed, with the errors of its words (R177). -/
def zeroScr (s : State) (core off len : Nat) : State :=
  { s with
    scr := mclear s.scr (scrKey core off) (scrKey core (off + len))
    damage := s.damage.filter (fun d => match d with
      | .scr c w => !(c == core && decide (off ≤ 4 * w) && decide (4 * w < off + len))
      | _ => true) }

/-- An accumulator region zeroed (R289). -/
def zeroAcc (s : State) (core cls off len : Nat) : State :=
  let lo := core * 65536 + cls * 32768 + off / 4
  { s with
    acc := mclear s.acc lo (lo + len / 4)
    damage := s.damage.filter (fun d => match d with
      | .acc c w => !(decide (lo ≤ c * 65536 + w) && decide (c * 65536 + w < lo + len / 4))
      | _ => true) }

/-- A team index noted as placed. -/
def markPlaced (l : Launch) (tix : Nat) : Launch :=
  go ((l.early.length) + 2) { l with early := tix :: l.early }
where
  /-- The index below which every team has been placed, moved up. -/
  go : Nat → Launch → Launch
    | 0, l => l
    | n + 1, l => if l.early.contains l.nextTix then go n { l with nextTix := l.nextTix + 1, early := l.early.filter (· != l.nextTix) } else l

/-- A launch with its first team placed (Table 08.5, R189). -/
def startLaunch (l : Launch) (now : Nat) : Launch := if l.st = .eligible then { l with st := .running, startT := now } else l

/-- What the instruction fetch of a team that is placed fills from (R219). -/
def viewCode (s : State) (uid : Nat) : State :=
  match s.team? uid with
  | some t => s.setTeam (viewTeam s t)
  | none => s

/-- A new team placed at a spot (R177). Its core performs the acquire with which its launch saw the event words of its WAITn (R188, R231). -/
def placeNew (s : State) (lch tix : Nat) (p : Spot) : State :=
  match s.launch? lch with
  | none => s
  | some l =>
    let t := seatTeam s l { uid := s.uid, lch := lch, tix := tix, ctx := l.ctx, dgen := seedAt l.lr.seed tix 32 } p
    let l1 := startLaunch (markPlaced (takeDscr l (dieOf p.core) p.dscr) tix) s.dtime
    let s1 := zeroAcc (zeroScr (s.setLaunch l1) p.core p.scr l.lr.scr) p.core l.lr.cls p.acc t.accLen
    let s2 := { s1 with teams := s1.teams ++ [t] }.fresh
    let s3 := viewCode (acquireCore s2 p.core) t.uid
    (List.range l.lr.gpt).foldl (fun s i => { s with groups := s.groups ++ [freshGroup s l t i] }.fresh) s3

/-- Whether a pre-empted team waits to be placed again. -/
def awaitsRestore (lch : Nat) (t : Team) : Bool := t.lch == lch && !t.placed && !t.killed && t.img.isSome

/-- A number put in its place in a rising list without repeats. -/
def insertNat (x : Nat) : List Nat → List Nat
  | [] => [x]
  | y :: t => if x < y then x :: y :: t else if x = y then y :: t else y :: insertNat x t

/-- The teams of a gang: every team of the co-resident sets joined to a team through shared teams, ascending (R186). -/
def gangOf (l : Launch) (tix : Nat) : List Nat :=
  let cs := l.sets.filter (fun q => q.cores)
  (grow cs cs.length [tix]).foldl (fun l x => insertNat x l) []
where
  /-- The members reached by co-resident sets that share a member, followed as often as there are sets. -/
  grow (cs : List SetSt) : Nat → List Nat → List Nat
    | 0, ms => ms
    | n + 1, ms =>
      grow cs n (cs.foldl (fun ms q => if (setMembers q).any (fun m => ms.contains m) then ms ++ (setMembers q).filter (fun m => !ms.contains m) else ms) ms)

/-- A team is in a co-resident set. -/
def inGang (l : Launch) (tix : Nat) : Bool := l.sets.any (fun q => q.cores && memberOf q tix)

/-- Teams placed one after another by first fit, all or none (R179, R186). -/
def placeAll (lch : Nat) : List Nat → State → Option State
  | [], s => some s
  | tix :: rest, s =>
    match s.launch? lch with
    | none => none
    | some l =>
      match firstFit s l with
      | some p => placeAll lch rest (placeNew s lch tix p)
      | none => none

/-- The most teams that a part can hold: a group slot for each. -/
def maxTeams : Nat := 158 * 64

/-- The part with nothing placed. -/
def emptied (s : State) : State := { s with teams := [], groups := [], launches := s.launches.map (fun l => { l with dscr := [] }) }

/-- Every gang of a launch fits an empty part, and so does its die scratch (R178, R182, R186). -/
def gangsFit (s : State) (l : Launch) : Bool :=
  let starts := (l.sets.filter (fun q => q.cores)).filterMap (fun q => (setMembers q).head?)
  starts.all (fun tix =>
    let n := ((l.sets.filter (fun q => q.cores && (setMembers q).contains tix)).map (fun q => q.count)).foldl Nat.max 0
    decide (n ≤ maxTeams) && (let e := emptied s
      let g := gangOf l tix
      decide (g.length ≤ maxTeams) && (placeAll l.lch g { e with launches := l :: e.launches.filter (fun x => x.lch != l.lch) }).isSome))

end Sys2Proof.Machine
end

