-- ==== Sys2Proof/Machine/Distribute.lean ====
section
/-! DEFINITION. The distributor (08 R193, R194), pre-emption and restore (17 R374 to R376), the ends of engine work (R380), diversion (R378,
R379), kills (R388 to R391), and the events that begin or end launches and teams. -/

namespace Sys2Proof.Machine

open Sys2Proof

/-! ### Cancelled engine work (Table 17.10) -/

/-- A command ended as CANCELLED. -/
def cancelCmd (s : State) (core : Nat) (m : Cmd) : State :=
  orWrs (s.setCmd core { m with st := .ended, record := cmdRecord stCANCELLED 0 0 0 0 0 }) m.team wrsCANCELLED

/-- A command of a team at T_wrap or a kill (Table 17.10). CUT and MMASTOP are set where the run or the MMA ends so (R381). -/
def endWork (s : State) (x : Nat × Cmd) : State :=
  let core := x.1
  let m := x.2
  match m.st with
  | .ended => s
  | .queued => cancelCmd s core m
  | .started =>
    match m.kind with
    | .mma =>
      if (s.core core).mrun = some m.uid then s.setCmd core { m with stopAt := true }
      else orWrs (s.setCmd core { m with st := .ended }) m.team wrsMMASTOP
    | .brun =>
      match s.runs.find? (fun r => r.cmd == m.uid) with
      | none => if m.checked then s else cancelCmd s core m
      | some r =>
        if r.st = .waiting then
          cancelCmd (freeCtxFrames (shutAll { holdFrames s r.frames false with runs := s.runs.filter (fun y => y.uid != r.uid) }) r.ctx) core m
        else cutRun s r
    | _ => s

/-- The restored commands of a team that have found no entry cancelled where they wait (R383, Table 17.10). -/
def cancelWaiting (s : State) (team : Nat) : State :=
  match s.team? team with
  | none => s
  | some t =>
    if t.waitq.isEmpty then s
    else orWrs (s.setTeam { t with waitq := t.waitq.map (fun (m : Cmd) => { m with st := .ended, record := cmdRecord stCANCELLED 0 0 0 0 0 }) }) team wrsCANCELLED

/-- The engine work of a team ended (R380, R388). -/
def cancelTeam (s : State) (team : Nat) : State := (teamCmds s team).foldl endWork (cancelWaiting s team)

/-! ### Diversion (R378, R379) -/

/-- The waits of splits left without effect (R379): every one has left before a waiter behind them is served. What homes hold for them is
withdrawn. -/
def leaveWaits (s0 : State) (team ctx : Nat) (sps : List Split) : State :=
  let wids := (sps.filter (fun sp => sp.st == .waiting)).map (fun sp => sp.wid)
  let c := s0.ctx ctx
  let s := withdrawAsks s0 (((s0.team? team).map (fun t => t.core)).getD 0) 0 sps
  semLeave (s.setCtx ctx { c with
    pops := c.pops.filter (fun p => !wids.contains p.2)
    enqs := c.enqs.filter (fun p => !wids.contains p.2.2) }) team wids

/-- The one split of the wrap-up code. -/
def wrapSplit (clock : Nat) (g : Group) (wrap : Nat) : Split := { st := .ready, pc := BitVec.ofNat 32 wrap, am := ~~~g.exm, since := clock }

/-- A group diverted to WRAP (R378). -/
def divertGroup (s : State) (u : Nat) : State :=
  match s.group? u with
  | none => s
  | some g =>
    match s.team? g.team with
    | none => s
    | some t =>
      let s1 := leaveWaits s t.uid t.ctx (allSplits g)
      let s2 := s1.modGroup u (fun g =>
        { g with
          splits := [wrapSplit s.clock g (s.lrOf t).wrap, {}, {}, {}]
          frames := List.replicate 16 {}
          pends := []
          saved := none, inHandler := false, raised := none, hold := .none, diverted := true })
      orWrs s2 t.uid 1

/-- The launch of a team wraps up: it has code to wrap up with and is WRAPPING (R378). -/
def wrapsUp (s : State) (t : Team) : Bool :=
  match s.launch? t.lch with
  | some l => l.st == .wrapping && l.lr.wrap != 0xFFFFFFFF
  | none => false

/-- R378 acts on a group: not stopped, with a lane left, not diverted before. -/
def diverts (g : Group) : Bool := !g.retired && g.stop.isNone && g.exm != BitVec.allOnes 32 && !g.diverted

/-- Nothing that a group's splits await from outside is open: no load or atomic, no answer of a home, no trap to be entered. -/
def settled (g : Group) : Bool := g.quiet && g.raised.isNone && (allSplits g).all (fun sp => !askWaits sp)

/-- DIVERSION of a group whose loads and atomics have returned; one that has stopped meanwhile stays stopped (R378). -/
def diversion (s : State) (u : Nat) : State :=
  match s.group? u with
  | some g =>
    if g.hold ≠ .divert ∨ !settled g then s
    else if diverts g then divertGroup s u
    else s.setGroup { g with hold := .none }
  | none => s

/-- DIVERSION (R378); its subject is the group. -/
def execDiversion (s : State) : Host.Outcome State Fault Refusal := onNum diversion s

/-! ### Restore (R376) -/

/-- The held results of an unplaced team applied: records, then increments (R375). -/
def applyHeld (s : State) (uid : Nat) : State :=
  match s.team? uid with
  | none => s
  | some t =>
    let s1 := s.setTeam { t with held := [] }
    let s2 := t.held.foldl (fun s h => match h with
      | .record off b => s.setScr t.core (t.ssBase + off) b
      | .incr _ => s) s1
    t.held.foldl (fun s h => match h with
      | .incr n => semIncr s uid n 1
      | .record _ _ => s) s2

/-- The waiters of a team in the queues of its context served, as far as the queues now allow (R202, R203). -/
def serveRestored (s : State) (ctx : Nat) : State :=
  let c := s.ctx ctx
  let s1 := ((c.pops.map (fun p => p.1)).eraseDups).foldl (fun s n => serveAll s ctx false n) s
  ((c.enqs.map (fun p => (p.1, p.2.1))).eraseDups).foldl (fun s q => serveAll s ctx q.1 q.2) s1

/-- The slots that a team's groups held before: none is one of its core's. -/
def unseat (s : State) (uid : Nat) : State :=
  { s with groups := s.groups.map (fun (g : Group) => if g.team = uid then { g with slot := 16 } else g) }

/-- A group's slot and lane-private segment taken anew, HV 0 in every split (R177, R376). -/
def reseat (l : Launch) (t : Team) (s : State) (u : Nat) : State :=
  s.modGroup u (fun g =>
    { g with
      hold := .none, slot := freeSlot s t.core (g.gix % 4), slBase := lprBase s l t.tix g.gix, slLimit := (s.ctx l.ctx).lpsz
      splits := g.splits.map (fun sp => { sp with hv := 0, since := s.clock }) })

/-- The image's scratch and accumulators loaded at a spot. -/
def loadImage (s : State) (l : Launch) (p : Spot) (i : Image) : State :=
  let s1 := zeroAcc (zeroScr s p.core p.scr l.lr.scr) p.core l.lr.cls p.acc (accNeed l)
  let a0 := p.core * 65536 + l.lr.cls * 32768 + p.acc / 4
  { s1 with
    scr := i.scr.foldl (fun m x => mset blankByte m (scrKey p.core (p.scr + x.1)) x.2) s1.scr
    acc := i.acc.foldl (fun m x => mset 0 m (a0 + x.1) x.2) s1.acc
    damage := s1.damage ++ i.badScr.map (fun w => .scr p.core (p.scr / 4 + w)) ++ i.badAcc.map (fun w => .acc p.core ((a0 + w) % 65536)) }

/-- A pre-empted team at a spot: its image, its groups seated anew, what the part held for it, the commands that find an entry, and the
acquire of its core (R376). -/
def seatImage (s : State) (l : Launch) (t : Team) (i : Image) (p : Spot) : State :=
  let l1 := takeDscr l (dieOf p.core) p.dscr
  let t1 := { seatTeam s l1 t p with img := none, waitq := i.cmds }
  let s1 := ((loadImage (s.setLaunch l1) l1 p i).setTeam t1).fresh
  let s2 := applyHeld (((groupsOf s1 t.uid).map (fun g => g.uid)).foldl (reseat l1 t1) (unseat s1 t.uid)) t.uid
  acquireCore (match s2.team? t.uid with
    | some t2 => refillTeam s2 t2
    | none => s2) p.core

/-- A pre-empted team placed again at a spot (R376), and diverted there when its launch is WRAPPING and it was not before; what it had queued is cancelled
where it was unplaced at T_wrap (R383), and goes on where it was pre-empted later. -/
def restoreTeam (s : State) (uid : Nat) (p : Spot) : State :=
  match s.team? uid with
  | none => s
  | some t =>
    match s.launch? t.lch, t.img with
    | some l, some i =>
      let s1 := seatImage s l { t with unwrapped := false } i p
      let s2 := if wrapsUp s t then (groupsOf s1 uid).foldl (fun s g => if diverts g then divertGroup s g.uid else s) s1 else s1
      serveRestored (if wrapsUp s t && t.unwrapped then cancelTeam s2 uid else s2) t.ctx
    | _, _ => s

/-! ### The distributor (R193) -/

/-- What a launch places next: the unplaced team with the lowest `tix`, pre-empted or never placed. -/
inductive NextUnit where
  | restore (uid : Nat)
  | fresh (tixs : List Nat)

/-- The next team or gang of a launch (R179, R186). -/
def nextUnit (s : State) (l : Launch) : Option NextUnit :=
  let back := (s.teams.filter (awaitsRestore l.lch)).foldl (fun b t => match b with
    | none => some t
    | some u => if t.tix < u.tix then some t else some u) (none : Option Team)
  let fresh := (l.st == .eligible || l.st == .running) && decide (l.nextTix < l.lr.teams)
  match back with
  | some t => if fresh && decide (l.nextTix < t.tix) then some (.fresh (gang l)) else some (.restore t.uid)
  | none => if fresh then some (.fresh (gang l)) else none
where
  /-- The teams placed at one moment with the next one. -/
  gang (l : Launch) : List Nat := if inGang l l.nextTix then gangOf l l.nextTix else [l.nextTix]

/-- A launch of class 1 offers its place before one of class 0, then by slack, then by queue order (R193). -/
def offeredBefore (s : State) (a b : Launch) : Bool :=
  decide (b.lr.cls < a.lr.cls) || (a.lr.cls == b.lr.cls
    && (decide (slackOf s a < slackOf s b) || (slackOf s a == slackOf s b && decide (a.order < b.order))))

/-- An item put in its place in a list sorted by a strict order. -/
def insertBy {α : Type} (lt : α → α → Bool) (x : α) : List α → List α
  | [] => [x]
  | y :: t => if lt x y then x :: y :: t else y :: insertBy lt x t

/-- The launches with something to place, in the order of R193. -/
def offers (s : State) : List Launch :=
  (s.launches.filter (fun l => (nextUnit s l).isSome)).foldl (fun acc l => insertBy (offeredBefore s) l acc) []

/-- The next unit of a launch placed, when it fits. -/
def placeUnit (s : State) (l : Launch) : Option State :=
  match nextUnit s l with
  | none => none
  | some (.restore uid) => (firstFit s l).map (restoreTeam s uid)
  | some (.fresh tixs) => placeAll l.lch tixs s

/-- One placement: the first offer that fits; none of class 0 while a class-1 team fits no core (R193). -/
def distOnce (s : State) : Option State :=
  let ls := offers s
  let shut := ls.any (fun l => l.lr.cls == 1 && (firstFit s l).isNone)
  ls.findSome? (fun l => if shut && l.lr.cls == 0 then none else placeUnit s l)

/-- Placements until no offer fits. -/
def distGo : Nat → State → State
  | 0, s => s
  | n + 1, s => match distOnce s with
    | some s1 => distGo n s1
    | none => s

/-! ### Pre-emption (R194, R374) -/

/-- The bytes of a team's image, at most (R374). -/
def imageBytes (s : State) (t : Team) : Nat :=
  let r := s.lrOf t
  8192 + r.scr + t.accLen + r.gpt * (128 * (r.regs + 16) + 2048)

/-- A team is being saved. -/
def saving (s : State) (t : Team) : Bool := t.placed && (groupsOf s t.uid).any (fun g => g.hold == .preempt)

/-- The blocks of a context's save region that images take. -/
def imageBlocks (s : State) (ctx : Nat) : List (Nat × Nat) :=
  s.teams.filterMap (fun t => if t.ctx = ctx then t.img.map (fun i => (i.off, i.size)) else none)

/-- The places of the images of more teams taken in the save regions of their contexts, each at the lowest offset that is free; none where
one finds no room (R374, log 38). -/
def reserveImages (s : State) (ts : List Team) : Option State :=
  ts.foldl (fun a t => a.bind (fun s => (lowestFree (imageBlocks s t.ctx) (imageBytes s t) 1 (s.ctx t.ctx).savelen).map (fun off =>
    s.setTeam { t with img := some { scr := [], acc := [], badScr := [], badAcc := [], cmds := [], off := off, size := imageBytes s t } }))) (some s)

/-- A team may be chosen: of class 0, placed, not killed, not being saved, in no co-resident set (R374). One that waits for its diversion may be:
it is diverted where it is restored (R383). -/
def mayPreempt (s : State) (t : Team) : Bool :=
  t.placed && !t.killed && !t.leaving && (groupsOf s t.uid).all (fun g => g.hold == .none || g.hold == .divert)
    && (match s.launch? t.lch with
      | some l => l.lr.cls == 0 && !inGang l t.tix
      | none => false)

/-- The rank of R194: larger slack, then more recently placed, then higher `tix`. -/
def rankBefore (s : State) (a b : Team) : Bool :=
  let sl (t : Team) : Int := ((s.launch? t.lch).map (slackOf s)).getD 0
  decide (sl b < sl a) || (sl a == sl b && (decide (b.order < a.order) || (a.order == b.order && decide (b.tix < a.tix))))

/-- The subsets of k items of a list, in the order of the list. -/
def choose {α : Type} : Nat → List α → List (List α)
  | 0, _ => [[]]
  | _ + 1, [] => []
  | k + 1, x :: t => (choose k t).map (x :: ·) ++ choose (k + 1) t

/-- The die scratch of a launch returned on the dies that hold no placed team of it (R178). -/
def returnDscr (s : State) (lch : Nat) : State :=
  match s.launch? lch with
  | none => s
  | some l =>
    let stays (d : Nat × Nat) : Bool := s.teams.any (fun x => x.placed && x.lch == lch && dieOf x.core == d.1)
    s.setLaunch { l with dscr := l.dscr.filter stays }

/-- The state without some teams, and without the die scratch of the launches that lose their last team on a die (R178, R374). -/
def without (s : State) (us : List Nat) : State :=
  ((s.teams.filter (fun t => us.contains t.uid)).map (fun t => t.lch)).foldl returnDscr
    { s with teams := s.teams.filter (fun t => !us.contains t.uid), groups := s.groups.filter (fun g => !us.contains g.team) }

/-- The candidate set of a core for a launch: the smallest, then the earliest in the rank of all teams, whose removal makes its team fit there
once the teams being saved have gone, as `s1` has it (R194). -/
def candidates (s s1 : State) (l : Launch) (core : Nat) : Option (List Team) :=
  let ts := ((teamsOn s1 core).filter (mayPreempt s)).foldl (fun acc t => insertBy (rankBefore s) t acc) []
  ((List.range ts.length).flatMap (fun k => choose (k + 1) ts)).find? (fun c =>
    (reserveImages s c).isSome && (fitsOn (without s1 (c.map (fun t => t.uid))) l core).isSome)

/-- A candidate set is preferred to another: fewer teams, then the earlier in rank order. -/
def candBefore (s : State) (a b : List Team) : Bool :=
  decide (a.length < b.length) || (a.length == b.length && (match (a.zip b).find? (fun p => p.1.uid != p.2.uid) with
    | some p => rankBefore s p.1 p.2
    | none => false))

/-- The teams that the distributor pre-empts (R194), with those being saved counted as gone. -/
def chosenSet (s : State) : List Team :=
  let s1 := without s ((s.teams.filter (saving s)).map (fun t => t.uid))
  match (offers s).find? (fun l => l.lr.cls == 1 && (firstFit s1 l).isNone && decide (slackOf s l < (s.ctx l.ctx).pthr)
      && launchCores.any (fun c => (candidates s s1 l c).isSome)) with
  | none => []
  | some l =>
    ((launchCores.filterMap (candidates s s1 l)).foldl (fun b c => match b with
      | none => some c
      | some d => if candBefore s c d then some c else some d) (none : Option (List Team))).getD []

/-- A team's groups held. -/
def holdTeam (s : State) (uid : Nat) (h : Hold) : State :=
  let mark (g : Group) : Group :=
    if g.team ≠ uid then g
    else if h = .kill then { g with hold := .kill, pends := [], raised := none } else { g with hold := h }
  { s with groups := s.groups.map mark }

/-- The chosen teams stopped, each with a place for its image (R194, R374). -/
def preempt (s : State) : State :=
  let ts := chosenSet s
  match reserveImages s ts with
  | some s1 => ts.foldl (fun s t => holdTeam s t.uid .preempt) s1
  | none => s

/-- The distributor: while the part runs, every placement that R193 allows, and then the pre-emption that R194 asks for. -/
def distribute (s : State) : State := if s.dev.boot = .running then preempt (distGo maxTeams s) else s

/-! ### Acceptance (R182, R183) -/

/-- T_wrap of a launch, exactly (R377). -/
def tWrap (l : LRec) : Int := (l.deadline : Int) - l.budget

/-- A launch whose checks failed: it ends at once, FAULTED (R182). -/
def rejectLaunch (s : State) (l : Launch) (reason : Nat) : State :=
  endLaunch { s with launches := s.launches ++ [{ l with unrun := l.lr.teams, nextTix := l.lr.teams }] } l.lch reason

/-- A launch that ends before a placement, WRAPPED (Table 08.5). -/
def endUnplaced (s : State) (lch : Nat) : State :=
  match s.launch? lch with
  | none => s
  | some l => dropUnplaced (s.setLaunch { l with wrapped := true }) lch

/-- A record accepted and checked (R182, R183); `from_` is the class plus one of the launch that enqueued it, or 0. -/
def acceptRecord (s : State) (op : FrontOp) (ctx queue from_ : Nat) (b : List Byte) : State :=
  let r := parseRec b
  let lch := s.nextLch.toNat
  let l : Launch := { lch := lch, ctx := ctx, lr := r, queue := some queue, order := s.uid, counter := r.teams
                      prev := match mget 0 (s.ctx ctx).lastAccepted queue with
                        | 0 => none
                        | n + 1 => some n }
  let s1 := ({ s with nextLch := s.nextLch + 1, dev := { s.dev with anyAccepted := true } }.setCtx ctx
    { s.ctx ctx with lastAccepted := mset 0 (s.ctx ctx).lastAccepted queue (lch + 1) }).fresh
  if !fieldsOk b r from_ then rejectLaunch s1 l 1
  else if dscrRoom s1 < r.dscr then rejectLaunch s1 l 2
  else match parseSets s1 op ctx r with
    | none => rejectLaunch (postSets s1 op ctx lch r) l 3
    | some qs =>
      let l1 := { l with sets := qs }
      if !gangsFit s1 l1 then rejectLaunch s1 l1 2
      else
        let s2 := { s1 with launches := s1.launches ++ [l1] }
        if decide (tWrap r ≤ s.dtime) then endUnplaced s2 lch else testBlocked s2 lch

/-- The record at the head of a launch queue taken, whatever comes of it: CI counts it (R182). -/
def takeHead (s : State) (ctx queue : Nat) : State :=
  let c := s.ctx ctx
  let q := queueOf c true queue
  let c1 := setQueue c true queue { q with ci := q.ci + 1 }
  s.setCtx ctx { c1 with lqFrom := mset 0 c1.lqFrom (queue * 2 ^ 32 + q.ci.toNat) 0 }

/-- What a record that has been read names may be read for its checks: its set table and LISTs, where its fields and its size do not reject it before. -/
def checkReads (s : State) (op : FrontOp) (ctx from_ : Nat) (b : List Byte) : Except State State :=
  if !fieldsOk b (parseRec b) from_ || decide (dscrRoom s < (parseRec b).dscr) then .ok s else setsReady s op ctx (parseRec b)

/-- LAUNCH_ACCEPT of a launch queue: the front end takes its next record, once its bytes and those of its sets have come (R182, R220). A record that
holds a damaged word, or whose page does not translate through a damaged entry, is reported and taken, and begins no launch, for its fields are not
known; one whose page does not translate keeps its queue waiting (DESIGN CHOICE, log 36). -/
def launchAccept (s : State) (ctx queue : Nat) : State :=
  let c := s.ctx ctx
  let q := queueOf c true queue
  let op := FrontOp.accept ctx queue
  let va := ringVa q true q.ci
  if s.dev.boot ≠ .running ∨ !q.ok ∨ q.empty then s
  else match readReady s op ctx va 256 with
    | .error s1 => s1
    | .ok s1 =>
      if (readBad s1 op ctx va 256).isSome then distribute (serveAll (endOp (takeHead (postLost s1 op ctx noLch va 256) ctx queue) op) ctx true queue)
      else match readCtx s1 op ctx va 256 with
        | none => endOp s1 op
        | some b =>
          let from_ := mget 0 c.lqFrom (queue * 2 ^ 32 + q.ci.toNat)
          match checkReads s1 op ctx from_ b with
          | .error s2 => s2
          | .ok s2 => distribute (serveAll (endOp (acceptRecord (takeHead s2 ctx queue) op ctx queue from_ b) op) ctx true queue)

/-- LAUNCH_ACCEPT (R182); its subject is the context and the launch queue. -/
def execLaunchAccept (s : State) : Host.Outcome State Fault Refusal := onPair launchAccept s

/-! ### The end of teams (R387, R388) -/

/-- A core's instruction cache without the lines that a team's fetch filled, nor those that it is still to fill. -/
def dropCode (s : State) (core uid : Nat) : State :=
  let s1 := s.setCore core { s.core core with ic := (s.core core).ic.filter (fun l => l.team != uid) }
  { s1 with remotes := s1.remotes.map (fun (r : Remote) => if r.code = some uid then { r with code := none } else r) }

/-- The records that a team's stopped groups have still to write go on as records of the part: the team goes, and what was raised is not lost (R370,
DESIGN CHOICE, log 69). -/
def leaveRecords (s : State) (t : Team) : State :=
  { s with posts := s.posts ++ (groupsOf s t.uid).flatMap (fun g => g.records.map (fun r =>
      ({ ord := r.ord, die := dieOf t.core, ctx := t.ctx, bytes := r.bytes } : AsyncRec))) }

/-- A team that no longer exists: its resources are free, and its launch's die scratch on a die that holds no team of it (R178, R387). -/
def freeTeam (s : State) (uid : Nat) : State :=
  match s.team? uid with
  | none => s
  | some t =>
    let s1 := dropCode (leaveRecords s t) t.core uid
    returnDscr { s1 with teams := s1.teams.filter (fun x => x.uid != uid), groups := s1.groups.filter (fun g => g.team != uid) } t.lch

/-- The barriers of a launch's sets tested. -/
def testSets (s : State) (lch : Nat) : State :=
  match s.launch? lch with
  | none => s
  | some l => ((List.range l.sets.length).zip l.sets).foldl (fun s q => testBars s l q.1 q.2) s

/-- A place lies in a team's block of its core's scratch. -/
def inBlock (s : State) (t : Team) : Place → Bool
  | .scr c o _ => c == t.core && decide (t.ssBase ≤ o) && decide (o < t.ssBase + (s.lrOf t).scr)
  | _ => false

/-- A copy of another team that is bound to a team's scratch has not completed (R215). -/
def copyBound (s : State) (t : Team) : Bool :=
  let hits (e : CpyEnd) : Bool := !e.phys && inBlock s t (.scr (e.key / 2 ^ 19) (e.key % 2 ^ 19) 0)
  s.cores.any (fun c => c.2.cmdq.any (fun m => m.team != t.uid && (match m.kind with
    | .cpy _ ps => ps.any (fun p => hits p.2)
    | _ => false)))

/-- The C accesses bound to a team performed, where they are loads; none when a copy into its scratch is still to complete (R215). -/
def unbound (s : State) (t : Team) : Option State :=
  if copyBound s t then none else some (settleWhere s (inBlock s t))

/-- TEAM_RETIRE of a team whose groups have retired and whose commands have completed. Its retirement begins at once, and completes when the
accesses bound to it are performed (R215, R387). -/
def teamRetire (s0 : State) (uid : Nat) : State :=
  match s0.team? uid with
  | none => s0
  | some t =>
    if !t.placed || t.killed || !(groupsOf s0 uid).all (fun g => g.retired) || !(teamCmds s0 uid).isEmpty || !t.waitq.isEmpty then s0
    else match unbound s0 t with
      | none => s0.setTeam { t with leaving := true }
      | some s =>
        let s1 := freeTeam s uid
        match s1.launch? t.lch with
        | none => s1
        | some l =>
          let s2 := finishTeams (s1.setLaunch { l with donet := l.donet + 1 }) t.lch 1 (fun x => x == t.tix)
          distribute (testSets s2 t.lch)

/-- TEAM_RETIRE (R387); its subject is the team. -/
def execTeamRetire (s : State) : Host.Outcome State Fault Refusal := onNum teamRetire s

/-- The co-resident sets of a killed team broken: their waiters are released with kd 0, and its groups leave the expected counts (R389). -/
def breakSets (s : State) (lch : Nat) (t : Team) (live : Nat) : State :=
  match s.launch? lch with
  | none => s
  | some l =>
    let l1 := (setsOf l t.tix).foldl (fun l x =>
      setSet l x.1 (testPhase l { x.2 with gone := x.2.gone + live, broken := x.2.broken || x.2.cores })) l
    (setsOf l1 t.tix).foldl (fun s x =>
      if x.2.cores then (membersLive s l1 x.2).foldl (fun s m => releaseTeam s m.uid (isBars x.2.slot) false) s else s) (s.setLaunch l1)

/-- A team killed (R388 steps 1 to 4): no split issues again, results in flight are discarded, its waits and its engine work end. -/
def killTeam (s : State) (uid : Nat) : State :=
  match s.team? uid with
  | none => s
  | some t =>
    if t.killed then s
    else
      let gs := groupsOf s uid
      let s1 := leaveWaits s uid t.ctx (gs.flatMap allSplits)
      let s2 := holdTeam s1 uid .kill
      let s3 := match s2.team? uid with
        | some u => s2.setTeam { u with killed := true, leaving := true, img := none, held := [] }
        | none => s2
      cancelTeam (breakSets s3 t.lch t (gs.filter (fun g => !g.retired)).length) uid

/-- TEAM_KILL of a killed team whose commands have completed: its resources are freed (R215, R388 step 5). -/
def teamKill (s : State) (uid : Nat) : State :=
  match s.team? uid with
  | none => s
  | some t =>
    if !t.killed || !(teamCmds s uid).isEmpty || (t.placed && !t.waitq.isEmpty) then s
    else if !t.placed then distribute (freeTeam s uid)
    else match unbound s t with
      | some s1 => distribute (freeTeam s1 uid)
      | none => s

/-- TEAM_KILL (R388); its subject is the team. -/
def execTeamKill (s : State) : Host.Outcome State Fault Refusal := onNum teamKill s

/-- A launch killed: by the host or firmware, or else at DEADLINE (R190, R391). -/
def killLaunch (s : State) (lch : Nat) (byHost : Bool) : State :=
  match s.launch? lch with
  | none => s
  | some l =>
    if l.st = .ended then s
    else
      let ts := s.teams.filter (fun t => t.lch == lch && !t.killed)
      let stopped := ts.any (fun t => (groupsOf s t.uid).any (fun g => g.stop.isSome))
      let l1 := { l with killedByHost := l.killedByHost || byHost, overrun := l.overrun || !byHost, teamFault := l.teamFault || stopped }
      let s1 := ts.foldl (fun s t => killTeam s t.uid) (s.setLaunch l1)
      let s2 := finishTeams s1 lch ts.length (fun x => ts.any (fun t => t.tix == x))
      let s3 := dropUnplaced s2 lch
      distribute (testSets (endLaunch s3 lch (endReason l1)) lch)

/-! ### Deadlines (R377) -/

/-- The groups of a launch's placed teams marked for diversion, and its engine work ended, the started work of its unplaced teams with it
(R378, R380). A team that is being saved goes on to be saved, and is diverted where it is restored (DESIGN CHOICE, log 37). -/
def wrapTeams (s : State) (lch : Nat) : State :=
  let ts := s.teams.filter (fun t => t.lch == lch && !t.killed)
  let mark (g : Group) : Group :=
    if ts.any (fun t => t.placed && t.uid == g.team) && diverts g && g.hold == .none then { g with hold := .divert } else g
  let s1 : State := { s with
    groups := s.groups.map mark
    teams := s.teams.map (fun (t : Team) => if t.lch = lch && !t.placed then { t with unwrapped := true } else t) }
  ts.foldl (fun s t => cancelTeam s t.uid) s1

/-- T_WRAP_REACHED of a launch (Tables 08.5, 17.9). -/
def tWrapReached (s : State) (lch : Nat) : State :=
  match s.launch? lch with
  | none => s
  | some l =>
    if (s.dtime : Int) < tWrap l.lr then s
    else match l.st with
      | .blocked | .eligible => distribute (endUnplaced s lch)
      | .running =>
        let s1 := s.setLaunch { l with st := .wrapping, wrapped := true }
        let s2 := if l.lr.wrap = 0xFFFFFFFF then s1 else wrapTeams s1 lch
        distribute (testSets (dropUnplaced s2 lch) lch)
      | _ => s

/-- T_WRAP_REACHED (R377); its subject is the launch. -/
def execTWrapReached (s : State) : Host.Outcome State Fault Refusal := onNum tWrapReached s

/-- DEADLINE_REACHED of a launch with a team not finished: they are killed (Table 17.9). -/
def deadlineReached (s : State) (lch : Nat) : State :=
  match s.launch? lch with
  | none => s
  | some l => if s.dtime < l.lr.deadline then s
    else match l.st with
      | .running | .wrapping => killLaunch s lch false
      | _ => s

/-- DEADLINE_REACHED (R377); its subject is the launch. -/
def execDeadlineReached (s : State) : Host.Outcome State Fault Refusal := onNum deadlineReached s

/-! ### The save of a pre-empted team (R374) -/

/-- A team being saved is quiet: its loads and stores have settled and are performed, its started copies and matrix commands have completed,
and so have the copies bound to it (R374 steps 1 to 3). -/
def quiet (s : State) (t : Team) : Bool :=
  (groupsOf s t.uid).all (fun g => settled g && (outstanding s g.uid t.core 4).isEmpty) && !copyBound s t && (teamCmds s t.uid).all (fun x =>
    match x.2.kind with
    | .shut => true
    | .brun => x.2.st != .started || x.2.checked
    | .mma => x.2.st != .ended
    | _ => x.2.st == .queued)

/-- The image of a team (Table 17.8): its unstarted commands in order, a suspended or running MMA among them. -/
def imageOf (s : State) (t : Team) : Image :=
  let r := s.lrOf t
  let k0 := scrKey t.core t.ssBase
  let a0 := t.core * 65536 + r.cls * 32768 + t.accBase / 4
  let c := s.core t.core
  let mine (l : List Cmd) : List Cmd := l.filter (fun m => m.team == t.uid)
  { scr := s.scr.filterMap (fun x => if k0 ≤ x.1 ∧ x.1 < k0 + r.scr then some (x.1 - k0, x.2) else none)
    acc := s.acc.filterMap (fun x => if a0 ≤ x.1 ∧ x.1 < a0 + t.accLen / 4 then some (x.1 - a0, x.2) else none)
    badScr := s.damage.filterMap (fun d => match d with
      | .scr c w => if c = t.core ∧ t.ssBase ≤ 4 * w ∧ 4 * w < t.ssBase + r.scr then some (w - t.ssBase / 4) else none
      | _ => none)
    badAcc := s.damage.filterMap (fun d => match d with
      | .acc c w => if a0 ≤ c * 65536 + w ∧ c * 65536 + w < a0 + t.accLen / 4 then some (c * 65536 + w - a0) else none
      | _ => none)
    cmds := (mine c.cmdq ++ (mine c.bankq).filter (fun m => m.st == .queued)
      ++ (mine (c.mq0 ++ c.mq1)).map (fun m => { m with st := .queued, stopAt := false })) ++ t.waitq }

/-- The saved commands leave their queues. -/
def dropSaved (s : State) (core : Nat) (i : Image) : State :=
  i.cmds.foldl (fun s m => s.dropCmd core m.uid) s

/-- The image of a team written where the part lays it out in its context's save region: its bytes are the part's own (R374, log 38). -/
def writeImage (s : State) (t : Team) (i : Image) : State :=
  s.writePa frontEnd noGrp ((s.ctx t.ctx).savebase + i.off) ((List.range i.size).map (Config.imageByte s.draws))

/-- A quiet team, whose core has drained, saved and unplaced (R374 steps 3, 4 and 6): what homes hold for its splits is withdrawn, and asked again where
it is restored (Table 20.3, log 18); its core keeps none of its code, so that an ICINV on
its next core reaches all of it (R142). -/
def saveTeam (s0 : State) (t : Team) : State :=
  let sa := (groupsOf s0 t.uid).foldl (fun s g => (withdrawAsks s t.core g.uid (allSplits g)).modGroup g.uid (fun g =>
    { g with splits := g.splits.map Split.restart, saved := g.saved.map (fun b => { b with splits := b.splits.map Split.restart }) })) s0
  let s := settleWhere sa (inBlock sa t)
  let place := (t.img.map (fun i => (i.off, i.size))).getD (0, 0)
  let i := { imageOf s t with off := place.1, size := place.2 }
  let s1 := dropSaved (s.setTeam { t with placed := false, waitq := [], img := some i }) t.core i
  distribute (returnDscr (writeImage (dropCode s1 t.core t.uid) t i) t.lch)

/-- PREEMPTION_SAVE of a team that the distributor has stopped: once quiet, and its core drained, it is saved (R374). -/
def preemptionSave (s : State) (uid : Nat) : State :=
  match s.team? uid with
  | none => s
  | some t =>
    if saving s t && quiet s t then
      let s1 := drainWait s t.core (fun _ => true)
      if dirtyLeft s1 t.core (fun _ => true) then s1 else saveTeam s1 t
    else s

/-- PREEMPTION_SAVE (R374); its subject is the team. -/
def execPreemptionSave (s : State) : Host.Outcome State Fault Refusal := onNum preemptionSave s

end Sys2Proof.Machine
end

