-- ==== Sys2Proof/Machine/System.lean ====
section
/-! DEFINITION. The SYS instructions: NOP, EXIT, TRAP, BRKPT, the special registers and segments, ICINV (06 R136 to R142), TRET and
TFAIL (17 R365), TLBINV (18 R407, R408), OWNACQ and OWNREL (20 R426 to R428). -/

namespace Sys2Proof.Machine

open Sys2Proof

/-- The needs of a SYS instruction without operands: act is AM (R136). -/
def sysNeeds : Needs := { guarded := false, lanes := Ix.am }

/-- NOP (R137). -/
def execNop (s : State) : Host.Outcome State Fault Refusal := issueG sysNeeds (fun x => (x.g, .step)) s

/-- EXIT (R137, R162). -/
def execExit (s : State) : Host.Outcome State Fault Refusal :=
  issueG sysNeeds (fun x => (exitLanes x.s.clock x.g x.e x.am, .gone)) s

/-- TRAP (R138). -/
def execTrap (code : BitVec 14) (s : State) : Host.Outcome State Fault Refusal :=
  issue sysNeeds (fun x => .error { cause := cTRAP, tfm := x.am, tva := code.toNat, next := true }) s

/-- BRKPT (R138). -/
def execBrkpt (s : State) : Host.Outcome State Fault Refusal :=
  issue sysNeeds (fun x => .error { cause := cBRKPT, tfm := x.am }) s

/-! ### Special registers (Tables 01.6, 10.1, 12.3) -/

/-- A segment register's number. -/
def srSegment (n : Nat) : Bool := (0x10 ≤ n && n ≤ 0x1E && n % 2 == 0) || n == 0x20 || n == 0x22

/-- An engine-state register's number (Table 12.3). -/
def srEngine (n : Nat) : Bool := n == 0x24 || n == 0x26 || n == 0x28

/-- The width of a special register in words; none for an unassigned number. -/
def srWords (n : Nat) : Option Nat :=
  if n = 0 ∨ n = 1 ∨ n = 3 ∨ n = 4 ∨ n = 5 ∨ n = 6 ∨ n = 0x24 ∨ n = 0x28 then some 1
  else if n = 2 ∨ n = 8 ∨ n = 0x26 ∨ srSegment n then some 2
  else none

/-- Registers that WRSR may write. -/
def srWritable (n : Nat) : Bool := n == 0 || n == 1 || n == 3 || n == 0x24 || n == 0x28

/-- The value of a segment register (Tables 01.6, 10.1). -/
def segReg (t : Team) (g : Group) (n : Nat) : Nat :=
  match n with
  | 0x10 => t.sgBase | 0x12 => t.sgLimit | 0x14 => t.ssBase | 0x16 => t.ssLimit
  | 0x18 => t.scBase | 0x1A => t.scLimit | 0x1C => t.sdBase | 0x1E => t.sdLimit
  | 0x20 => g.slBase | _ => g.slLimit

/-- The value of a special register in a lane (R139). -/
def srValue (x : Ix) (n lane : Nat) : Nat :=
  match n with
  | 0 => x.g.fx.toNat
  | 1 => (x.g.seed lane).toNat
  | 2 => x.sp.mr.toNat
  | 3 => x.g.tpc.toNat
  | 4 => x.g.tam.toNat
  | 5 => x.g.tfm.toNat
  | 6 => x.g.tca.toNat
  | 8 => x.g.tva.toNat
  | _ => if srEngine n then engineReg x.t n else segReg x.t x.g n

/-- The words of W in a special register's word. -/
def srRun (wide : Bool) : Nat := if wide then 2 else 1

/-- RDSR (R139); of engine state it is long-latency (R260). -/
def execRdsr (wide : Bool) (d : LaneOp) (sr : BitVec 7) (s : State) : Host.Outcome State Fault Refusal :=
  let n := sr.toNat
  let w := srRun wide
  issue { sysNeeds with dsts := [(d, w)], bad := fun _ => illegalIf (srWords n != some w) } (fun x =>
    if srEngine n then
      let ps := (runRegs (d, w)).zip (List.range w) |>.map (fun r =>
        ({ load := x.s.uid, reg := r.1, vals := (lanesOf x.am).map (fun i => (i, .engine n r.2)), whole := true } : Pend))
      .ok (x.s.fresh.setGroup { x.g with pends := x.g.pends ++ ps }, .step)
    else
      let g1 := (lanesOf x.am).foldl (fun g i => writeRun g d w i (srValue x n i)) x.g
      .ok (x.s.setGroup (enterHist g1 x.e x.am (srValue x n)), .step)) s

/-- The group and team after a write of a special register by AM (R27, R28, R140, R260). -/
def writeSr (x : Ix) (n : Nat) (a : LaneOp) : State :=
  let v := readWord x 0 a x.low 0
  match n with
  | 0 => x.s.setGroup { x.g with fx := v &&& 0x1F }
  | 1 => x.s.setGroup { x.g with seeds := (lanesOf x.am).foldl (fun l i =>
      setAt l i (if readWord x 0 a i 0 = 0 then 1 else readWord x 0 a i 0)) x.g.seeds }
  | 3 => x.s.setGroup { x.g with tpc := v &&& 0xFFFFFFFC }
  | 0x24 => x.s.setTeam { x.t with ces := v &&& 0x1FF, cesErr := false, cea := 0 }
  | _ => x.s.setTeam { x.t with mcb := x.t.mcb &&& ~~~v }

/-- WRSR (R25, R26, R140). -/
def execWrsr (wide : Bool) (sr : BitVec 7) (a : LaneOp) (s : State) : Host.Outcome State Fault Refusal :=
  let n := sr.toNat
  issue { sysNeeds with
      priv := srSegment n, srcs := [(a, srRun wide)], lanes := fun x => if n = 1 then x.am else laneBit x.low
      bad := fun _ => illegalIf (srWords n != some (srRun wide) || !srWritable n) }
    (fun x => .ok (writeSr x n a, .step)) s

/-- The limits of Table 10.3 on a segment's base and limit; n names either register. -/
def segFits (n base limit : Nat) : Bool :=
  if n = 0x10 ∨ n = 0x12 then base % 128 == 0 && limit % 4 == 0 && decide (base + limit ≤ 2 ^ 56)
  else if n = 0x20 ∨ n = 0x22 then
    base % 128 == 0 && limit % 4 == 0 && decide (limit ≤ 65536) && decide (base + 32 * limit ≤ 2 ^ 56)
  else if n = 0x14 ∨ n = 0x16 then base % 4096 == 0 && limit % 4 == 0 && decide (base + limit ≤ 524288)
  else if n = 0x18 ∨ n = 0x1A then base % 524288 == 0 && limit % 4 == 0 && decide (base + limit ≤ 0x400000)
  else base % 65536 == 0 && limit % 4 == 0 && decide (base + limit ≤ 2 ^ 26)

/-- A number names the limit of its segment. -/
def segIsLimit (n : Nat) : Bool := n / 2 % 2 == 1

/-- The check of a SEGLD value with the segment's other register as it stands (R211). -/
def segldFits (x : Ix) (n v : Nat) : Bool :=
  if segIsLimit n then segFits n (segReg x.t x.g (n - 2)) v else segFits n v (segReg x.t x.g (n + 2))

/-- The state after a segment register is written (R141). -/
def writeSeg (x : Ix) (n v : Nat) : State :=
  match n with
  | 0x10 => x.s.setTeam { x.t with sgBase := v }
  | 0x12 => x.s.setTeam { x.t with sgLimit := v }
  | 0x14 => x.s.setTeam { x.t with ssBase := v }
  | 0x16 => x.s.setTeam { x.t with ssLimit := v }
  | 0x18 => x.s.setTeam { x.t with scBase := v }
  | 0x1A => x.s.setTeam { x.t with scLimit := v }
  | 0x1C => x.s.setTeam { x.t with sdBase := v }
  | 0x1E => x.s.setTeam { x.t with sdLimit := v }
  | 0x20 => x.s.setGroup { x.g with slBase := v }
  | _ => x.s.setGroup { x.g with slLimit := v }

/-- SEGLD (R141, R211). -/
def execSegld (sr : BitVec 7) (a : LaneOp) (s : State) : Host.Outcome State Fault Refusal :=
  let n := sr.toNat
  issue { sysNeeds with
      priv := true, srcs := [(a, 2)], lanes := fun x => laneBit x.low
      bad := fun x => illegalIf (!srSegment n || !segldFits x n (readRun x 0 a 2 x.low)) }
    (fun x => .ok (writeSeg x n (readRun x 0 a 2 x.low), .step)) s

/-- ICINV (R142, R219): the instruction cache is emptied, and fills from memory and the L1 as a load of the core now sees them, until the
next ICINV (R77, R152). -/
def execIcinv (s : State) : Host.Outcome State Fault Refusal :=
  issue sysNeeds (fun x => .ok (refreshIc x.s x.core, .step)) s

/-! ### Returning from a trap (R365) -/

/-- The SYS instructions of a handler trap ILLEGAL_OPERAND outside one. -/
def handlerNeeds : Needs := { sysNeeds with bad := fun x => illegalIf !x.g.inHandler }

/-- The split parked at its own PC until its in-flight set is empty. -/
def parkHere (x : Ix) : Group := x.g.setSplit x.e { x.sp with st := .sparked }

/-- TRET (R365, R366): its split parks until its in-flight set is empty, and is then passed over until those of the handler's other splits
are. -/
def execTret (s : State) : Host.Outcome State Fault Refusal :=
  issueG handlerNeeds (fun x =>
    if x.g.inFlight x.sp.lanes then (parkHere x, .again)
    else if !x.g.quiet then (x.g, .again)
    else match x.g.saved with
      | some b => (restoreSaved x.s.clock x.g b x.g.tpc, .gone)
      | none => (x.g, .stay)) s

/-- TFAIL (R365, R367). The loads of the handler that are in flight return to the stopped group. -/
def execTfail (s : State) : Host.Outcome State Fault Refusal :=
  issue handlerNeeds (fun x => .ok (stopGroup x.s x.g.uid false true, .gone)) s

/-! ### Range invalidation (R405 to R408) -/

/-- The agents that reach an invalidation point: 160 cores, and each die's Louver and bank-run checker. -/
def invalAgents : List Nat := List.range 162

/-- The range of R408. -/
def invalRange (start len : Nat) : Nat × Nat := (start / 2 ^ 16 * 2 ^ 16, (start + len + 2 ^ 16 - 1) / 2 ^ 16 * 2 ^ 16)

/-- A range invalidation begun after its release (R405 step 1). -/
def beginInval (s : State) (uid : Nat) (ctx : Option Nat) (lo hi : Nat) (host : Option Nat) : State :=
  { s with invals := s.invals ++ [⟨uid, ctx, lo, hi, invalAgents, [], host⟩] }

/-- A TLBINV form: the release at SYSTEM scope, then the park until the invalidation completes (R405, R407). -/
def splitInval (x : Ix) (ctx : Option Nat) (lo hi : Nat) : State × Next :=
  released x (some 6) true (fun x => (parkOn x (beginInval x.s.fresh x.s.uid ctx lo hi none) (.inval x.s.uid), .park))

/-- TLBINV (R408). -/
def execTlbinv (d a : LaneOp) (s : State) : Host.Outcome State Fault Refusal :=
  issue { sysNeeds with
      priv := true, srcs := [(a, 2), (d, 2)], lanes := fun x => laneBit x.low
      bad := fun x => illegalIf (decide (2 ^ 56 < readRun x 0 a 2 x.low + readRun x 1 d 2 x.low)) }
    (fun x =>
      let n := readRun x 1 d 2 x.low
      let q := invalRange (readRun x 0 a 2 x.low) n
      .ok (splitInval x (some x.t.ctx) q.1 (if n = 0 then q.1 else q.2))) s

/-- TLBINV.ALL (R408). -/
def execTlbinvAll (s : State) : Host.Outcome State Fault Refusal :=
  issue { sysNeeds with priv := true } (fun x => .ok (splitInval x none 0 (2 ^ 56))) s

/-! ### Ownership tokens (R426 to R428) -/

/-- The needs of OWNACQ and OWNREL: the pair A in the lowest lane of AM. -/
def ownNeeds (a : LaneOp) : Needs := { sysNeeds with srcs := [(a, 2)], lanes := fun x => laneBit x.low }

/-- OWNACQ (R426, R427): its split parks until the token is held, as one of OWNREL does until it is given back. -/
def execOwnacq (a : LaneOp) (s : State) : Host.Outcome State Fault Refusal :=
  issue (ownNeeds a) (fun x =>
    let va := readRun x 0 a 2 x.low
    let wait (s : State) (r : Nat) : Except Trap (State × Next) := .ok (parkOn x s.fresh (.own r va), .park)
    match ownCheck x va with
    | .error c => .error (laneTrap c x.am va)
    | .ok r =>
      match tokenOf x.s r with
      | some (n, t) =>
        if t.st = .held then
          if t.count = 65535 then .error (amTrap x cILLEGAL_OPERAND) else .ok (takeToken x.s n x.core x.t.ctx, .park)
        else if t.st = .pending then wait x.s r
        else .ok (x.s, .again)
      | none =>
        match freeToken? x.s with
        | none => .error (amTrap x cILLEGAL_OPERAND)
        | some n => wait ((setToken x.s n { region := r, st := .pending }).send (.tokenRequest r)) r) s

/-- OWNREL (R428). -/
def execOwnrel (a : LaneOp) (s : State) : Host.Outcome State Fault Refusal :=
  issue (ownNeeds a) (fun x =>
    let va := readRun x 0 a 2 x.low
    match ownCheck x va with
    | .error c => .error (laneTrap c x.am va)
    | .ok r => .ok (released x (some 5) true (fun x =>
      match tokenOf x.s r with
      | some (n, t) =>
        if t.st = .held then
          if t.count ≤ 1 then
            (yieldToken (parkOn x x.s.fresh (.ownRel r)) n .returning, .park)
          else (setToken x.s n { t with count := t.count - 1, ctxs := t.ctxs.erase x.t.ctx }, .park)
        else (x.s, .park)
      | none => (x.s, .park)))) s

end Sys2Proof.Machine
end

