-- ==== Sys2Proof/Machine/Groups.lean ====
section
/-! DEFINITION. What happens to a group between its instructions: the fetch (R130, R219), the return of long-latency results (R30, R32,
R372), joins and serial turns (R159, R169), the entry of a trap and the records that wait for the ring (R362, R370); and what the
caches and TLBs do at any time: write-backs and drains (R236, R324), invalidations (R404 to R406). -/

namespace Sys2Proof.Machine

open Sys2Proof

/-! ### Fetch (R64, R130, R152, R219, R373) -/

/-- The virtual address of the word at a PC of a team (R64, R130). An address at or past 2^56 wraps: a virtual address has 56 bits and the
spec gives such a fetch no fate (DESIGN CHOICE, log 63). -/
def fetchVa (s : State) (t : Team) (pc : Word) : Nat := ((s.lrOf t).code + pc.toNat) % 2 ^ 56

/-- The core's own dirty bytes of a line among what a team's fetch fills from. A load of any page sees them: one that bypasses the L1 has them
written back first (R236, R399). -/
def codeL1 (t : Team) (line : Nat) : Option L1Line := t.icL1.find? (fun l => l.line == line)

/-- A line of code as it stood at the team's placement or the core's last ICINV: the stores that an acquire of the core ordered before it, and the
core's own (R142, R219). -/
def codeLine (t : Team) (line : Nat) : List Byte :=
  let home (i : Nat) : Byte := mget blankByte t.icMem (line * 128 + i)
  match codeL1 t line with
  | some l => (List.range 128).map (fun i => if l.valid.getLsbD i then l.data.getD i 0 else home i)
  | none => (List.range 128).map home

/-- Whether a word of a code line meets an uncorrectable error (R373). -/
def badCode (s : State) (t : Team) (pa len : Nat) : Bool :=
  badMem s pa len || ((codeL1 t (pa / 128)).isSome && badL1 s t.core pa len)

/-- The fill of a code line goes to the home: the core's own bytes do not make up all of it. -/
def codeHome (t : Team) (line : Nat) : Bool := !(codeL1 t line).any (fun l => l.valid == BitVec.allOnes 128)

/-- What a fetch gives: the word; the cause and address of a trap; the address of a row whose channel a bank run holds (R342); the line of the host's
memory that is asked for (R448); or the address whose walk awaits an entry (R395). -/
inductive Fetched where
  | got (s : State) (w : Word)
  | trap (cause va : Nat)
  | held (pa : Nat)
  | ask (pa va : Nat)
  | walks (va : Nat)

/-- A word of the registers of BAR0 as a team's fetch fills from them. -/
def regWord (s : State) (t : Team) (pa : Nat) : Word :=
  let v := t.icRegs
  BitVec.ofNat 32 (ofBytes (bar0Bytes { s with dev := v.dev, dtime := v.dtime, lintel := v.lintel, ctxs := v.ctxs } (pa - 0xC0 * 2 ^ 32) 4))

/-- The word at a physical address: the instruction cache's, or a fill, which is cached when no word of it is in error; a line of the host's
memory is asked of the host (R220, R399, R448). -/
def fetchPa (s : State) (t : Team) (va : Nat) (y : Xl) : Fetched :=
  let line := y.pa / 128
  let word (l : List Byte) : Word := BitVec.ofNat 32 (fieldAt l (y.pa % 128) 4)
  match (s.core t.core).ic.find? (fun l => l.team == t.uid && l.line == line) with
  | some l => .got s (word l.data)
  | none =>
    if regionOf y.pa = .host then .ask (128 * line) va
    else if !isMem y.pa then .got s (regWord s t y.pa)
    else match (if regionOf y.pa == .tier1 && codeHome t line then serveRow s y.pa else some s) with
      | none => .held y.pa
      | some s1 =>
        if badCode s1 t y.pa 4 then .trap cMEMORY_UNCORRECTABLE va
        else
          let b := codeLine t line
          let c := s1.core t.core
          .got (if badCode s1 t (line * 128) 128 then s1 else s1.setCore t.core { c with ic := ⟨t.uid, line, b⟩ :: c.ic }) (word b)

/-- The word at a PC of a firmware program: byte PC of the payload, which follows the image's first 3,073 bytes at the top of the die's scratch,
as that stood at its start or the last ICINV of its core (R77, R152, R450, R451). The spec gives no map of the payload's code and no end of it: an
offset past the scratch wraps (DESIGN CHOICE, log 10). -/
def fetchFirmware (s : State) (t : Team) (pc : Word) : Fetched :=
  let at_ (i : Nat) : Nat := (2 ^ 26 - roundUp s.dev.fwLen 65536 + 3073 + pc.toNat + i) % 2 ^ 26
  let die := dieOf t.core
  if (List.range 4).any (fun i => badDscr s die (at_ i) 1) then .trap cMEMORY_UNCORRECTABLE pc.toNat
  else .got s (BitVec.ofNat 32 (ofBytes ((List.range 4).map (fun i => mget blankByte t.icMem (dscrKey die (at_ i))))))

/-- The fetch of a split's next word (R130, R373, R400, R450). -/
def fetchWord (s : State) (g : Group) (t : Team) (pc : Word) : Fetched :=
  let va := fetchVa s t pc
  if s.firmware t then fetchFirmware s t pc
  else match xlate s { ctx := t.ctx, priv := g.priv, core := some t.core } .fetch va with
  | .error c => if c = cAWAITED then .walks va else .trap c va
  | .ok y => fetchPa (tlbFill s t.core t.ctx va y) t va y

/-- The failure of a split's read of code from the host: the cause and the address (R373, R423, R448). -/
def codeFail (sp : Split) : Option (Nat × Nat) :=
  if sp.word.isSome || askWaits sp then none else (sp.ask.bind (fun a => a.fail)).map (fun f => (f.1, f.2.2))

/-- INSTRUCTION_FETCH_FAULT: the split traps at the instruction being fetched (R130, R373). -/
def execInstructionFetchFault (s : State) : Host.Outcome State Fault Refusal :=
  match ixOf s with
  | none => .fault .noIssuer
  | some x =>
    let trap (c va : Nat) : Host.Outcome State Fault Refusal := .next (takeTrap (failWalk s x.core) x.g x.e { cause := c, tfm := x.am, tva := va, fetch := true })
    match codeFail x.sp with
    | some f => trap f.1 f.2
    | none => match fetchWord s x.g x.t x.sp.pc with
      | .trap c va => trap c va
      | _ => .next s

/-- ILLEGAL_ENCODING: a word that no encoding assigns traps at check 1 (R74, R76). -/
def execIllegalEncoding (s : State) : Host.Outcome State Fault Refusal :=
  issue sysNeeds (fun x => .error (amTrap x cILLEGAL_ENCODING)) s

/-! ### LOAD_RETURN (R30 to R34, R155, R372) -/

/-- The failure that a returned word leaves (R372, Table 20.3). -/
def failureOf (reg lane : Nat) : PVal → Option FailedReg
  | .bad va pa => some { reg := reg, lane := lane, va := va, pa := pa }
  | .refused va => some { reg := reg, lane := lane, va := va, token := true }
  | _ => none

/-- A word of a lane returned: written, or its register failed; the destination `z` takes neither. Where a later write stands, the choice
of R32 decides. -/
def returnLane (s : State) (p : Pend) (g : Group) (x : Nat × PVal) : Group :=
  let keep := p.reg == zReg || (p.dirty.getLsbD x.1 && Config.freePick s.draws (2 ^ 80 + 112 * x.1 + p.reg) % 2 == 1)
  match x.2 with
  | .known w => if keep then g else writeReg g x.1 p.reg w
  | v => match failureOf p.reg x.1 v with
    | some f => if keep then g else { g with failed := f :: g.failed.filter (fun h => !(h.reg == f.reg && h.lane == f.lane)) }
    | none => g

/-- The failures that the return of some lanes leaves unread: those it clears, and its own where nothing consumes them (R371, R372). -/
def lostFailures (p : Pend) (now : List (Nat × PVal)) (old new : Group) : List FailedReg :=
  old.failed.filter (fun f => f.reg == p.reg && !f.read && (now.any (fun v => v.1 == f.lane)) && !new.failed.contains f)
    ++ now.filterMap (fun v => match failureOf p.reg v.1 v.2 with
      | some f => if new.failed.contains f then none else some f
      | none => none)

/-- The arrived lanes of a register returned in a group; the rest stay in flight (R155). An acquire follows the last (R239). -/
def returnPend (s : State) (g : Group) (t : Team) (p : Pend) : State :=
  let now := p.vals.filter (fun v => arrived v.2)
  let rest := p.vals.filter (fun v => !arrived v.2)
  let g0 : Group := { g with pends := if rest.isEmpty then g.pends.filter (fun q => !(q.load == p.load && q.reg == p.reg))
                                      else g.pends.map (fun q => if q.load = p.load ∧ q.reg = p.reg then { q with vals := rest } else q) }
  let g1 := now.foldl (returnLane s p) g0
  let s1 := s.setGroup (unpark s.clock g1)
  let s2 := (lostFailures p now g0 g1).foldl (fun s f => postAsync s (dieOf t.core) t.ctx 0x22 t.lch f.va f.pa (some t.core) (some g.uid)) s1
  let s3 := if p.strong && rest.isEmpty then s2.modGroup g.uid Group.acquired else s2
  if p.acq && rest.isEmpty then acquireCore s3 t.core else s3

/-- The group and entry of the in-flight set that await a register of a load. -/
def pendOf (s : State) (load reg : Nat) : Option (Group × Pend) :=
  s.groups.findSome? (fun g => (g.pends.find? (fun p => p.load == load && p.reg == reg)).map (fun p => (g, p)))

/-- LOAD_RETURN of a register of a load: its words are performed where nothing holds them (R226, R260, R342), and the lanes whose words have
arrived are returned. -/
def loadReturn (s : State) (load reg : Nat) : State :=
  match pendOf s load reg with
  | none => s
  | some x =>
    let s1 := (x.2.vals.map (fun v => v.1)).foldl (fun s lane => performTurn s load reg lane) s
    match pendOf s1 load reg with
    | none => s1
    | some (g, p) =>
      match s1.team? g.team with
      | none => s1
      | some t => serveHomes (if p.vals.any (fun v => arrived v.2) || p.vals.isEmpty then returnPend s1 g t p else s1)

/-- LOAD_RETURN (R30); its subject is the load and the register. -/
def execLoadReturn (s : State) : Host.Outcome State Fault Refusal := onPair loadReturn s

/-! ### Joins and serial turns (R159, R160, R169, R170) -/

/-- An entry of a group that is about to issue. -/
def aboutToIssue (s : State) (u e : Nat) : Option Group :=
  match s.group? u with
  | some g => if g.canIssue && decide (e < 4) && (g.split e).st == .ready && (s.team? g.team).any (fun t => t.placed) then some g else none
  | none => none

/-- SPLIT_JOIN of an entry at its frame's join PC. -/
def splitJoin (s : State) (u e : Nat) : State :=
  match aboutToIssue s u e with
  | some g => if atJoin g (g.split e) && !(g.split e).ser then s.setGroup (mergeSame (joinSplit s.clock g e)) else s
  | none => s

/-- SPLIT_JOIN (R159); its subject is the group and the entry. -/
def execSplitJoin (s : State) : Host.Outcome State Fault Refusal := onPair splitJoin s

/-- SERIAL_TURN_END of an entry at its end point E. -/
def serialTurnEnd (s : State) (u e : Nat) : State :=
  match aboutToIssue s u e with
  | some g => if atJoin g (g.split e) && (g.split e).ser then s.setGroup (mergeSame (endTurn s.clock g e)) else s
  | none => s

/-- SERIAL_TURN_END (R169); its subject is the group and the entry. -/
def execSerialTurnEnd (s : State) : Host.Outcome State Fault Refusal := onPair serialTurnEnd s

/-! ### Traps that wait, records that wait (R362, R370) -/

/-- TRAP_ENTRY of a group whose loads and atomics have returned or failed. -/
def trapEntry (s : State) (u : Nat) : State :=
  match s.group? u with
  | some g => if g.raised.isSome && g.quiet then enterTrap s u else s
  | none => s

/-- TRAP_ENTRY (R362); its subject is the group. -/
def execTrapEntry (s : State) : Host.Outcome State Fault Refusal := onNum trapEntry s

/-- TRAP_RECORD_DEFERRED_WRITE (R369, R370); its subject is a group with a synchronous record that waits, or a context and the
die that has posted or holds asynchronous ones. -/
def execTrapRecordDeferredWrite (s : State) : Host.Outcome State Fault Refusal :=
  match s.subject with
  | .num u => .next (bump (flushRecords s u))
  | .pair c d => .next (bump (flushPosts s c d))
  | _ => .fault .noSubject

/-! ### Caches (R236, R324) -/

/-- WRITE_BACK of a line of a core: a dirty line is written back and kept clean, once no bank run holds its channel (R342); a clean one is
given up. -/
def writeBack (s : State) (core line : Nat) : State :=
  match l1Line? s core line with
  | some l =>
    if l.dirty = 0 then l1Drop s core line
    else match (if regionOf (128 * line) == .tier1 then serveRow s (128 * line) else some s) with
      | some s1 => serveHomes (afterBack (cleanLine s1 core l))
      | none => s
  | none => s

/-- WRITE_BACK (R324); its subject is the core and the line. -/
def execWriteBack (s : State) : Host.Outcome State Fault Refusal := onPair writeBack s

/-- DRAIN_REQUEST of a home line to a recorded core: it drains to the recorded epoch, and its record is removed once it has. -/
def drainRequest (s : State) (line core : Nat) : State :=
  (s.homeRecs.filter (fun r => r.line == line && r.core == core)).foldl drainRec s

/-- DRAIN_REQUEST (R236); its subject is the home line and the core. -/
def execDrainRequest (s : State) : Host.Outcome State Fault Refusal := onPair drainRequest s

/-! ### Range invalidation (R405, R406) -/

/-- An invalidation in progress. -/
def inval? (s : State) (u : Nat) : Option Inval := s.invals.find? (fun i => i.uid == u)

/-- An invalidation replaced. -/
def setInval (s : State) (i : Inval) : State := { s with invals := s.invals.map (fun x => if x.uid = i.uid then i else x) }

/-- An invalidation concerns a context. -/
def Inval.concerns (i : Inval) (ctx : Nat) : Bool :=
  match i.ctx with
  | some c => ctx == c
  | none => true

/-- A range of virtual addresses of a context shares a byte with an invalidation's; nothing shares one with an empty range (R408). -/
def Inval.meets (i : Inval) (ctx va len : Nat) : Bool :=
  decide (i.lo < i.hi) && i.concerns ctx && decide (va < i.hi) && decide (i.lo < va + len)

/-- Some key of a range hits a filter (R404, R405): of its 2 MiB regions and of its 4 GiB regions. -/
def keysHit (f : BitVec 1024) (lo hi : Nat) : Bool :=
  decide (lo < hi) && f != 0
    && ((List.range ((hi - 1) / 2 ^ 21 + 1 - lo / 2 ^ 21)).any (fun k => filterHit f (lo / 2 ^ 21 + k))
      || (List.range ((hi - 1) / 2 ^ 32 + 1 - lo / 2 ^ 32)).any (fun k => filterHit f ((lo / 2 ^ 32 + k) * 2 ^ 11 + 0x7FF)))

/-- A core has something to do for an invalidation: some key hits its filter, or every context and address are named (R405, R408). -/
def Inval.acts (i : Inval) (c : CoreSt) : Bool := i.ctx.isNone || keysHit c.filter i.lo i.hi

/-- The last acknowledgement completes an invalidation: its split, or its host command, goes on. -/
def invalDone (s : State) (i : Inval) : State :=
  let s1 : State := { s with invals := s.invals.filter (fun x => x.uid != i.uid) }
  match i.host with
  | some c => hostDone s1 c 1
  | none => endParks s1 (fun v => v == .inval i.uid)

/-- An invalidation as it stands after a point or an acknowledgement. -/
def invalNext (s : State) (i : Inval) : State := if i.toPoint.isEmpty && i.toAck.isEmpty then invalDone s i else setInval s i

/-- The entries of an agent that translate a byte of an invalidation's range removed, with the table entries that lead to one (R405). -/
def dropEntries (i : Inval) (c : CoreSt) : CoreSt :=
  { c with tlb := c.tlb.filter (fun e => !i.meets e.ctx e.va e.size)
           tbls := c.tbls.filter (fun e => !i.meets e.ctx e.va (entrySpan e.lvl)) }

/-- The walks of an agent in progress discarded (R405 step 2): what they read is used no more. -/
def dropWalks (s : State) (i : Inval) (agent : Nat) : State :=
  let mine (a ctx lvl va : Nat) : Bool := a == agent && i.meets ctx va (entrySpan lvl)
  { s with
    remotes := s.remotes.map (fun (r : Remote) => match r.walk with
      | some w => if mine r.core w.ctx w.lvl w.va then { r with walk := none } else r
      | none => r)
    rowWaits := s.rowWaits.filter (fun w => match w.want with
      | .entry a ctx lvl va => !mine a ctx lvl va
      | _ => true) }

/-- The entries of an agent, and its walks in progress, that an invalidation concerns removed. -/
def dropAgent (s : State) (i : Inval) (agent : Nat) : State := dropWalks (s.setCore agent (dropEntries i (s.core agent))) i agent

/-- INVALIDATION_POINT of an agent: it removes its entries; a core whose filter every key misses acknowledges at once (R405). The front end, which
holds no TLB, discards its walks with the engines of die 0. -/
def invalPoint (s : State) (u agent : Nat) : State :=
  match inval? s u with
  | none => s
  | some i =>
    if !i.toPoint.contains agent then s
    else
      let c := s.core agent
      let i1 : Inval := { i with toPoint := i.toPoint.filter (fun a => a != agent) }
      let s1 := dropAgent s i agent
      invalNext (if agent = 160 then dropAgent s1 i frontEnd else s1)
        (if decide (agent < 160) && !i.acts c then i1 else { i1 with toAck := (agent, s.uid) :: i1.toAck })

/-- INVALIDATION_POINT (R405 steps 2 to 4); its subject is the invalidation and the agent. -/
def execInvalidationPoint (s : State) : Host.Outcome State Fault Refusal := onPair invalPoint s

/-- A command translates by an agent's TLB: copies by their core's, the others by those of their die's engines. -/
def translatesBy (agent core : Nat) (m : Cmd) : Bool :=
  match m.kind with
  | .cpy _ _ | .cpym => core == agent
  | _ => 160 + dieOf core == agent

/-- No command holds a translation of a byte of an invalidation's range that it made by an agent (R405). -/
def cmdsDone (s : State) (i : Inval) (agent : Nat) : Bool :=
  s.cores.all (fun c => c.2.cmds.all (fun m => !translatesBy agent c.1 m || m.maps.all (fun p => !i.meets (cmdCtx s m) p.1 p.2.1)))

/-- The instructions of a core's splits that issue nothing withdrawn from the homes that hold them: nothing of them is performed, and they translate
anew when their splits issue again (R405, R406, DESIGN CHOICE, log 18). -/
def withdrawIdle (s : State) (core : Nat) : State :=
  (s.groups.filter (fun g => (s.team? g.team).any (fun t => t.placed && t.core == core) && g.idle.any Split.keeps)).foldl (fun s g =>
    (withdrawAsks s core g.uid (g.idle.filter (fun sp => !askWaits sp))).modGroup g.uid (fun g =>
      { g with splits := if g.canIssue then g.splits else g.splits.map Split.restart
               saved := g.saved.map (fun b => { b with splits := b.splits.map Split.restart }) })) s

/-- Every access of groups that a core translated before an identifier has been performed: loads, atomics and stores, mirror records. -/
def performedBefore (s : State) (core u : Nat) : Bool :=
  s.groups.all (fun g => (s.team? g.team).all (fun t => t.core != core || !t.placed
      || (g.pends.all (fun p => p.parks || decide (u ≤ p.load)) && !(g.canIssue && g.splits.any Split.keeps))))
    && s.remotes.all (fun r => r.core != core || r.cmd.isSome || r.walk.isSome || decide (u ≤ r.uid))
    && (s.lintel.q0 ++ s.lintel.q1 ++ s.lintel.sent).all (fun r => r.core != core || decide (u ≤ r.uid))

/-- A core that has invalidated every entry, and performed and drained all, clears its filter (R404, R408). -/
def clearFilter (s : State) (i : Inval) (agent : Nat) : State :=
  if i.ctx.isNone then s.setCore agent { s.core agent with tlb := [], tbls := [], filter := 0 } else s

/-- The accesses that the front end translated before an identifier have been performed (R406). -/
def frontDone (s : State) (u : Nat) : Bool := s.remotes.all (fun r => r.core != frontEnd || r.walk.isSome || decide (u ≤ r.uid))

/-- INVALIDATION_ACK of an agent that has reached its point: what it translated before has been performed, by the front end too for the engines of die
0, and a core's dirty lines have
been drained to their homes, those of peers too, once the channels have served them (R342, R405, R406). A core that gives up every entry waits for
all that it has translated until then, so that its filter may be cleared (R404, R408). -/
def invalAck (s : State) (u agent : Nat) : State :=
  match inval? s u with
  | none => s
  | some i =>
    match i.toAck.find? (fun a => a.1 == agent) with
    | none => s
    | some a =>
      let i1 : Inval := { i with toAck := i.toAck.filter (fun x => x.1 != agent) }
      if !cmdsDone s i agent then s
      else if 160 ≤ agent then (if agent = 160 && !frontDone s a.2 then s else invalNext s i1)
      else
        let s0 := withdrawIdle s agent
        if !performedBefore s0 agent (if i.ctx.isNone then s0.uid else a.2) then s0
        else
          let s1 := drainWait s0 agent (fun _ => true)
          if dirtyLeft s1 agent (fun _ => true) || s1.remotes.any (fun r => r.core == agent && r.wb) then s1 else invalNext (clearFilter s1 i agent) i1

/-- INVALIDATION_ACK (R405 steps 3 to 5); its subject is the invalidation and the agent. -/
def execInvalidationAck (s : State) : Host.Outcome State Fault Refusal := onPair invalAck s

end Sys2Proof.Machine
end

