-- ==== Sys2Proof/Machine/Fabric.lean ====
section
/-! DEFINITION. The UALink fabric (20 R418 to R425) and the events of the ownership tokens (R427 to R429): the requests that peers make
of this part, the responses to its own, and the messages between a home and a holder. -/

namespace Sys2Proof.Machine

open Sys2Proof

/-! ### Incoming requests (R418, R422, R425) -/

/-- A request has a shape that Table 20.2 serves: a read of 64 or 128 bytes, a write within one line, an atomic of Table 03.7. -/
def servedShape (r : PeerReq) : Bool :=
  match r.kind with
  | .read => (r.len == 64 || r.len == 128) && r.addr % r.len == 0
  | .write => decide (1 ≤ r.len) && decide (r.addr % 128 + r.len ≤ 128) && r.data.length == r.len && r.mask.length == r.len
  | .atomic op ty => decide (op ≤ 9) && atomOk op ty && r.len == atomBytes ty && r.addr % r.len == 0
  | .perform _ | .withdraw _ => false

/-- The whole of a request lies in the tiers of this part. -/
def servedTarget (r : PeerReq) : Bool := isMem r.addr && isMem (r.addr + r.len - 1)

/-- The token check that a home makes of a remote accessor (Table 20.3). -/
def tokenRefuses (s : State) (peer pa : Nat) : Bool :=
  match (s.homeTok (pa / 2 ^ 21)).holder with
  | some d => d != peer
  | none => false

/-- The bytes of a write that its byte enables name, word by word. -/
def writeMasked (s : State) (pa : Nat) (data : List Byte) (mask : List Bool) : State :=
  let bs := ((List.range data.length).zip (data.zip mask)).filterMap (fun x => if x.2.2 then some (pa + x.1, x.2.1) else none)
  (wordParts bs).foldl (fun s w => s.setHome w.1 w.2) s

/-- A request performed at its home, past the L1 (R236, R419, R422). -/
def serveRequest (s : State) (r : PeerReq) : State :=
  match r.kind with
  | .write => (writeMasked s r.addr r.data r.mask).send (.reply r.peer (.ok []))
  | .read => s.send (.reply r.peer (if badMem s r.addr r.len then .error else .ok (s.homeBytes r.addr r.len)))
  | .atomic op ty =>
    if badMem s r.addr r.len then s.send (.reply r.peer .error)
    else
      let m := ofBytes (s.homeBytes r.addr r.len)
      let v := atomNew op ty m (fieldAt r.data 0 r.len) (fieldAt r.data r.len r.len)
      (s.setHome r.addr (bytesOf r.len v)).send (.reply r.peer (.ok (bytesOf r.len m)))
  | .perform _ | .withdraw _ => s

/-- Lines that an agent without an L1 reaches at their home: the cores recorded there have drained, or the state in which the access waits for their
write-backs (R236, R342). -/
def linesDrained (s : State) (lines : List Nat) : Except State State :=
  let s1 := lines.foldl (fun s l => reachWait s frontEnd l) s
  if lines.any (reachLeft s1 frontEnd) then .error s1 else .ok s1

/-- A request that waits is one of a peer. -/
def Later.ofPeer (peer : Nat) : Later → Bool
  | .peer r => r.peer == peer
  | .bar2 _ _ => false

/-- A request of a peer performed once the cores recorded at its home line have drained; it waits behind an earlier one of that peer (R236, R342). -/
def peerServe (s : State) (r : PeerReq) : State :=
  if s.laters.any (Later.ofPeer r.peer) then { s with laters := s.laters ++ [.peer r] }
  else match linesDrained s [r.addr / 128] with
    | .ok s1 => serveRequest s1 r
    | .error s1 => { s1 with laters := s1.laters ++ [.peer r] }

/-- A peer tells the part of a request that the part holds for it: it is performed and answered, or withdrawn; then the token of its region may be
granted (Table 20.3, log 18). -/
def toldHeld (s : State) (peer id : Nat) (keep : Bool) : State :=
  let mine (q : PeerReq) : Bool := q.peer == peer && q.hold == some id
  match s.heldReqs.find? mine with
  | none => if keep then s.send (.reply peer .error) else s
  | some q =>
    let s1 : State := { s with heldReqs := s.heldReqs.filter (fun x => !mine x) }
    homeServe (if keep then peerServe s1 q else s1) (q.addr / 2 ^ 21)

/-- UALINK_REQUEST: refused with an error outside what Table 20.2 serves or in a frame that is not DIE, refused by the token check, or
served; one that is to be held is accepted and kept, but for a reduction whose word is damaged, which fails before anything is performed (R423). -/
def ualinkRequest (s : State) (r : PeerReq) : State :=
  match r.kind with
  | .perform id => toldHeld s r.peer id true
  | .withdraw id => toldHeld s r.peer id false
  | _ =>
    if !(servedShape r && servedTarget r) || frameBusy s r.addr then s.send (.reply r.peer .error)
    else if tokenRefuses s r.peer r.addr then s.send (.reply r.peer .refused)
    else if r.hold.isSome && r.kind != .read then
      if r.kind != .write && badMem s r.addr r.len then s.send (.reply r.peer .error) else { s with heldReqs := s.heldReqs ++ [r] }.send (.reply r.peer (.ok []))
    else peerServe s r

/-- UALINK_REQUEST (R418); its subject is the request. -/
def execUalinkRequest (s : State) : Host.Outcome State Fault Refusal :=
  match s.subject with
  | .request r => .next (bump (ualinkRequest s r))
  | _ => .fault .noSubject

/-! ### Responses (R420 to R423) -/

/-- A congestion mark rotates the port of a peer for a core (R420). -/
def rotate (s : State) (core peer : Nat) : State :=
  let c := s.core core
  let d := 5 * core % 256
  s.setCore core { c with ent := mset d c.ent peer ((mget d c.ent peer + 1) % 256) }

/-- The value a word takes from a response: the response's bytes, with those of the core's own copy in their place. -/
def remoteVal (r : Remote) (resp : RespKind) : PVal → PVal
  | .remote id off size sgn own va =>
    if id ≠ r.uid then .remote id off size sgn own va
    else match resp with
      | .ok data => .known (loadedWord size sgn ((List.range size).map (fun i => (own.getD i none).getD (data.getD (off + i) 0))))
      | .error => .bad va r.addr
      | .refused => .refused va
  | v => v

/-- A fence no longer waits for a request. -/
def afterVal (id : Nat) : PVal → PVal
  | .after l => .after (l.filter (fun r => r != id))
  | v => v

/-- The cause that a failed request gives its instruction (R423, R425). -/
def causeOf : RespKind → Nat
  | .refused => cPEER_TOKEN
  | _ => cMEMORY_UNCORRECTABLE

/-- What a split has asked, once one of its requests is answered (Table 20.3): a home that accepts the line, or the failure. -/
def askSplit (r : Remote) (resp : RespKind) (sp : Split) : Split :=
  match sp.ask with
  | none => sp
  | some a =>
    if !a.reqs.contains r.uid then sp
    else
      let a1 : Ask := { a with reqs := a.reqs.filter (fun q => q != r.uid) }
      let lanes := if r.lanes = 0 then sp.am else r.lanes
      match resp with
      | .ok _ => { sp with ask := some { a1 with
          ok := (match r.ask with
            | some m => (r.addr / 128, m) :: a1.ok
            | none => a1.ok)
          held := if r.hold then (r.uid, r.addr) :: a1.held else a1.held } }
      | e => { sp with ask := some { a1 with fail := joinFail a1.fail (some (causeOf e, lanes, r.va)) } }

/-- The splits that wait for a request, those of saved blocks included, told its answer. -/
def tellSplits (s : State) (r : Remote) (resp : RespKind) : State :=
  { s with groups := s.groups.map (fun (g : Group) =>
    { g with splits := g.splits.map (askSplit r resp), saved := g.saved.map (fun (b : Saved) => { b with splits := b.splits.map (askSplit r resp) }) }) }

/-- A line of a held region filled into the part's own L2: the bytes that it lacks (R424). -/
def takeFill (s : State) (r : Remote) : RespKind → State
  | .ok data =>
    if !(r.fill && holds s (regionKey r.addr)) then s
    else
      let pa := r.addr / 128 * 128
      let lack := (List.range 128).filter (fun i => !l2Has s (pa + i))
      let s1 : State := { s with mem := lack.foldl (fun m i => mset blankByte m (pa + i) (data.getD i 0)) s.mem }
      { s1 with l2 := l2Mark s1.l2 pa 128 false }
  | _ => s

/-- The physical address that a request to a peer or to the host reads. -/
def askedPa (s : State) (r : Remote) : Nat := if r.host then r.addr + 2 ^ 41 - s.dev.hwbase else r.addr

/-- A line of the host's memory that a team's fetch fills from (R219, R448): none where the core's instruction cache has been invalidated since. -/
def takeCode (s : State) (r : Remote) : RespKind → State
  | .ok data => match r.code.bind s.team? with
    | some t =>
      let c := s.core r.core
      if t.placed && t.core == r.core then s.setCore r.core { c with ic := ⟨t.uid, askedPa s r / 128, data⟩ :: c.ic } else s
    | none => s
  | _ => s

/-- A page-table entry that a walk has asked for (R395): its bytes, or that they are lost. -/
def takeWalk (s : State) (r : Remote) (resp : RespKind) : State :=
  match r.walk with
  | none => s
  | some w => tookEntry s r.core (match resp with
    | .ok data => ⟨w.ctx, w.lvl, w.va, BitVec.ofNat 64 (fieldAt data w.off 8), false⟩
    | _ => ⟨w.ctx, w.lvl, w.va, 0, true⟩)

/-- A line that an operation of the front end has asked for (R220, R264): its bytes, or that they are lost. -/
def takeLine (s : State) (r : Remote) (resp : RespKind) : State :=
  match r.op with
  | none => s
  | some op => { s with fetched := s.fetched ++ [⟨op, askedPa s r / 128, match resp with
      | .ok data => some data
      | _ => none⟩] }

/-- The virtual address that a command's pieces give a physical one. -/
def mapVa (maps : List (Nat × Nat × Nat)) (pa : Nat) : Nat :=
  ((maps.find? (fun p => decide (p.2.2 ≤ pa) && decide (pa < p.2.2 + p.2.1))).map (fun p => p.1 + (pa - p.2.2))).getD 0

/-- The answer of the outside as a command keeps it (R423, R430, R448). -/
def cmdAnswer (s : State) (m : Cmd) (r : Remote) (resp : RespKind) : CmdAns :=
  let pa := askedPa s r
  let wr := r.kind != .read
  { wr := wr, key := if wr then regionKey pa else pa / 128, va := if r.va = 0 then mapVa m.maps pa else r.va
    status := match resp with
      | .ok _ => 0
      | .refused => stTOKEN
      | .error => stUE
    data := match resp with
      | .ok d => d
      | _ => [] }

/-- A command told the answer to one of its requests. -/
def tellCmd (s : State) (r : Remote) (resp : RespKind) : State :=
  match r.cmd.bind s.cmd? with
  | none => s
  | some (core, m) => s.setCmd core { m with need := m.need.filter (fun q => q != r.uid), got := m.got ++ [cmdAnswer s m r resp] }

/-- Some register awaits a request. -/
def awaited (s : State) (id : Nat) : Bool :=
  s.groups.any (fun g => g.pends.any (fun p => p.vals.any (fun v => match v.2 with
    | .remote r _ _ _ _ _ => r == id
    | _ => false)))

/-- A split waits for a request. -/
def askedBy (s : State) (id : Nat) : Bool := s.groups.any (fun g => (allSplits g).any (fun sp => sp.ask.any (fun a => a.reqs.contains id)))

/-- Something takes the answer of a request: a split, a command, a walk, an operation of the front end, an event, the fetch or a register. -/
def hasTaker (s : State) (r : Remote) : Bool :=
  r.ask.isSome || r.cmd.isSome || r.walk.isSome || r.op.isSome || r.code.isSome || s.raises.any (fun e => e.fill && e.after.contains r.uid)
    || askedBy s r.uid || awaited s r.uid

/-- What a failed request leaves that no instruction or command takes: the record of a write-back (R423), of an event that cannot be reached
(R460), of a store or reduction that its home had accepted and was told to perform (log 18), or of a read whose value is discarded (R371). -/
def reportFail (s : State) (r : Remote) (resp : RespKind) : State :=
  match resp with
  | .ok _ => s
  | _ =>
    if r.wb then postAsync s (dieOf r.core) r.ctx 0x21 noLch 0 r.addr (some r.core)
    else if hasTaker s r then s
    else match (s.group? r.grp).bind (fun g => s.team? g.team) with
      | some t => postAsync s (dieOf r.core) t.ctx 0x22 t.lch r.va r.addr (some r.core) (some r.grp)
      | none => match r.kind with
        | .atomic _ _ => postUnreachable s r.ctx noLch r.va
        | _ => s

/-- A home holds a request for which no split waits any more: it is withdrawn. -/
def dropHeld (s : State) (r : Remote) : RespKind → State
  | .ok _ =>
    if r.hold && !askedBy s r.uid then tellHome r.core r.grp false s (r.uid, r.addr)
    else s
  | _ => s

/-- The data of a request taken: into the part's own L2, an instruction cache, a walk or an operation. -/
def takeData (s : State) (r : Remote) (resp : RespKind) : State := takeLine (takeWalk (takeCode (takeFill s r resp) r resp) r resp) r resp

/-- A response is an error or a refusal. -/
def RespKind.fails : RespKind → Bool
  | .ok _ => false
  | _ => true

/-- A request answered: the words and fences that await it, its data, its split, its command, what a failure leaves, and what waited
for it: the next request to its line, groups that retire, tokens that go back, events that are raised, and the placements of launches that those
make ELIGIBLE (R188, R193, R421 to R425). -/
def answer (s : State) (r : Remote) (resp : RespKind) : State :=
  let s1 := dropHeld (reportFail s r resp) r resp
  let s2 := mapVals (s1.answered r) (fun v => afterVal r.uid (remoteVal r resp v))
  let s3 := settleTokens (retirePending (tellCmd (tellSplits (takeData s2 r resp) r resp) r resp))
  distribute (settleRaises s3 r.uid resp.fails)

/-- REMOTE_RESPONSE to a request that is out. -/
def remoteResponse (s : State) (id : Nat) (mark : Bool) (resp : RespKind) : State :=
  match s.remotes.find? (fun r => r.uid == id && r.sent) with
  | none => s
  | some r => answer (if mark && !r.host then rotate s r.core (bitsOf r.addr 50 41) else s) r resp

/-- REMOTE_RESPONSE (R420 to R423); its subject is the request, the congestion mark and the response. -/
def execRemoteResponse (s : State) : Host.Outcome State Fault Refusal :=
  match s.subject with
  | .response id mark r => .next (bump (remoteResponse s id mark r))
  | _ => .fault .noSubject

/-- REMOTE_REQUEST_TIMEOUT of a request to a peer: 50 µs have passed without a response, or no link is up (R420, R423). -/
def requestTimeout (s : State) (id : Nat) : State :=
  match s.remotes.find? (fun r => r.uid == id && !r.host && r.sent) with
  | none => s
  | some r => if decide (r.since + 50000 ≤ s.dtime) || s.links.isEmpty then answer s r .error else s

/-- REMOTE_REQUEST_TIMEOUT (R423); its subject is the request. -/
def execRemoteRequestTimeout (s : State) : Host.Outcome State Fault Refusal := onNum requestTimeout s

/-- A port's link goes up or down: LIVE stays ascending (R420). -/
def linkChange (s : State) (port : Nat) (up : Bool) : State :=
  { s with links := (List.range 12).filter (fun p => if p = port then up else s.links.contains p) }

/-- LINK_STATE_CHANGE (R420); its subject is the port and whether its link is up. -/
def execLinkStateChange (s : State) : Host.Outcome State Fault Refusal :=
  match s.subject with
  | .flag p up => .next (bump (linkChange s p up))
  | _ => .fault .noSubject

/-! ### Ownership tokens (R427 to R429) -/

/-- TOKEN_REQUEST at the home: a device joins the queue of a region of this part's memory. -/
def tokenRequest (s : State) (r d : Nat) : State :=
  let h := s.homeTok r
  if isMem (r * 2 ^ 21) then homeServe (s.setHomeTok r { h with queue := h.queue ++ [d] }) r else s

/-- TOKEN_REQUEST (R429); its subject is the region and the device. -/
def execTokenRequest (s : State) : Host.Outcome State Fault Refusal := onPair tokenRequest s

/-- A region whose holder has let it go: FREE for the shutter operation that waits, or held by the first queued device. -/
def homeFreed (s : State) (r : Nat) : State :=
  let h := s.homeTok r
  let s1 := s.setHomeTok r { queue := h.queue }
  if h.bank then homeServe (shutAll s1) r else shutAll (homeServe s1 r)

/-- RECALL_DONE at the home: the device that was recalled has let the region go. -/
def recallDone (s : State) (r d : Nat) : State :=
  let h := s.homeTok r
  if h.holder = some d ∧ h.recalling then homeFreed s r else s

/-- RECALL_DONE (R429); its subject is the region and the device. -/
def execRecallDone (s : State) : Host.Outcome State Fault Refusal := onPair recallDone s

/-- TOKEN_GIVE_BACK at the home: the holder gives the token back, be it recalled or not. -/
def tokenGiveBack (s : State) (r d : Nat) : State := if (s.homeTok r).holder = some d then homeFreed s r else s

/-- TOKEN_GIVE_BACK (R428, R429); its subject is the region and the device. -/
def execTokenGiveBack (s : State) : Host.Outcome State Fault Refusal := onPair tokenGiveBack s

/-- TOKEN_RECALL at the holder: a held entry is recalled; one that is being returned already goes back (R429). -/
def tokenRecall (s : State) (r : Nat) : State :=
  match tokenOf s r with
  | some (n, t) => if t.st = .held then yieldToken s n .recalling else s
  | none => s

/-- TOKEN_RECALL (R429); its subject is the region. -/
def execTokenRecall (s : State) : Host.Outcome State Fault Refusal := onNum tokenRecall s

/-- TOKEN_GRANT at the holder: the entry is HELD, and every OWNACQ that waits for it takes it (R427). -/
def tokenGrant (s : State) (r : Nat) : State :=
  match tokenOf s r with
  | some (n, t) =>
    if t.st ≠ .pending then s
    else endParks ((ownWaits s (isOwn r)).foldl (fun s u => match s.team? u with
      | some t => takeToken s n t.core t.ctx
      | none => s) (setToken s n { t with st := .held })) (isOwn r)
  | none => s

/-- TOKEN_GRANT (R427); its subject is the region. -/
def execTokenGrant (s : State) : Host.Outcome State Fault Refusal := onNum tokenGrant s

end Sys2Proof.Machine
end

