-- ==== Sys2Proof/Machine/Lintel.lean ====
section
/-! DEFINITION. The Lintel broadcast plane (20 R433 to R440, R459): the frames of a station, their application in Lintel order, the failure
of records, and the states of a member. -/

namespace Sys2Proof.Machine

open Sys2Proof

/-! ### Frames (Table 20.7) -/

/-- Eight steps of CRC-32 with the reflected polynomial of IEEE 802.3. -/
def crcStep : Nat → Nat → Nat
  | 0, c => c
  | n + 1, c => crcStep n (if c % 2 = 1 then (c / 2) ^^^ 0xEDB88320 else c / 2)

/-- CRC-32 of IEEE 802.3 over bytes. -/
def crc32 (b : List Byte) : Nat := (b.foldl (fun c x => crcStep 8 (c ^^^ x.toNat)) 0xFFFFFFFF) ^^^ 0xFFFFFFFF

/-- The most bytes of a frame of a class. -/
def frameMax (cls : Nat) : Nat := if cls = 1 then 2048 else 16384

/-- The records at the head of a queue that fit a number of bytes. -/
def fitting : Nat → List LintelRec → List LintelRec
  | _, [] => []
  | room, r :: t => if recSize r ≤ room then r :: fitting (room - recSize r) t else []

/-- The bytes of a record. -/
def recBytesOf (r : LintelRec) : List Byte := bytesOf 8 r.hdr.toNat ++ r.data

/-- A frame of a station, class and sequence number. -/
def frameBytes (stn cls : Nat) (seq : Word) (rs : List LintelRec) : List Byte :=
  let body := rs.flatMap recBytesOf
  let b := mkRecord 16 [(0, 1, stn + 128 * cls), (4, 4, seq.toNat), (8, 2, 20 + body.length)] ++ body
  b ++ bytesOf 4 (crc32 b)

/-- One frame sent from the head of a class queue, with the next sequence number; none from an empty queue. -/
def sendClass (cls : Nat) (a : State × Word) : State × Word :=
  let s := a.1
  let l := s.lintel
  let rs := fitting (frameMax cls - 20) (lintelQ l cls)
  if rs.isEmpty then a
  else
    let seq := a.2 + 1
    let rest := (lintelQ l cls).drop rs.length
    let l1 : Lintel := { l with sent := l.sent ++ rs.map (fun r => { r with sent := some seq.toNat }) }
    let l2 : Lintel := if cls = 0 then { l1 with q0 := rest } else { l1 with q1 := rest }
    ({ s with lintel := l2 }.send (.frame (frameBytes l.stn cls seq rs)), seq)

/-- Device time to be steered toward a time of the schedule or of the time port (R440, R456): by so much, in units of 1/9,000,000 ns, and
never by a step. -/
def steerTo (s : State) (now : Nat) : State :=
  { s with dev := { s.dev with steer := ((now : Int) - s.dtime) * 9000000 - s.frac } }

/-- This part's device time is the group time: of the members whose time port is locked, or of all where none is, it is the lowest (R440). -/
def timeSource (s : State) : Bool :=
  let l := s.lintel
  let own := BitVec.ofNat 32 (2 ^ l.stn)
  let locked := l.memb &&& (if s.dev.portLock then l.locks ||| own else l.locks &&& ~~~own)
  lowestLane (if locked = 0 then l.memb else locked) == l.stn

/-- TOKEN_ARRIVAL: the station passes through SEND1 and SEND0 to PASS, with one frame of each class that has records (Table 20.8), and
steers toward the group time that the schedule carries, unless its own time is the group time (R440). That the schedule also says which
members are locked is DEDUCED (log 70). -/
def tokenArrival (s0 : State) (prev time : Nat) (locks : Word) : State :=
  if s0.lintel.st ≠ .up then s0
  else
    let sl : State := { s0 with lintel := { s0.lintel with locks := locks } }
    let s := if timeSource sl then sl else steerTo sl time
    if s.lintel.station = .wait then
      let r := sendClass 0 (sendClass 1 (s, BitVec.ofNat 32 prev))
      { r.1 with lintel := { r.1.lintel with station := .pass } }
    else s

/-- TOKEN_ARRIVAL (R435, R440); its subject is what the schedule carries: the SEQ of the group's previous frame, the group time, and the
members whose time port is locked. -/
def execTokenArrival (s : State) : Host.Outcome State Fault Refusal :=
  match s.subject with
  | .schedule prev time locks => .next (bump (tokenArrival s prev time locks))
  | _ => .fault .noSubject

/-- GUARD_ELAPSED: the token passes on. -/
def guardElapsed (s : State) : State :=
  if s.lintel.st = .up ∧ s.lintel.station = .pass then { s with lintel := { s.lintel with station := .wait } } else s

/-- GUARD_ELAPSED (R435). -/
def execGuardElapsed (s : State) : Host.Outcome State Fault Refusal := onNone guardElapsed s

/-! ### The records of this station -/

/-- The words that await the value of a record take it. -/
def mirrorVal (rec : Nat) (v : Nat → PVal) : PVal → PVal
  | .mirror r w => if r = rec then v w else .mirror r w
  | x => x

/-- A record of this station has been applied, skipped or failed: its words take their value, the waits for it end, and the groups that it
kept from retiring retire (R422, R436, R437). -/
def recordDone (s : State) (r : LintelRec) (v : Nat → PVal) : State := retirePending (recordApplied (mapVals s (mirrorVal r.uid v)) r.uid)

/-- A record is an atomic. -/
def recAtomic (hdr : Nat) : Bool := bitsOf hdr 31 28 == 1

/-- Some register awaits the value of a record. -/
def recAwaited (s : State) (r : LintelRec) : Bool :=
  s.groups.any (fun g => g.pends.any (fun p => p.vals.any (fun v => match v.2 with
    | .mirror u _ => u == r.uid
    | _ => false)))

/-- The launch of a group, when it is known. -/
def lchOf (s : State) (grp : Nat) : Nat :=
  match s.group? grp with
  | some g => match s.team? g.team with
    | some t => t.lch
    | none => noLch
  | none => noLch

/-- A record that fails at its originator (R439): an atomic leaves its destination failed, and any other record posts UE_UNDELIVERED. -/
def failRecord (s : State) (r : LintelRec) : State :=
  let awaited := recAwaited s r
  let s1 := recordDone s r (fun _ => .bad r.va 0)
  if awaited then s1 else postAsync s1 (dieOf r.core) s.lintel.ctx 0x22 (lchOf s r.grp) r.va 0 (some r.core) (some r.grp)

/-- Records failed in order. -/
def failRecords (s : State) (rs : List LintelRec) : State := rs.foldl failRecord s

/-- The queued records and those sent and not applied fail (R439). -/
def failAllRecords (s : State) : State :=
  let l := s.lintel
  failRecords { s with lintel := { l with q0 := [], q1 := [], sent := [] } } (l.sent ++ l.q1 ++ l.q0)

/-! ### Application (R436, R459) -/

/-- A record parsed from a frame. -/
structure FrameRec where
  hdr : Nat
  data : List Byte

/-- The bytes of a record's data as its header gives them (Table 20.7). -/
def recDataLen (hdr : Nat) : Nat :=
  let n := 2 ^ bitsOf hdr 38 36
  roundUp (if recAtomic hdr && bitsOf hdr 35 32 == 7 then 2 * n else n) 8

/-- The records of a frame's body. -/
def parseRecs : Nat → List Byte → List FrameRec
  | 0, _ => []
  | n + 1, b =>
    if b.length < 8 then []
    else
      let hdr := ofBytes (b.take 8)
      let k := recDataLen hdr
      ⟨hdr, (b.drop 8).take k⟩ :: parseRecs n (b.drop (8 + k))

/-- The virtual address of a record's first byte. -/
def recVa (s : State) (hdr : Nat) : Nat := s.lintel.base * 2 ^ 28 + bitsOf hdr 27 0

/-- The physical address of a record's bytes when they translate to a leaf with M = 1 and W = 1 (R459); or the state in which its application waits: for
an entry of its walk, for a channel, or, of an atomic, for the drains of the cores recorded at its line (R236, R342, R395). -/
def recReady (s : State) (hdr : Nat) : Except State (State × Option Nat) :=
  match xl4a s (partWho s.lintel.ctx) (recVa s hdr) with
  | .error c => if c = cAWAITED then .error (askEntry s frontEnd s.lintel.ctx (recVa s hdr)) else .ok (endWalk s frontEnd, none)
  | .ok y =>
    if !(eM y.e && eW y.e) then .ok (endWalk s frontEnd, none)
    else match (if recAtomic hdr then bumpReady s y.pa else chanReady s y.pa) with
      | .error s1 => .error s1
      | .ok s1 => .ok (endWalk s1 frontEnd, some y.pa)

/-- The own record that a record of an own frame is. -/
def takeOwn (s : State) (own : Bool) : Option LintelRec × State :=
  match own, s.lintel.sent with
  | true, r :: t => (some r, { s with lintel := { s.lintel with sent := t } })
  | _, _ => (none, s)

/-- The words that a record overwrites kept for the plain loads of the other groups of the window's context, which may still return them; the
group that issued it reads it or what follows (R227, R232, R437, R446). -/
def keepStale (s : State) (own : Option LintelRec) (pa len : Nat) : State :=
  let ws := (List.range ((pa + len + 3) / 4 - pa / 4)).map (fun i => pa / 4 + i)
  let old := ws.map (fun w => (w, BitVec.ofNat 32 (ofBytes (s.homeBytes (4 * w) 4))))
  { s with groups := s.groups.map (fun g =>
      if !(s.team? g.team).any (fun t => t.ctx == s.lintel.ctx) then g
      else if own.any (fun r => r.grp == g.uid) then { g with stale := g.stale.filter (fun x => !ws.contains x.1) }
      else { g with stale := old ++ g.stale }) }

/-- A record's bytes written at its home: by the core that issued it, where it is one of this station. -/
def recWrite (s : State) (own : Option LintelRec) (pa : Nat) (b : List Byte) : State :=
  match own with
  | some r => ownHome (keepStale s own pa b.length) r.core pa b
  | none => (keepStale s own pa b.length).setHome pa b

/-- An atomic record applied at its home (R242, R436); one whose word holds an error is not performed (R372). -/
def applyAtomic (s : State) (pa hdr : Nat) (data : List Byte) (own : Option LintelRec) : State :=
  let n := 2 ^ bitsOf hdr 38 36
  if badMem s pa n then
    match own with
    | some r =>
      let s2 := recordDone s r (fun _ => .bad r.va pa)
      if recAwaited s r then s2 else postAsync s2 (dieOf r.core) s.lintel.ctx 0x22 (lchOf s r.grp) r.va pa (some r.core) (some r.grp)
    | none => s
  else
    let m := ofBytes (s.homeBytes pa n)
    let v := atomNew (bitsOf hdr 35 32) (tyOfAty (bitsOf hdr 41 39)) m (fieldAt data 0 n) (fieldAt data n n)
    let s2 := recWrite s own pa (bytesOf n v)
    match own with
    | some r => recordDone s2 r (fun w => .known (BitVec.ofNat 32 (m / 2 ^ (32 * w))))
    | none => s2

/-- A record applied at its physical address, or skipped with MIRROR_UNAPPLIED where it has none (R436, R459). -/
def applyAt (own : Bool) (s : State) (q : FrameRec) (at_ : Option Nat) : State :=
  let t := takeOwn s own
  let s1 := t.2
  match at_ with
  | none =>
    let va := recVa s1 q.hdr
    let s2 := postAsync s1 0 s1.lintel.ctx 0x23 noLch va 0
    match t.1 with
    | some r => recordDone s2 r (fun _ => .bad r.va 0)
    | none => s2
  | some pa =>
    if recAtomic q.hdr then applyAtomic s1 pa q.hdr q.data t.1
    else
      let s2 := recWrite s1 t.1 pa (q.data.take (2 ^ bitsOf q.hdr 38 36))
      match t.1 with
      | some r => recordDone s2 r (fun _ => .known 0)
      | none => s2

/-- A record applied or skipped; or the state in which it waits. -/
def applyRec (own : Bool) (s : State) (q : FrameRec) : Except State State :=
  match recReady s q.hdr with
  | .error s1 => .error s1
  | .ok r => .ok (applyAt own r.1 q r.2)

/-- The frames whose application stands. -/
def setFrames (s : State) (l : List LintelFrame) : State := { s with lintel := { s.lintel with frames := l } }

/-- The frames that have come applied, record by record and in order, as far as nothing holds one back; SEQ counts a frame once all its records are
applied (R436). -/
def applyFrames : Nat → State → State
  | 0, s => s
  | n + 1, s =>
    match s.lintel.frames with
    | [] => s
    | f :: rest => match f.recs with
      | [] => applyFrames n { s with lintel := { s.lintel with frames := rest, seq := s.lintel.seq + 1 } }
      | q :: qs => match applyRec f.own s ⟨q.1, q.2⟩ with
        | .error s1 => s1
        | .ok s1 => applyFrames n (setFrames s1 ({ f with recs := qs } :: rest))

/-- Every frame that has come applied as far as may be. -/
def applyAll (s : State) : State :=
  applyFrames ((s.lintel.frames.map (fun f => f.recs.length + 1)).foldl (· + ·) 0) s

/-- A frame is whole: its length and its CRC hold. -/
def frameWhole (b : List Byte) : Bool :=
  decide (20 ≤ b.length) && fieldAt b 8 2 == b.length && fieldAt b (b.length - 4) 4 == crc32 (b.take (b.length - 4))

/-! ### The states of a member (Table 20.9) -/

/-- The member enters FORMING: it stops applying and sending, what waits of frames that have come among it, and reports its station and the last SEQ it
applied. -/
def toForming (s : State) : State :=
  { s with lintel := { s.lintel with st := .forming, station := .wait, frames := [] } }.send (.rollCall s.lintel.stn s.lintel.seq)

/-- The SEQ of the next frame: after those that are applied and those that wait. -/
def nextSeq (l : Lintel) : Word := l.seq + BitVec.ofNat 32 (l.frames.length + 1)

/-- LINTEL_FRAME_RECEIVE: a whole frame with the next SEQ is applied in order; another ends UP. -/
def frameReceive (s : State) (b : List Byte) : State :=
  if s.lintel.st ≠ .up then s
  else if !frameWhole b || BitVec.ofNat 32 (fieldAt b 4 4) != nextSeq s.lintel then toForming s
  else
    let own := byteAt b 0 % 32 == s.lintel.stn
    let rs := (parseRecs b.length ((b.drop 16).take (b.length - 20))).map (fun q => (q.hdr, q.data))
    applyAll (setFrames s (s.lintel.frames ++ [⟨own, rs⟩]))

/-- LINTEL_FRAME_RECEIVE (R436); its subject is the frame. -/
def execLintelFrameReceive (s : State) : Host.Outcome State Fault Refusal :=
  match s.subject with
  | .bytes _ b => .next (bump (frameReceive s b))
  | _ => .fault .noSubject

/-- A member that is UP enters FORMING. -/
def leaveUp (s : State) : State := if s.lintel.st = .up then toForming s else s

/-- SCHEDULE_TIMEOUT: no schedule for 10 µs (R439). -/
def execScheduleTimeout (s : State) : Host.Outcome State Fault Refusal := onNone leaveUp s

/-- ROLL_CALL by another station or by firmware (R439). -/
def execRollCall (s : State) : Host.Outcome State Fault Refusal := onNone leaveUp s

/-- The highest SEQ that previous members report; 0 when no station was one. -/
def highSeq (rs : List (Nat × Nat × Bool)) : Nat := (rs.filter (fun r => !r.2.2)).foldl (fun m r => Nat.max m r.2.1) 0

/-- A station of a roll call is kept (R439). -/
def kept (rs : List (Nat × Nat × Bool)) (r : Nat × Nat × Bool) : Bool :=
  (rs.filter (fun q => q.1 == r.1)).length == 1 && (r.2.2 || r.2.1 == highSeq rs)

/-- LMEM of the stations that a roll call keeps. -/
def keptMask (rs : List (Nat × Nat × Bool)) : Word :=
  BitVec.ofNat 32 (packEls 1 ((List.range 32).map (fun i => if rs.any (fun r => r.1 == i && kept rs r) then 1 else 0)))

/-- LEVT raised (R188, R439). -/
def raiseLevt (s : State) : State := raiseEvent s s.lintel.ctx noLch s.lintel.levt none

/-- ROLL_CALL_END with the reports of the other stations: the member is kept and UP, or DROPPED. -/
def rollCallEnd (s : State) (others : List (Nat × Nat × Bool)) : State :=
  let l := s.lintel
  let own : Nat × Nat × Bool := (l.stn, l.seq.toNat, l.fromDown)
  let rs := own :: others
  if l.st ≠ .forming then s
  else if kept rs own then
    let memb := keptMask rs
    let s1 := failRecords { s with lintel := { l with st := .up, station := .wait, memb := memb, seq := BitVec.ofNat 32 (highSeq rs), sent := [], fromDown := false } } l.sent
    if memb = l.memb then s1 else raiseLevt s1
  else
    let s1 := failAllRecords { s with lintel := { l with st := .dropped, drops := Nat.min 255 (l.drops + 1), fromDown := false } }
    raiseLevt s1

/-- ROLL_CALL_END (R193, R439); its subject is the reports of the other stations: number, last SEQ applied, and whether they come from DOWN. -/
def execRollCallEnd (s : State) : Host.Outcome State Fault Refusal :=
  match s.subject with
  | .reports rs => .next (bump (distribute (rollCallEnd s rs)))
  | _ => .fault .noSubject

/-- LINTEL_ENABLE: LCTL is written with EN = 1; a member that is DOWN enters the roll call. -/
def lintelEnable (s : State) (off width value : Nat) : State :=
  let s1 := bar0Write s off width value
  let s2 : State := { s1 with lintel := { s1.lintel with en := true } }
  if s.lintel.st = .down then toForming { s2 with lintel := { s2.lintel with fromDown := true } } else s2

/-- LINTEL_ENABLE (R439); its subject is the write. -/
def execLintelEnable (s : State) : Host.Outcome State Fault Refusal :=
  match s.subject with
  | .reg o w v => .next (bump (lintelEnable s o w v))
  | _ => .fault .noSubject

/-- LINTEL_DISABLE: LCTL is written with EN = 0; the member is DOWN and its queued records fail. -/
def lintelDisable (s : State) (off width value : Nat) : State :=
  let s1 := if s.lintel.st = .down then s else failAllRecords { s with lintel := { s.lintel with st := .down, station := .wait, frames := [] } }
  let s2 := bar0Write s1 off width value
  { s2 with lintel := { s2.lintel with en := false } }

/-- LINTEL_DISABLE (R439); its subject is the write. -/
def execLintelDisable (s : State) : Host.Outcome State Fault Refusal :=
  match s.subject with
  | .reg o w v => .next (bump (lintelDisable s o w v))
  | _ => .fault .noSubject

/-- TIME_PORT_LOCK_LOSS (R440). -/
def execTimePortLockLoss (s : State) : Host.Outcome State Fault Refusal :=
  onNone (fun s => { s with dev := { s.dev with portLock := false } }) s

end Sys2Proof.Machine
end

