-- ==== Sys2Proof/Machine/HostEv.lean ====
section
/-! DEFINITION. The host and the outside of the module (22): boot and attestation (R450 to R453), register writes and BAR2 (R447, R454), the
host commands (R455), the end of a context (R319, R424), reset and device time (R456), power and cooling (R457). -/

namespace Sys2Proof.Machine

open Sys2Proof

/-! ### Reset, boot, attestation, fatal errors (R449 to R453, R456) -/

/-- POWER_ON_RESET: the state after reset; what the outside still holds for the part and the model's own counters go on (log 1). -/
def powerOnReset (s : State) : State :=
  { State.reset with agenda := s.agenda, out := s.out, draws := s.draws, uid := s.uid, subject := s.subject }

/-- POWER_ON_RESET (R456). -/
def execPowerOnReset (s : State) : Host.Outcome State Fault Refusal := onNone powerOnReset s

/-- The registers that the write of an event's subject reaches. -/
def withWrite (s : State) : State :=
  match s.subject with
  | .reg o w v => bar0Write s o w v
  | _ => s

/-- MBCMD: verification begins unless it runs or has succeeded; a length outside its limits is rejected (R450). -/
def loadVerify (s : State) : State :=
  let d := s.dev
  if d.boot = .waitImage ∨ d.boot = .rejected then
    if 3073 ≤ d.mblen ∧ d.mblen ≤ 2 ^ 25 then { s with dev := { d with boot := .verify, reason := 0, latAddr := d.mbaddr, latLen := d.mblen } }
    else { s with dev := { d with boot := .rejected, reason := 1 } }
  else s

/-- MBCMD_LOAD_VERIFY (R450); its subject is the write. -/
def execMbcmdLoadVerify (s : State) : Host.Outcome State Fault Refusal := onNone (fun s => loadVerify (withWrite s)) s

/-- The image copied into the top of a die's scratch (R450, R451). Its first byte lies at the low end of its area, which its length rounded up to 64 KiB
takes: R451 does not say where in the area it lies (DESIGN CHOICE, log 10). -/
def putImage (s : State) (die : Nat) (img : List Byte) : State := s.setDscr die (2 ^ 26 - roundUp img.length 65536) img

/-- The verdict of the boot ROM on an image: 0, or the reason of its rejection. -/
def imageReason (img : List Byte) : Nat :=
  if Config.shake256 (img.take 1793) ≠ Config.fusedKeyHash then 2
  else if !Config.falconVerify (img.take 1793) ((img.drop 1793).take 1280) (Config.shake256 (img.drop 3073)) then 3
  else 0

/-- The team of the firmware core of a die: a team of no launch, whose D space is its die's scratch (DESIGN CHOICE, log 10). -/
def firmwareTeam (uid die : Nat) : Team := { uid := uid, lch := noLch, core := 80 * die + 79, sdLimit := 2 ^ 26 }

/-- The group of a firmware core: one privileged split, READY at PC 0 (R450, R451), each lane's generator at 1, for its team has no launch and
no SEED (DESIGN CHOICE, log 10). -/
def firmwareGroup (uid team clock : Nat) : Group :=
  { uid := uid, team := team, priv := true, splits := [{ st := .ready, am := BitVec.allOnes 32, since := clock }, {}, {}, {}] }

/-- The firmware core of a die started (R450, R451). -/
def startFirmware (s : State) (die : Nat) : State :=
  { s with teams := s.teams ++ [viewTeam s (firmwareTeam s.uid die)], groups := s.groups ++ [firmwareGroup (s.uid + 1) s.uid s.clock], uid := s.uid + 2 }

/-- IMAGE_VERIFICATION_END with the bytes that the host holds at MBADDR: REJECTED, or RUNNING with the firmware area latched and the
firmware cores started; the host commands that waited for RUNNING may take effect. -/
def verificationEnd (s : State) (bytes : List Byte) : State :=
  let d := s.dev
  if d.boot ≠ .verify then s
  else
    let img := (bytes ++ List.replicate d.latLen 0).take d.latLen
    let s1 := putImage s 0 img
    let r := imageReason img
    if r ≠ 0 then { s1 with dev := { d with boot := .rejected, reason := r } }
    else
      let s2 := putImage s1 1 img
      let s3 : State := { s2 with dev := { d with boot := .running, reason := 0, fwLen := d.latLen, digest := Config.shake256 img } }
      (List.range 16).foldl rejectCode (startFirmware (startFirmware s3 0) 1)

/-- IMAGE_VERIFICATION_END (R450); its subject is the image. -/
def execImageVerificationEnd (s : State) : Host.Outcome State Fault Refusal :=
  match s.subject with
  | .image b => .next (bump (verificationEnd s b))
  | _ => .fault .noSubject

/-- A field of the report in its length: a list of another length, which no hash gives, is cut or filled with zeros. -/
def sized (n : Nat) (b : List Byte) : List Byte := (b ++ List.replicate n 0).take n

/-- The attestation report (R452). -/
def report (s : State) : List Byte :=
  sized 32 s.dev.attnonce ++ bytesOf 8 0x4800BD02 ++ sized 64 s.dev.digest ++ sized 64 Config.fusedKeyHash ++ bytesOf 8 s.dtime ++ List.replicate 80 0

/-- ATTESTATION_SIGN: the report and its signature written to the host; then ATTSTS is 1. -/
def attest (s : State) : State :=
  let b := report s
  let s1 := (s.send (.hostWrite s.dev.attaddr b)).send (.hostWrite (s.dev.attaddr + 0x100) (sized 1280 (Config.falconSign b)))
  { s1 with dev := { s1.dev with attsts := 1 } }

/-- ATTESTATION_SIGN (R452); its subject is the write. -/
def execAttestationSign (s : State) : Host.Outcome State Fault Refusal := onNone (fun s => attest (withWrite s)) s

/-- FATAL_ERROR: the dump, its length last as a release, and BOOTSTS FATAL (R453). The release drains every L1 and waits for no remote write that a
firmware core has out: what a dead part may still wait for R453 does not say (DESIGN CHOICE, log 60). -/
def fatalError (s : State) : State :=
  if s.dev.boot = .fatal then s
  else
    let d := (Config.dump s.draws).take s.dev.dumplen
    let s1 := (listedCores s).foldl drainCore s
    let s2 := (s1.send (.hostWrite s.dev.dumpbase d)).send (.hostWrite s.dev.dumpbase (bytesOf 8 d.length))
    { s2 with dev := { s2.dev with boot := .fatal, reason := 4 } }

/-- FATAL_ERROR (R453). -/
def execFatalError (s : State) : Host.Outcome State Fault Refusal := onNone fatalError s

/-! ### BAR2 (R447) -/

/-- An access lies in the window of BAR2, of 1 GiB to 512 GiB; one beyond it does not reach the part. -/
def inBar2 (s : State) (off len : Nat) : Bool := decide (off + len ≤ 2 ^ s.dev.b2log)

/-- The physical addresses that a BAR2 access reaches: B2BASE is a multiple of the window size, so its bits below that size count as 0
(DESIGN CHOICE, log 49). -/
def bar2Addrs (s : State) (off len : Nat) : List Nat :=
  (List.range len).map (fun i => s.dev.b2base / 2 ^ s.dev.b2log * 2 ^ s.dev.b2log + off + i)

/-- BAR2 resized by the host to 2^k bytes (R447); a size outside 1 GiB to 512 GiB is none. -/
def resizeBar2 (s : State) (k : Nat) : State :=
  if 30 ≤ k ∧ k ≤ 39 then { s with dev := { s.dev with b2log := k } } else s

/-- A byte read by the host; of a word that holds an uncorrectable error the value is free (log 4). -/
def hostByte (s : State) (pa : Nat) : Byte :=
  if badMem s pa 1 then BitVec.ofNat 8 (Config.freePick s.draws (2 ^ 74 + pa)) else s.homeByte pa

/-- BAR2_READ: Unsupported Request outside memory, Completer Abort in a frame that is not DIE, else the data, once the cores recorded at its lines have
drained (R236, R342). -/
def bar2Read (s : State) (off len : Nat) : State :=
  let pas := bar2Addrs s off len
  if !inBar2 s off len then s
  else if !pas.all isMem then s.send .unsupported
  else if pas.any (frameBusy s) then s.send .completerAbort
  else match linesDrained s ((pas.map (fun pa => pa / 128)).eraseDups) with
    | .ok s1 => s1.send (.readData (pas.map (hostByte s1)))
    | .error s1 => { s1 with laters := s1.laters ++ [.bar2 off len] }

/-- BAR2_READ (R447); its subject is the offset and the length. -/
def execBar2Read (s : State) : Host.Outcome State Fault Refusal := onPair bar2Read s

/-- A word or byte written by the host: in memory that is not busy it is stored, a busy frame takes LOSTW, and elsewhere it is discarded. -/
def bar2Part (s : State) (x : Nat × List Byte) : State :=
  if !isMem x.1 then s
  else if frameBusy s x.1 then s.setFrame (frameOf x.1) { s.frame (frameOf x.1) with lostw := true }
  else s.setHome x.1 x.2

/-- BAR2_WRITE of bytes at an offset. -/
def bar2Write (s : State) (off : Nat) (b : List Byte) : State :=
  if inBar2 s off b.length then (wordParts ((bar2Addrs s off b.length).zip b)).foldl bar2Part s else s

/-- BAR2_WRITE (R447); its subject is the offset and the bytes. -/
def execBar2Write (s : State) : Host.Outcome State Fault Refusal :=
  match s.subject with
  | .bytes o b => .next (bump (bar2Write s o b))
  | _ => .fault .noSubject

/-! ### Host commands (R455) -/

/-- The latched command of a context, when it has a code and may take effect: the part is RUNNING and HSTS is busy. -/
def latched? (s : State) (c code : Nat) : Option (List Byte) :=
  let x := s.ctx c
  if s.dev.boot = .running ∧ x.hsts = 0 ∧ byteAt x.latched 0 = code then some x.latched else none

/-- Every byte that the operand fields of a row do not name is 0, byte 0 apart. -/
def onlyNamed (b : List Byte) (fs : List (Nat × Nat)) : Bool :=
  (List.range 64).all (fun i => i == 0 || fs.any (fun f => decide (f.1 ≤ i) && decide (i < f.1 + f.2)) || byteAt b i == 0)

/-- The record of a SUBMIT or FEED appended to a ring with room, or BAD where it is unreadable or the ring does not translate; it waits in the context
while a walk or a channel holds the ring back (R342, R455). -/
def appendHost (s : State) (c : Nat) (launch : Bool) (n : Nat) (data : Option (List Byte)) : State :=
  let q := queueOf (s.ctx c) launch n
  match frontReady s c .store (ringVa q launch q.pi) with
  | .error s1 => s1.setCtx c { s1.ctx c with hrec := some data }
  | .ok s0 => match data, ringXlate s0 c launch q q.pi .store with
    | some r, .ok y =>
      let s1 := appendRec s0 c launch n y.pa ((r ++ List.replicate (recBytes launch) 0).take (recBytes launch)) 0
      hostDone (if launch then s1 else serveAll s1 c false n) c 1
    | _, _ => hostDone (endWalk s0 frontEnd) c 3

/-- SUBMIT or FEED with the record read from the host (none when the read completes with an error): BAD, FULL, or appended (R201, R455). A full ring is
FULL, be the record readable or not: R201 and R455 do not order the two (DESIGN CHOICE, log 50). The record is read once. -/
def hostAppend (s : State) (c : Nat) (launch : Bool) (rec0 : Option (List Byte)) : State :=
  match latched? s c (if launch then 1 else 2) with
  | none => s
  | some b =>
    let data := (s.ctx c).hrec.getD rec0
    let n := fieldAt b 8 4
    let size := recBytes launch
    let q := queueOf (s.ctx c) launch n
    if !(onlyNamed b [(8, 4), (16, 8)] && decide (n < (if launch then 16 else 64)) && fieldAt b 16 8 % size == 0 && q.ok) then hostDone s c 3
    else if q.full then hostDone s c 2
    else appendHost s c launch n data

/-- A SUBMIT or FEED whose record waits for its ring tried again. -/
def appendOn (s : State) (c : Nat) : State :=
  match (s.ctx c).hrec with
  | some r => hostAppend s c (byteAt (s.ctx c).latched 0 == 1) r
  | none => s

/-- SUBMIT (R182, R455); its subject is the context and the record. -/
def execSubmit (s : State) : Host.Outcome State Fault Refusal :=
  match s.subject with
  | .record c r => .next (bump (hostAppend s c true r))
  | _ => .fault .noSubject

/-- FEED (R201, R455); its subject is the context and the record. -/
def execFeed (s : State) : Host.Outcome State Fault Refusal :=
  match s.subject with
  | .record c r => .next (bump (hostAppend s c false r))
  | _ => .fault .noSubject

/-- A group that RESUME may resume: stopped, and not by a nested trap. One that stood stopped at T_wrap stays stopped until it is killed; one that was
diverted and has stopped since may be resumed (R367, R378). -/
def resumable (s : State) (g : Group) : Bool :=
  match g.stop with
  | some x => !x.nested && g.saved.isSome && (g.diverted || !(s.team? g.team).any (wrapsUp s))
  | none => false

/-- A stopped group may resume now: like TRET it waits for the group's loads in flight (R365), and for its record, which the stopped group writes
(Table 17.6). -/
def mayResume (g : Group) : Bool := g.quiet && g.records.isEmpty

/-- A stopped group resumed at a PC, as TRET resumes one (R365, R367). -/
def resumeGroup (s : State) (g : Group) (pc : Word) : State :=
  match g.saved with
  | some b => retireIfDone (s.setGroup (restoreSaved s.clock g b pc)) g.uid .gone
  | none => s

/-- The group that LCH, TIX and GIX name. -/
def namedGroup (s : State) (lch tix gix : Nat) : Option Group :=
  match s.teams.find? (fun t => t.lch == lch && t.tix == tix && !t.killed) with
  | some t => s.groups.find? (fun g => g.team == t.uid && g.gix == gix)
  | none => none

/-- RESUME by the host's command of a context. -/
def hostResume (s : State) (c : Nat) : State :=
  match latched? s c 3 with
  | none => s
  | some b =>
    let pc := fieldAt b 0x14 4
    match namedGroup s (fieldAt b 8 4) (fieldAt b 0xC 4) (fieldAt b 0x10 1) with
    | some g =>
      if onlyNamed b [(8, 4), (0xC, 4), (0x10, 1), (0x14, 4)] && decide (fieldAt b 0x10 1 ≤ 31) && pc % 4 == 0 && resumable s g then
        if mayResume g then hostDone (resumeGroup s g (BitVec.ofNat 32 pc)) c 1 else s
      else hostDone s c 3
    | none => hostDone s c 3

/-- RESUME (R367, R455); its subject is the context of the host's command, or, for a resume by firmware, the group and the PC. -/
def execResume (s : State) : Host.Outcome State Fault Refusal :=
  match s.subject with
  | .num c => .next (bump (hostResume s c))
  | .pair u pc => .next (bump (match s.group? u with
    | some g => if resumable s g && pc % 4 == 0 && mayResume g then resumeGroup s g (BitVec.ofNat 32 pc) else s
    | none => s))
  | _ => .fault .noSubject

/-- KILL by the host's command of a context: BAD for a launch that has ended or that the part does not know. -/
def hostKill (s : State) (c : Nat) : State :=
  match latched? s c 4 with
  | none => s
  | some b =>
    match s.launch? (fieldAt b 8 4) with
    | some l => if onlyNamed b [(8, 4)] && l.st != .ended then hostDone (killLaunch s l.lch true) c 1 else hostDone s c 3
    | none => hostDone s c 3

/-- KILL (R391, R455); its subject is the context of the host's command, or, for a kill by firmware, a mark and the launch. -/
def execKill (s : State) : Host.Outcome State Fault Refusal :=
  match s.subject with
  | .num c => .next (bump (hostKill s c))
  | .flag l _ => .next (bump (killLaunch s l true))
  | _ => .fault .noSubject

/-- The release at SYSTEM scope by the firmware core of die 0 with which a host's invalidation begins (R405 step 1, R408), and whether all
that it orders has been performed. -/
def firmwareRelease (s : State) : State × Bool :=
  let u := ((s.groups.find? (fun g => (s.team? g.team).any (fun t => t.core == 79))).map (fun g => g.uid)).getD s.uid
  let s1 := drainWait (settle s u) 79 (fun _ => true)
  (s1, !dirtyLeft s1 79 (fun _ => true) && (outstanding s1 u 79 6).isEmpty && !(s1.group? u).any anyLate)

/-- HOST_TLBINV: BAD, or a release by the firmware core of die 0 and the range invalidation, which completes the command (R405, R408). -/
def hostTlbinv (s : State) (c : Nat) : State :=
  match latched? s c 5 with
  | none => s
  | some b =>
    let a := fieldAt b 8 8
    let n := fieldAt b 16 8
    if !(onlyNamed b [(8, 8), (16, 8)] && decide (a + n ≤ 2 ^ 56)) then hostDone s c 3
    else
      let r := firmwareRelease s
      if !r.2 then r.1
      else
        let q := invalRange a n
        let s1 := r.1.setCtx c { r.1.ctx c with latched := [] }
        beginInval s1.fresh s1.uid (some c) q.1 (if n = 0 then q.1 else q.2) (some c)

/-- HOST_TLBINV (R408, R455); its subject is the context. -/
def execHostTlbinv (s : State) : Host.Outcome State Fault Refusal := onNum hostTlbinv s

/-! ### The end of a context (R319, R424) -/

/-- The shutter operations of a context that wait for a frame that has gone back to DIE go on after it. -/
def skipHanding (s : State) (c : Nat) : State :=
  { s with cores := s.cores.map (fun x => (x.1, { x.2 with bankq := x.2.bankq.map (fun m =>
      if m.kind == .shut && m.wait && cmdCtx s m == c && (match m.blk[m.step]? with
        | some f => (s.frame f).st == .die
        | none => false) then nextFrame m else m) })) }

/-- CONTEXT_END: EN is 0, the context's tokens are returned, and its frames go to DIE once its runs have ended. -/
def contextEnd (s : State) (c : Nat) : State :=
  let s1 := s.setCtx c { s.ctx c with en := false, ended := true }
  let mine := s1.tokens.filter (fun (x : Nat × TokEntry) => x.2.st == .held && x.2.ctxs.contains c)
  let s2 := mine.foldl (fun s x => yieldToken s x.1 .returning) s1
  shutAll (skipHanding (freeCtxFrames s2 c) c)

/-- A write of CTXCTL with EN = 0: its registers are written, and the context ends (R319, R454). -/
def endByWrite (s : State) (o w v : Nat) : State :=
  match endedBy o w v with
  | some c => contextEnd (bar0Write s o w v) c
  | none => bar0Write s o w v

/-- CONTEXT_END (R319); its subject is the context, or the write that ends it. -/
def execContextEnd (s : State) : Host.Outcome State Fault Refusal :=
  match s.subject with
  | .num c => .next (bump (contextEnd s c))
  | .reg o w v => .next (bump (endByWrite s o w v))
  | _ => .fault .noSubject

/-! ### Register writes (R454) -/

/-- A write to BAR0 by the host: the register it names takes it, with the effect that Table 22.2 gives that register (R439, R450, R452,
R319). -/
def registerWrite (s : State) (o w v : Nat) : State :=
  match (writeEvent o w v).1 with
  | .mbcmdLoadVerify => loadVerify (bar0Write s o w v)
  | .attestationSign => if s.dev.boot = .fatal then bar0Write s o w v else attest (bar0Write s o w v)
  | .lintelEnable => lintelEnable s o w v
  | .lintelDisable => lintelDisable s o w v
  | .contextEnd => endByWrite s o w v
  | _ => bar0Write s o w v

/-- REGISTER_WRITE (R454); its subject is the write. -/
def execRegisterWrite (s : State) : Host.Outcome State Fault Refusal :=
  match s.subject with
  | .reg o w v => .next (bump (registerWrite s o w v))
  | _ => .fault .noSubject

/-! ### The time port (R456) -/

/-- TIME_PORT_LOCK with the TAI time in ns: the first lock before any launch is accepted steps device time to it, never backward; any
other steers device time toward it. A Lintel member that is UP never steps, and is steered to it only while its own time is the group time
(R440). -/
def portLock (s : State) (tai : Nat) : State :=
  let steps := !s.dev.timeLocked && !s.dev.anyAccepted
  let s1 : State := { s with dev := { s.dev with portLock := true, timeLocked := true } }
  if s.lintel.st = .up then (if timeSource s1 then steerTo s1 tai else s1)
  else if steps then { s1 with dtime := Nat.max s.dtime tai } else steerTo s1 tai

/-- TIME_PORT_LOCK (R456); its subject is the TAI time. -/
def execTimePortLock (s : State) : Host.Outcome State Fault Refusal := onNum portLock s

/-! ### Power and cooling (R457) -/

/-- The cap that the governor holds: PWRCAP within 1,000 to 3,600, or 1,000 while the coolant is hot. -/
def capOf (d : Dev) : Nat := if d.hot then 1000 else Nat.min 3600 (Nat.max 1000 d.pwrcap.toNat)

/-- The next measure of the governor: class-0 OPENs, then class-1 OPENs, then class-0 issue slots. -/
def moreThrottle : Throttle → Throttle
  | .none => .openClass0
  | .openClass0 => .openClass1
  | .openClass1 => .issueClass0
  | .issueClass0 => .issueClass0

/-- GOVERNOR_TICK with the measured power in W. -/
def governor (s : State) (watts : Nat) : State :=
  { s with dev := { s.dev with throttle := if capOf s.dev < watts then moreThrottle s.dev.throttle else .none } }

/-- GOVERNOR_TICK (R457); its subject is the measured power. -/
def execGovernorTick (s : State) : Host.Outcome State Fault Refusal := onNum governor s

/-- COOLANT_OVER_45C (R457). -/
def execCoolantOver45c (s : State) : Host.Outcome State Fault Refusal :=
  onNone (fun s => { s with dev := { s.dev with hot := true } }) s

/-- COOLANT_BELOW_40C (R457). -/
def execCoolantBelow40c (s : State) : Host.Outcome State Fault Refusal :=
  onNone (fun s => { s with dev := { s.dev with hot := false } }) s

end Sys2Proof.Machine
end

