-- ==== Sys2Proof/Machine/Uniform.lean ====
section
/-! DEFINITION. The uniform instructions (04 R109 to R112): once per issue, whatever act holds. -/

namespace Sys2Proof.Machine

open Sys2Proof

/-- Bits of a uniform operation. -/
def uniBits (wide : Bool) : Nat := if wide then 64 else 32

/-- A uniform instruction with a `g` destination, computed from n, a, b and the old destination. -/
def uniOp (wide : Bool) (d : Fin 64) (a b : UniOp) (readsD : Bool) (f : Nat → Nat → Nat → Nat → Nat) :
    State → Host.Outcome State Fault Refusal :=
  let dn := uniNums wide (.g d)
  issueG { guarded := false, unis := uniNums wide a ++ uniNums wide b ++ (if readsD then dn else []) } (fun x =>
    (writeUni x.g wide d (f (uniBits wide) (readUni x wide a) (readUni x wide b) (readUni x wide (.g d))), .step))

/-- UADD (R110). -/
def execUadd (wide : Bool) (d : Fin 64) (a b : UniOp) (s : State) : Host.Outcome State Fault Refusal :=
  uniOp wide d a b false (fun n p q _ => (p + q) % 2 ^ n) s
/-- USUB (R110). -/
def execUsub (wide : Bool) (d : Fin 64) (a b : UniOp) (s : State) : Host.Outcome State Fault Refusal :=
  uniOp wide d a b false (fun n p q _ => (p + (2 ^ n - q)) % 2 ^ n) s
/-- UMUL (R110). -/
def execUmul (wide : Bool) (d : Fin 64) (a b : UniOp) (s : State) : Host.Outcome State Fault Refusal :=
  uniOp wide d a b false (fun n p q _ => (p * q) % 2 ^ n) s
/-- UMAD (R110). -/
def execUmad (wide : Bool) (d : Fin 64) (a b : UniOp) (s : State) : Host.Outcome State Fault Refusal :=
  uniOp wide d a b true (fun n p q r => (p * q + r) % 2 ^ n) s
/-- UAND (R110). -/
def execUand (wide : Bool) (d : Fin 64) (a b : UniOp) (s : State) : Host.Outcome State Fault Refusal :=
  uniOp wide d a b false (fun _ p q _ => p &&& q) s
/-- UOR (R110). -/
def execUor (wide : Bool) (d : Fin 64) (a b : UniOp) (s : State) : Host.Outcome State Fault Refusal :=
  uniOp wide d a b false (fun _ p q _ => p ||| q) s
/-- UXOR (R110). -/
def execUxor (wide : Bool) (d : Fin 64) (a b : UniOp) (s : State) : Host.Outcome State Fault Refusal :=
  uniOp wide d a b false (fun _ p q _ => p ^^^ q) s
/-- UANDN (R110). -/
def execUandn (wide : Bool) (d : Fin 64) (a b : UniOp) (s : State) : Host.Outcome State Fault Refusal :=
  uniOp wide d a b false (fun n p q _ => p &&& (2 ^ n - 1 - q)) s
/-- USHL (R110). -/
def execUshl (wide : Bool) (d : Fin 64) (a b : UniOp) (s : State) : Host.Outcome State Fault Refusal :=
  uniOp wide d a b false (fun n p q _ => shlBits n p q) s
/-- USHR (R110). -/
def execUshr (wide : Bool) (d : Fin 64) (a b : UniOp) (s : State) : Host.Outcome State Fault Refusal :=
  uniOp wide d a b false (fun n p q _ => shrBits n p q) s
/-- USHA (R110). -/
def execUsha (wide : Bool) (d : Fin 64) (a b : UniOp) (s : State) : Host.Outcome State Fault Refusal :=
  uniOp wide d a b false (fun n p q _ => shaBits n p q) s
/-- UROT (R110). -/
def execUrot (wide : Bool) (d : Fin 64) (a b : UniOp) (s : State) : Host.Outcome State Fault Refusal :=
  uniOp wide d a b false (fun n p q _ => rotBits n p q) s
/-- UMIN (R110). -/
def execUmin (wide : Bool) (d : Fin 64) (a b : UniOp) (s : State) : Host.Outcome State Fault Refusal :=
  uniOp wide d a b false (fun n p q _ => if sx p n ≤ sx q n then p else q) s
/-- UMAX (R110). -/
def execUmax (wide : Bool) (d : Fin 64) (a b : UniOp) (s : State) : Host.Outcome State Fault Refusal :=
  uniOp wide d a b false (fun n p q _ => if sx p n ≤ sx q n then q else p) s
/-- UMINN (R110). -/
def execUminn (wide : Bool) (d : Fin 64) (a b : UniOp) (s : State) : Host.Outcome State Fault Refusal :=
  uniOp wide d a b false (fun _ p q _ => if p ≤ q then p else q) s
/-- UMAXN (R110). -/
def execUmaxn (wide : Bool) (d : Fin 64) (a b : UniOp) (s : State) : Host.Outcome State Fault Refusal :=
  uniOp wide d a b false (fun _ p q _ => if p ≤ q then q else p) s
/-- UADDI (R110). -/
def execUaddi (wide : Bool) (d : Fin 64) (a : UniOp) (i9 : BitVec 9) (s : State) : Host.Outcome State Fault Refusal :=
  uniOp wide d a .gz false (fun n p _ _ => pat ((p : Int) + i9.toInt) n) s

/-- A UMOVI form (R110, Table 04.5). -/
def umoviOp (h : Nat) (d : Fin 64) (i16 : BitVec 16) : State → Host.Outcome State Fault Refusal :=
  issueG { guarded := false, unis := if 2 ≤ h then [d.val] else [] } (fun x =>
    (x.g.setUreg d.val (placeImm h i16 (x.g.ureg d.val)), .step))

/-- UMOVI (R110). -/
def execUmovi (d : Fin 64) (i16 : BitVec 16) (s : State) : Host.Outcome State Fault Refusal := umoviOp 0 d i16 s
/-- UMOVI.Z (R110). -/
def execUmoviZ (d : Fin 64) (i16 : BitVec 16) (s : State) : Host.Outcome State Fault Refusal := umoviOp 1 d i16 s
/-- UMOVI.H (R110). -/
def execUmoviH (d : Fin 64) (i16 : BitVec 16) (s : State) : Host.Outcome State Fault Refusal := umoviOp 2 d i16 s
/-- UMOVI.L (R110). -/
def execUmoviL (d : Fin 64) (i16 : BitVec 16) (s : State) : Host.Outcome State Fault Refusal := umoviOp 3 d i16 s

/-- UCMP (R111). -/
def execUcmp (wide uns : Bool) (rel : Rel) (cb : Comb) (kd : Fin 8) (a b : UniOp) (s : State) : Host.Outcome State Fault Refusal :=
  issueG { preds := fun _ => combReads cb kd.val, unis := uniNums wide a ++ uniNums wide b } (fun x =>
    let n := uniBits wide
    let c := relHolds rel n (elInt (!uns) n (readUni x wide a) 0) (elInt (!uns) n (readUni x wide b) 0)
    (putPred x kd.val cb (if c then BitVec.allOnes 32 else 0), .step)) s

end Sys2Proof.Machine
end

