-- ==== Sys2Proof/Machine/Xfer.lean ====
section
/-! DEFINITION. Cross-lane transfers (07 R172 to R176). BALLOT, BCAST, FIRST and MATCH write no lane when act is empty (R174) and enter
the history like every transfer (R19, R20, R173). DEDUCED (log 14). -/

namespace Sys2Proof.Machine

open Sys2Proof

/-- A shuffle (R174): the source lane of each lane from its own index, with the lane's own a where the source is not in act. -/
def shuffle (w : Width) (d a : LaneOp) (more : List (LaneOp × Nat)) (src : Ix → Nat → Int) :
    State → Host.Outcome State Fault Refusal :=
  let n := w.regs
  issueG { srcs := (a, n) :: more, dsts := [(d, n)] } (fun x =>
    (putResults x d n (fun i =>
      let s := src x i
      let j := if 0 ≤ s && decide (s < 32) && x.act.getLsbD s.toNat then s.toNat else i
      { val := readRun x 0 a n j }), .step))

/-- SHFLI (R172, R174). -/
def execShfli (w : Width) (d a : LaneOp) (s : State) : Host.Outcome State Fault Refusal :=
  shuffle w d a [(d, 1)] (fun x i => ((readRun x 2 d 1 i % 32 : Nat) : Int)) s
/-- SHFLU (R172, R174). -/
def execShflu (w : Width) (d a : LaneOp) (n : Fin 32) (s : State) : Host.Outcome State Fault Refusal :=
  shuffle w d a [] (fun _ i => (i : Int) - (n.val : Int)) s
/-- SHFLD (R172, R174). -/
def execShfld (w : Width) (d a : LaneOp) (n : Fin 32) (s : State) : Host.Outcome State Fault Refusal :=
  shuffle w d a [] (fun _ i => (i : Int) + (n.val : Int)) s
/-- SHFLX (R172, R174). -/
def execShflx (w : Width) (d a : LaneOp) (n : Fin 32) (s : State) : Host.Outcome State Fault Refusal :=
  shuffle w d a [] (fun _ i => ((i ^^^ n.val : Nat) : Int)) s

/-- BALLOT (R172, R174). -/
def execBallot (d : LaneOp) (neg : Bool) (k : Fin 8) (s : State) : Host.Outcome State Fault Refusal :=
  issueG { dsts := [(d, 1)], preds := fun _ => [k.val] } (fun x =>
    (putResults x d 1 (fun _ => { val := (predLanes x.g x.act k.val neg).toNat }), .step)) s

/-- RDLANE (R172, R174). -/
def execRdlane (w : Width) (d a : LaneOp) (n : Fin 32) (s : State) : Host.Outcome State Fault Refusal :=
  let k := w.regs
  issueG { srcs := [(a, k)], dsts := [(d, k)], lanes := fun _ => laneBit n.val, bad := fun x => illegalIf (!x.am.getLsbD n.val) } (fun x =>
    (putResults x d k (fun _ => { val := readRun x 0 a k n.val }), .step)) s

/-- BCAST (R172, R174). -/
def execBcast (w : Width) (d a : LaneOp) (s : State) : Host.Outcome State Fault Refusal :=
  let k := w.regs
  issueG { srcs := [(a, k)], dsts := [(d, k)], lanes := fun x => laneBit (lowestLane x.act) &&& x.act } (fun x =>
    (putResults x d k (fun _ => { val := readRun x 0 a k (lowestLane x.act) }), .step)) s

/-- FIRST (R172, R174). -/
def execFirstLane (d : LaneOp) (s : State) : Host.Outcome State Fault Refusal :=
  issueG { dsts := [(d, 1)] } (fun x => (putResults x d 1 (fun _ => { val := lowestLane x.act }), .step)) s

/-- MATCH (R172, R174). -/
def execMatchLanes (d a : LaneOp) (s : State) : Host.Outcome State Fault Refusal :=
  issueG { srcs := [(a, 1)], dsts := [(d, 1)] } (fun x =>
    (putResults x d 1 (fun i =>
      { val := (x.act &&& maskOf (fun j => readRun x 0 a 1 j == readRun x 0 a 1 i)).toNat }), .step)) s

/-! ### Scans and reductions (R175, R176) -/

/-- One link of a chain: the lane, the accumulated value, the flags of its step and the lane's generator. -/
structure Link where
  lane : Nat
  acc : Nat
  flags : Nat
  seed : Option Word

/-- The chain of R175: `first` gives the first link's result, `next` each later one from the accumulator and a lane. -/
def chainFrom (first : Nat → LaneRes) (next : Nat → Nat → LaneRes) : List Nat → List Link
  | [] => []
  | j :: t =>
    let r := first j
    let link : Link := ⟨j, r.val, r.flags, r.seed⟩
    (t.foldl (fun (ls : List Link × Nat) i =>
      let q := next ls.2 i
      (ls.1 ++ [⟨i, q.val, q.flags, q.seed⟩], q.val)) ([link], r.val)).1

/-- The chain of additions (R175, R176). -/
def addChain (x : Ix) (a : LaneOp) : List Link :=
  let v (i : Nat) : Nat := readRun x 0 a 1 i
  if x.ty = 8 then
    chainFrom (fun j => rndEls 32 1 x.isRsr (x.g.seed j) (fun n16 _ => x.fround n16 ⟨x.vl (v j), 0⟩))
      (fun acc j => rndEls 32 1 x.isRsr (x.g.seed j) (fun n16 _ => x.fround n16 (addF x.rm (decodeF .fp32 acc) (x.vl (v j)))))
      (lanesOf x.act)
  else
    let sg := intSigned x.ty
    chainFrom (fun j => { val := v j })
      (fun acc j => packRes 32 [fit sg x.sat 32 (elInt sg 32 acc 0 + elInt sg 32 (v j) 0)]) (lanesOf x.act)

/-- The chain of minima or maxima (R175, R176). -/
def extChain (x : Ix) (a : LaneOp) (big : Bool) : List Link :=
  let v (i : Nat) : Nat := readRun x 0 a 1 i
  if x.ty = 8 then
    chainFrom (fun j => { val := if isNaN (x.vl (v j)) then canonNaN .fp32 else ftzBits .fp32 x.ftz (v j) })
      (fun acc j => { val := minMaxF .fp32 x.ftz big false acc (v j) }) (lanesOf x.act)
  else
    let sg := intSigned x.ty
    chainFrom (fun j => { val := v j })
      (fun acc j => { val := if (elInt sg 32 acc 0 ≤ elInt sg 32 (v j) 0) == big then v j else acc }) (lanesOf x.act)

/-- The type check of scans and reductions (R175). -/
def chainBad (x : Ix) : Option Nat := illegalIf (!(x.ty == 0 || x.ty == 1 || x.ty == 8))

/-- A chain written: each lane takes its flags and generator, and the value that `val` gives it. -/
def putChain (x : Ix) (d : LaneOp) (ls : List Link) (val : Nat → Nat) : Group :=
  putResults x d 1 (fun i =>
    match ls.find? (fun l => l.lane == i) with
    | some l => { val := val i, flags := l.flags, seed := l.seed }
    | none => { val := val i })

/-- The prefix of a lane. -/
def prefixAt (ls : List Link) (i : Nat) : Nat :=
  match ls.find? (fun l => l.lane == i) with
  | some l => l.acc
  | none => 0

/-- The prefix of the lane before a lane, 0 for the first. -/
def prefixBefore (ls : List Link) (i : Nat) : Nat := ((ls.filter (fun l => decide (l.lane < i))).getLast?.map (·.acc)).getD 0

/-- The last accumulated value of a chain. -/
def lastAcc (ls : List Link) : Nat := (ls.getLast?.map (·.acc)).getD 0

/-- SCANADD (R175, R176). -/
def execScanadd (ex : Bool) (d a : LaneOp) (s : State) : Host.Outcome State Fault Refusal :=
  issueG { srcs := [(a, 1)], dsts := [(d, 1)], bad := chainBad } (fun x =>
    let ls := addChain x a
    (putChain x d ls (if ex then prefixBefore ls else prefixAt ls), .step)) s

/-- A reduction. -/
def reduceOp (d a : LaneOp) (chain : Ix → List Link) : State → Host.Outcome State Fault Refusal :=
  issueG { srcs := [(a, 1)], dsts := [(d, 1)], bad := chainBad } (fun x =>
    let ls := chain x
    (putChain x d ls (fun _ => lastAcc ls), .step))

/-- REDADD (R175, R176). -/
def execRedadd (d a : LaneOp) (s : State) : Host.Outcome State Fault Refusal := reduceOp d a (fun x => addChain x a) s
/-- REDMIN (R175, R176). -/
def execRedmin (d a : LaneOp) (s : State) : Host.Outcome State Fault Refusal := reduceOp d a (fun x => extChain x a false) s
/-- REDMAX (R175, R176). -/
def execRedmax (d a : LaneOp) (s : State) : Host.Outcome State Fault Refusal := reduceOp d a (fun x => extChain x a true) s

end Sys2Proof.Machine
end

