-- ==== Sys2Proof/Machine/Dispatch.lean ====
section
/-! DEFINITION. The meaning of every instruction: one arm per constructor, each one direct call. -/

namespace Sys2Proof.Machine

open Sys2Proof

def exec (i : Instr) (s : State) : Host.Outcome State Fault Refusal :=
  match i with
  | .trap code => Sys2Proof.Machine.execTrap code s
  | .rdsr wide d sr => Sys2Proof.Machine.execRdsr wide d sr s
  | .wrsr wide sr a => Sys2Proof.Machine.execWrsr wide sr a s
  | .segld sr a => Sys2Proof.Machine.execSegld sr a s
  | .tlbinv d a => Sys2Proof.Machine.execTlbinv d a s
  | .ownacq a => Sys2Proof.Machine.execOwnacq a s
  | .ownrel a => Sys2Proof.Machine.execOwnrel a s
  | .add w d a b => Sys2Proof.Machine.execAdd w d a b s
  | .sub w d a b => Sys2Proof.Machine.execSub w d a b s
  | .rsub w d a b => Sys2Proof.Machine.execRsub w d a b s
  | .absd w d a b => Sys2Proof.Machine.execAbsd w d a b s
  | .mul w d a b => Sys2Proof.Machine.execMul w d a b s
  | .mulh w d a b => Sys2Proof.Machine.execMulh w d a b s
  | .mad w d a b => Sys2Proof.Machine.execMad w d a b s
  | .madh w d a b => Sys2Proof.Machine.execMadh w d a b s
  | .and w d a b => Sys2Proof.Machine.execAnd w d a b s
  | .or w d a b => Sys2Proof.Machine.execOr w d a b s
  | .xor w d a b => Sys2Proof.Machine.execXor w d a b s
  | .andn w d a b => Sys2Proof.Machine.execAndn w d a b s
  | .shl w d a b => Sys2Proof.Machine.execShl w d a b s
  | .shr w d a b => Sys2Proof.Machine.execShr w d a b s
  | .sha w d a b => Sys2Proof.Machine.execSha w d a b s
  | .rot w d a b => Sys2Proof.Machine.execRot w d a b s
  | .min w d a b => Sys2Proof.Machine.execMin w d a b s
  | .max w d a b => Sys2Proof.Machine.execMax w d a b s
  | .sel w d a b => Sys2Proof.Machine.execSel w d a b s
  | .selz w d a b => Sys2Proof.Machine.execSelz w d a b s
  | .icmp wide any rel cb kd a b => Sys2Proof.Machine.execIcmp wide any rel cb kd a b s
  | .bfx w d a b => Sys2Proof.Machine.execBfx w d a b s
  | .bfxs w d a b => Sys2Proof.Machine.execBfxs w d a b s
  | .bfi w d a b => Sys2Proof.Machine.execBfi w d a b s
  | .perm w d a b => Sys2Proof.Machine.execPerm w d a b s
  | .mov w d a => Sys2Proof.Machine.execMov w d a s
  | .not w d a => Sys2Proof.Machine.execNot w d a s
  | .neg w d a => Sys2Proof.Machine.execNeg w d a s
  | .abs w d a => Sys2Proof.Machine.execAbs w d a s
  | .clz w d a => Sys2Proof.Machine.execClz w d a s
  | .popc w d a => Sys2Proof.Machine.execPopc w d a s
  | .brev w d a => Sys2Proof.Machine.execBrev w d a s
  | .bswap w d a => Sys2Proof.Machine.execBswap w d a s
  | .ktoi d k => Sys2Proof.Machine.execKtoi d k s
  | .itok kd a => Sys2Proof.Machine.execItok kd a s
  | .kget d => Sys2Proof.Machine.execKget d s
  | .kput a => Sys2Proof.Machine.execKput a s
  | .movg wide d g => Sys2Proof.Machine.execMovg wide d g s
  | .sext w d a m => Sys2Proof.Machine.execSext w d a m s
  | .zext w d a m => Sys2Proof.Machine.execZext w d a m s
  | .addi w d a im => Sys2Proof.Machine.execAddi w d a im s
  | .shli w d a n => Sys2Proof.Machine.execShli w d a n s
  | .shri w d a n => Sys2Proof.Machine.execShri w d a n s
  | .shai w d a n => Sys2Proof.Machine.execShai w d a n s
  | .roti w d a n => Sys2Proof.Machine.execRoti w d a n s
  | .andi w d a im => Sys2Proof.Machine.execAndi w d a im s
  | .ori w d a im => Sys2Proof.Machine.execOri w d a im s
  | .xori w d a im => Sys2Proof.Machine.execXori w d a im s
  | .andni w d a im => Sys2Proof.Machine.execAndni w d a im s
  | .movi d im => Sys2Proof.Machine.execMovi d im s
  | .moviZ d im => Sys2Proof.Machine.execMoviZ d im s
  | .moviH d im => Sys2Proof.Machine.execMoviH d im s
  | .moviL d im => Sys2Proof.Machine.execMoviL d im s
  | .cmpi wide any rel kd a im => Sys2Proof.Machine.execCmpi wide any rel kd a im s
  | .mode q im => Sys2Proof.Machine.execMode q im s
  | .kand kd na ka nb kb => Sys2Proof.Machine.execKand kd na ka nb kb s
  | .kor kd na ka nb kb => Sys2Proof.Machine.execKor kd na ka nb kb s
  | .kxor kd na ka nb kb => Sys2Proof.Machine.execKxor kd na ka nb kb s
  | .kandn kd na ka nb kb => Sys2Proof.Machine.execKandn kd na ka nb kb s
  | .fadd w d a b => Sys2Proof.Machine.execFadd w d a b s
  | .fsub w d a b => Sys2Proof.Machine.execFsub w d a b s
  | .fmul w d a b => Sys2Proof.Machine.execFmul w d a b s
  | .frsub w d a b => Sys2Proof.Machine.execFrsub w d a b s
  | .ffma w d a b => Sys2Proof.Machine.execFfma w d a b s
  | .ffms w d a b => Sys2Proof.Machine.execFfms w d a b s
  | .fnma w d a b => Sys2Proof.Machine.execFnma w d a b s
  | .fnms w d a b => Sys2Proof.Machine.execFnms w d a b s
  | .fmin w d a b => Sys2Proof.Machine.execFmin w d a b s
  | .fmax w d a b => Sys2Proof.Machine.execFmax w d a b s
  | .fminm w d a b => Sys2Proof.Machine.execFminm w d a b s
  | .fmaxm w d a b => Sys2Proof.Machine.execFmaxm w d a b s
  | .fcmp wide any rel cb kd a b => Sys2Proof.Machine.execFcmp wide any rel cb kd a b s
  | .fabs w d a => Sys2Proof.Machine.execFabs w d a s
  | .fneg w d a => Sys2Proof.Machine.execFneg w d a s
  | .frcp w d a => Sys2Proof.Machine.execFrcp w d a s
  | .frsq w d a => Sys2Proof.Machine.execFrsq w d a s
  | .fsqrt w d a => Sys2Proof.Machine.execFsqrt w d a s
  | .fexp2 w d a => Sys2Proof.Machine.execFexp2 w d a s
  | .flog2 w d a => Sys2Proof.Machine.execFlog2 w d a s
  | .fsin w d a => Sys2Proof.Machine.execFsin w d a s
  | .fcos w d a => Sys2Proof.Machine.execFcos w d a s
  | .ftanh w d a => Sys2Proof.Machine.execFtanh w d a s
  | .frnd w d a => Sys2Proof.Machine.execFrnd w d a s
  | .fclass w d a => Sys2Proof.Machine.execFclass w d a s
  | .cvt w d a trunc part dt => Sys2Proof.Machine.execCvt w d a trunc part dt s
  | .packfBf16 w d a b => Sys2Proof.Machine.execPackfBf16 w d a b s
  | .packfF16 w d a b => Sys2Proof.Machine.execPackfF16 w d a b s
  | .packfE4m3 w d a b => Sys2Proof.Machine.execPackfE4m3 w d a b s
  | .packfE5m2 w d a b => Sys2Proof.Machine.execPackfE5m2 w d a b s
  | .dot w d a b => Sys2Proof.Machine.execDot w d a b s
  | .dotz w d a b => Sys2Proof.Machine.execDotz w d a b s
  | .uadd wide d a b => Sys2Proof.Machine.execUadd wide d a b s
  | .usub wide d a b => Sys2Proof.Machine.execUsub wide d a b s
  | .umul wide d a b => Sys2Proof.Machine.execUmul wide d a b s
  | .umad wide d a b => Sys2Proof.Machine.execUmad wide d a b s
  | .uand wide d a b => Sys2Proof.Machine.execUand wide d a b s
  | .uor wide d a b => Sys2Proof.Machine.execUor wide d a b s
  | .uxor wide d a b => Sys2Proof.Machine.execUxor wide d a b s
  | .uandn wide d a b => Sys2Proof.Machine.execUandn wide d a b s
  | .ushl wide d a b => Sys2Proof.Machine.execUshl wide d a b s
  | .ushr wide d a b => Sys2Proof.Machine.execUshr wide d a b s
  | .usha wide d a b => Sys2Proof.Machine.execUsha wide d a b s
  | .urot wide d a b => Sys2Proof.Machine.execUrot wide d a b s
  | .umin wide d a b => Sys2Proof.Machine.execUmin wide d a b s
  | .umax wide d a b => Sys2Proof.Machine.execUmax wide d a b s
  | .uminn wide d a b => Sys2Proof.Machine.execUminn wide d a b s
  | .umaxn wide d a b => Sys2Proof.Machine.execUmaxn wide d a b s
  | .uaddi wide d a im => Sys2Proof.Machine.execUaddi wide d a im s
  | .umovi d im => Sys2Proof.Machine.execUmovi d im s
  | .umoviZ d im => Sys2Proof.Machine.execUmoviZ d im s
  | .umoviH d im => Sys2Proof.Machine.execUmoviH d im s
  | .umoviL d im => Sys2Proof.Machine.execUmoviL d im s
  | .ucmp wide uns rel cb kd a b => Sys2Proof.Machine.execUcmp wide uns rel cb kd a b s
  | .shfli w d a => Sys2Proof.Machine.execShfli w d a s
  | .shflu w d a n => Sys2Proof.Machine.execShflu w d a n s
  | .shfld w d a n => Sys2Proof.Machine.execShfld w d a n s
  | .shflx w d a n => Sys2Proof.Machine.execShflx w d a n s
  | .ballot d neg k => Sys2Proof.Machine.execBallot d neg k s
  | .scanadd ex d a => Sys2Proof.Machine.execScanadd ex d a s
  | .redadd d a => Sys2Proof.Machine.execRedadd d a s
  | .redmin d a => Sys2Proof.Machine.execRedmin d a s
  | .redmax d a => Sys2Proof.Machine.execRedmax d a s
  | .rdlane w d a n => Sys2Proof.Machine.execRdlane w d a n s
  | .bcast w d a => Sys2Proof.Machine.execBcast w d a s
  | .firstLane d => Sys2Proof.Machine.execFirstLane d s
  | .matchLanes d a => Sys2Proof.Machine.execMatchLanes d a s
  | .bra k n off => Sys2Proof.Machine.execBra k n off s
  | .braAlways off => Sys2Proof.Machine.execBraAlways off s
  | .bany k n off => Sys2Proof.Machine.execBany k n off s
  | .ball k n off => Sys2Proof.Machine.execBall k n off s
  | .bnone k n off => Sys2Proof.Machine.execBnone k n off s
  | .brk k n off => Sys2Proof.Machine.execBrk k n off s
  | .jpt off => Sys2Proof.Machine.execJpt off s
  | .call off => Sys2Proof.Machine.execCall off s
  | .jmpr a => Sys2Proof.Machine.execJmpr a s
  | .callr a => Sys2Proof.Machine.execCallr a s
  | .ldg w d a off => Sys2Proof.Machine.execLdg w d a off s
  | .stg w d a off => Sys2Proof.Machine.execStg w d a off s
  | .lds w d a off => Sys2Proof.Machine.execLds w d a off s
  | .sts w d a off => Sys2Proof.Machine.execSts w d a off s
  | .ldc w d a off => Sys2Proof.Machine.execLdc w d a off s
  | .stc w d a off => Sys2Proof.Machine.execStc w d a off s
  | .ldd w d a off => Sys2Proof.Machine.execLdd w d a off s
  | .std w d a off => Sys2Proof.Machine.execStd w d a off s
  | .ldl w d a off => Sys2Proof.Machine.execLdl w d a off s
  | .stl w d a off => Sys2Proof.Machine.execStl w d a off s
  | .ldx d a sp kind => Sys2Proof.Machine.execLdx d a sp kind s
  | .stx d a sp half => Sys2Proof.Machine.execStx d a sp half s
  | .ldo wide d a sp acq sc => Sys2Proof.Machine.execLdo wide d a sp acq sc s
  | .sto wide d a sp rel sc => Sys2Proof.Machine.execSto wide d a sp rel sc s
  | .atomgAdd d a b => Sys2Proof.Machine.execAtomgAdd d a b s
  | .atomgMin d a b => Sys2Proof.Machine.execAtomgMin d a b s
  | .atomgMax d a b => Sys2Proof.Machine.execAtomgMax d a b s
  | .atomgAnd d a b => Sys2Proof.Machine.execAtomgAnd d a b s
  | .atomgOr d a b => Sys2Proof.Machine.execAtomgOr d a b s
  | .atomgXor d a b => Sys2Proof.Machine.execAtomgXor d a b s
  | .atomgExch d a b => Sys2Proof.Machine.execAtomgExch d a b s
  | .atomgCas d a b => Sys2Proof.Machine.execAtomgCas d a b s
  | .atomgInc d a b => Sys2Proof.Machine.execAtomgInc d a b s
  | .atomgDec d a b => Sys2Proof.Machine.execAtomgDec d a b s
  | .atomsAdd d a b => Sys2Proof.Machine.execAtomsAdd d a b s
  | .atomsMin d a b => Sys2Proof.Machine.execAtomsMin d a b s
  | .atomsMax d a b => Sys2Proof.Machine.execAtomsMax d a b s
  | .atomsAnd d a b => Sys2Proof.Machine.execAtomsAnd d a b s
  | .atomsOr d a b => Sys2Proof.Machine.execAtomsOr d a b s
  | .atomsXor d a b => Sys2Proof.Machine.execAtomsXor d a b s
  | .atomsExch d a b => Sys2Proof.Machine.execAtomsExch d a b s
  | .atomsCas d a b => Sys2Proof.Machine.execAtomsCas d a b s
  | .atomsInc d a b => Sys2Proof.Machine.execAtomsInc d a b s
  | .atomsDec d a b => Sys2Proof.Machine.execAtomsDec d a b s
  | .atomcAdd d a b => Sys2Proof.Machine.execAtomcAdd d a b s
  | .atomcMin d a b => Sys2Proof.Machine.execAtomcMin d a b s
  | .atomcMax d a b => Sys2Proof.Machine.execAtomcMax d a b s
  | .atomcAnd d a b => Sys2Proof.Machine.execAtomcAnd d a b s
  | .atomcOr d a b => Sys2Proof.Machine.execAtomcOr d a b s
  | .atomcXor d a b => Sys2Proof.Machine.execAtomcXor d a b s
  | .atomcExch d a b => Sys2Proof.Machine.execAtomcExch d a b s
  | .atomcCas d a b => Sys2Proof.Machine.execAtomcCas d a b s
  | .atomcInc d a b => Sys2Proof.Machine.execAtomcInc d a b s
  | .atomcDec d a b => Sys2Proof.Machine.execAtomcDec d a b s
  | .atomdAdd d a b => Sys2Proof.Machine.execAtomdAdd d a b s
  | .atomdMin d a b => Sys2Proof.Machine.execAtomdMin d a b s
  | .atomdMax d a b => Sys2Proof.Machine.execAtomdMax d a b s
  | .atomdAnd d a b => Sys2Proof.Machine.execAtomdAnd d a b s
  | .atomdOr d a b => Sys2Proof.Machine.execAtomdOr d a b s
  | .atomdXor d a b => Sys2Proof.Machine.execAtomdXor d a b s
  | .atomdExch d a b => Sys2Proof.Machine.execAtomdExch d a b s
  | .atomdCas d a b => Sys2Proof.Machine.execAtomdCas d a b s
  | .atomdInc d a b => Sys2Proof.Machine.execAtomdInc d a b s
  | .atomdDec d a b => Sys2Proof.Machine.execAtomdDec d a b s
  | .fenceAcq sc => Sys2Proof.Machine.execFenceAcq sc s
  | .fenceRel sc => Sys2Proof.Machine.execFenceRel sc s
  | .fenceFull sc => Sys2Proof.Machine.execFenceFull sc s
  | .sig sm n => Sys2Proof.Machine.execSig sm n s
  | .swait sm n => Sys2Proof.Machine.execSwait sm n s
  | .spoll d sm clr => Sys2Proof.Machine.execSpoll d sm clr s
  | .yield sm n => Sys2Proof.Machine.execYield sm n s
  | .cpyGs sz d a => Sys2Proof.Machine.execCpyGs sz d a s
  | .cpySg sz d a => Sys2Proof.Machine.execCpySg sz d a s
  | .cpyGc sz d a => Sys2Proof.Machine.execCpyGc sz d a s
  | .cpySs sz d a => Sys2Proof.Machine.execCpySs sz d a s
  | .louver a => Sys2Proof.Machine.execLouver a s
  | .cpym a => Sys2Proof.Machine.execCpym a s
  | .brun a => Sys2Proof.Machine.execBrun a s
  | .shut a => Sys2Proof.Machine.execShut a s
  | .mma t a b => Sys2Proof.Machine.execMma t a b s
  | .mzero t b => Sys2Proof.Machine.execMzero t b s
  | .mdrain t a b => Sys2Proof.Machine.execMdrain t a b s
  | .mstat clr d => Sys2Proof.Machine.execMstat clr d s
  | .bars kd slot => Sys2Proof.Machine.execBars kd slot s
  | .arr d slot => Sys2Proof.Machine.execArr d slot s
  | .atry kd a slot => Sys2Proof.Machine.execAtry kd a slot s
  | .pop d a => Sys2Proof.Machine.execPop d a s
  | .enq kd a => Sys2Proof.Machine.execEnq kd a s
  | .enqW a => Sys2Proof.Machine.execEnqW a s
  | .valid a => Sys2Proof.Machine.execValid a s
  | .rdvalid a => Sys2Proof.Machine.execRdvalid a s
  | .rdslk a => Sys2Proof.Machine.execRdslk a s
  | .bankOpen fs => Sys2Proof.Machine.execBankOpen fs s
  | .bankRdc d ca => Sys2Proof.Machine.execBankRdc d ca s
  | .bankWrc c ca => Sys2Proof.Machine.execBankWrc c ca s
  | .bankMacx q n slot xr ca => Sys2Proof.Machine.execBankMacx q n slot xr ca s
  | .bankMacc q c ca => Sys2Proof.Machine.execBankMacc q c ca s
  | .bankAxpy f d ca => Sys2Proof.Machine.execBankAxpy f d ca s
  | .bankScl f d c => Sys2Proof.Machine.execBankScl f d c s
  | .bankQzero q n => Sys2Proof.Machine.execBankQzero q n s
  | .bankHsum q => Sys2Proof.Machine.execBankHsum q s
  | .bankQst q d => Sys2Proof.Machine.execBankQst q d s
  | .bankQout q n => Sys2Proof.Machine.execBankQout q n s
  | .bankSetb b im => Sys2Proof.Machine.execBankSetb b im s
  | .bankAddb b im => Sys2Proof.Machine.execBankAddb b im s
  | .bankSetf f im => Sys2Proof.Machine.execBankSetf f im s
  | .bankLoop b tgt => Sys2Proof.Machine.execBankLoop b tgt s
  | .bankFmt sat wf => Sys2Proof.Machine.execBankFmt sat wf s
  | .nop => Sys2Proof.Machine.execNop s
  | .exit => Sys2Proof.Machine.execExit s
  | .brkpt => Sys2Proof.Machine.execBrkpt s
  | .icinv => Sys2Proof.Machine.execIcinv s
  | .tret => Sys2Proof.Machine.execTret s
  | .tfail => Sys2Proof.Machine.execTfail s
  | .tlbinvAll => Sys2Proof.Machine.execTlbinvAll s
  | .ret => Sys2Proof.Machine.execRet s
  | .bart => Sys2Proof.Machine.execBart s
  | .bankNop => Sys2Proof.Machine.execBankNop s
  | .bankClose => Sys2Proof.Machine.execBankClose s
  | .bankSig => Sys2Proof.Machine.execBankSig s
  | .bankEnd => Sys2Proof.Machine.execBankEnd s
  | .powerOnReset => Sys2Proof.Machine.execPowerOnReset s
  | .mbcmdLoadVerify => Sys2Proof.Machine.execMbcmdLoadVerify s
  | .attestationSign => Sys2Proof.Machine.execAttestationSign s
  | .fatalError => Sys2Proof.Machine.execFatalError s
  | .submit => Sys2Proof.Machine.execSubmit s
  | .feed => Sys2Proof.Machine.execFeed s
  | .resume => Sys2Proof.Machine.execResume s
  | .kill => Sys2Proof.Machine.execKill s
  | .hostTlbinv => Sys2Proof.Machine.execHostTlbinv s
  | .contextEnd => Sys2Proof.Machine.execContextEnd s
  | .registerWrite => Sys2Proof.Machine.execRegisterWrite s
  | .bar2Read => Sys2Proof.Machine.execBar2Read s
  | .bar2Write => Sys2Proof.Machine.execBar2Write s
  | .lintelEnable => Sys2Proof.Machine.execLintelEnable s
  | .lintelDisable => Sys2Proof.Machine.execLintelDisable s
  | .timePortLock => Sys2Proof.Machine.execTimePortLock s
  | .governorTick => Sys2Proof.Machine.execGovernorTick s
  | .coolantOver45c => Sys2Proof.Machine.execCoolantOver45c s
  | .coolantBelow40c => Sys2Proof.Machine.execCoolantBelow40c s
  | .refreshDue => Sys2Proof.Machine.execRefreshDue s
  | .launchAccept => Sys2Proof.Machine.execLaunchAccept s
  | .preemptionSave => Sys2Proof.Machine.execPreemptionSave s
  | .teamRetire => Sys2Proof.Machine.execTeamRetire s
  | .tWrapReached => Sys2Proof.Machine.execTWrapReached s
  | .diversion => Sys2Proof.Machine.execDiversion s
  | .deadlineReached => Sys2Proof.Machine.execDeadlineReached s
  | .teamKill => Sys2Proof.Machine.execTeamKill s
  | .loadReturn => Sys2Proof.Machine.execLoadReturn s
  | .splitJoin => Sys2Proof.Machine.execSplitJoin s
  | .serialTurnEnd => Sys2Proof.Machine.execSerialTurnEnd s
  | .trapEntry => Sys2Proof.Machine.execTrapEntry s
  | .trapRecordDeferredWrite => Sys2Proof.Machine.execTrapRecordDeferredWrite s
  | .writeBack => Sys2Proof.Machine.execWriteBack s
  | .drainRequest => Sys2Proof.Machine.execDrainRequest s
  | .invalidationPoint => Sys2Proof.Machine.execInvalidationPoint s
  | .invalidationAck => Sys2Proof.Machine.execInvalidationAck s
  | .engineCommandComplete => Sys2Proof.Machine.execEngineCommandComplete s
  | .cpymExecute => Sys2Proof.Machine.execCpymExecute s
  | .louverExecute => Sys2Proof.Machine.execLouverExecute s
  | .matrixCommandStart => Sys2Proof.Machine.execMatrixCommandStart s
  | .mmaKStep => Sys2Proof.Machine.execMmaKStep s
  | .bankQueueNextCheck => Sys2Proof.Machine.execBankQueueNextCheck s
  | .handingDone => Sys2Proof.Machine.execHandingDone s
  | .toDieFrame => Sys2Proof.Machine.execToDieFrame s
  | .bankRunGrant => Sys2Proof.Machine.execBankRunGrant s
  | .windowEnd => Sys2Proof.Machine.execWindowEnd s
  | .tokenArrival => Sys2Proof.Machine.execTokenArrival s
  | .guardElapsed => Sys2Proof.Machine.execGuardElapsed s
  | .lintelFrameReceive => Sys2Proof.Machine.execLintelFrameReceive s
  | .scheduleTimeout => Sys2Proof.Machine.execScheduleTimeout s
  | .rollCall => Sys2Proof.Machine.execRollCall s
  | .rollCallEnd => Sys2Proof.Machine.execRollCallEnd s
  | .ualinkRequest => Sys2Proof.Machine.execUalinkRequest s
  | .remoteResponse => Sys2Proof.Machine.execRemoteResponse s
  | .remoteRequestTimeout => Sys2Proof.Machine.execRemoteRequestTimeout s
  | .linkStateChange => Sys2Proof.Machine.execLinkStateChange s
  | .tokenRequest => Sys2Proof.Machine.execTokenRequest s
  | .tokenRecall => Sys2Proof.Machine.execTokenRecall s
  | .recallDone => Sys2Proof.Machine.execRecallDone s
  | .tokenGiveBack => Sys2Proof.Machine.execTokenGiveBack s
  | .tokenGrant => Sys2Proof.Machine.execTokenGrant s
  | .illegalEncoding => Sys2Proof.Machine.execIllegalEncoding s
  | .instructionFetchFault => Sys2Proof.Machine.execInstructionFetchFault s
  | .imageVerificationEnd => Sys2Proof.Machine.execImageVerificationEnd s
  | .timePortLockLoss => Sys2Proof.Machine.execTimePortLockLoss s

end Sys2Proof.Machine
end

