-- ==== Sys2Proof/Machine/Front.lean ====
section
/-! DEFINITION. What the front end, walks and waiting accesses go on with when nothing holds them back any longer: channels that bank runs held (R342),
write-backs that were asked for (R236), and answers from outside the part (R220, R264, R395). -/

namespace Sys2Proof.Machine

open Sys2Proof

/-- An access that waits for a channel performed, once its row is served: an entry of a walk, or a line of an operation. A write is tried again with what
it belongs to. -/
def serveWait (s : State) (w : RowWait) : State :=
  let done (s : State) : State := { s with rowWaits := s.rowWaits.filter (fun x => x != w) }
  match w.want with
  | .write => s
  | .entry agent ctx lvl va => match serveRow s w.pa with
    | some s1 => readEntry (done s1) agent ctx lvl va w.pa
    | none => s
  | .line op => match serveRow s w.pa with
    | some s1 => keepLine (done s1) op w.pa
    | none => s

/-- The launches whose words are being read tested (R183). -/
def testReading (s : State) : State := ((s.launches.filter (fun l => l.reading)).map (fun l => l.lch)).foldl testBlocked s

/-- The requests of peers and the reads of the host that wait for drains tried again in order, and the tokens that waited for them (R236, R429). -/
def serveLaters (s : State) : State :=
  serveHomes (s.laters.foldl (fun s x => match x with
    | .peer r => peerServe s r
    | .bar2 off len => bar2Read s off len) { s with laters := [] })

/-- The trap records that wait written as far as may be (R369, R370). -/
def flushAll (s : State) : State :=
  let s1 := s.groups.foldl (fun s g => flushRecords s g.uid) s
  s1.ctxs.foldl (fun s c => flushPosts (flushPosts s c.1 0) c.1 1) s1

/-- The writes that still wait at a row that is served belong to nothing any more. -/
def dropWrites (s : State) : State :=
  { s with rowWaits := s.rowWaits.filter (fun w => !(w.want == .write && (serveRow s w.pa).isSome)) }

/-- Everything that waits tried once: channels, events, launches, queues, requests of peers and of the host, Lintel frames, host commands and trap records;
then the distributor (R193). -/
def frontOn (s : State) : State :=
  let s1 := testReading (raisesOn (s.rowWaits.foldl serveWait s))
  let s2 := applyAll (serveLaters (s1.ctxs.foldl (fun s c => serveRestored s c.1) s1))
  distribute (dropWrites (flushAll (s2.ctxs.foldl (fun s c => appendOn s c.1) s2)))

/-- Something waits that `frontOn` may go on with. -/
def frontWaits (s : State) : Bool :=
  !s.rowWaits.isEmpty || s.raises.any (fun r => r.after.isEmpty) || s.launches.any (fun l => l.reading) || !s.laters.isEmpty
    || !s.lintel.frames.isEmpty || s.ctxs.any (fun c => c.2.hrec.isSome || !c.2.pops.isEmpty || !c.2.enqs.isEmpty)

/-- A turn of the front end: none after a fatal error (R453). -/
def frontTurn (s : State) : State := if s.dev.boot = .fatal then s else bump (frontOn s)

end Sys2Proof.Machine
end

