-- ==== Sys2Proof/Machine/Schedule.lean ====
section
/-! DEFINITION. Which agent moves (log 1): the turns of the agenda, the events of the part that are due, the issue choice of R195, the
fetch and issue of a split's next instruction (R130, R156), the next command of a bank run (R332), and the clock (R3, R456). -/

namespace Sys2Proof.Machine

open Sys2Proof

/-- The state after an outcome changed by a function. -/
def mapNext (f : State → State) : Host.Outcome State Fault Refusal → Host.Outcome State Fault Refusal
  | .next s => .next (f s)
  | .fault r => .fault r
  | .refused r => .refused r

/-! ### The clock -/

/-- The correction of one clock: toward the time that device time is steered to, by at most 10 ppm (R440, R456). -/
def steerStep (d : Dev) : Int := max (-50) (min 50 d.steer)

/-- One clock of 1.8 GHz: 5/9 ns of device time, corrected (R3, R440, R456), in units of 1/9,000,000 ns; every quadrant may issue again
(R195). -/
def tick (s : State) : State :=
  let f := s.frac + (5000000 + steerStep s.dev).toNat
  { s with
    dev := { s.dev with steer := s.dev.steer - steerStep s.dev }
    clock := s.clock + 1
    dtime := s.dtime + f / 9000000
    frac := f % 9000000
    issued := []
    passed := [] }

/-- Several clocks. -/
def ticks : Nat → State → State
  | 0, s => s
  | n + 1, s => ticks n (tick s)

/-! ### Events -/

/-- An event with its subject. -/
def runEvent (s : State) (i : Instr) (x : Subject) : Host.Outcome State Fault Refusal :=
  mapNext (fun t => { t with subject := .none }) (exec i { s with subject := x })

/-- After a fatal error the part serves resets, register accesses and BAR2 alone (R453). -/
def serves (s : State) (i : Instr) : Bool :=
  s.dev.boot != .fatal || (match i with
    | .powerOnReset | .registerWrite | .bar2Read | .bar2Write | .linkStateChange => true
    | _ => false)

/-- An event changes the state beyond the model's own counter. -/
def changes (s : State) : Host.Outcome State Fault Refusal → Bool
  | .next t => decide ({ t with draws := s.draws, subject := s.subject } ≠ s)
  | _ => false

/-- The events that a group may be due. -/
def groupEvents (g : Group) : List (Instr × Subject) :=
  (if g.raised.isSome then [(.trapEntry, .num g.uid)] else [])
    ++ g.pends.map (fun p => (.loadReturn, .pair p.load p.reg))
    ++ (if g.hold == .divert then [(.diversion, .num g.uid)] else [])
    ++ (if g.records.isEmpty then [] else [(.trapRecordDeferredWrite, .num g.uid)])

/-- The events that a command of a core may be due. -/
def cmdEvents (core : Nat) (c : CoreSt) (m : Cmd) : List (Instr × Subject) :=
  if canComplete c m then [(.engineCommandComplete, .num m.uid)]
  else match m.kind, m.st with
    | _, .ended => []
    | .cpy _ _, _ => [(.engineCommandComplete, .num m.uid)]
    | .cpym, _ => [(.cpymExecute, .num m.uid)]
    | .louver, _ => [(.louverExecute, .num (dieOf core))]
    | .shut, .started => [(.bankQueueNextCheck, .num core), (.handingDone, .num m.uid), (.toDieFrame, .num m.uid)]
    | .shut, .queued | .brun, _ => [(.bankQueueNextCheck, .num core)]
    | .mma, _ | .mzero, _ | .mdrain, _ => [(.matrixCommandStart, .num core), (.mmaKStep, .num core)]

/-- The events that a team may be due. -/
def teamEvents (s : State) (t : Team) : List (Instr × Subject) :=
  (if (groupsOf s t.uid).all (fun g => g.retired) then [(.teamRetire, .num t.uid)] else [])
    ++ (if t.killed then [(.teamKill, .num t.uid)] else [])
    ++ (if saving s t then [(.preemptionSave, .num t.uid)] else [])

/-- The events that a launch may be due. -/
def launchEvents (s : State) (l : Launch) : List (Instr × Subject) :=
  (if tWrap l.lr ≤ (s.dtime : Int) && (l.st == .blocked || l.st == .eligible || l.st == .running) then [(.tWrapReached, .num l.lch)] else [])
    ++ (if decide (l.lr.deadline ≤ s.dtime) && (l.st == .running || l.st == .wrapping) then [(.deadlineReached, .num l.lch)] else [])

/-- The host command that a context has latched and that needs nothing more from the host (R455). -/
def commandEvents (c : Nat) (x : Ctx) : List (Instr × Subject) :=
  if x.hsts ≠ 0 then []
  else match byteAt x.latched 0 with
    | 3 => [(.resume, .num c)]
    | 4 => [(.kill, .num c)]
    | 5 => [(.hostTlbinv, .num c)]
    | _ => []

/-- The records that the dies have posted or hold (R369, R370). -/
def postEvents (s : State) : List (Instr × Subject) :=
  (s.posts.map (fun r => (r.ctx, r.die)) ++ s.ctxs.flatMap (fun c => (c.2.hold0 ++ c.2.hold1).map (fun r => (r.ctx, r.die)))).eraseDups.map
    (fun p => (.trapRecordDeferredWrite, .pair p.1 p.2))

/-- The write-backs that drains wait for (R236, R342). -/
def backEvents (s : State) : List (Instr × Subject) :=
  (s.wbs.filter (fun w => (l1Line? s w.core w.line).any (fun l => l.dirty != 0))).map (fun w => (.writeBack, .pair w.core w.line))

/-- The events that a context may be due. -/
def ctxEvents (c : Nat) (x : Ctx) : List (Instr × Subject) :=
  (x.lq.filter (fun q => q.2.ok && !q.2.empty)).map (fun q => (.launchAccept, .pair c q.1))
    ++ commandEvents c x

/-- The events that a bank run may be due. -/
def runEvents (r : Run) : List (Instr × Subject) :=
  match r.st with
  | .waiting => [(.bankRunGrant, .num r.uid)]
  | .suspended => [(.windowEnd, .num r.uid)]
  | .running => []

/-- The events that an invalidation may be due. -/
def invalEvents (i : Inval) : List (Instr × Subject) :=
  i.toPoint.map (fun a => (.invalidationPoint, .pair i.uid a)) ++ i.toAck.map (fun a => (.invalidationAck, .pair i.uid a.1))

/-- The events of the part that may be due, in the order in which an empty agenda takes them. -/
def dueEvents (s : State) : List (Instr × Subject) :=
  s.groups.flatMap groupEvents
    ++ s.remotes.map (fun r => (.remoteRequestTimeout, .num r.uid))
    ++ s.cores.flatMap (fun c => c.2.cmds.flatMap (cmdEvents c.1 c.2))
    ++ postEvents s
    ++ backEvents s
    ++ s.runs.flatMap runEvents
    ++ s.invals.flatMap invalEvents
    ++ s.launches.flatMap (launchEvents s)
    ++ s.teams.flatMap (teamEvents s)
    ++ s.ctxs.flatMap (fun c => ctxEvents c.1 c.2)
    ++ (if s.lintel.station == .pass then [(.guardElapsed, .none)] else [])

/-- The first due event that has something to do. -/
def dueEvent (s : State) : Option (Host.Outcome State Fault Refusal) :=
  (dueEvents s).findSome? (fun e =>
    let o := runEvent s e.1 e.2
    if serves s e.1 && changes s o then some o else none)

/-! ### The issue choice (R195) -/

/-- A split that may issue in this clock, with what R195 orders by. -/
structure Ready where
  grp : Nat
  e : Nat
  quad : Nat
  age : Nat
  cls : Nat
  slot : Nat
deriving DecidableEq, Repr

/-- The quadrant of a group: 4 × core + the quadrant that its `gix` gives (R177). -/
def quadOf (g : Group) (t : Team) : Nat := 4 * t.core + g.gix % 4

/-- A group's quadrant may issue in this clock: the part runs, neither the quadrant nor a higher one of its core has issued, so that what
quadrants issue in one clock comes in ascending order (R301, R433), and the governor does not withhold the slot. -/
def quadOpen (s : State) (g : Group) (t : Team) : Bool :=
  s.dev.boot == .running && t.placed && !t.killed && g.canIssue && s.issued.all (fun q => q / 4 != t.core || decide (q < quadOf g t))
    && !(s.dev.throttle == .issueClass0 && s.clsOf t == 0)

/-- The entries of a group that are READY in this clock and not passed over. -/
def readyEntries (s : State) (g : Group) : List Nat :=
  entriesIf g (fun sp => sp.st == .ready && decide (sp.since ≤ s.clock)) |>.filter (fun e => !s.passed.contains (g.uid, e))

/-- Every split that may issue in this clock. -/
def readySplits (s : State) : List Ready :=
  s.groups.flatMap (fun g => match s.team? g.team with
    | none => []
    | some t => if quadOpen s g t then (readyEntries s g).map (fun e =>
        ⟨g.uid, e, quadOf g t, s.clock - (g.split e).since, s.clsOf t, g.slot⟩) else [])

/-- The class of R195's choice: aged splits, then class 1, then class 0. -/
def Ready.rank (r : Ready) : Nat := if 1024 ≤ r.age then 0 else if r.cls = 1 then 1 else 2

/-- R195 chooses a split before another of its quadrant. -/
def Ready.before (a b : Ready) : Bool :=
  if a.rank ≠ b.rank then decide (a.rank < b.rank)
  else if a.age ≠ b.age then decide (b.age < a.age)
  else if a.slot ≠ b.slot then decide (a.slot < b.slot)
  else decide (a.e < b.e)

/-- R195 lets a split of the list issue: no other of its quadrant comes before it. -/
def chosen (l : List Ready) (r : Ready) : Bool := l.all (fun q => q.quad != r.quad || !q.before r)

/-- The split that an empty agenda issues: R195's choice of the lowest quadrant that has one. -/
def issueChoice (s : State) : Option Ready :=
  let l := readySplits s
  (l.filter (chosen l)).foldl (fun b r => match b with
    | none => some r
    | some c => some (if r.quad < c.quad then r else c)) none

/-! ### Issue -/

/-- The issuing split named, with bit S of its word. -/
def withIssuer (s : State) (grp e : Nat) (w : Word) : State := { s with issuer := some ⟨grp, e, switchBit w.toNat⟩ }

/-- After an issue: no split is issuing, and the quadrant has issued unless the split was passed over. -/
def afterIssue (before : State) (quad : Nat) (t : State) : State :=
  { t with issuer := none, issued := if before.passed.length < t.passed.length then t.issued else quad :: t.issued }

/-- The instruction of a fetched word, or ILLEGAL_ENCODING (R74). -/
def instrOf (w : Word) : Instr := (decodeWord w.toNat).getD .illegalEncoding

/-- A split keeps the word that it has fetched until the word issues (R152). -/
def keepWord (s : State) (u e : Nat) (w : Word) : State :=
  s.modGroup u (fun g => g.setSplit e { g.split e with word := some w, ask := none })

/-- A split whose fetch a channel holds back: it is passed over, and its request to the row waits from now or from its first try (R342). -/
def fetchHeld (s : State) (u e pa : Nat) : State :=
  let row := rowOf pa
  let rows (sp : Split) : List (Nat × Nat) := match sp.ask with
    | some a => if a.rows.any (fun r => r.1 == row) then a.rows else [(row, s.uid)]
    | none => [(row, s.uid)]
  { s.fresh.modGroup u (fun g => g.setSplit e { g.split e with ask := some { rows := rows (g.split e) } }) with passed := (u, e) :: s.passed }

/-- A split whose code lies in the host's memory: it is passed over until the line that it asks for has come (R220, R448). -/
def fetchAsk (s : State) (t : Team) (u e pa va : Nat) : State :=
  let r : Remote := { uid := s.uid, core := t.core, grp := noGrp, host := true, kind := .read, addr := hostAddr s pa, len := 128, data := [], mask := [], va := va, code := some t.uid, since := s.dtime }
  let s1 := (s.fresh.request r).modGroup u (fun g => g.setSplit e { g.split e with ask := some { reqs := [s.uid] } })
  { s1 with passed := (u, e) :: s1.passed }

/-- A split whose fetch awaits an entry of its walk: it is passed over, and the entry asked for (R220, R342, R395). -/
def fetchWalks (s : State) (t : Team) (u e va : Nat) : State :=
  let s1 := askEntry s t.core t.ctx va
  { s1 with passed := (u, e) :: s1.passed }

/-- The next instruction of a split, fetched unless its word is at hand, and executed. -/
def issueWord (s : State) (g : Group) (t : Team) (e : Nat) : Host.Outcome State Fault Refusal :=
  let run (s : State) (w : Word) : Host.Outcome State Fault Refusal := exec (instrOf w) (withIssuer s g.uid e w)
  mapNext (afterIssue s (quadOf g t))
    (match (g.split e).word with
      | some w => run s w
      | none =>
        if askWaits (g.split e) then .next { s with passed := (g.uid, e) :: s.passed }
        else if (codeFail (g.split e)).isSome then exec .instructionFetchFault (withIssuer s g.uid e 0)
        else match fetchWord s g t (g.split e).pc with
        | .trap _ _ => exec .instructionFetchFault (withIssuer s g.uid e 0)
        | .held pa => .next (fetchHeld s g.uid e pa)
        | .ask pa va => .next (fetchAsk s t g.uid e pa va)
        | .walks va => .next (fetchWalks s t g.uid e va)
        | .got s1 w => run (keepWord s1 g.uid e w) w)

/-- A split that R195 has chosen: it joins, ends its serial turn, or issues (R159, R169, R156). -/
def issueSplit (s : State) (g : Group) (t : Team) (e : Nat) : Host.Outcome State Fault Refusal :=
  if atJoin g (g.split e) then runEvent s (if (g.split e).ser then .serialTurnEnd else .splitJoin) (.pair g.uid e)
  else issueWord s g t e

/-- A split by its group and entry, when it may issue. -/
def issueOf (s : State) (grp e : Nat) : Host.Outcome State Fault Refusal :=
  let l := readySplits s
  match s.group? grp with
  | none => .next s
  | some g =>
    match s.team? g.team with
    | none => .next s
    | some t => if l.any (fun r => r.grp == grp && r.e == e && chosen l r) then issueSplit s g t e else .next s

/-! ### Bank runs -/

/-- The command at a run's µPC executed (R332), after what a boundary before it serves (R342). -/
def bankTurn (s : State) (uid : Nat) : Host.Outcome State Fault Refusal :=
  match s.run? uid with
  | none => .next s
  | some r =>
    if r.st ≠ .running ∨ s.dev.boot = .fatal then .next s
    else match atBoundary s r with
    | some s1 => .next s1
    | none => match (r.prog[r.upc]?).bind (fun w => decodeBank w.toNat) with
      | some i => mapNext (fun t => { t with curRun := none }) (exec i { s with curRun := some uid })
      | none => .next s

/-- The first running bank run whose command has something to do. -/
def dueRun (s : State) : Option (Host.Outcome State Fault Refusal) :=
  s.runs.findSome? (fun r => if r.st = .running then
      let o := bankTurn s r.uid
      if changes s o then some o else none
    else none)

/-! ### Uncorrectable errors that arise (R371) -/

/-- An error at a place: held by the group whose registers it meets, else in the list of damaged words. -/
def upset (s : State) (d : Damage) : State :=
  match d with
  | .reg u k => s.modGroup u (fun g => { g with badRegs := k :: g.badRegs.filter (fun x => x != k) })
  | .pred u k m => s.modGroup u (fun g => { g with badPreds := setAt g.badPreds k (g.badPreds.getD k 0 ||| m) })
  | .uni u n => s.modGroup u (fun g => { g with badUnis := n :: g.badUnis.filter (fun x => x != n) })
  | _ => if s.damage.contains d then s else { s with damage := d :: s.damage }

/-! ### A step -/

/-- A turn of the agenda. -/
def runTurn (s : State) : Turn → Host.Outcome State Fault Refusal
  | .event i x => if i.isEvent && serves s i then runEvent s i x else .next s
  | .issue g e => issueOf s g e
  | .bank r => bankTurn s r
  | .clock n => .next (ticks n s)
  | .upset d => .next (upset s d)
  | .perform l r i => .next (if s.dev.boot = .fatal then s else performTurn s l r i)
  | .tlbLoad a c v => .next (if s.dev.boot = .fatal ∨ frontEnd ≤ a then s else tlbLoad s a c v)
  | .bar2Size k => .next (resizeBar2 s k)
  | .front => .next (frontTurn s)

/-- What waits in the front end gone on with, where that has something to do. -/
def dueFront (s : State) : Option (Host.Outcome State Fault Refusal) :=
  if !frontWaits s then none
  else if changes s (.next (frontTurn s)) then some (.next (frontTurn s)) else none

/-- A step with an empty agenda: a due event, what waits in the front end, a bank command, R195's choice, else a clock. -/
def idle (s : State) : Host.Outcome State Fault Refusal :=
  match dueEvent s with
  | some o => o
  | none =>
    match dueFront s with
    | some o => o
    | none =>
      match dueRun s with
      | some o => o
      | none =>
        match issueChoice s with
        | some r => issueOf s r.grp r.e
        | none => .next (tick s)

/-- One step: the first turn of the agenda, or what an empty agenda lets come about. -/
def stepOf (s : State) : Host.Outcome State Fault Refusal :=
  match s.agenda with
  | t :: rest => runTurn { s with agenda := rest } t
  | [] => idle s

/-! ### A state that runs one word -/

/-- The bank run that holds a one-command program. -/
def probeRun (uid : Nat) (w : Word) : Run := { uid := uid, cmd := uid, core := 0, team := uid, ctx := 0, st := .running, prog := [w] }

/-- The launch, team and group of one READY split on core 0 at PC 0. -/
def probeLaunch : Launch := { lch := 0, ctx := 0, lr := { code := 0x20000, regs := 96 }, st := .running, nextTix := 1 }

/-- (see `probeLaunch`) -/
def probeTeam (uid : Nat) (code : List Host.Cell) : Team := { uid := uid, lch := 0, sgLimit := 2 ^ 32, ssLimit := 2 ^ 19, icMem := code }

/-- (see `probeLaunch`) -/
def probeGroup (uid team clock : Nat) : Group :=
  { uid := uid, team := team, splits := [{ st := .ready, am := BitVec.allOnes 32, since := clock }, {}, {}, {}] }

/-- The page tables that map virtual address 0 to 4 GiB to physical address 0, at the addresses 0x8000 and 0x10000, and a word at 0x20000. -/
def probeMem (s : State) (w : Nat) : State :=
  ((s.setHome 0x8000 (bytesOf 8 0x10001)).setHome 0x10000 (bytesOf 8 0x1F)).setHome 0x20000 (bytesOf 4 w)

/-- A state whose next step fetches a word for a split of a running launch. -/
def probeLane (s : State) (w : Nat) : State :=
  let s1 := probeMem s w
  { s1.setCtx 0 { s.ctx 0 with en := true, pgroot := 0x8001 } with
    dev := { s.dev with boot := .running, throttle := .none }
    launches := [probeLaunch]
    teams := [probeTeam s.uid s1.mem]
    groups := [probeGroup (s.uid + 1) s.uid s.clock]
    cores := mset {} s1.cores 0 {}
    uid := s.uid + 2
    issued := [], passed := []
    agenda := .issue (s.uid + 1) 0 :: s.agenda }

/-- A state whose next step executes a bank command. -/
def probeBank (s : State) (w : Nat) : State :=
  { s with
    dev := { s.dev with boot := .running, throttle := .none }
    runs := [probeRun s.uid (BitVec.ofNat 32 w)]
    uid := s.uid + 1
    agenda := .bank s.uid :: s.agenda }

/-- A word placed where the next step takes its instruction from: a split's code, or, for a word that is only a bank command, a bank
run's program (log 11). -/
def placeWord (s : State) (w : Nat) : State :=
  if (decodeWord w).isNone && (decodeBank w).isSome then probeBank s w else probeLane s w

end Sys2Proof.Machine
end

