-- ==== Sys2Proof/Machine/Step.lean ====
section
/-! DEFINITION. The step of the part, and the state that runs one word next. What they do stands in Machine/Schedule.lean. -/

namespace Sys2Proof.Machine

open Sys2Proof

/-- One step of the part (log 1). -/
def step (s : State) : Host.Outcome State Fault Refusal := stepOf s

/-- The state with an instruction of `nbits` bits placed where the next step fetches it (log 11). -/
def State.withFetchWord (s : State) (nbits w : Nat) : State := placeWord s (w % 2 ^ (Nat.min nbits 32))

end Sys2Proof.Machine
end

