-- ==== Sys2Proof/Safety.lean ====
section
/-! DEFINITION. What counts as a safe state, and the terms in which statements are written: the canonical form of the memories, an
instruction that passes checks 1 to 4, what it answers, and the results of the families. -/

namespace Sys2Proof.Machine

open Sys2Proof

/-- The memories are in canonical form: the homes, the scratch of the cores, the die scratch and the accumulators. -/
def MemWf (s : State) : Prop :=
  mwf blankByte s.mem = true ∧ mwf blankByte s.scr = true ∧ mwf blankByte s.dscr = true ∧ mwf (0 : Word) s.acc = true

/-! ### Issue -/

/-- The split that issues passes everything that comes before its instruction's own check 5: it is the one that the state names, each home
that it asked has accepted, no full queue holds the instruction back, and checks 2 to 4 of Table 03.8 pass (R76). -/
structure Issues (s : State) (x : Ix) (n : Needs) : Prop where
  names : ixOf s = some x
  clear : askTrap x.sp = none
  asked : askWaits x.sp = false
  room : n.blocked x = false
  passes : preCheck n x = none

/-- The next state of an instruction whose own effect leaves the state t: the effect, then what follows every instruction. -/
def does (x : Ix) (t : State) (nx : Next) : Host.Outcome State Fault Refusal := .next (finish x t nx)

/-- The next state of an instruction that changes its own group alone and goes on at the next word. -/
def onGroup (x : Ix) (g : Group) : Host.Outcome State Fault Refusal := does x (x.s.setGroup g) .step

/-- The next state of an instruction whose own checks raise a trap (R362): the trap, or, where a walk that they make awaits an entry so that nothing is
decided yet (`cAWAITED`), the passing over of the split, which asks for the entry. -/
def traps (x : Ix) (t : Trap) : Host.Outcome State Fault Refusal := .next (ownTrap x x.s t)

/-- A group for which nothing but its own instruction is due: no register has failed, it is in no handler, and lanes remain. -/
structure Quiet (g : Group) : Prop where
  sound : g.failed = []
  plain : g.inHandler = false
  lives : g.exm ≠ BitVec.allOnes 32

/-- The state after an instruction of a quiet group whose effect is the group g: the group at its next PC, and nothing else changed but the
model's own counter of draws. -/
def moved (x : Ix) (g : Group) : State :=
  { x.s with
    groups := x.s.groups.map (fun h => if h.uid = x.g.uid then settleSplit x.s.clock x.e x.sw .step g else h)
    draws := x.s.draws + 1 }

/-- The launch of the issuing split has a trap handler. -/
def HasHandler (x : Ix) : Prop := x.lr.traph ≠ 0xFFFFFFFF

/-! ### The results of the lanes -/

/-- The checks of a format A integer instruction under MR.TY (R71, R89). -/
def intNeeds (w : Width) (d a b : LaneOp) (readsD : Bool) : Needs :=
  needs3 w.regs d a b readsD (intBad [(d, w.regs), (a, w.regs), (b, w.regs)])

/-- The checks of a format N integer instruction under MR.TY. -/
def intNeeds2 (w : Width) (d a : LaneOp) : Needs :=
  { srcs := [(a, w.regs)], dsts := [(d, w.regs)], bad := intBad [(d, w.regs), (a, w.regs)] }

/-- `fit` under the issuing split's MR.TY and MR.SAT (R90). -/
def fitTy (x : Ix) (v : Int) : Nat × Nat := fitInt (intSigned x.ty) x.sat (intBits x.ty) v

/-- The result of one lane of an element instruction: each element j of the result, with its flags, from element j of each operand (R90). -/
def eachElement (x : Ix) (w : Nat) (va vb vd : Nat) (f : Int → Int → Int → Nat × Nat) : LaneRes :=
  let el (v j : Nat) : Int := elInt (intSigned x.ty) (intBits x.ty) v j
  packRes (intBits x.ty) ((List.range (elCount (intBits x.ty) w)).map (fun j => f (el va j) (el vb j) (el vd j)))

/-- The group after a format A element instruction. -/
def intResult (x : Ix) (w : Width) (d a b : LaneOp) (readsD : Bool) (f : Int → Int → Int → Nat × Nat) : Group :=
  putResults x d w.regs (fun i => eachElement x w.regs (readRun x 0 a w.regs i) (readRun x 1 b w.regs i)
    (if readsD then readRun x 2 d w.regs i else 0) f)

/-- The group after a format N element instruction. -/
def intResult2 (x : Ix) (w : Width) (d a : LaneOp) (f : Int → Nat × Nat) : Group :=
  putResults x d w.regs (fun i => eachElement x w.regs (readRun x 0 a w.regs i) 0 0 (fun p _ _ => f p))

/-- The group after a format A instruction on 32-bit registers: register k of D in each lane of act from register k of each operand. -/
def regResult (x : Ix) (w : Width) (d a b : LaneOp) (readsD : Bool) (f : Word → Word → Word → Word) : Group :=
  let r (v k : Nat) : Word := BitVec.ofNat 32 (elOf 32 v k)
  putResults x d w.regs (fun i =>
    let va := readRun x 0 a w.regs i
    let vb := readRun x 1 b w.regs i
    let vd := if readsD then readRun x 2 d w.regs i else 0
    { val := mapEls 32 w.regs (fun k => (f (r va k) (r vb k) (r vd k)).toNat) })

/-- The group after a format N instruction on 32-bit registers. -/
def regResult2 (x : Ix) (w : Width) (d a : LaneOp) (f : Word → Word) : Group :=
  putResults x d w.regs (fun i =>
    { val := mapEls 32 w.regs (fun k => (f (BitVec.ofNat 32 (elOf 32 (readRun x 0 a w.regs i) k))).toNat) })

/-- The checks of a format N instruction on 32-bit registers. -/
def regNeeds2 (w : Width) (d a : LaneOp) : Needs := { srcs := [(a, w.regs)], dsts := [(d, w.regs)] }

/-- The group after a rounding format A floating-point instruction: each element is the exact result of f, rounded by R115. -/
def floatResult (x : Ix) (w : Width) (d a b : LaneOp) (readsD : Bool) (f : FVal → FVal → FVal → Pre) : Group :=
  let n := fmtBits x.fmt
  putResults x d w.regs (fun i =>
    let va := readRun x 0 a w.regs i
    let vb := readRun x 1 b w.regs i
    let vd := if readsD then readRun x 2 d w.regs i else 0
    rndEls n (32 * w.regs / n) x.isRsr (x.g.seed i)
      (fun n16 j => x.fround n16 (f (x.vl (elOf n va j)) (x.vl (elOf n vb j)) (x.vl (elOf n vd j)))))

/-- The group after a FUN instruction: each element from element j of A alone (R120). -/
def funResult (x : Ix) (w : Width) (d a : LaneOp) (rounds : Bool) (f : Nat → Nat → Rnd) : Group :=
  let n := fmtBits x.fmt
  putResults x d w.regs (fun i =>
    rndEls n (32 * w.regs / n) (rounds && x.isRsr) (x.g.seed i) (fun n16 j => f n16 (elOf n (readRun x 0 a w.regs i) j)))

/-- The checks of a FUN instruction. -/
def funNeeds (w : Width) (d a : LaneOp) : Needs := { srcs := [(a, w.regs)], dsts := [(d, w.regs)], bad := floatBad }

/-- A predicate written in the lanes of act from a test of each lane, combined with its old value (Table 04.6). -/
def predResult (x : Ix) (kd : Fin 8) (cb : Comb) (c : Nat → Bool) : Group :=
  putPred x kd.val cb (maskOf (fun i => x.act.getLsbD i && c i))

/-- The checks of a uniform instruction with sources a and b. -/
def uniNeeds (wide : Bool) (d : Fin 64) (a b : UniOp) (readsD : Bool) : Needs :=
  { guarded := false, unis := uniNums wide a ++ uniNums wide b ++ (if readsD then uniNums wide (.g d) else []) }

/-- The group after a uniform instruction: its destination from n, its sources and the old destination (R110). -/
def uniResult (x : Ix) (wide : Bool) (d : Fin 64) (a b : UniOp) (f : Nat → Nat → Nat → Nat → Nat) : Group :=
  writeUni x.g wide d (f (if wide then 64 else 32) (readUni x wide a) (readUni x wide b) (readUni x wide (.g d)))

/-! ### Memory -/

/-- A byte of memory as a core sees it: its L1's where the L1 holds it, else the home's (R217). -/
def coreByte (s : State) (core pa : Nat) : Byte :=
  match l1Line? s core (pa / 128) with
  | some l => if l.valid.getLsbD (pa % 128) then l.data.getD (pa % 128) 0 else s.homeByte pa
  | none => s.homeByte pa

/-- A byte of a core's scratch. -/
def scrByte (s : State) (core off : Nat) : Byte := mget blankByte s.scr (scrKey core off)

/-- The accesses of one side pass check 5 and find none of their lines busy (R148, R421). -/
structure Reaches (x : Ix) (sd : Side) : Prop where
  fine : check5 x [sd] = none
  free : ((sidePlaces x sd).flatMap (fun l => l.2)).any (placeBusy x.s x.core) = false

/-- The state of the issuing split's core after the drain of an eager release (R236). -/
def drained (x : Ix) : State := drainCore (drainServed x.s x.core).1 x.core

/-- The issuing split after the release that its instruction makes, if any. -/
def afterRelease (x : Ix) (scope : Option Nat) (eager : Bool) : Ix :=
  match scope with
  | none => x
  | some _ => if eager then { x with s := drained x } else x

/-- Nothing holds back an access or a release of the issuing split: no bank run has a channel, the group's loads are performed, and what a
release of its scope must find performed is performed: for one whose own effect is on mirror pages alone, its requests; for any other, the
group's records too (R232, R342, R422, R437). -/
structure Unheld (x : Ix) (scope : Option Nat) (eager : Bool) (mirror : Bool := false) : Prop where
  channels : ∀ r ∈ x.s.runs, r.st = .waiting
  loads : anyLate x.g = false
  answered : ∀ n, scope = some n →
    (if mirror then outRequests (afterRelease x scope eager).s x.g.uid x.core n else outstanding (afterRelease x scope eager).s x.g.uid x.core n) = []

/-- No L1 holds a dirty byte and no release is recorded: every access leaves the homes as they are, but for its own writes. -/
structure Settled (s : State) : Prop where
  clean : ∀ c l, l ∈ (s.core c).l1 → l.dirty = 0
  records : s.homeRecs = []

/-! ### Bank runs and events -/

/-- The bank command that executes belongs to a run, which is running. -/
structure Running (s : State) (r : Run) : Prop where
  names : s.curRun.bind s.run? = some r
  on : r.st = .running

/-- The next state of a bank command of a run r that leaves the state t and the run q, and goes on at a command: beyond the last command
the run ends with ERR_PROGRAM (Table 14.12). -/
def bankGoes (r : Run) (t : State) (q : Run) (upc : Nat) : Host.Outcome State Fault Refusal :=
  let q1 := { q with upc := upc, served := false }
  .next (bump (if r.prog.length ≤ upc then endRun (t.setRun q1) q1 stERRPROG upc 0 else t.setRun q1))

/-- The next state of a bank command that ends its run with a status. -/
def bankEnds (t : State) (q : Run) (status upc faddr : Nat) : Host.Outcome State Fault Refusal :=
  .next (bump (endRun (t.setRun q) q status upc faddr))

/-- The next state of an event that leaves the state t. -/
def event (t : State) : Host.Outcome State Fault Refusal := .next (bump t)

/-! ### The shapes of instructions -/

/-- The instructions that act on their own group alone: of 04 and 05 all, of 06 and 07 the transfers without EXIT, and NOP and RDSLK. -/
def ownGroup : Instr → Bool
  | .add .. | .sub .. | .rsub .. | .absd .. | .mul .. | .mulh .. | .mad .. | .madh .. => true
  | .and .. | .or .. | .xor .. | .andn .. | .shl .. | .shr .. | .sha .. | .rot .. => true
  | .min .. | .max .. | .sel .. | .selz .. | .icmp .. | .bfx .. | .bfxs .. | .bfi .. => true
  | .perm .. | .mov .. | .not .. | .neg .. | .abs .. | .clz .. | .popc .. | .brev .. => true
  | .bswap .. | .ktoi .. | .itok .. | .kget .. | .kput .. | .movg .. | .sext .. | .zext .. => true
  | .addi .. | .shli .. | .shri .. | .shai .. | .roti .. | .andi .. | .ori .. | .xori .. => true
  | .andni .. | .movi .. | .moviZ .. | .moviH .. | .moviL .. | .cmpi .. | .mode .. | .kand .. => true
  | .kor .. | .kxor .. | .kandn .. | .fadd .. | .fsub .. | .fmul .. | .frsub .. | .ffma .. => true
  | .ffms .. | .fnma .. | .fnms .. | .fmin .. | .fmax .. | .fminm .. | .fmaxm .. | .fcmp .. => true
  | .fabs .. | .fneg .. | .frcp .. | .frsq .. | .fsqrt .. | .fexp2 .. | .flog2 .. | .fsin .. => true
  | .fcos .. | .ftanh .. | .frnd .. | .fclass .. | .cvt .. | .packfBf16 .. | .packfF16 .. | .packfE4m3 .. => true
  | .packfE5m2 .. | .dot .. | .dotz .. | .uadd .. | .usub .. | .umul .. | .umad .. | .uand .. => true
  | .uor .. | .uxor .. | .uandn .. | .ushl .. | .ushr .. | .usha .. | .urot .. | .umin .. => true
  | .umax .. | .uminn .. | .umaxn .. | .uaddi .. | .umovi .. | .umoviZ .. | .umoviH .. | .umoviL .. => true
  | .ucmp .. | .shfli .. | .shflu .. | .shfld .. | .shflx .. | .ballot .. | .scanadd .. | .redadd .. => true
  | .redmin .. | .redmax .. | .rdlane .. | .bcast .. | .firstLane .. | .matchLanes .. | .bra .. | .braAlways .. => true
  | .bany .. | .ball .. | .bnone .. | .brk .. | .jpt .. | .call .. | .jmpr .. | .callr .. => true
  | .ret | .nop | .rdslk .. => true
  | _ => false

end Sys2Proof.Machine
end

