-- ==== Sys2Proof/Certificates/Slice0/Obligations.lean ====
section
/-! DEFINITION. The statements about the machine for the provers. -/

open Sys2Proof Sys2Proof.Machine

/-- When the next turn of the agenda is the issue of an entry that R195 has chosen and that stands at no join, a step runs the instruction
of the word that the entry has kept, or, where it has kept none, fetches the word at its PC, lets the entry keep it, and runs its
instruction; a word that decodes to none runs ILLEGAL_ENCODING, a fetch that fails runs INSTRUCTION_FETCH_FAULT, one that a channel
holds back passes the entry over with its request waiting, one whose walk awaits a page-table entry passes it over and asks for that,
and one of code in the host's memory passes it over until the line that it asks for has come, or runs INSTRUCTION_FETCH_FAULT when that
failed. Around it the step names the issuing entry with bit S, and afterwards notes that its quadrant has issued, unless the entry was
passed over. That an agenda names the turns (log 1), how code in the host's memory is read (log 20), what the fetch sees and the word
that an entry keeps (log 41), and how a walk waits (log 22, 66) are the model's choices. -/
def Obligations.StepIssuesTheFetchedWord : Prop :=
  ∀ (s s0 : State) (rest : List Turn) (g : Group) (t : Team) (e : Nat),
    s.agenda = .issue g.uid e :: rest → s0 = { s with agenda := rest } → s0.group? g.uid = some g → s0.team? g.team = some t →
    (readySplits s0).any (fun r => r.grp == g.uid && r.e == e && chosen (readySplits s0) r) = true → atJoin g (g.split e) = false →
    (let runs (i : Instr) (t1 : State) (w : Word) : Prop :=
       step s = mapNext (afterIssue s0 (quadOf g t)) (exec i { t1 with issuer := some ⟨g.uid, e, switchBit w.toNat⟩ })
     (∀ (w : Word), (g.split e).word = some w →
        (∀ i, decodeWord w.toNat = some i → runs i s0 w) ∧ (decodeWord w.toNat = none → runs .illegalEncoding s0 w))
     ∧ ((g.split e).word = none → askWaits (g.split e) = true →
          step s = .next (afterIssue s0 (quadOf g t) { s0 with passed := (g.uid, e) :: s0.passed }))
     ∧ ((g.split e).word = none → askWaits (g.split e) = false → (codeFail (g.split e)).isSome = true → runs .instructionFetchFault s0 0)
     ∧ ((g.split e).word = none → askWaits (g.split e) = false → codeFail (g.split e) = none →
        (∀ (s1 : State) (w : Word), fetchWord s0 g t (g.split e).pc = .got s1 w →
          (∀ i, decodeWord w.toNat = some i → runs i (keepWord s1 g.uid e w) w)
          ∧ (decodeWord w.toNat = none → runs .illegalEncoding (keepWord s1 g.uid e w) w))
        ∧ (∀ c va, fetchWord s0 g t (g.split e).pc = .trap c va → runs .instructionFetchFault s0 0)
        ∧ (∀ pa, fetchWord s0 g t (g.split e).pc = .held pa →
            step s = .next (afterIssue s0 (quadOf g t) (fetchHeld s0 g.uid e pa)))
        ∧ (∀ va, fetchWord s0 g t (g.split e).pc = .walks va →
            step s = .next (afterIssue s0 (quadOf g t) (fetchWalks s0 t g.uid e va)))
        ∧ (∀ pa va, fetchWord s0 g t (g.split e).pc = .ask pa va →
            step s = .next (afterIssue s0 (quadOf g t) (fetchAsk s0 t g.uid e pa va)))))

/-- When the next turn of the agenda is a bank run that is running and at whose boundary no window is due, a step executes the command that
the word at its µPC decodes to (R332), with the run named, unless a fatal error has stopped the part; where a window is due it opens
first (R342). When the turn is an event of 95 that the part still serves, a step executes the event with its subject. When it is the
front end's, a step goes on with everything that waits there, as far as channels, drains and answers let it (log 66), unless a fatal
error has stopped the part. That an agenda names the turns is the model's choice (log 1). -/
def Obligations.StepRunsBankCommandsAndEvents : Prop :=
  ∀ (s s0 : State) (rest : List Turn), s0 = { s with agenda := rest } →
    (∀ (u : Nat) (r : Run) (w : Word) (i : Instr), s.agenda = .bank u :: rest → s0.run? u = some r → r.st = .running →
      s0.dev.boot ≠ .fatal → atBoundary s0 r = none → r.prog[r.upc]? = some w → decodeBank w.toNat = some i →
      step s = mapNext (fun t => { t with curRun := none }) (exec i { s0 with curRun := some u }))
    ∧ (∀ (u : Nat) (r : Run) (s1 : State), s.agenda = .bank u :: rest → s0.run? u = some r → r.st = .running →
      s0.dev.boot ≠ .fatal → atBoundary s0 r = some s1 → step s = .next s1)
    ∧ (∀ (i : Instr) (y : Subject), s.agenda = .event i y :: rest → i.isEvent = true → serves s0 i = true →
      step s = mapNext (fun t => { t with subject := .none }) (exec i { s0 with subject := y }))
    ∧ (s.agenda = .front :: rest → (s0.dev.boot ≠ .fatal → step s = event (frontOn s0)) ∧ (s0.dev.boot = .fatal → step s = .next s0))

/-- Six lane words and three bank words, each written out bit by bit from the tables of their majors, decode to the instructions they stand
for. -/
def Obligations.WrittenOutWordsDecode : Prop :=
  decodeWord 0x02860820 = some (.add .x2 (.v 6) (.v 4) (.v 8))
    ∧ decodeWord 0x1C000112 = some (.mode 0 0x0112)
    ∧ decodeWord 0x80000000 = some .nop
    ∧ decodeWord 0x30040904 = some (.uadd false 4 (.g 4) .tix)
    ∧ decodeWord 0x50840402 = some (.ldg .x2 (.v 4) (.v 2) 2)
    ∧ decodeWord 0x7A401040 = some (.mma .gz 8 16)
    ∧ decodeBank 0x00000000 = some .bankNop
    ∧ decodeBank 0x2800A200 = some (.bankMacx 0 0 0 1 ⟨some 2, 0⟩)
    ∧ decodeBank 0x80000005 = some (.bankLoop 0 5)

/-- An ADD, SUB, RSUB, ABSD, MUL or MULH that passes checks 1 to 4 (type 0 to 7, no width 1 under a 64-bit type but z), and a MAD or MADH
that also reads its destination, answers a next state: in every lane of act each element of the destination is the one that the exact
sum, difference, product, high half or sum with the old destination gives, fitted under MR.SAT where the rule says so, and the group
goes on at the next word. -/
def Obligations.IntegerArithmeticCompletes : Prop :=
  ∀ (s : State) (x : Ix) (w : Width) (d a b : LaneOp),
    (Issues s x (intNeeds w d a b false) →
      exec (.add w d a b) s = onGroup x (intResult x w d a b false (fun p q _ => fitTy x (p + q)))
      ∧ exec (.sub w d a b) s = onGroup x (intResult x w d a b false (fun p q _ => fitTy x (p - q)))
      ∧ exec (.rsub w d a b) s = onGroup x (intResult x w d a b false (fun p q _ => fitTy x (q - p)))
      ∧ exec (.absd w d a b) s = onGroup x (intResult x w d a b false (fun p q _ => (((p - q).natAbs) % 2 ^ intBits x.ty, 0)))
      ∧ exec (.mul w d a b) s = onGroup x (intResult x w d a b false (fun p q _ => fitTy x (p * q)))
      ∧ exec (.mulh w d a b) s = onGroup x (intResult x w d a b false (fun p q _ => (pat (Int.fdiv (p * q) ((2 ^ intBits x.ty : Nat) : Int)) (intBits x.ty), 0))))
    ∧ (Issues s x (intNeeds w d a b true) →
      exec (.mad w d a b) s = onGroup x (intResult x w d a b true (fun p q r => fitTy x (p * q + r)))
      ∧ exec (.madh w d a b) s = onGroup x (intResult x w d a b true (fun p q r => (pat (Int.fdiv (p * q + r) ((2 ^ intBits x.ty : Nat) : Int)) (intBits x.ty), 0))))

/-- A MIN or MAX that passes checks 1 to 4 answers a next state in which, in every lane of act, each element of the destination is the
smaller, or the larger, of the elements of the two sources, read with the signedness of MR.TY, and no flag is raised. (R96) -/
def Obligations.MinimaAndMaximaComplete : Prop :=
  ∀ (s : State) (x : Ix) (w : Width) (d a b : LaneOp), Issues s x (intNeeds w d a b false) →
      exec (.min w d a b) s = onGroup x (intResult x w d a b false (fun p q _ => (pat (if p ≤ q then p else q) (intBits x.ty), 0)))
      ∧ exec (.max w d a b) s = onGroup x (intResult x w d a b false (fun p q _ => (pat (if p ≤ q then q else p) (intBits x.ty), 0)))

/-- SHL, SHR, SHA and ROT, and SHLI, SHRI, SHAI and ROTI with their immediate count, answer a next state when they pass checks 1 to 4. The
whole count of the element counts: one at or beyond the element width gives 0 for SHL and SHR and the copies of the sign for SHA; ROT
takes it modulo the width. (R95) -/
def Obligations.ShiftsComplete : Prop :=
  ∀ (s : State) (x : Ix) (w : Width) (d a b : LaneOp),
    (Issues s x (intNeeds w d a b false) →
      exec (.shl w d a b) s = onGroup x (intResult x w d a b false (fun p q _ => (if pat q (intBits x.ty) < intBits x.ty then pat p (intBits x.ty) * 2 ^ pat q (intBits x.ty) % 2 ^ intBits x.ty else 0, 0)))
      ∧ exec (.shr w d a b) s = onGroup x (intResult x w d a b false (fun p q _ => (if pat q (intBits x.ty) < intBits x.ty then pat p (intBits x.ty) / 2 ^ pat q (intBits x.ty) else 0, 0)))
      ∧ exec (.sha w d a b) s = onGroup x (intResult x w d a b false (fun p q _ => (shaBits (intBits x.ty) (pat p (intBits x.ty)) (pat q (intBits x.ty)), 0)))
      ∧ exec (.rot w d a b) s = onGroup x (intResult x w d a b false (fun p q _ => (rotBits (intBits x.ty) (pat p (intBits x.ty)) (pat q (intBits x.ty)), 0))))
    ∧ (∀ (m : Fin 64), Issues s x (intNeeds2 w d a) →
      exec (.shli w d a m) s = onGroup x (intResult2 x w d a (fun p => (if m.val < intBits x.ty then pat p (intBits x.ty) * 2 ^ m.val % 2 ^ intBits x.ty else 0, 0)))
      ∧ exec (.shri w d a m) s = onGroup x (intResult2 x w d a (fun p => (if m.val < intBits x.ty then pat p (intBits x.ty) / 2 ^ m.val else 0, 0)))
      ∧ exec (.shai w d a m) s = onGroup x (intResult2 x w d a (fun p => (shaBits (intBits x.ty) (pat p (intBits x.ty)) m.val, 0)))
      ∧ exec (.roti w d a m) s = onGroup x (intResult2 x w d a (fun p => (rotBits (intBits x.ty) (pat p (intBits x.ty)) m.val, 0))))
    ∧ (∀ (n v c : Nat), shaBits n v c = pat (if c < n then Int.fdiv (sx v n) ((2 ^ c : Nat) : Int) else if sx v n < 0 then -1 else 0) n)
    ∧ (∀ (n v c : Nat), rotBits n v c = (v * 2 ^ (c % n) + v / 2 ^ (n - c % n)) % 2 ^ n)

/-- AND, OR, XOR and ANDN that pass checks 2 to 4 write, in every lane of act, each register of the destination run with a & b, a | b, a ^ b
and a & ~b of the registers of the two sources, whatever MR.TY holds. (R94) -/
def Obligations.LogicIsOnRegisters : Prop :=
  ∀ (s : State) (x : Ix) (w : Width) (d a b : LaneOp), Issues s x (needs3 w.regs d a b false (fun _ => none)) →
      exec (.and w d a b) s = onGroup x (regResult x w d a b false (fun p q _ => p &&& q))
      ∧ exec (.or w d a b) s = onGroup x (regResult x w d a b false (fun p q _ => p ||| q))
      ∧ exec (.xor w d a b) s = onGroup x (regResult x w d a b false (fun p q _ => p ^^^ q))
      ∧ exec (.andn w d a b) s = onGroup x (regResult x w d a b false (fun p q _ => p &&& ~~~q))

/-- A SEL that passes checks 2 to 4 answers a next state in which every lane of AM, whatever MR.GE holds, has in each register of the
destination that of a where k[MR.GK] XOR MR.GN is 1 and that of b where it is 0. A SELZ, limited by the guard like other instructions,
gives in each register a where b is not 0, and 0 where it is. (R97) -/
def Obligations.SelectionsComplete : Prop :=
  ∀ (s : State) (x : Ix) (w : Width) (d a b : LaneOp),
    (Issues s x { srcs := [(a, w.regs), (b, w.regs)], dsts := [(d, w.regs)], lanes := Ix.am, guarded := false,
                    preds := fun x => [mrGK x.sp.mr] } →
      exec (.sel w d a b) s = onGroup x (putResults x.unguarded d w.regs (fun i =>
        { val := if (x.g.pred (mrGK x.sp.mr)).getLsbD i != mrGN x.sp.mr then readRun x 0 a w.regs i else readRun x 1 b w.regs i })))
    ∧ x.unguarded.act = x.am
    ∧ (Issues s x (needs3 w.regs d a b false (fun _ => none)) →
      exec (.selz w d a b) s = onGroup x (regResult x w d a b false (fun p q _ => if q = 0 then 0 else p)))

/-- BFX, BFXS and PERM, and BFI which also reads its destination, write each register of the destination from those of the sources in the
lanes of act. With pos = b[4:0], len = b[13:8] and top = min(pos + len, 32): a len of 0 gives 0, and leaves the destination for BFI;
otherwise BFX gives a[top-1:pos], BFXS the same sign-extended, and BFI puts the low bits of a there. Byte j of PERM is 0, the sign
replication of a byte of a, or that byte, as nibble j of b says. (R98) -/
def Obligations.BitFieldsComplete : Prop :=
  ∀ (s : State) (x : Ix) (w : Width) (d a b : LaneOp),
    (Issues s x (needs3 w.regs d a b false (fun _ => none)) →
      exec (.bfx w d a b) s = onGroup x (regResult x w d a b false (fun p q _ => bfxWord p q))
      ∧ exec (.bfxs w d a b) s = onGroup x (regResult x w d a b false (fun p q _ => bfxsWord p q))
      ∧ exec (.perm w d a b) s = onGroup x (regResult x w d a b false (fun p q _ => permWord p q)))
    ∧ (Issues s x (needs3 w.regs d a b true (fun _ => none)) →
      exec (.bfi w d a b) s = onGroup x (regResult x w d a b true (fun p q r => bfiWord p q r)))
    ∧ (∀ (p q : Word),
        let pos := q.toNat % 32
        let len := bitsOf q.toNat 13 8
        let n := Nat.min (pos + len) 32 - pos
        let m : Word := BitVec.ofNat 32 ((2 ^ n - 1) * 2 ^ pos)
        (len = 0 → bfxWord p q = 0 ∧ bfxsWord p q = 0 ∧ ∀ r, bfiWord p q r = r)
        ∧ (len ≠ 0 → bfxWord p q = BitVec.ofNat 32 (p.toNat / 2 ^ pos % 2 ^ n)
            ∧ bfxsWord p q = BitVec.ofInt 32 (sx (p.toNat / 2 ^ pos) n)
            ∧ ∀ r, bfiWord p q r = (r &&& ~~~m) ||| (BitVec.ofNat 32 (p.toNat * 2 ^ pos) &&& m))
        ∧ (∀ j, j < 4 →
            let c := elOf 4 q.toNat j
            let y := elOf 8 p.toNat (c % 4)
            elOf 8 (permWord p q).toNat j = if bitOf c 3 then 0 else if bitOf c 2 then (if 128 ≤ y then 255 else 0) else y))

/-- MOV, NOT, CLZ, POPC, BREV and BSWAP, ANDI, ORI, XORI and ANDNI with their sign-extended 7-bit immediate, and SEXT and ZEXT from a width
of m + 1 bits write each register of the run from the one of the source; NEG, ABS and ADDI write each element of MR.TY, fitted under
MR.SAT. -/
def Obligations.UnaryAndImmediateFormsComplete : Prop :=
  ∀ (s : State) (x : Ix) (w : Width) (d a : LaneOp),
    (Issues s x (regNeeds2 w d a) →
      exec (.mov w d a) s = onGroup x (regResult2 x w d a (fun v => v))
      ∧ exec (.not w d a) s = onGroup x (regResult2 x w d a (fun v => ~~~v))
      ∧ exec (.clz w d a) s = onGroup x (regResult2 x w d a (fun v => BitVec.ofNat 32 (if v = 0 then 32 else 31 - Nat.log2 v.toNat)))
      ∧ exec (.popc w d a) s = onGroup x (regResult2 x w d a (fun v => BitVec.ofNat 32 (lanesOf v).length))
      ∧ exec (.brev w d a) s = onGroup x (regResult2 x w d a (fun v => BitVec.ofNat 32 (mapEls 1 32 (fun k => elOf 1 v.toNat (31 - k)))))
      ∧ exec (.bswap w d a) s = onGroup x (regResult2 x w d a (fun v => BitVec.ofNat 32 (mapEls 8 4 (fun k => elOf 8 v.toNat (3 - k)))))
      ∧ (∀ i7, exec (.andi w d a i7) s = onGroup x (regResult2 x w d a (fun v => v &&& i7.signExtend 32))
          ∧ exec (.ori w d a i7) s = onGroup x (regResult2 x w d a (fun v => v ||| i7.signExtend 32))
          ∧ exec (.xori w d a i7) s = onGroup x (regResult2 x w d a (fun v => v ^^^ i7.signExtend 32))
          ∧ exec (.andni w d a i7) s = onGroup x (regResult2 x w d a (fun v => v &&& ~~~(i7.signExtend 32))))
      ∧ (∀ (m : Fin 32), exec (.sext w d a m) s = onGroup x (regResult2 x w d a (fun v => BitVec.ofInt 32 (sx v.toNat (m.val + 1))))
          ∧ exec (.zext w d a m) s = onGroup x (regResult2 x w d a (fun v => BitVec.ofNat 32 (v.toNat % 2 ^ (m.val + 1))))))
    ∧ (Issues s x (intNeeds2 w d a) →
      exec (.neg w d a) s = onGroup x (intResult2 x w d a (fun p => fitTy x (-p)))
      ∧ exec (.abs w d a) s = onGroup x (intResult2 x w d a (fun p => fitTy x (if p < 0 then -p else p)))
      ∧ (∀ i9 : BitVec 9, exec (.addi w d a i9) s = onGroup x (intResult2 x w d a (fun p => fitTy x (p + i9.toInt)))))

/-- MOVI writes the sign-extended immediate, MOVI.Z the zero-extended one, MOVI.H the high half above the old low half, MOVI.L the low half
below the old high half; MOVG writes a uniform value to every lane of act; KTOI, ITOK, KGET and KPUT move one or all eight predicates of
each lane of act. -/
def Obligations.MovesOfPredicatesAndImmediatesComplete : Prop :=
  ∀ (s : State) (x : Ix) (d a : LaneOp) (k : Fin 8),
    (∀ i16 : BitVec 16, Issues s x { dsts := [(d, 1)] } →
      exec (.movi d i16) s = onGroup x (putResults x d 1 (fun _ => { val := (i16.signExtend 32).toNat }))
      ∧ exec (.moviZ d i16) s = onGroup x (putResults x d 1 (fun _ => { val := (i16.zeroExtend 32).toNat })))
    ∧ (∀ i16 : BitVec 16, Issues s x { srcs := [(d, 1)], dsts := [(d, 1)] } →
      exec (.moviH d i16) s = onGroup x (putResults x d 1 (fun i =>
        { val := ((i16.zeroExtend 32 <<< 16) ||| (readWord x 2 d i 0 &&& (0xFFFF : Word))).toNat }))
      ∧ exec (.moviL d i16) s = onGroup x (putResults x d 1 (fun i =>
        { val := (i16.zeroExtend 32 ||| (readWord x 2 d i 0 &&& (0xFFFF0000 : Word))).toNat })))
    ∧ (∀ (wide : Bool) (u : UniOp), Issues s x { dsts := [(d, if wide then 2 else 1)], unis := uniNums wide u } →
      exec (.movg wide d u) s = onGroup x (putResults x d (if wide then 2 else 1) (fun _ => { val := readUni x wide u })))
    ∧ (Issues s x { dsts := [(d, 1)], preds := fun _ => [k.val] } →
      exec (.ktoi d k) s = onGroup x (putResults x d 1 (fun i => { val := if (x.g.pred k.val).getLsbD i then 1 else 0 })))
    ∧ (Issues s x { dsts := [(d, 1)], preds := fun _ => List.range 8 } →
      exec (.kget d) s = onGroup x (putResults x d 1 (fun i => { val := mapEls 1 8 (fun j => if (x.g.pred j).getLsbD i then 1 else 0) })))
    ∧ (Issues s x { srcs := [(a, 1)] } →
      exec (.itok k a) s = onGroup x (x.g.setPred k.val x.act (maskOf (fun i => readRun x 0 a 1 i != 0)))
      ∧ exec (.kput a) s = onGroup x ((List.range 8).foldl (fun g m =>
          g.setPred m x.act (maskOf (fun i => readRun x 0 a 1 i / 2 ^ m % 2 == 1))) x.g))

/-- A compare writes its predicate in the lanes of act, combined with the old value by its code: the condition over every element, or over
any, of the two sources, CMPI with its immediate wrapped to the type, FCMP with the relations of Table 05.3. KAND, KOR, KXOR and KANDN
write a predicate from two others, each negated or not, in the lanes of act. MODE replaces one quarter of MR. -/
def Obligations.ComparesAndPredicatesComplete : Prop :=
  ∀ (s : State) (x : Ix) (kd ka kb : Fin 8) (a b : LaneOp) (wide any : Bool),
    (∀ (rel : Rel) (cb : Comb),
      Issues s x { srcs := [(a, if wide then 2 else 1), (b, if wide then 2 else 1)], preds := fun _ => combReads cb kd.val, bad := cmpBad wide [a, b] } →
      exec (.icmp wide any rel cb kd a b) s = onGroup x (predResult x kd cb (fun i =>
        let el (v j : Nat) : Int := elInt (intSigned x.ty) (intBits x.ty) v j
        let cs := (List.range (elCount (intBits x.ty) 1)).map (fun j => relHolds rel (intBits x.ty)
          (el (readRun x 0 a (if wide then 2 else 1) i) j) (el (readRun x 1 b (if wide then 2 else 1) i) j))
        if any then cs.any id else cs.all id)))
    ∧ (∀ (rel : Rel) (i9 : BitVec 9), Issues s x { srcs := [(a, if wide then 2 else 1)], bad := cmpBad wide [a] } →
      exec (.cmpi wide any rel kd a i9) s = onGroup x (predResult x kd .set (fun i =>
        let cs := (List.range (elCount (intBits x.ty) 1)).map (fun j => relHolds rel (intBits x.ty)
          (elInt (intSigned x.ty) (intBits x.ty) (readRun x 0 a (if wide then 2 else 1) i) j)
          (wrapInt (intSigned x.ty) (intBits x.ty) i9.toInt))
        if any then cs.any id else cs.all id)))
    ∧ (∀ (rel : FRel) (cb : Comb),
      Issues s x { srcs := [(a, 1), (b, 1)], preds := fun _ => combReads cb kd.val, bad := fun x => illegalIf (floatBad x).isSome } →
      exec (.fcmp false any rel cb kd a b) s = onGroup x (predResult x kd cb (fun i =>
        let cs := (List.range (32 / fmtBits x.fmt)).map (fun j => frelHolds rel
          (x.vl (elOf (fmtBits x.fmt) (readRun x 0 a 1 i) j)) (x.vl (elOf (fmtBits x.fmt) (readRun x 1 b 1 i) j)))
        if any then cs.any id else cs.all id)))
    ∧ (∀ (na nb : Bool), Issues s x { preds := fun _ => [ka.val, kb.val] } →
      (let p := if na then ~~~x.g.pred ka.val else x.g.pred ka.val
       let q := if nb then ~~~x.g.pred kb.val else x.g.pred kb.val
       exec (.kand kd na ka nb kb) s = onGroup x (x.g.setPred kd.val x.act (p &&& q))
       ∧ exec (.kor kd na ka nb kb) s = onGroup x (x.g.setPred kd.val x.act (p ||| q))
       ∧ exec (.kxor kd na ka nb kb) s = onGroup x (x.g.setPred kd.val x.act (p ^^^ q))
       ∧ exec (.kandn kd na ka nb kb) s = onGroup x (x.g.setPred kd.val x.act (p &&& ~~~q))))
    ∧ (∀ (q : Fin 4) (i16 : BitVec 16), Issues s x { guarded := false, bad := fun _ => illegalIf (modeBad q.val i16) } →
      exec (.mode q i16) s = onGroup x (x.g.setSplit x.e { x.sp with mr :=
        (x.sp.mr &&& ~~~((0xFFFF : DWord) <<< (16 * q.val))) ||| ((i16.zeroExtend 64 : DWord) <<< (16 * q.val)) }))

/-- FADD, FSUB, FRSUB and FMUL, and the four fused forms that also read their destination, answer a next state when they pass checks 1 to 4
(MR.TY 8, 9 or 10): each element is the exact result of R116, rounded once by MR.RM, MR.SAT and MR.FTZ with its flags. FMIN, FMAX, FMINM
and FMAXM give the smaller or larger operand and round nothing. -/
def Obligations.FloatArithmeticCompletes : Prop :=
  ∀ (s : State) (x : Ix) (w : Width) (d a b : LaneOp),
    (Issues s x (needs3 w.regs d a b false floatBad) →
      exec (.fadd w d a b) s = onGroup x (floatResult x w d a b false (fun p q _ => addF x.rm p q))
      ∧ exec (.fsub w d a b) s = onGroup x (floatResult x w d a b false (fun p q _ => addF x.rm p (negF q)))
      ∧ exec (.frsub w d a b) s = onGroup x (floatResult x w d a b false (fun p q _ => addF x.rm q (negF p)))
      ∧ exec (.fmul w d a b) s = onGroup x (floatResult x w d a b false (fun p q _ => mulF p q))
      ∧ exec (.fmin w d a b) s = onGroup x (putResults x d w.regs (fun i =>
          rndEls (fmtBits x.fmt) (32 * w.regs / fmtBits x.fmt) false (x.g.seed i) (fun _ j => ⟨minMaxF x.fmt x.ftz false false
            (elOf (fmtBits x.fmt) (readRun x 0 a w.regs i) j) (elOf (fmtBits x.fmt) (readRun x 1 b w.regs i) j), 0⟩)))
      ∧ exec (.fmax w d a b) s = onGroup x (putResults x d w.regs (fun i =>
          rndEls (fmtBits x.fmt) (32 * w.regs / fmtBits x.fmt) false (x.g.seed i) (fun _ j => ⟨minMaxF x.fmt x.ftz true false
            (elOf (fmtBits x.fmt) (readRun x 0 a w.regs i) j) (elOf (fmtBits x.fmt) (readRun x 1 b w.regs i) j), 0⟩)))
      ∧ exec (.fminm w d a b) s = onGroup x (putResults x d w.regs (fun i =>
          rndEls (fmtBits x.fmt) (32 * w.regs / fmtBits x.fmt) false (x.g.seed i) (fun _ j => ⟨minMaxF x.fmt x.ftz false true
            (elOf (fmtBits x.fmt) (readRun x 0 a w.regs i) j) (elOf (fmtBits x.fmt) (readRun x 1 b w.regs i) j), 0⟩)))
      ∧ exec (.fmaxm w d a b) s = onGroup x (putResults x d w.regs (fun i =>
          rndEls (fmtBits x.fmt) (32 * w.regs / fmtBits x.fmt) false (x.g.seed i) (fun _ j => ⟨minMaxF x.fmt x.ftz true true
            (elOf (fmtBits x.fmt) (readRun x 0 a w.regs i) j) (elOf (fmtBits x.fmt) (readRun x 1 b w.regs i) j), 0⟩))))
    ∧ (Issues s x (needs3 w.regs d a b true floatBad) →
      exec (.ffma w d a b) s = onGroup x (floatResult x w d a b true (fun p q r => fmaF x.rm p q r))
      ∧ exec (.ffms w d a b) s = onGroup x (floatResult x w d a b true (fun p q r => fmaF x.rm p q (negF r)))
      ∧ exec (.fnma w d a b) s = onGroup x (floatResult x w d a b true (fun p q r => fmaF x.rm (negF p) q r))
      ∧ exec (.fnms w d a b) s = onGroup x (floatResult x w d a b true (fun p q r => fmaF x.rm (negF p) q (negF r))))

/-- FABS, FNEG, FRCP, FSQRT, FRND, FCLASS and the faithful functions FRSQ, FEXP2, FLOG2, FSIN, FCOS and FTANH answer a next state when they
pass checks 1 to 4: each element comes from the element of the source alone, and only FRCP, FSQRT and FRND take MR.RM. Which of the
results that R121 allows a faithful function gives is the model's free value (log 7), and so are the zero of FLOG2 of 1 and the flush of
an exact FEXP2 (log 64). -/
def Obligations.FunctionsComplete : Prop :=
  ∀ (s : State) (x : Ix) (w : Width) (d a : LaneOp), Issues s x (funNeeds w d a) →
      exec (.fabs w d a) s = onGroup x (funResult x w d a false (fun _ p => signedBits x p (fun _ => false)))
      ∧ exec (.fneg w d a) s = onGroup x (funResult x w d a false (fun _ p => signedBits x p (fun m => !m)))
      ∧ exec (.frcp w d a) s = onGroup x (funResult x w d a true (fun n16 p => x.fround n16 (rcpPre (x.vl p))))
      ∧ exec (.fsqrt w d a) s = onGroup x (funResult x w d a true (fun n16 p => x.fround n16 (sqrtPre (x.vl p))))
      ∧ exec (.frnd w d a) s = onGroup x (funResult x w d a true (fun n16 p => frndF x.fmt x.rm n16 (x.vl p)))
      ∧ exec (.fclass w d a) s = onGroup x (funResult x w d a false (fun _ p => ⟨2 ^ classBit x.fmt x.ftz p, 0⟩))
      ∧ exec (.frsq w d a) s = onGroup x (funResult x w d a false (fun _ p => flushF x.fmt x.ftz (frsqF x.fmt x.sat (ftzBits x.fmt x.ftz p) (x.vl p))))
      ∧ exec (.fexp2 w d a) s = onGroup x (funResult x w d a false (fun _ p => flushF x.fmt x.ftz (fexp2F x.fmt x.sat (ftzBits x.fmt x.ftz p) (x.vl p))))
      ∧ exec (.flog2 w d a) s = onGroup x (funResult x w d a false (fun _ p => flushF x.fmt x.ftz (flog2F x.fmt x.sat (ftzBits x.fmt x.ftz p) (x.vl p))))
      ∧ exec (.fsin w d a) s = onGroup x (funResult x w d a false (fun _ p => flushF x.fmt x.ftz (fsinF x.fmt x.sat (ftzBits x.fmt x.ftz p) (x.vl p))))
      ∧ exec (.fcos w d a) s = onGroup x (funResult x w d a false (fun _ p => flushF x.fmt x.ftz (fcosF x.fmt x.sat (ftzBits x.fmt x.ftz p) (x.vl p))))
      ∧ exec (.ftanh w d a) s = onGroup x (funResult x w d a false (fun _ p => flushF x.fmt x.ftz (ftanhF x.fmt x.sat (ftzBits x.fmt x.ftz p) (x.vl p))))

/-- CVT that meets the conditions of R126 converts each element of its portion of the source to the destination type. PACKF rounds the
values of x and y of each register to a pair; an 8-bit pair leaves the old low half of the register above it. DOT and DOTZ give one FP32
value or one 32-bit integer: the old destination, or 0, and the products of the elements, summed exactly and rounded or fitted once. -/
def Obligations.ConversionPackingAndDotComplete : Prop :=
  ∀ (s : State) (x : Ix) (w : Width) (d a b : LaneOp),
    (∀ (trunc : Bool) (part : Fin 8) (dt : ETy), (let c := etyCode dt; let e := cvtE w.regs d c
      Issues s x { srcsBy := fun x => [(a, cvtWs x.ty e)], dsts := [(d, w.regs)], bad := cvtBad w.regs d a part.val c } →
      exec (.cvt w d a trunc part dt) s = onGroup x (putResults x d w.regs (fun i =>
        rndEls (tyBits c) e (cvtRounds x.ty c trunc && x.isRsr) (x.g.seed i) (fun n16 j =>
          cvtEl x.ty c x.rm x.sat x.ftz trunc n16 (elOf (tyBits x.ty) (readRun x 0 a (cvtWs x.ty e) i)
            (if 32 ≤ e * tyBits x.ty then j else part.val * e + j)))))))
    ∧ (Issues s x (needs3 w.regs d a b false (fun _ => none)) →
      exec (.packfBf16 w d a b) s = onGroup x (putResults x d w.regs (fun i =>
        let r := rndEls 16 (2 * w.regs) x.isRsr (x.g.seed i) (fun n16 j => packCv x .bf16 n16
          (elOf 32 (if j % 2 = 0 then readRun x 0 a w.regs i else readRun x 1 b w.regs i) (j / 2)))
        r)))
    ∧ (Issues s x (needs3 w.regs d a b false (fun _ => none)) →
      exec (.packfF16 w d a b) s = onGroup x (putResults x d w.regs (fun i =>
        let r := rndEls 16 (2 * w.regs) x.isRsr (x.g.seed i) (fun n16 j => packCv x .fp16 n16
          (elOf 32 (if j % 2 = 0 then readRun x 0 a w.regs i else readRun x 1 b w.regs i) (j / 2)))
        r)))
    ∧ (Issues s x (needs3 w.regs d a b true (fun _ => none)) →
      exec (.packfE4m3 w d a b) s = onGroup x (putResults x d w.regs (fun i =>
        let r := rndEls 8 (2 * w.regs) x.isRsr (x.g.seed i) (fun n16 j => packCv x .e4m3 n16
          (elOf 32 (if j % 2 = 0 then readRun x 0 a w.regs i else readRun x 1 b w.regs i) (j / 2)))
        { r with val := mapEls 32 w.regs (fun k => elOf 16 r.val k + 2 ^ 16 * (elOf 32 (readRun x 2 d w.regs i) k % 2 ^ 16)) })))
    ∧ (Issues s x (needs3 w.regs d a b true (fun _ => none)) →
      exec (.packfE5m2 w d a b) s = onGroup x (putResults x d w.regs (fun i =>
        let r := rndEls 8 (2 * w.regs) x.isRsr (x.g.seed i) (fun n16 j => packCv x .e5m2 n16
          (elOf 32 (if j % 2 = 0 then readRun x 0 a w.regs i else readRun x 1 b w.regs i) (j / 2)))
        { r with val := mapEls 32 w.regs (fun k => elOf 16 r.val k + 2 ^ 16 * (elOf 32 (readRun x 2 d w.regs i) k % 2 ^ 16)) })))
    ∧ (Issues s x { srcs := [(a, w.regs), (b, w.regs)] ++ [(d, 1)], dsts := [(d, 1)],
                    bad := fun x => illegalIf (!(decide (2 ≤ x.ty ∧ x.ty ≤ 5) || decide (8 ≤ x.ty ∧ x.ty ≤ 13))) } →
      exec (.dot w d a b) s = onGroup x (putResults x d 1 (fun i =>
        let m := tyBits x.ty
        let va := readRun x 0 a w.regs i
        let vb := readRun x 1 b w.regs i
        let vd := readRun x 2 d 1 i
        if 8 ≤ x.ty then
          rndEls 32 1 x.isRsr (x.g.seed i) (fun n16 _ => froundF .fp32 x.rm x.sat x.ftz n16 (dotPre x.rm (valF .fp32 x.ftz vd)
            ((List.range (32 * w.regs / m)).map (fun j => (x.vl (elOf m va j), x.vl (elOf m vb j))))))
        else
          let sg := intSigned x.ty
          packRes 32 [fitInt sg x.sat 32 ((List.range (32 * w.regs / m)).foldl (fun t j => t + elInt sg m va j * elInt sg m vb j)
            (elInt sg 32 vd 0))])))
    ∧ (Issues s x { srcs := [(a, w.regs), (b, w.regs)], dsts := [(d, 1)],
                    bad := fun x => illegalIf (!(decide (2 ≤ x.ty ∧ x.ty ≤ 5) || decide (8 ≤ x.ty ∧ x.ty ≤ 13))) } →
      exec (.dotz w d a b) s = onGroup x (putResults x d 1 (fun i =>
        let m := tyBits x.ty
        let va := readRun x 0 a w.regs i
        let vb := readRun x 1 b w.regs i
        let vd := 0
        if 8 ≤ x.ty then
          rndEls 32 1 x.isRsr (x.g.seed i) (fun n16 _ => froundF .fp32 x.rm x.sat x.ftz n16 (dotPre x.rm (valF .fp32 x.ftz vd)
            ((List.range (32 * w.regs / m)).map (fun j => (x.vl (elOf m va j), x.vl (elOf m vb j))))))
        else
          let sg := intSigned x.ty
          packRes 32 [fitInt sg x.sat 32 ((List.range (32 * w.regs / m)).foldl (fun t j => t + elInt sg m va j * elInt sg m vb j)
            (elInt sg 32 vd 0))])))

/-- Each uniform instruction answers a next state when it passes checks 2 to 4, and acts once whatever act holds: its destination, a uniform
register or an aligned pair, is the result modulo 2^32 or 2^64 of its sources, UMAD also of its old destination; UMOVI forms place their
immediate; UCMP writes its predicate in the lanes of act from one comparison. -/
def Obligations.UniformInstructionsComplete : Prop :=
  ∀ (s : State) (x : Ix) (wide : Bool) (d : Fin 64) (a b : UniOp),
    (Issues s x (uniNeeds wide d a b false) →
      exec (.uadd wide d a b) s = onGroup x (uniResult x wide d a b (fun n p q _ => (p + q) % 2 ^ n))
      ∧ exec (.usub wide d a b) s = onGroup x (uniResult x wide d a b (fun n p q _ => (p + (2 ^ n - q)) % 2 ^ n))
      ∧ exec (.umul wide d a b) s = onGroup x (uniResult x wide d a b (fun n p q _ => (p * q) % 2 ^ n))
      ∧ exec (.uand wide d a b) s = onGroup x (uniResult x wide d a b (fun _ p q _ => p &&& q))
      ∧ exec (.uor wide d a b) s = onGroup x (uniResult x wide d a b (fun _ p q _ => p ||| q))
      ∧ exec (.uxor wide d a b) s = onGroup x (uniResult x wide d a b (fun _ p q _ => p ^^^ q))
      ∧ exec (.uandn wide d a b) s = onGroup x (uniResult x wide d a b (fun n p q _ => p &&& (2 ^ n - 1 - q)))
      ∧ exec (.ushl wide d a b) s = onGroup x (uniResult x wide d a b (fun n p q _ => if q < n then p * 2 ^ q % 2 ^ n else 0))
      ∧ exec (.ushr wide d a b) s = onGroup x (uniResult x wide d a b (fun n p q _ => if q < n then p / 2 ^ q else 0))
      ∧ exec (.usha wide d a b) s = onGroup x (uniResult x wide d a b (fun n p q _ => pat (if q < n then Int.fdiv (sx p n) ((2 ^ q : Nat) : Int) else if sx p n < 0 then -1 else 0) n))
      ∧ exec (.urot wide d a b) s = onGroup x (uniResult x wide d a b (fun n p q _ => (p * 2 ^ (q % n) + p / 2 ^ (n - q % n)) % 2 ^ n))
      ∧ exec (.umin wide d a b) s = onGroup x (uniResult x wide d a b (fun n p q _ => if sx p n ≤ sx q n then p else q))
      ∧ exec (.umax wide d a b) s = onGroup x (uniResult x wide d a b (fun n p q _ => if sx p n ≤ sx q n then q else p))
      ∧ exec (.uminn wide d a b) s = onGroup x (uniResult x wide d a b (fun _ p q _ => if p ≤ q then p else q))
      ∧ exec (.umaxn wide d a b) s = onGroup x (uniResult x wide d a b (fun _ p q _ => if p ≤ q then q else p)))
    ∧ (Issues s x (uniNeeds wide d a b true) →
      exec (.umad wide d a b) s = onGroup x (uniResult x wide d a b (fun n p q r => (p * q + r) % 2 ^ n)))
    ∧ (∀ i9 : BitVec 9, Issues s x (uniNeeds wide d a .gz false) →
      exec (.uaddi wide d a i9) s = onGroup x (uniResult x wide d a .gz (fun n p _ _ => pat ((p : Int) + i9.toInt) n)))
    ∧ (∀ i16 : BitVec 16, Issues s x { guarded := false, unis := [] } →
      exec (.umovi d i16) s = onGroup x (x.g.setUreg d.val (i16.signExtend 32)))
    ∧ (∀ i16 : BitVec 16, Issues s x { guarded := false, unis := [] } →
      exec (.umoviZ d i16) s = onGroup x (x.g.setUreg d.val (i16.zeroExtend 32)))
    ∧ (∀ i16 : BitVec 16, Issues s x { guarded := false, unis := [d.val] } →
      exec (.umoviH d i16) s = onGroup x (x.g.setUreg d.val ((i16.zeroExtend 32 <<< 16) ||| (x.g.ureg d.val &&& (0xFFFF : Word)))))
    ∧ (∀ i16 : BitVec 16, Issues s x { guarded := false, unis := [d.val] } →
      exec (.umoviL d i16) s = onGroup x (x.g.setUreg d.val (i16.zeroExtend 32 ||| (x.g.ureg d.val &&& (0xFFFF0000 : Word)))))
    ∧ (∀ (uns : Bool) (rel : Rel) (cb : Comb) (kd : Fin 8),
      Issues s x { preds := fun _ => combReads cb kd.val, unis := uniNums wide a ++ uniNums wide b } →
      exec (.ucmp wide uns rel cb kd a b) s = onGroup x (x.g.setPred kd.val x.act (combine cb (x.g.pred kd.val)
        (if relHolds rel (if wide then 64 else 32) (elInt (!uns) (if wide then 64 else 32) (readUni x wide a) 0)
          (elInt (!uns) (if wide then 64 else 32) (readUni x wide b) 0) then BitVec.allOnes 32 else 0))))

/-- A shuffle gives each lane of act the source of the lane it names, or its own where that lane lies outside 0 to 31 or outside act; RDLANE
gives every lane of act the value of lane n, which must be in AM; BCAST that of the lowest lane of act, FIRST its number, BALLOT the
lanes of act in which the predicate holds, MATCH the lanes of act with the same value. With an empty act they write no lane and enter
the history like every transfer (log 14). -/
def Obligations.CrossLaneTransfersComplete : Prop :=
  ∀ (s : State) (x : Ix) (w : Width) (d a : LaneOp),
    (let pick (src : Nat → Int) : Group := putResults x d w.regs (fun i =>
        { val := readRun x 0 a w.regs (if 0 ≤ src i && decide (src i < 32) && x.act.getLsbD (src i).toNat then (src i).toNat else i) })
     (Issues s x { srcs := [(a, w.regs), (d, 1)], dsts := [(d, w.regs)] } →
        exec (.shfli w d a) s = onGroup x (pick (fun i => ((readRun x 2 d 1 i % 32 : Nat) : Int))))
      ∧ (∀ n : Fin 32, Issues s x { srcs := [(a, w.regs)], dsts := [(d, w.regs)] } →
        exec (.shflu w d a n) s = onGroup x (pick (fun i => (i : Int) - (n.val : Int)))
        ∧ exec (.shfld w d a n) s = onGroup x (pick (fun i => (i : Int) + (n.val : Int)))
        ∧ exec (.shflx w d a n) s = onGroup x (pick (fun i => ((i ^^^ n.val : Nat) : Int)))))
    ∧ (∀ n : Fin 32, Issues s x { srcs := [(a, w.regs)], dsts := [(d, w.regs)], lanes := fun _ => laneBit n.val, bad := fun x => illegalIf (!x.am.getLsbD n.val) } →
        exec (.rdlane w d a n) s = onGroup x (putResults x d w.regs (fun _ => { val := readRun x 0 a w.regs n.val })))
    ∧ (Issues s x { srcs := [(a, w.regs)], dsts := [(d, w.regs)], lanes := fun x => laneBit (lowestLane x.act) &&& x.act } →
        exec (.bcast w d a) s = onGroup x (putResults x d w.regs (fun _ => { val := readRun x 0 a w.regs (lowestLane x.act) })))
    ∧ (∀ (n : Bool) (k : Fin 8), Issues s x { dsts := [(d, 1)], preds := fun _ => [k.val] } →
        exec (.ballot d n k) s = onGroup x (putResults x d 1 (fun _ =>
          { val := (x.act &&& (if n then ~~~x.g.pred k.val else x.g.pred k.val)).toNat })))
    ∧ (Issues s x { dsts := [(d, 1)] } →
        exec (.firstLane d) s = onGroup x (putResults x d 1 (fun _ => { val := lowestLane x.act })))
    ∧ (Issues s x { srcs := [(a, 1)], dsts := [(d, 1)] } →
        exec (.matchLanes d a) s = onGroup x (putResults x d 1 (fun i =>
          { val := (x.act &&& maskOf (fun j => readRun x 0 a 1 j == readRun x 0 a 1 i)).toNat })))

/-- Under MR.TY 0, 1 or 8 a scan gives each lane of act the accumulated value up to it, or up to the lane before it in the exclusive form (0
for the first), and a reduction gives every lane of act the last one; each lane takes the flags and generator of its own step. An
integer chain starts with the lowest lane of act and adds each next one, fitted. -/
def Obligations.ScansAndReductionsComplete : Prop :=
  ∀ (s : State) (x : Ix) (d a : LaneOp),
    (Issues s x { srcs := [(a, 1)], dsts := [(d, 1)], bad := chainBad } →
      exec (.scanadd false d a) s = onGroup x (putChain x d (addChain x a) (prefixAt (addChain x a)))
      ∧ exec (.scanadd true d a) s = onGroup x (putChain x d (addChain x a) (prefixBefore (addChain x a)))
      ∧ exec (.redadd d a) s = onGroup x (putChain x d (addChain x a) (fun _ => lastAcc (addChain x a)))
      ∧ exec (.redmin d a) s = onGroup x (putChain x d (extChain x a false) (fun _ => lastAcc (extChain x a false)))
      ∧ exec (.redmax d a) s = onGroup x (putChain x d (extChain x a true) (fun _ => lastAcc (extChain x a true))))
    ∧ (x.ty ≠ 8 → lastAcc (addChain x a) =
        (match (lanesOf x.act).map (fun i => readRun x 0 a 1 i) with
         | [] => 0
         | v :: vs => vs.foldl (fun acc u => (fitInt (intSigned x.ty) x.sat 32 (elInt (intSigned x.ty) 32 acc 0 + elInt (intSigned x.ty) 32 u 0)).1 % 2 ^ 32) v))

/-- A BANY, BALL or BNONE that passes its checks answers a next state in which the group is unchanged but for its split, which goes to the
target when some, every or no lane of AM has k[K](i) XOR N = 1, and to PC + 4 otherwise; the split is not divided. What goes to a place
means is stated with it: the entry keeps everything but its PC, its park by bit S and its time. (R164) -/
def Obligations.WholeSplitBranchesComplete : Prop :=
  ∀ (s : State) (x : Ix) (k : Fin 8) (n : Bool) (off : BitVec 21), Issues s x (branchNeeds k.val) →
    (let c (i : Nat) : Prop := ((x.g.pred k.val).getLsbD i != n) = true
     let go (p : Prop) (i : Instr) : Prop :=
       (p → exec i s = does x (x.s.setGroup x.g) (.jump (x.sp.pc + 4 + 4 * off.signExtend 32)))
       ∧ (¬p → exec i s = does x (x.s.setGroup x.g) .step)
     go (∃ i, i < 32 ∧ x.am.getLsbD i = true ∧ c i) (.bany k n off)
     ∧ go (∀ i, i < 32 → x.am.getLsbD i = true → c i) (.ball k n off)
     ∧ go (¬∃ i, i < 32 ∧ x.am.getLsbD i = true ∧ c i) (.bnone k n off))
    ∧ (∀ (clock e : Nat) (sw : Bool) (g : Group) (t : Word), g.splits.length = 4 → e < 4 →
        (∃ p, settleSplit clock e sw (.jump t) g = mergeSame (g.setSplit e { g.split e with pc := t, st := p, since := clock, ask := none, word := none }))
        ∧ (∃ p, settleSplit clock e sw .step g = mergeSame (g.setSplit e { g.split e with pc := (g.split e).pc + 4, st := p, since := clock, ask := none, word := none })))

/-- BRA always jumps; a BRA on a predicate whose lanes of AM agree jumps or goes on. CALL writes PC + 4 to o15 in every lane of AM and
jumps. RET, JMPR and CALLR whose targets in the lanes of act are multiples of 4 transfer the lanes of act to them and the other lanes of
AM to PC + 4, CALLR after writing o15 in the lanes of act; where a lane of act has a target that is no multiple of 4, RET, JMPR and
CALLR trap ALIGN with the lanes that have one as tfm and the target of the lowest of them as tva (R135, R148), and change nothing else. -/
def Obligations.BranchesAndCallsComplete : Prop :=
  ∀ (s : State) (x : Ix) (k : Fin 8) (n : Bool) (off : BitVec 21) (a : LaneOp),
    (Issues s x { guarded := false } →
      exec (.braAlways off) s = does x (x.s.setGroup x.g) (.jump (x.sp.pc + 4 + 4 * off.signExtend 32))
      ∧ exec (.call off) s = does x (x.s.setGroup ((lanesOf x.am).foldl (fun g i => writeReg g i 111 (x.sp.pc + 4)) x.g))
          (.jump (x.sp.pc + 4 + 4 * off.signExtend 32)))
    ∧ (let t := x.am &&& (if n then ~~~x.g.pred k.val else x.g.pred k.val)
       Issues s x { guarded := false, preds := fun _ => [k.val], bad := fun x => illegalIf (taken x k.val n != 0 && taken x k.val n != x.am) } →
        (t = x.am → exec (.bra k n off) s = does x (x.s.setGroup x.g) (.jump (x.sp.pc + 4 + 4 * off.signExtend 32)))
        ∧ (t ≠ x.am → t = 0 ∧ exec (.bra k n off) s = does x (x.s.setGroup x.g) .step))
    ∧ (let go (op : LaneOp) : Prop := ∀ i, i < 32 → x.act.getLsbD i = true → (readWord x 0 op i 0).toNat % 4 = 0
       let goal (op : LaneOp) : List (Nat × Word) := (lanesOf x.am).map (fun i => (i, if x.act.getLsbD i then readWord x 0 op i 0 else x.sp.pc + 4))
       let wrong (op : LaneOp) : Lanes := maskOf (fun i => x.act.getLsbD i && (readWord x 0 op i 0).toNat % 4 != 0)
       let misses (i : Instr) (op : LaneOp) : Prop := ∀ j, j < 32 → (wrong op).getLsbD j = true → (∀ k, k < j → (wrong op).getLsbD k = false) →
         exec i s = traps x { cause := cALIGN, tfm := wrong op, tva := (readWord x 0 op j 0).toNat }
       (Issues s x { srcs := [(.o 15, 1)] } →
         (go (.o 15) → exec .ret s = does x (x.s.setGroup (jumpSplit x.s.clock x.g x.e (goal (.o 15)))) .stay) ∧ misses .ret (.o 15))
       ∧ (Issues s x { srcs := [(a, 1)] } →
         (go a → exec (.jmpr a) s = does x (x.s.setGroup (jumpSplit x.s.clock x.g x.e (goal a))) .stay
           ∧ exec (.callr a) s = does x (x.s.setGroup (jumpSplit x.s.clock
               ((lanesOf x.act).foldl (fun g i => writeReg g i 111 (x.sp.pc + 4)) x.g) x.e (goal a))) .stay)
         ∧ misses (.jmpr a) a ∧ misses (.callr a) a))

/-- BRK outside serial mode sends the split to PC + 4 when no lane of AM is selected, to the target when all are, and otherwise leaves the
unselected lanes at PC + 4 with HV 0 and puts the selected ones in the lowest FREE entry at the target; with no FREE entry, serial mode
starts. JPT opens the lowest FREE frame with its target as join PC and the AM, MR and frame of the split, or starts serial mode. In
serial mode BRK jumps when its lane is selected and JPT does nothing. EXIT ends every lane of AM. That it tests the barriers again at
once is the model's reading (log 56). -/
def Obligations.DivergenceCompletes : Prop :=
  ∀ (s : State) (x : Ix) (k : Fin 8) (n : Bool) (off : BitVec 21),
    (let t := x.am &&& (if n then ~~~x.g.pred k.val else x.g.pred k.val)
     let target := x.sp.pc + 4 + 4 * off.signExtend 32
     let put (sp : Split) : Host.Outcome State Fault Refusal := does x (x.s.setGroup (x.g.setSplit x.e sp)) .stay
     Issues s x (branchNeeds k.val) →
      (x.sp.ser = true → exec (.brk k n off) s = put { x.sp with pc := if t ≠ 0 then target else x.sp.pc + 4 })
      ∧ (x.sp.ser = false → t = 0 → exec (.brk k n off) s = put { x.sp with pc := x.sp.pc + 4 })
      ∧ (x.sp.ser = false → t ≠ 0 → t = x.am → exec (.brk k n off) s = put { x.sp with pc := target })
      ∧ (x.sp.ser = false → t ≠ 0 → t ≠ x.am → ∀ f, freeEntry? x.g = some f → exec (.brk k n off) s =
          does x (x.s.setGroup ((x.g.setSplit f { st := .ready, pc := target, am := t, mr := x.sp.mr, frame := x.sp.frame, since := x.s.clock }).setSplit x.e
            { x.sp with am := x.am &&& ~~~t, pc := x.sp.pc + 4, hv := 0 })) .stay)
      ∧ (x.sp.ser = false → t ≠ 0 → t ≠ x.am → freeEntry? x.g = none → exec (.brk k n off) s =
          does x (x.s.setGroup (startSerial x.s.clock x.g x.e)) .stay))
    ∧ (Issues s x { guarded := false } →
      (x.sp.ser = true → exec (.jpt off) s = does x (x.s.setGroup (x.g.setSplit x.e { x.sp with pc := x.sp.pc + 4 })) .stay)
      ∧ (x.sp.ser = false → ∀ f, freeFrame? x.g = some f → exec (.jpt off) s =
          does x (x.s.setGroup ((x.g.setFrame f ⟨true, x.sp.pc + 4 + 4 * off.signExtend 32, x.am, x.sp.mr, x.sp.frame⟩).setSplit x.e
            { x.sp with frame := f, pc := x.sp.pc + 4 })) .stay)
      ∧ (x.sp.ser = false → freeFrame? x.g = none → exec (.jpt off) s = does x (x.s.setGroup (startSerial x.s.clock x.g x.e)) .stay))
    ∧ (Issues s x sysNeeds → exec .exit s = does x (x.s.setGroup (exitLanes x.s.clock x.g x.e x.am)) .gone)

/-- NOP only goes on; TRAP and BRKPT take their trap, TRAP with its code and the next PC; RDSR of a group register writes it to every lane
of AM, of an engine register places it in flight; WRSR writes fx[4:0], the generator of each lane of AM (0 as 1), tpc with bits 1 and 0
clear, the command error register with its address, or clears mcb bits; SEGLD writes the segment register; ICINV empties the instruction
cache, which fills from what the core's last acquire saw and its own stores; TRET of a group whose loads and atomics have all returned
restores the saved block; TFAIL stops the group. What TRET waits for (log 27), and what the core's fetch sees after an ICINV (log 41),
are the model's reading. -/
def Obligations.SystemInstructionsComplete : Prop :=
  ∀ (s : State) (x : Ix),
    (Issues s x sysNeeds →
      exec .nop s = does x (x.s.setGroup x.g) .step
      ∧ (∀ c : BitVec 14, exec (.trap c) s = traps x { cause := cTRAP, tfm := x.am, tva := c.toNat, next := true })
      ∧ exec .brkpt s = traps x { cause := cBRKPT, tfm := x.am }
      ∧ exec .icinv s = does x (refreshIc x.s x.core) .step ∧ ((refreshIc x.s x.core).core x.core).ic = [])
    ∧ (∀ (wide : Bool) (d : LaneOp) (sr : BitVec 7), Issues s x { sysNeeds with dsts := [(d, srRun wide)], bad := fun _ => illegalIf (srWords sr.toNat != some (srRun wide)) } →
      (srEngine sr.toNat = false → exec (.rdsr wide d sr) s = onGroup x (enterHist ((lanesOf x.am).foldl (fun g i =>
          writeRun g d (srRun wide) i (srValue x sr.toNat i)) x.g) x.e x.am (srValue x sr.toNat)))
      ∧ (srEngine sr.toNat = true → exec (.rdsr wide d sr) s = does x (x.s.fresh.setGroup { x.g with
          pends := x.g.pends ++ List.map
            (fun r => ({ load := x.s.uid, reg := r.1, vals := (lanesOf x.am).map (fun i => (i, .engine sr.toNat r.2)), whole := true } : Pend))
            ((runRegs (d, srRun wide)).zip (List.range (srRun wide))) }) .step))
    ∧ (∀ (wide : Bool) (sr : BitVec 7) (a : LaneOp), Issues s x { sysNeeds with
          priv := srSegment sr.toNat, srcs := [(a, srRun wide)], lanes := fun x => if sr.toNat = 1 then x.am else laneBit x.low
          bad := fun _ => illegalIf (srWords sr.toNat != some (srRun wide) || !srWritable sr.toNat) } →
      (let v := readWord x 0 a x.low 0
       (sr = 0 → exec (.wrsr wide sr a) s = onGroup x { x.g with fx := v &&& 0x1F })
       ∧ (sr = 1 → exec (.wrsr wide sr a) s = onGroup x { x.g with seeds := (lanesOf x.am).foldl (fun l i =>
            setAt l i (if readWord x 0 a i 0 = 0 then 1 else readWord x 0 a i 0)) x.g.seeds })
       ∧ (sr = 3 → exec (.wrsr wide sr a) s = onGroup x { x.g with tpc := v &&& 0xFFFFFFFC })
       ∧ (sr = 0x24 → exec (.wrsr wide sr a) s = does x (x.s.setTeam { x.t with ces := v &&& 0x1FF, cesErr := false, cea := 0 }) .step)
       ∧ (sr = 0x28 → exec (.wrsr wide sr a) s = does x (x.s.setTeam { x.t with mcb := x.t.mcb &&& ~~~v }) .step)))
    ∧ (∀ (sr : BitVec 7) (a : LaneOp), Issues s x { sysNeeds with
          priv := true, srcs := [(a, 2)], lanes := fun x => laneBit x.low
          bad := fun x => illegalIf (!srSegment sr.toNat || !segldFits x sr.toNat (readRun x 0 a 2 x.low)) } →
      exec (.segld sr a) s = does x (writeSeg x sr.toNat (readRun x 0 a 2 x.low)) .step)
    ∧ (Issues s x handlerNeeds →
      (x.g.inFlight x.sp.lanes = false → x.g.quiet = true → ∀ b, x.g.saved = some b →
        exec .tret s = does x (x.s.setGroup (restoreSaved x.s.clock x.g b x.g.tpc)) .gone)
      ∧ exec .tfail s = does x (stopGroup x.s x.g.uid false true) .gone)

/-- A privileged TLBINV or TLBINV.ALL whose release nothing holds back begins, after the drain of its core, an invalidation of its range,
widened to 64 KiB, or of everything, and parks until it completes. OWNACQ of a held token counts it once more and acquires; of a free
region it takes the lowest FREE entry, asks the home, and parks until the token is held; of a pending one it parks for it. OWNREL whose
release nothing holds back lowers the count after the drain, gives the last one back and parks until that is done, and of a token not
held only parks. A park holds until what it awaits is known for every lane of AM (R407, R426); how it is held is the model's reading
(log 62). -/
def Obligations.InvalidationsAndTokensComplete : Prop :=
  ∀ (s : State) (x : Ix),
    let awaits (y : Ix) (s : State) (v : PVal) : State := s.modGroup x.g.uid (fun g =>
      { g with pends := g.pends ++ [{ load := y.s.uid, reg := zReg, vals := (lanesOf x.am).map (fun i => (i, v)) }] })
    (let y := afterRelease x (some 6) true
     let inv (ctx : Option Nat) (lo hi : Nat) : Host.Outcome State Fault Refusal :=
       does x (awaits y (beginInval y.s.fresh y.s.uid ctx lo hi none) (.inval y.s.uid)) .park
     Unheld x (some 6) true →
      (Issues s x { sysNeeds with priv := true } → exec .tlbinvAll s = inv none 0 (2 ^ 56))
      ∧ (∀ (d a : LaneOp), Issues s x { sysNeeds with
            priv := true, srcs := [(a, 2), (d, 2)], lanes := fun x => laneBit x.low
            bad := fun x => illegalIf (decide (2 ^ 56 < readRun x 0 a 2 x.low + readRun x 1 d 2 x.low)) } →
        (let lo := readRun x 0 a 2 x.low / 65536 * 65536
         let n := readRun x 1 d 2 x.low
         exec (.tlbinv d a) s = inv (some x.t.ctx) lo (if n = 0 then lo else (readRun x 0 a 2 x.low + n + 65535) / 65536 * 65536))))
    ∧ (∀ (a : LaneOp) (rg : Nat), Issues s x (ownNeeds a) → ownCheck x (readRun x 0 a 2 x.low) = .ok rg →
      (let wait (t : State) : Host.Outcome State Fault Refusal := does x (awaits x t.fresh (.own rg (readRun x 0 a 2 x.low))) .park
       (∀ n t, tokenOf x.s rg = some (n, t) → t.st = .held → t.count ≠ 65535 →
          exec (.ownacq a) s = does x (takeToken x.s n x.core x.t.ctx) .park)
       ∧ (∀ n t, tokenOf x.s rg = some (n, t) → t.st = .pending → exec (.ownacq a) s = wait x.s)
       ∧ (∀ n, tokenOf x.s rg = none → freeToken? x.s = some n →
          exec (.ownacq a) s = wait ((setToken x.s n { region := rg, st := .pending }).send (.tokenRequest rg))))
      ∧ (Unheld x (some 5) true →
         (let y := afterRelease x (some 5) true
          (∀ n t, tokenOf y.s rg = some (n, t) → t.st = .held → 2 ≤ t.count →
            exec (.ownrel a) s = does x (setToken y.s n { t with count := t.count - 1, ctxs := t.ctxs.erase x.t.ctx }) .park)
          ∧ (∀ n t, tokenOf y.s rg = some (n, t) → t.st = .held → t.count ≤ 1 →
            exec (.ownrel a) s = does x (yieldToken (awaits y y.s.fresh (.ownRel rg)) n .returning) .park)
          ∧ (∀ n t, tokenOf y.s rg = some (n, t) → t.st ≠ .held → exec (.ownrel a) s = does x y.s .park)
          ∧ (tokenOf y.s rg = none → exec (.ownrel a) s = does x y.s .park))))

/-- A load that passes checks 1 to 5 and finds its lines free answers a next state: its destination is in flight with what the accesses of
the lanes of act await, the requests to peers and the host are made, an ordered acquire parks the split, and any other goes on; one that
fails check 5 traps, or is passed over where a walk awaits a page-table entry. LDG, LDS, LDC, LDD and LDL move 4 bytes a register from
base + 4 × offset, LDX 1 or 2 bytes, sign-extended or not, LDO 4 or 8 under a scope. That an access of this part is performed after the
issue, and that translations may be cached, are choices of the model (log 5, 22, 63); what is delivered is LoadsDeliver. -/
def Obligations.LoadsComplete : Prop :=
  ∀ (s : State) (x : Ix) (d a : LaneOp),
    (let goes (i : Instr) (f : AccForm) (w : Nat) : Prop :=
      Issues s x { srcs := [(a, baseWords f.sp)], dsts := [(d, w)] } → Reaches x (sideOf x f .load a) →
      exec i s = does x (loadEffect x f w d (sidePlaces x (sideOf x f .load a))).1 (loadEffect x f w d (sidePlaces x (sideOf x f .load a))).2
     let goes (i : Instr) (f : AccForm) (w : Nat) : Prop := goes i f w ∧ (Issues s x { srcs := [(a, baseWords f.sp)], dsts := [(d, w)] } →
      ∀ t, check5 x [sideOf x f .load a] = some t → exec i s = traps x t)
     (∀ (w : Width) (off : BitVec 9),
        goes (.ldg w d a off) { sp := .g, size := 4 * w.regs, add := 4 * off.toInt } w.regs
        ∧ goes (.lds w d a off) { sp := .s, size := 4 * w.regs, add := 4 * off.toInt } w.regs
        ∧ goes (.ldc w d a off) { sp := .c, size := 4 * w.regs, add := 4 * off.toInt } w.regs
        ∧ goes (.ldd w d a off) { sp := .d, size := 4 * w.regs, add := 4 * off.toInt } w.regs
        ∧ goes (.ldl w d a off) { sp := .l, size := 4 * w.regs, add := 4 * off.toInt } w.regs)
      ∧ (∀ (sp : Space),
        goes (.ldx d a sp .u8) { sp := sp, size := 1 } 1 ∧ goes (.ldx d a sp .s8) { sp := sp, size := 1, sgn := true } 1
        ∧ goes (.ldx d a sp .u16) { sp := sp, size := 2 } 1 ∧ goes (.ldx d a sp .s16) { sp := sp, size := 2, sgn := true } 1)
      ∧ (∀ (wide acq : Bool) (sp : Space) (sc : Scope),
        goes (.ldo wide d a sp acq sc) { sp := sp, size := if wide then 8 else 4, ord := some (scopeCode sc, acq) } (if wide then 2 else 1)))

/-- A store that passes checks 1 to 5 and that nothing holds back answers a next state after the release of an ordered one: its writes are
performed, sent to the peers that are their homes, or queued as mirror records, and the split goes on, or is passed over until the homes
have answered (log 18). It then goes on with the places and data that it resolved at its issue, and checks and reads nothing anew. A
release at CLUSTER scope or wider to homes of this part records itself there, unless one of their lines would need a fifth record; any
other drains its core (log 28). The forms are those of the loads. That writes are performed at issue and which of two to one place
remains are choices of the model (log 5, 6), and so are addresses past 2^56 (log 63); what is written is StoresWriteTheirPlaces. -/
def Obligations.StoresComplete : Prop :=
  ∀ (s : State) (x : Ix) (d a : LaneOp),
    (let goes (i : Instr) (f : AccForm) (w : Nat) : Prop :=
      let sd := sideOf x f .store a
      let ps := (sidePlaces x sd).flatMap (fun l => l.2)
      let rel := f.strong && decide (2 ≤ f.scope)
      let lazy := rel && ps.all atHome && !fifthRecord x.s x.core (ps.map (fun p => p.pa / 128))
      let sc := if f.strong && !(sidePlaces x sd).isEmpty then some f.scope else none
      let y := afterRelease x sc (rel && !lazy)
      let r := storeEffect y f lazy (keptNow y (sidePlaces x sd) (fun i => readRun y 1 d w i) (fun _ => 0)) y.s
      (keptOf x = none → Issues s x { srcs := [(a, baseWords f.sp), (d, w)] } → check5 x [sd] = none →
        Unheld x sc (rel && !lazy) (ps.all Place.mirror) → ps.any (placeBusy y.s y.core) = false →
        exec i s = does x r.1 r.2)
      ∧ (∀ k, keptOf x = some k → ixOf s = some x → askTrap x.sp = none → askWaits x.sp = false → Unheld x none false →
        k.all.any (placeBusy x.s x.core) = false →
        exec i s = does x (storeEffect x f false k x.s).1 (storeEffect x f false k x.s).2)
     (∀ (w : Width) (off : BitVec 9),
        goes (.stg w d a off) { sp := .g, size := 4 * w.regs, add := 4 * off.toInt } w.regs
        ∧ goes (.sts w d a off) { sp := .s, size := 4 * w.regs, add := 4 * off.toInt } w.regs
        ∧ goes (.stc w d a off) { sp := .c, size := 4 * w.regs, add := 4 * off.toInt } w.regs
        ∧ goes (.std w d a off) { sp := .d, size := 4 * w.regs, add := 4 * off.toInt } w.regs
        ∧ goes (.stl w d a off) { sp := .l, size := 4 * w.regs, add := 4 * off.toInt } w.regs)
      ∧ (∀ (sp : Space), goes (.stx d a sp false) { sp := sp, size := 1 } 1 ∧ goes (.stx d a sp true) { sp := sp, size := 2 } 1)
      ∧ (∀ (wide rel : Bool) (sp : Space) (sc : Scope),
        goes (.sto wide d a sp rel sc) { sp := sp, size := if wide then 8 else 4, ord := some (scopeCode sc, rel) } (if wide then 2 else 1)))

/-- An atomic of any of the ten operations in the spaces G, S, C and D that passes checks 1 to 5 and that nothing holds back answers a next
state after the release that MR.ORD asks for and the drain of the cores recorded at its home lines (R236): each lane of act performs it
at its place, in an order freely chosen, and D takes the old values unless it is z; one whose homes must answer first is passed over
until they have (log 18), and then goes on with what it resolved at its issue. That they are performed at issue, what MR.ORD drains, and
an atomic at a device's register follow the model's reading (log 5, 21, 28). At a place of scratch the operation reads the old value,
writes the new one of R242, and delivers the old one. -/
def Obligations.AtomicsComplete : Prop :=
  ∀ (s : State) (x : Ix) (d a b : LaneOp),
    (∀ (op : Nat) (sp : Space) (i : Instr),
      (op, sp, i) ∈ ([
        (0, .g, .atomgAdd d a b), (1, .g, .atomgMin d a b), (2, .g, .atomgMax d a b), (3, .g, .atomgAnd d a b), (4, .g, .atomgOr d a b),
        (5, .g, .atomgXor d a b), (6, .g, .atomgExch d a b), (7, .g, .atomgCas d a b), (8, .g, .atomgInc d a b), (9, .g, .atomgDec d a b),
        (0, .s, .atomsAdd d a b), (1, .s, .atomsMin d a b), (2, .s, .atomsMax d a b), (3, .s, .atomsAnd d a b), (4, .s, .atomsOr d a b),
        (5, .s, .atomsXor d a b), (6, .s, .atomsExch d a b), (7, .s, .atomsCas d a b), (8, .s, .atomsInc d a b), (9, .s, .atomsDec d a b),
        (0, .c, .atomcAdd d a b), (1, .c, .atomcMin d a b), (2, .c, .atomcMax d a b), (3, .c, .atomcAnd d a b), (4, .c, .atomcOr d a b),
        (5, .c, .atomcXor d a b), (6, .c, .atomcExch d a b), (7, .c, .atomcCas d a b), (8, .c, .atomcInc d a b), (9, .c, .atomcDec d a b),
        (0, .d, .atomdAdd d a b), (1, .d, .atomdMin d a b), (2, .d, .atomdMax d a b), (3, .d, .atomdAnd d a b), (4, .d, .atomdOr d a b),
        (5, .d, .atomdXor d a b), (6, .d, .atomdExch d a b), (7, .d, .atomdCas d a b), (8, .d, .atomdInc d a b), (9, .d, .atomdDec d a b)] : List (Nat × Space × Instr)) →
      (let sd := sideOf x { sp := sp, size := atomBytes x.ty, ord := some (6, false) } (.atomic op x.ty) a
       let ps := (sidePlaces x sd).flatMap (fun l => l.2)
       let strong := decide (2 ≤ effScope sp (mrSCOPE x.sp.mr))
       let rel := (mrORD x.sp.mr == 2 || mrORD x.sp.mr == 3) && !(sidePlaces x sd).isEmpty
       let acq := mrORD x.sp.mr == 1 || mrORD x.sp.mr == 3
       let lines := ps.map (fun p => p.pa / 128)
       let lazy := rel && strong && !acq && ps.all atHome && !fifthRecord x.s x.core lines
       let sc := if rel then some (effScope sp (mrSCOPE x.sp.mr)) else none
       let y := afterRelease x sc (rel && strong && !lazy)
       let z := reachAll y.s y.core (atomLines true ps)
       let r := atomEffect y op lazy (acq && !(sidePlaces x sd).isEmpty) strong d (keptNow y (sidePlaces x sd) (readRun y 1 b (atomWords y)) (readRun y 2 d (atomWords y))) z
       (keptOf x = none → Issues s x (atomNeeds op sp d a b) → check5 x [sd] = none → Unheld x sc (rel && strong && !lazy) (ps.all Place.mirror) →
         ps.any (placeBusy y.s y.core) = false → (∀ l, l ∈ atomLines true ps → reachLeft z y.core l = false) → exec i s = does x r.1 r.2)
       ∧ (∀ k, keptOf x = some k → ixOf s = some x → askTrap x.sp = none → askWaits x.sp = false → Unheld x none false →
         k.all.any (placeBusy x.s x.core) = false →
         (let z := reachAll x.s x.core (atomLines true k.all)
          let r := atomEffect x op false (acq && !k.places.isEmpty) strong d k z
          (∀ l, l ∈ atomLines true k.all → reachLeft z x.core l = false) → exec i s = does x r.1 r.2))))
    ∧ (∀ (op ty : Nat) (past : Bool) (q : AtomSt) (lane co o note : Nat) (u v : Nat), badScr q.s co o (atomBytes ty) = false →
        atomLane x op ty past q lane [.scr co o note] u v =
          { q with
            s := q.s.setScr co o (bytesOf (atomBytes ty) (atomNew op ty (ofBytes (q.s.scrBytes co o (atomBytes ty))) u v))
            vals := q.vals ++ [(lane, oldWords ty (ofBytes (q.s.scrBytes co o (atomBytes ty))))] })

/-- A fence of any kind at CLUSTER or wider that no channel holds back, and whose group has no load left to perform, drains the core, so
that the stores of its group are performed there; when nothing that it must find performed is outstanding it acquires where it acquires
there, and parks; else it parks until that is performed, and acquires then. SIG, whose release nothing holds back, increments the
semaphore and serves its waiters. SWAIT and YIELD take their count when no split waits before them and the value is enough, YIELD going
on at its target; otherwise the split waits at the end of the queue. SPOLL gives the value with OVF in bit 16 and clears OVF in the .c
form. What a release and an acquire drain or invalidate beyond what they must is the model's reading (log 28, 66). -/
def Obligations.FencesAndSemaphoresComplete : Prop :=
  ∀ (s : State) (x : Ix),
    (∀ (sc : Scope), Issues s x { guarded := false } → (∀ r ∈ x.s.runs, r.st = .waiting) →
      anyLate x.g = false →
      (let eff := Nat.min (scopeCode sc) 6
       let wide := decide (2 ≤ eff)
       let s1 := if wide then drained x else x.s
       let ids := outstanding s1 x.g.uid x.core (Nat.max 2 eff)
       let fence (i : Instr) (acq : Bool) : Prop :=
         (ids = [] → exec i s = does x ((if acq && wide then acquireCore s1 x.core else s1).modGroup x.g.uid (fun g => if acq then g.acquired else g)) .park)
         ∧ (ids ≠ [] → exec i s = does x (fencePend x s1 ids (acq && wide) acq) .park)
       fence (.fenceRel sc) false ∧ fence (.fenceAcq sc) true ∧ fence (.fenceFull sc) true))
    ∧ (∀ (k : Fin 64) (n : BitVec 14), Issues s x onceNeeds →
      (let q := x.t.sem k.val
       let wait (c : Nat) (pc : Word) : Host.Outcome State Fault Refusal :=
         does x ((x.s.fresh.setTeam (x.t.setSem k.val { q with waiters := q.waiters ++ [(x.s.uid, c)] })).setGroup
           (waitAt x x.g x.s.uid (.sem k.val) pc x.sw)) .stay
       (Unheld x (some 1) false → exec (.sig k n) s = does x (semIncr x.s x.t.uid k.val n.toNat) .step)
       ∧ (q.waiters = [] → n.toNat ≤ q.val →
          exec (.swait k n) s = does x ((x.s.setTeam (x.t.setSem k.val { q with val := q.val - n.toNat })).setGroup x.g.acquired) (.jump (x.sp.pc + 4)))
       ∧ (q.waiters = [] → 1 ≤ q.val →
          exec (.yield k n) s = does x ((x.s.setTeam (x.t.setSem k.val { q with val := q.val - 1 })).setGroup x.g.acquired) (.jump (x.sp.pc + 4 + 4 * n.signExtend 32)))
       ∧ (q.waiters ≠ [] ∨ q.val < n.toNat → exec (.swait k n) s = wait n.toNat (x.sp.pc + 4))
       ∧ (q.waiters ≠ [] ∨ q.val < 1 → exec (.yield k n) s = wait 1 (x.sp.pc + 4 + 4 * n.signExtend 32))))
    ∧ (∀ (d : LaneOp) (k : Fin 64) (clr : Bool), Issues s x { dsts := [(d, 1)] } →
      (let q := x.t.sem k.val
       exec (.spoll d k clr) s = does x ((if clr then x.s.setTeam (x.t.setSem k.val { q with ovf := false }) else x.s).setGroup
         (putResults x d 1 (fun _ => { val := q.val + (if q.ovf then 65536 else 0) }))) .step))

/-- BART, and BARS of a slot that names a set of CORES form, complete when no other split of the group waits at a barrier of another PC or,
for BARS, of another slot, and nothing holds their release back: the split waits and the barrier is tested, for BARS after its core is
recorded at the set with its epoch; BARS of a broken set drains its core, writes kd false in act and goes on. ARR records its core,
gives the phase of the set, counts an arrival, and tests the phase. ATRY writes kd true when the phase has moved past its operand by 1
to 2^31, after the drain of the recorded cores and with an acquire, else false; while channels hold that drain back it is passed over.
Which check finds the mismatch of serial mode is the model's choice (log 12, 66). -/
def Obligations.BarriersAndPhasesComplete : Prop :=
  ∀ (s : State) (x : Ix),
    (Issues s x { onceNeeds with bad := barrierBad } → barrierClash x none = false → Unheld x (some 1) false →
      exec .bart s = does x (testBart (x.s.fresh.setGroup (waitSplit x x.g x.s.uid .bart)) x.t.uid) .stay)
    ∧ (∀ (kd : Fin 8) (slot : Fin 4) (l : Launch) (n : Nat) (q : SetSt), Issues s x { onceNeeds with bad := barsBad slot.val } →
      barrierClash x (some slot.val) = false → slotSet x slot.val = some (l, n, q) → Unheld x (some 4) q.broken →
      (let l1 := setSet l n (q.record x.core (x.s.core x.core).epoch)
       (q.broken = true → exec (.bars kd slot) s = does x ((drained x).setGroup (x.g.setPred kd.val x.act 0)) .step)
       ∧ (q.broken = false → exec (.bars kd slot) s =
          does x (testBars (((x.s.setLaunch l1).fresh).setGroup (waitSplit x x.g x.s.uid (.bars slot.val kd.val x.act))) l1 n q) .stay)))
    ∧ (∀ (d : Fin 64) (slot : Fin 4) (l : Launch) (n : Nat) (q : SetSt), Issues s x { onceNeeds with bad := fun x => illegalIf (slotSet x slot.val).isNone } →
      slotSet x slot.val = some (l, n, q) → Unheld x (some 4) false →
      (let q1 := q.record x.core (x.s.core x.core).epoch
       exec (.arr d slot) s = does x ((x.s.setLaunch (setSet l n
        (if q.count * l.lr.gpt - q.gone ≤ q.arrivals + 1 then { q1 with phase := q.phase + 1, arrivals := 0 } else { q1 with arrivals := q.arrivals + 1 }))).setGroup
          (x.g.setUreg d.val q.phase)) .step))
    ∧ (∀ (kd : Fin 8) (a : UniOp) (slot : Fin 4) (l : Launch) (n : Nat) (q : SetSt),
      Issues s x { onceNeeds with unis := uniNums false a, bad := fun x => illegalIf (slotSet x slot.val).isNone } → slotSet x slot.val = some (l, n, q) →
      (let m := (q.phase - readUni1 x a).toNat
       let s1 := drainSet x.s l.lch n
       let puts (t : State) (v : Lanes) : Host.Outcome State Fault Refusal := does x (t.modGroup x.g.uid (fun g => g.setPred kd.val x.act v)) .step
       (1 ≤ m ∧ m ≤ 2 ^ 31 →
          (setDrained s1 l.lch n = true → exec (.atry kd a slot) s = puts (acquireCore s1 x.core) (BitVec.allOnes 32))
          ∧ (setDrained s1 l.lch n = false → exec (.atry kd a slot) s = does x s1 .again))
       ∧ (¬(1 ≤ m ∧ m ≤ 2 ^ 31) → exec (.atry kd a slot) s = puts x.s 0)))

/-- POP of a configured queue whose ring slot translates and whose line is there takes a record to scratch, with its index in gd, and serves
the waiters that the room lets on, or traps where a word of the record is in error (R371, log 36); while its walk or its line is awaited
it is passed over (log 66), and a slot that does not translate traps; of an empty queue it waits in order. ENQ and ENQ.W, whose release
nothing holds back, to a queue with room append, after the drain of the core, the 64 or 256 bytes at the scratch offset and serve the
waiters, ENQ writing kd true; ENQ to a full queue writes kd false, ENQ.W waits. The class limit that a launch record carries is held
beside the ring (log 58). -/
def Obligations.QueueInstructionsComplete : Prop :=
  ∀ (s : State) (x : Ix) (d a : Fin 64) (kd : Fin 8),
    (let off := (x.g.ureg a.val).toNat
     let n := (x.g.ureg (a.val + 1)).toNat
     let q := queueOf x.cx false n
     Issues s x { onceNeeds with
          unis := [a.val, a.val + 1]
          bad := fun x => illegalIf (x.g.inHandler || decide (64 ≤ (queuePair x a).2) || !(queueOf x.cx false (queuePair x a).2).ok) } →
      scratchCheck x off 64 false = none →
      (∀ c, ringXlate x.s x.t.ctx false q q.ci .load = .error c →
          (c = cAWAITED → exec (.pop d a) s = does x (askEntry x.s frontEnd x.t.ctx (ringVa q false q.ci)) .again)
          ∧ (c ≠ cAWAITED → exec (.pop d a) s = traps x { cause := c, tfm := x.am, tva := ringVa q false q.ci % 2 ^ 56 }))
      ∧ (q.pi = q.ci → (∃ y, ringXlate x.s x.t.ctx false q q.ci .load = .ok y) → exec (.pop d a) s = does x ((x.s.fresh.setCtx x.t.ctx { x.cx with pops := x.cx.pops ++ [(n, x.s.uid)] }).setGroup
          (waitSplit x x.g x.s.uid (.pop n off d.val))) .stay)
      ∧ (q.pi ≠ q.ci → ∀ y, ringXlate x.s x.t.ctx false q q.ci .load = .ok y →
          (∀ s1, lineReady x.s (.pop x.t.ctx n) y.pa (ringVa q false q.ci) = .error s1 → exec (.pop d a) s = does x s1 .again)
          ∧ (∀ s1, lineReady x.s (.pop x.t.ctx n) y.pa (ringVa q false q.ci) = .ok s1 →
            (frontBad s1 (.pop x.t.ctx n) y.pa 64 = true →
              exec (.pop d a) s = traps x { cause := cMEMORY_UNCORRECTABLE, tfm := x.am, tva := ringVa q false q.ci % 2 ^ 56 })
            ∧ (frontBad s1 (.pop x.t.ctx n) y.pa 64 = false →
              exec (.pop d a) s = does x (serveAll (popTake s1 x.t.ctx n x.g off d.val y.pa) x.t.ctx false n) .step))))
    ∧ (∀ (launch : Bool) (n : Nat) (y : Xl), enqSel x a = some (launch, n) →
      (let off := (x.g.ureg a.val).toNat
       let q := queueOf x.cx launch n
       let s1 := (afterRelease x (some 4) true).s
       let b := s1.scrBytes x.core (x.t.ssBase + off) (recBytes launch)
       let put := serveAll (appendRec s1 x.t.ctx launch n y.pa b (fromClass s1 x.g)) x.t.ctx launch n
       Unheld x (some 4) true → scratchCheck x off (recBytes launch) true = none → ringXlate x.s x.t.ctx launch q q.pi .store = .ok y →
        (Issues s x { onceNeeds with unis := [a.val, a.val + 1], bad := fun x => illegalIf ((false && x.g.inHandler) || (enqSel x a).isNone) } →
          (q.full = false → exec (.enq kd a) s = does x (put.modGroup x.g.uid (fun g => g.setPred kd.val x.act (BitVec.allOnes 32))) .step)
          ∧ (q.full = true → exec (.enq kd a) s = does x (s1.modGroup x.g.uid (fun g => g.setPred kd.val x.act 0)) .step))
        ∧ (Issues s x { onceNeeds with unis := [a.val, a.val + 1], bad := fun x => illegalIf ((true && x.g.inHandler) || (enqSel x a).isNone) } →
          (q.full = false → exec (.enqW a) s = does x put .step)
          ∧ (q.full = true → exec (.enqW a) s = does x ((s1.fresh.setCtx x.t.ctx { s1.ctx x.t.ctx with enqs := (s1.ctx x.t.ctx).enqs ++ [(launch, n, s1.uid)] }).setGroup
              (waitSplit x x.g s1.uid (.enqw launch n b))) .stay))))

/-- VALID, whose release nothing holds back, ORs a pair of uniform registers into the valid word of the launch after the drain of its core;
of a firmware team, which has no launch, it makes its release alone (log 10, 59); RDVALID of a team of a launch gives the word after an
acquire; MSTAT gives the matrix status of the team and clears it in its .c form. -/
def Obligations.ValidityAndMatrixStatusComplete : Prop :=
  ∀ (s : State) (x : Ix) (a d : Fin 64) (clr : Bool),
    (∀ l, (afterRelease x (some 4) true).s.launch? x.t.lch = some l → Unheld x (some 4) true → Issues s x { onceNeeds with unis := [a.val, a.val + 1] } →
      exec (.valid a) s = does x ((afterRelease x (some 4) true).s.setLaunch { l with v := l.v ||| BitVec.ofNat 64 (readGPair x.g a) }) .step)
    ∧ (∀ l, x.s.launch? x.t.lch = some l → Issues s x onceNeeds →
      exec (.rdvalid a) s = does x ((acquireCore x.s x.core).modGroup x.g.uid (fun g => writeUni g true a l.v.toNat)) .step)
    ∧ ((afterRelease x (some 4) true).s.launch? x.t.lch = none → Unheld x (some 4) true → Issues s x { onceNeeds with unis := [a.val, a.val + 1] } →
      exec (.valid a) s = does x (afterRelease x (some 4) true).s .step)
    ∧ (Issues s x { major := some 0x3D, guarded := false } →
      exec (.mstat clr d) s = does x (let s1 := x.s.setGroup (x.g.setUreg d.val x.t.mstat)
        if clr then s1.setTeam { x.t with mstat := 0 } else s1) .step)

/-- An RDSLK of a team of a launch that passes checks 1 to 4 answers a next state in which g(d) holds bits [31:0] and g(d+1) bits [63:32] of
the slack DEADLINE − BUDGET − device time − COST × the unfinished teams as a 64-bit two's-complement value, which is negative once
T_wrap − COST × U is past. (R386) -/
def Obligations.SlackIsSampled : Prop :=
  ∀ (s : State) (x : Ix) (d : Fin 64) (l : Launch), x.s.launch? x.t.lch = some l → Issues s x onceNeeds →
    (let slack : Int := (l.lr.deadline : Int) - l.lr.budget - x.s.dtime - l.lr.cost * unfinished x.s l
     let g := writeUni x.g true d (pat slack 64)
     exec (.rdslk d) s = onGroup x g
     ∧ g.ureg d.val = BitVec.ofInt 32 slack ∧ g.ureg (d.val + 1) = BitVec.ofInt 32 (slack / 2 ^ 32)
     ∧ (∀ n, n ≠ d.val → n ≠ d.val + 1 → g.ureg n = x.g.ureg n)
     ∧ (slack < 0 ↔ tWrap l.lr - l.lr.cost * unfinished x.s l < x.s.dtime))

/-- An engine instruction whose role may issue it, whose checks pass, whose queue has room (64 commands, 8 bank commands, 16 matrix commands
of a class) and no restored command before it, and whose release nothing holds back, queues its command with what it took from the split
and the group, after the drain that MR.AREL asks for, and the split goes on. A lane copy holds the ends of its lanes and the pages that
its checks translated them to, before the release; LOUVER, CPYM, BRUN and SHUT the 64 bytes of their descriptor; a matrix command its
uniform blocks. -/
def Obligations.EngineCommandsAreQueued : Prop :=
  ∀ (s : State) (x : Ix),
    (let sc := if mrAREL x.sp.mr then some (mrSCOPE x.sp.mr) else none
     let y := afterRelease x sc true
     let c := y.s.core x.core
     Unheld x sc true →
      (∀ (sz : CpySize) (d a : LaneOp),
        (let goes (i : Instr) (src dst : Space) : Prop :=
          let sa := sideOf x { sp := src, size := cpyBytes sz } .cmdRead a
          let sd := sideOf x { sp := dst, size := cpyBytes sz } .cmdWrite d
          let places (sd : Side) : List Place := sd.offs.map (fun p => placeOf x sd p.1 p.2)
          let pairs := ((places sa).zip (places sd)).map (fun q => (cpyEnd q.1, cpyEnd q.2))
          let z : Ix := { y with s := fillTlb y y.s (places sa ++ places sd) }
          let q := z.s.core x.core
          Issues s x { major := some 0x3B, srcs := [(a, baseWords src), (d, baseWords dst)], blocked := noEntry (.cpy 0 []) } → check5 x [sa, sd] = none →
          exec i s = does x (z.s.fresh.setCore x.core { q with cmdq := q.cmdq ++ [{ newCmd z (.cpy (cpyBytes sz) pairs) .started [] with
            maps := ((pairs.flatMap (fun p => [p.1, p.2])).filter (fun e => e.phys)).map (fun e => (e.note, cpyBytes sz, e.key)) }] }) .step
         goes (.cpyGs sz d a) .g .s ∧ goes (.cpySg sz d a) .s .g ∧ goes (.cpyGc sz d a) .g .c ∧ goes (.cpySs sz d a) .s .s))
      ∧ (∀ (a : LaneOp),
        (let o := (readWord x 0 a x.low 0).toNat
         let desc := x.s.scrBytes x.core (x.t.ssBase + o) 64
         let goes (i : Instr) (k : CmdKind) (q : CoreSt) : Prop :=
           Issues s x { major := some 0x3C, guarded := false, srcs := [(a, 1)], lanes := fun x => laneBit x.low, blocked := noEntry k } →
           exec i s = does x (y.s.fresh.setCore x.core q) .step
         ecmdCheck x o desc = none →
          goes (.louver a) .louver { c with cmdq := c.cmdq ++ [newCmd y .louver .queued desc] }
          ∧ goes (.cpym a) .cpym { c with cmdq := c.cmdq ++ [newCmd y .cpym .queued desc] }
          ∧ goes (.brun a) .brun { c with bankq := c.bankq ++ [newCmd y .brun .queued desc] }
          ∧ goes (.shut a) .shut { c with bankq := c.bankq ++ [newCmd y .shut .queued desc] }))
      ∧ (∀ (t : UniOp) (a b : Fin 64),
        (let goes (i : Instr) (kind : CmdKind) (m : Mx) (unis : Ix → List Nat) (bad : Ix → Bool) (cs : List Chk) : Prop :=
          Issues s x { major := some 0x3D, guarded := false, unisBy := unis, bad := fun x => illegalIf (bad x), blocked := noEntry kind } →
          mxCheck5 x.am x.t.ssLimit x.t.accLen m cs = none →
          (y.s.clsOf x.t = 0 → exec i s = does x (y.s.fresh.setCore x.core { c with mq0 := c.mq0 ++ [{ newCmd y kind .queued [] with blk := m.blk }] }) .step)
          ∧ (y.s.clsOf x.t ≠ 0 → exec i s = does x (y.s.fresh.setCore x.core { c with mq1 := c.mq1 ++ [{ newCmd y kind .queued [] with blk := m.blk }] }) .step)
         goes (.mma t a b) .mma (mxOf x t (some a) b) (mxUnis .mma t (some a) b) (fun x => (fun y => shapeBad y true 1 || !pairOk (mrAFMT y.mr) (mrBFMT y.mr) (mrSCK y.mr) || y.f 11 != 0) (mxOf x t (some a) b)) (mmaChks (mxOf x t (some a) b))
         ∧ goes (.mzero t b) .mzero (mxOf x t none b) (mxUnis .mzero t none b) (fun x => (fun y => shapeBad y false 0) (mxOf x t none b)) ([])
         ∧ goes (.mdrain t a b) .mdrain (mxOf x t (some a) b) (mxUnis .mdrain t (some a) b) (fun x => (fun y => shapeBad y false 2 || dctlBad y || y.f 11 != 0) (mxOf x t (some a) b)) (drainChks (mxOf x t (some a) b))))
      ∧ (∀ (k : CmdKind) (y : Ix), noEntry k y = false →
          ((y.s.core y.core).queue k (y.s.clsOf y.t)).length < (if isMx k then 16 else if isBank k then 8 else 64)))

/-- A bank command of a running run answers a next state, and leaves a boundary behind it whose windows have not been served (R342). NOP,
SETB, ADDB, SETF, FMT, SCL, QZERO, HSUM and QST change registers of the run and go on at the next command; LOOP counts b down and goes
to its target unless it has reached 0; SIG increments the semaphore of the run unless it names none; QOUT with no open row writes
accumulators to die scratch; OPEN with no open row, unless the governor delays it, opens a row and starts its count; CLOSE closes it and
goes on, to the boundary that follows, or ends as cut; END ends the run with OK. The UPC of a cut run, the windows at a boundary and the
governor's delay of an OPEN follow the model's reading (log 32, 34, 52). -/
def Obligations.BankRegisterCommandsComplete : Prop :=
  ∀ (s : State) (r : Run), Running s r →
    exec .bankNop s = bankGoes r s r (r.upc + 1)
    ∧ (∀ (b : Fin 8) (i : BitVec 16),
        exec (.bankSetb b i) s = bankGoes r s { r with b := setAt r.b b.val i.toNat } (r.upc + 1)
        ∧ exec (.bankAddb b i) s = bankGoes r s { r with b := setAt r.b b.val ((r.b.getD b.val 0 + i.toNat) % 65536) } (r.upc + 1))
    ∧ (∀ (f : Fin 4) (i : BitVec 16), exec (.bankSetf f i) s = bankGoes r s { r with f := setAt r.f f.val (i.toNat * 65536) } (r.upc + 1))
    ∧ (∀ (sat wf : Bool), exec (.bankFmt sat wf) s = bankGoes r s { r with sat := sat, wf := wf } (r.upc + 1))
    ∧ (∀ (f : Fin 4) (d c : Fin 16), exec (.bankScl f d c) s = bankGoes r s
        (r.mapC d.val (fun b l => bankRound r .bf16 (mulF (decodeF .fp32 (r.f.getD f.val 0)) (decodeF .bf16 (elOf 16 (r.c b c.val) l))))) (r.upc + 1))
    ∧ (∀ (q n : Fin 8), exec (.bankQzero q n) s = bankGoes r s
        ((List.range (n.val + 1)).foldl (fun a j => a.setQ (q.val + j) (fun _ => (List.range 16).map (fun l => (l, ⟨0, 0⟩)))) r) (r.upc + 1))
    ∧ (∀ (q : Fin 8), exec (.bankHsum q) s = bankGoes r s
        ((hsumStep q.val (hsumStep q.val (hsumStep q.val (hsumStep q.val r 1) 2) 4) 8).setQ q.val (fun _ => (List.range 15).map (fun l => (l + 1, ⟨0, 0⟩)))) (r.upc + 1))
    ∧ (∀ (q : Fin 8) (d : Fin 16), exec (.bankQst q d) s = bankGoes r s
        (r.mapC d.val (fun b l => bankRound r .bf16 ⟨decodeF .fp32 (r.q b q.val l), 0⟩)) (r.upc + 1))
    ∧ (∀ (b : Fin 8) (tgt : Fin 64), (let v := (r.b.getD b.val 0 + 65535) % 65536
        exec (.bankLoop b tgt) s = bankGoes r s { r with b := setAt r.b b.val v } (if v = 0 then r.upc + 1 else tgt.val)))
    ∧ exec .bankSig s = bankGoes r (if r.psem = 0xFF then s else semIncr s r.team r.psem 1) r (r.upc + 1)
    ∧ (∀ (q n : Fin 8), r.openSlot = none → exec (.bankQout q n) s = bankGoes r
        ((((List.range r.banks.length).zip r.banks).flatMap (fun p => (List.range (n.val + 1)).map (fun j =>
          (r.rdout + (p.1 * 8 + q.val + j) * 64, (List.range 16).flatMap (fun l => bytesOf 4 (r.q p.2 (q.val + j) l)))))).foldl
            (fun s o => s.setDscr r.die o.1 o.2) s) r (r.upc + 1))
    ∧ (∀ (fs : Fin 8), r.openSlot = none → openDelayed s r.cls = false →
        exec (.bankOpen fs) s = bankGoes r s { r with openSlot := some fs.val, segc := 0 } (r.upc + 1))
    ∧ (∀ slot, r.openSlot = some slot →
        (let q : Run := { r with openSlot := none, nseg := r.nseg + 1 }
         (r.cut = true → exec .bankClose s = bankEnds s q stCUT (r.upc + 1) 0)
         ∧ (r.cut = false → exec .bankClose s =
              bankGoes r s q (r.upc + 1))))
    ∧ exec .bankEnd s = bankEnds s r stOK r.upc 0

/-- RDC, WRC, MACX, MACC and AXPY with an open row, fewer than 64 column commands counted in it, and no error in a column that they read
answer a next state in which every bank of the scope has done its part and the count has gone up: RDC takes the column, WRC writes it,
MACC and AXPY multiply and add it with one rounding, MACX adds the terms of its x-slots. The 65th command of a segment ends the run with
ERR_SEGMENT, one without an open row with ERR_PROGRAM. -/
def Obligations.BankColumnCommandsComplete : Prop :=
  ∀ (s : State) (r : Run) (ca : Col), Running s r →
    (let col := (ca.col.val + (match ca.xb with | some b => r.b.getD b.val 0 | none => 0)) % 64
     let on (q : Run) : Run := { q with segc := r.segc + 1 }
     (∀ slot, r.openSlot = some slot → r.segc < 64 →
        (let pa (b : Nat × Nat) : Nat := colPa r slot col b
         (∀ (c : Fin 16), exec (.bankWrc c ca) s =
            bankGoes r (r.banks.foldl (fun s b => s.setHome (pa b) (bytesOf 32 (r.c b c.val))) s) (on r) (r.upc + 1))
         ∧ ((∀ b, b ∈ r.banks → badMem s (pa b) 32 = false) →
            (∀ (d : Fin 16), exec (.bankRdc d ca) s = bankGoes r s (on (r.setC d.val (fun b => ofBytes (s.homeBytes (pa b) 32)))) (r.upc + 1))
            ∧ (∀ (q : Fin 8) (c : Fin 16), exec (.bankMacc q c ca) s = bankGoes r s (on (r.setQ q.val (fun b =>
                (List.range 16).map (fun l => (l, bankRound r .fp32 (fmaF .rne (bfEl (colVal s r slot col b) l) (bfEl (r.c b c.val) l)
                  (decodeF .fp32 (r.q b q.val l)))))))) (r.upc + 1))
            ∧ (∀ (f : Fin 4) (d : Fin 16), exec (.bankAxpy f d ca) s = bankGoes r s (on (r.mapC d.val (fun b l =>
                bankRound r .bf16 (fmaF .rne (decodeF .fp32 (r.f.getD f.val 0)) (bfEl (colVal s r slot col b) l) (bfEl (r.c b d.val) l))))) (r.upc + 1))
            ∧ (∀ (q n sl xr : Fin 8), (r.wf && decide (60 ≤ col)) = false → exec (.bankMacx q n sl xr ca) s =
                bankGoes r s (on ((List.range (n.val + 1)).foldl (fun a j => a.setQ (q.val + j) (fun b => (List.range 16).map (fun l =>
                  (l, macxAdd r b (q.val + j) l (if r.wf then macxMx r b (colVal s r slot col b) (r.b.getD xr.val 0) col (sl.val + j) l
                    else macxBf r (colVal s r slot col b) (r.b.getD xr.val 0) col (sl.val + j) l))))) r)) (r.upc + 1)))))
     ∧ (let ends (st : Nat) : Prop :=
          (∀ (c : Fin 16), exec (.bankWrc c ca) s = bankEnds s r st r.upc 0 ∧ exec (.bankRdc c ca) s = bankEnds s r st r.upc 0)
          ∧ (∀ (q : Fin 8) (c : Fin 16), exec (.bankMacc q c ca) s = bankEnds s r st r.upc 0)
          ∧ (∀ (f : Fin 4) (d : Fin 16), exec (.bankAxpy f d ca) s = bankEnds s r st r.upc 0)
          ∧ (∀ (q n sl xr : Fin 8), exec (.bankMacx q n sl xr ca) s = bankEnds s r st r.upc 0)
        (64 ≤ r.segc → ends stSEGMENT) ∧ (r.segc < 64 → r.openSlot = none → ends stERRPROG)))

/-- INSTRUCTION_FETCH_FAULT of the issuing split whose fetch fails takes the trap of the fetch with every lane of AM, the address of the
word, and the mark of a fetch; so does one whose read of code from the host has failed. ILLEGAL_ENCODING takes its trap with every lane
of AM. LOAD_RETURN of a register all of whose words have arrived, with those of the rest of an access that is one, writes the words, or
fails the register, takes it out of the in-flight set, and acquires where the load did; a failure that nothing consumes is reported, and
homes that waited for the load go on. What fetch reads and when a load is performed are choices of the model (log 5, 20, 41, 63), and so
is which write of R32 remains (log 4). -/
def Obligations.FetchFaultsAndReturnsComplete : Prop :=
  ∀ (s : State),
    (∀ (x : Ix) (c va : Nat), ixOf s = some x → codeFail x.sp = some (c, va) ∨ (codeFail x.sp = none ∧ fetchWord s x.g x.t x.sp.pc = .trap c va) →
      exec .instructionFetchFault s = .next (takeTrap (failWalk s x.core) x.g x.e { cause := c, tfm := x.am, tva := va, fetch := true }))
    ∧ (∀ (x : Ix), Issues s x sysNeeds → exec .illegalEncoding s = traps x { cause := cILLEGAL_ENCODING, tfm := x.am })
    ∧ (∀ (load reg : Nat) (g : Group) (p : Pend) (t : Team), s.subject = .pair load reg → pendOf s load reg = some (g, p) →
      s.group? g.uid = some g → s.team? g.team = some t → (∀ v, v ∈ p.vals → arrived v.2 = true) →
      (p.whole = true → ∀ q v, q ∈ g.pends → q.load = load → v ∈ q.vals → arrived v.2 = true) →
      (let g0 : Group := { g with pends := g.pends.filter (fun q => !(q.load == p.load && q.reg == p.reg)) }
       let g1 := p.vals.foldl (returnLane s p) g0
       let s2 := (lostFailures p p.vals g0 g1).foldl (fun s f => postAsync s (dieOf t.core) t.ctx 0x22 t.lch f.va f.pa (some t.core) (some g.uid))
         (s.setGroup (unpark s.clock g1))
       let s3 := if p.strong then s2.modGroup g.uid Group.acquired else s2
       exec .loadReturn s = event (serveHomes (if p.acq then acquireCore s3 t.core else s3))))

/-- A load whose places are of this part puts its destination in flight, word k of each lane awaiting the access of piece k of its place (4
bytes, or the 1 or 2 of a sub-word form). LOAD_RETURN of a register whose lanes await bytes of scratch without an error writes to it, in
each such lane, the little-endian value of those bytes, sign-extended where the form says so. Where one lane awaits bytes of memory, it
is the value of the bytes that the core's L1 holds, when it holds them all; and, when no L1 holds a dirty byte and no guest copy stands,
that of the home's bytes, when the L1 does not hold them all or the access or its page goes past it, on a mirror page where no
overwritten word may still be returned (R446). That the access is made at LOAD_RETURN, or at an earlier turn, is the model's choice (log
5). -/
def Obligations.LoadsDeliver : Prop :=
  ∀ (s : State),
    (∀ (x : Ix) (f : AccForm) (w : Nat) (d : LaneOp) (ls : List (Nat × List Place)), d ≠ .z → f.strong = false →
      (∀ l p, l ∈ ls → p ∈ l.2 → (∃ c o n, p = .scr c o n) ∨ (∃ c o n, p = .dscr c o n) ∨ (∃ va y, p = .phys va y ∧ isMem y.pa = true ∧ p.mirror = false)) →
      (let s1 := fillTlb x x.s (ls.flatMap (fun l => l.2))
       let vals : List (Nat × List PVal) := ls.map (fun l => (l.1, l.2.map (fun p => .late p (Nat.min f.size 4) f.sgn f.past [])))
       loadEffect x f w d ls = (s1.fresh.modGroup x.g.uid (fun g => { g with pends := g.pends ++ pendsOf s1.uid d w vals false f.whole false }), .step)))
    ∧ (∀ (load reg : Nat) (g : Group) (p : Pend) (t : Team), s.subject = .pair load reg → pendOf s load reg = some (g, p) →
      s.group? g.uid = some g → s.team? g.team = some t → reg < 112 → p.whole = false → p.dirty = 0 →
      (∀ q v, q ∈ g.pends → v ∈ q.vals → q.load < load → v.2.place? = none) →
      (let gets (i : Nat) (v : Word) : Prop := ∀ t, exec .loadReturn s = .next t → ∃ h, t.group? g.uid = some h ∧ h.reg i reg = v
       let value (n : Nat) (sgn : Bool) (b : List Byte) : Word := if sgn then BitVec.ofInt 32 (sx (ofBytes b) (8 * n)) else BitVec.ofNat 32 (ofBytes b)
       (∃ t, exec .loadReturn s = .next t)
       ∧ ((p.vals.map (fun v => v.1)).Nodup →
          (∀ v, v ∈ p.vals → v.1 < 32 ∧ ∃ c o note n sgn past, v.2 = .late (.scr c o note) n sgn past [] ∧ badScr s c o n = false) →
          ∀ i c o note n sgn past, (i, PVal.late (.scr c o note) n sgn past []) ∈ p.vals → gets i (value n sgn (s.scrBytes c o n)))
       ∧ (∀ i va y n sgn past, p.vals = [(i, .late (.phys va y) n sgn past [])] → i < 32 → isMem y.pa = true → y.pa % 128 + n ≤ 128 →
          (past = false → (Place.phys va y).past = false → hitL1 s t.core y.pa n = true → badL1 s t.core y.pa n = false →
            gets i (value n sgn ((List.range n).map (fun k => coreByte s t.core (y.pa + k)))))
          ∧ (past = true ∨ (Place.phys va y).past = true ∨ hitL1 s t.core y.pa n = false → Settled s → s.guests = [] →
            (past = true ∨ (Place.phys va y).mirror = false ∨ g.stale = []) → badMem s (y.pa / 128 * 128) 128 = false →
            (regionOf y.pa = .tier1 → runOn s (chanOf y.pa) = none) →
            gets i (value n sgn (s.homeBytes y.pa n))))))

/-- SPLIT_JOIN of a split about to issue at its frame's join PC makes it JOINED and merges the frame when every lane has come;
SERIAL_TURN_END of one in serial mode ends its turn. TRAP_ENTRY of a group that has raised a trap and has nothing in flight enters it.
TRAP_RECORD_DEFERRED_WRITE writes the first record that a group still owes, or marks it ready and sets LOST where the ring is full, and
the records that a die holds or has posted, each after the records that its group raised earlier and the release of its core, while the
ring has room and no walk or channel holds it back (log 66). DIVERSION of a settled group that is to be diverted sends it to WRAP,
unless it has stopped meanwhile. The merge after a frame merge and the release before a record are the model's reading (log 61, 16). -/
def Obligations.SplitAndTrapEventsComplete : Prop :=
  ∀ (s : State),
    (∀ (u e : Nat) (g : Group), s.subject = .pair u e → aboutToIssue s u e = some g → atJoin g (g.split e) = true →
      ((g.split e).ser = false → exec .splitJoin s = event (s.setGroup (mergeSame (mergeFrames s.clock 17 (g.setSplit e { g.split e with st := .joined })))))
      ∧ ((g.split e).ser = true → exec .serialTurnEnd s = event (s.setGroup (mergeSame (endTurn s.clock g e)))))
    ∧ (∀ (u : Nat) (g : Group), s.subject = .num u → s.group? u = some g →
      (g.raised.isSome = true → g.quiet = true → exec .trapEntry s = event (enterTrap s u))
      ∧ (∀ (t : Team) (r : SyncRec) (rest : List SyncRec), g.records = r :: rest → s.team? g.team = some t → earlierRec s t.ctx (some u) r.ord = false →
          (let x := recRelease s (some t.core)
           (ringLog (s.ctx t.ctx) = 0 → exec .trapRecordDeferredWrite s = event (s.modGroup u (fun g => { g with records := rest })))
           ∧ (ringLog (s.ctx t.ctx) ≠ 0 → x.2 = true → outstanding x.1 u t.core 6 = [] →
              (∀ s1 s2, ringFull (x.1.ctx t.ctx) = false → ringReady x.1 t.ctx = .ok s2 → ringWrite s2 t.ctx r.bytes = some s1 →
                exec .trapRecordDeferredWrite s = event ((endWalk s1 frontEnd).modGroup u (fun g => { g with records := rest })))
              ∧ (∀ s1, ringFull (x.1.ctx t.ctx) = false → ringReady x.1 t.ctx = .error s1 → exec .trapRecordDeferredWrite s = event s1)
              ∧ (ringFull (x.1.ctx t.ctx) = true → r.ready = false → exec .trapRecordDeferredWrite s =
                  event ((ringLost x.1 t.ctx).modGroup u (fun g => { g with records := { r with ready := true } :: rest }))))))
      ∧ (g.hold = .divert → settled g = true → diverts g = true → exec .diversion s = event (divertGroup s u)))
    ∧ (∀ (c d : Nat) (r : AsyncRec) (s1 s2 : State), s.subject = .pair c d →
      (let x := recRelease s r.core
       let posted (t : State) : State := (t.posts.filter (fun r => r.ctx == c && r.die == d)).foldl postRec t
       ringLog (s.ctx c) ≠ 0 → ringFull (s.ctx c) = false → x.2 = true →
        ringReady x.1 c = .ok s2 →
        (∀ (rest : List AsyncRec), holdOf (s.ctx c) d = r :: rest → ringWrite (s2.setCtx c (setHold (s2.ctx c) d rest)) c r.bytes = some s1 →
          exec .trapRecordDeferredWrite s = event (posted (flushHolds c d 16 (endWalk s1 frontEnd))))
        ∧ (holdOf (s.ctx c) d = [] → s.posts.filter (fun r => r.ctx == c && r.die == d) = [r] → r.ctx = c → earlierRec s c r.grp r.ord = false →
          ringWrite { s2 with posts := s2.posts.filter (fun q => q.ord != r.ord) } c r.bytes = some s1 →
          exec .trapRecordDeferredWrite s = event (endWalk s1 frontEnd))))

/-- WRITE_BACK of a line that a core holds writes it back, keeps it clean and lets go on what waited for it when it is dirty and no bank run
holds its channel, and gives it up when it is not. DRAIN_REQUEST drains the core to each epoch recorded for it at the line, as far as
the channels serve it, and removes the records of those that are drained. INVALIDATION_POINT of an agent that has not reached it removes
its entries of the range and discards its walks there; a core whose filter every key misses then has acknowledged, and any other agent
notes the identifier that divides its accesses. INVALIDATION_ACK of one that has, once it has performed what it translated before (all
that it has translated, where it gives up every entry) and a core has drained, counts it, and the last completes the invalidation; what
homes hold for splits that may not issue is withdrawn first (log 18). The front end answers with the engines of die 0. Which entries the
translation caches hold, the hashes of the filter and what stands for the front end are choices of the model (log 22, 42). -/
def Obligations.CacheEventsComplete : Prop :=
  ∀ (s : State),
    (∀ (core line : Nat) (l : L1Line), s.subject = .pair core line → l1Line? s core line = some l →
      (l.dirty = 0 → exec .writeBack s = event (l1Drop s core line))
      ∧ (l.dirty ≠ 0 → (regionOf (128 * line) = .tier1 → runOn s (chanOf (128 * line)) = none) →
        exec .writeBack s = event (serveHomes (afterBack (cleanLine s core l)))))
    ∧ (∀ (line core : Nat), s.subject = .pair line core →
      exec .drainRequest s = event ((s.homeRecs.filter (fun r => r.line == line && r.core == core)).foldl drainRec s)
      ∧ (∀ r, r ∈ s.homeRecs → r.core = core →
          (let t := drainWait s core (fun l => decide (l.epoch.toNat ≤ r.epoch.toNat))
           (dirtyLeft t core (fun l => decide (l.epoch.toNat ≤ r.epoch.toNat)) = false → drainRec s r = { t with homeRecs := t.homeRecs.filter (fun x => x != r) })
           ∧ (dirtyLeft t core (fun l => decide (l.epoch.toNat ≤ r.epoch.toNat)) = true → drainRec s r = t))))
    ∧ (∀ (u agent : Nat) (i : Inval), s.subject = .pair u agent → inval? s u = some i →
      (let next (s : State) (i : Inval) : State := if i.toPoint.isEmpty && i.toAck.isEmpty then invalDone s i else setInval s i
       (agent ∈ i.toPoint →
        (let s0 := dropWalks (s.setCore agent (dropEntries i (s.core agent))) i agent
         let s1 := if agent = 160 then dropWalks (s0.setCore frontEnd (dropEntries i (s0.core frontEnd))) i frontEnd else s0
         let i1 : Inval := { i with toPoint := i.toPoint.filter (fun a => a != agent) }
         (agent < 160 → i.ctx.isSome = true → keysHit (s.core agent).filter i.lo i.hi = false → exec .invalidationPoint s = event (next s1 i1))
         ∧ (160 ≤ agent ∨ i.ctx = none ∨ keysHit (s.core agent).filter i.lo i.hi = true →
             exec .invalidationPoint s = event (setInval s1 { i1 with toAck := (agent, s.uid) :: i.toAck }))))
       ∧ (∀ k, i.toAck.find? (fun a => a.1 == agent) = some (agent, k) → cmdsDone s i agent = true →
          (let i1 : Inval := { i with toAck := i.toAck.filter (fun a => a.1 != agent) }
           (160 < agent ∨ (agent = 160 ∧ frontDone s k = true) → exec .invalidationAck s = event (next s i1))
           ∧ (agent < 160 → performedBefore (withdrawIdle s agent) agent (if i.ctx.isNone then (withdrawIdle s agent).uid else k) = true →
             (let t := drainWait (withdrawIdle s agent) agent (fun _ => true)
              (dirtyLeft t agent (fun _ => true) = false → t.remotes.any (fun r => r.core == agent && r.wb) = false →
                exec .invalidationAck s = event (next (clearFilter t i agent) i1))
              ∧ (dirtyLeft t agent (fun _ => true) = true → exec .invalidationAck s = event t)))))))

/-- LAUNCH_ACCEPT of a configured launch queue waits while its next record, or the sets that this names, cannot be read yet; then it takes
the record, moves CI, accepts it, and serves and distributes; a damaged record is reported and taken (log 36). TEAM_RETIRE of a placed
team whose groups have retired, whose commands are gone and to whose segments no copy is bound frees it and counts it. T_WRAP_REACHED
turns a running launch to WRAPPING and ends one that has placed nothing; DEADLINE_REACHED kills what remains; TEAM_KILL frees a killed
team whose commands are gone. The distributor holds the teams that it chooses for pre-emption, with a place for the image of each, and
PREEMPTION_SAVE drains the core of such a team once it is quiet, and saves it once that is done. Orders that the spec leaves open are
the model's (log 35, 38, 39, 40). -/
def Obligations.LaunchEventsComplete : Prop :=
  ∀ (s : State),
    (∀ (c n : Nat) (b : List Byte), s.subject = .pair c n → s.dev.boot = .running → (queueOf (s.ctx c) true n).ok = true →
      (queueOf (s.ctx c) true n).pi ≠ (queueOf (s.ctx c) true n).ci →
      (let q := queueOf (s.ctx c) true n
       let op := FrontOp.accept c n
       let va := ringVa q true q.ci
       let k := n * 2 ^ 32 + q.ci.toNat
       let taken (t : State) : State :=
         let q := queueOf (t.ctx c) true n
         let c1 := setQueue (t.ctx c) true n { q with ci := q.ci + 1 }
         t.setCtx c { c1 with lqFrom := mset 0 c1.lqFrom (n * 2 ^ 32 + q.ci.toNat) 0 }
       let ends (t : State) : Host.Outcome State Fault Refusal := event (distribute (serveAll (endOp t op) c true n))
       (∀ s1, readReady s op c va 256 = .error s1 → exec .launchAccept s = event s1)
       ∧ (∀ s1, readReady s op c va 256 = .ok s1 →
          (∀ e, readBad s1 op c va 256 = some e → exec .launchAccept s = ends (taken (postAsync s1 0 c 0x22 noLch (e.1 % 2 ^ 56) e.2)))
          ∧ (readBad s1 op c va 256 = none → readCtx s1 op c va 256 = some b →
              (∀ s2, checkReads s1 op c (mget 0 (s.ctx c).lqFrom k) b = .error s2 → exec .launchAccept s = event s2)
              ∧ (∀ s2, checkReads s1 op c (mget 0 (s.ctx c).lqFrom k) b = .ok s2 →
                  exec .launchAccept s = ends (acceptRecord (taken s2) op c n (mget 0 (s.ctx c).lqFrom k) b)))
          ∧ (readBad s1 op c va 256 = none → readCtx s1 op c va 256 = none → exec .launchAccept s = event (endOp s1 op)))))
    ∧ (∀ (u : Nat) (t : Team), s.subject = .num u → s.team? u = some t →
      (∀ l, ∀ s1, t.placed = true → t.killed = false → (∀ g, g ∈ groupsOf s u → g.retired = true) → teamCmds s u = [] → t.waitq = [] →
        unbound s t = some s1 → (freeTeam s1 u).launch? t.lch = some l →
        exec .teamRetire s = event (distribute (testSets (finishTeams ((freeTeam s1 u).setLaunch { l with donet := l.donet + 1 }) t.lch 1 (fun k => k == t.tix)) t.lch)))
      ∧ (t.killed = true → teamCmds s u = [] →
        (t.placed = false → exec .teamKill s = event (distribute (freeTeam s u)))
        ∧ (∀ s1, t.placed = true → t.waitq = [] → unbound s t = some s1 → exec .teamKill s = event (distribute (freeTeam s1 u))))
      ∧ (saving s t = true → quiet s t = true →
          (let s1 := drainWait s t.core (fun _ => true)
           (dirtyLeft s1 t.core (fun _ => true) = false → exec .preemptionSave s = event (saveTeam s1 t))
           ∧ (dirtyLeft s1 t.core (fun _ => true) = true → exec .preemptionSave s = event s1))))
    ∧ (∀ s1, s.dev.boot = .running → reserveImages (distGo maxTeams s) (chosenSet (distGo maxTeams s)) = some s1 →
      distribute s = (chosenSet (distGo maxTeams s)).foldl (fun s t => holdTeam s t.uid .preempt) s1)
    ∧ (∀ (k : Nat) (l : Launch), s.subject = .num k → s.launch? k = some l →
      ((l.lr.deadline : Int) - l.lr.budget ≤ s.dtime →
        (l.st = .blocked ∨ l.st = .eligible → exec .tWrapReached s = event (distribute (dropUnplaced (s.setLaunch { l with wrapped := true }) k)))
        ∧ (l.st = .running → exec .tWrapReached s = event (distribute (testSets (dropUnplaced
            (let s1 := s.setLaunch { l with st := .wrapping, wrapped := true }
             if l.lr.wrap = 0xFFFFFFFF then s1 else wrapTeams s1 k) k) k))))
      ∧ (l.lr.deadline ≤ s.dtime → l.st = .running ∨ l.st = .wrapping → exec .deadlineReached s = event (killLaunch s k false)))

/-- ENGINE_COMMAND_COMPLETE of a started copy asks the outside for what it needs, and, with nothing to ask and every row of a held channel
that it reaches served, moves its bytes; of a command whose work has ended, whose requests are answered and which heads its class queue
it makes the last writes, writes the record, acquires and signals. CPYM_EXECUTE of the first queued command and LOUVER_EXECUTE of the
next command of the die check it, ask for the page-table entry that a walk of it awaits, end it with the status of the first failing
check, or start it, and move its data in the same way. MATRIX_COMMAND_START of an idle engine starts the next command; MMA_K_STEP of a
running MMA adds the products of its next group to the tile, or ends the MMA on bad metadata or an error. When a copy moves its data,
and what an error of a matrix command leaves, are the model's reading (log 24, 29, 30). -/
def Obligations.EngineEventsComplete : Prop :=
  ∀ (s : State),
    (∀ (t : State) (core : Nat) (m : Cmd) (r w : List (Nat × Nat)) (go : State → State),
      (∀ n e, (e.1 ≠ stAWAITED → failCheck t core n m e = endCmd (endWalk t ((cmdWho n m).core.getD core)) (endWalk t ((cmdWho n m).core.getD core)) core m (cmdRecord e.1 0 0 0 0 e.2))
        ∧ (e.1 = stAWAITED → failCheck t core n m e = askEntry t ((cmdWho n m).core.getD core) n.ctx e.2))
      ∧ (let x := serveCmd t core m (r ++ w)
       (∀ t1, gather x.1 core x.2.1 r w = some t1 → whenReady t core m r w go = t1)
       ∧ (gather x.1 core x.2.1 r w = none → whenReady t core m r w go = if x.2.2 then go x.1 else x.1))
      ∧ (m.rowsLeft t (r ++ w) = [] → serveCmd t core m (r ++ w) = (t, m, true)))
    ∧ (∀ (u core : Nat) (m : Cmd), s.subject = .num u → s.cmd? u = some (core, m) →
      (∀ n pairs, m.kind = .cpy n pairs → m.st = .started →
        (let r := cpyRanges m pairs n
         let x := serveCmd s core m (r.1 ++ r.2)
         (∀ t, gather x.1 core x.2.1 r.1 r.2 = some t → exec .engineCommandComplete s = event t)
         ∧ (gather x.1 core x.2.1 r.1 r.2 = none → x.2.2 = true →
            exec .engineCommandComplete s = event (endCmd x.1 (moveCpy x.1 core m n pairs) core m []))))
      ∧ (m.st = .ended → canComplete (s.core core) m = true →
          exec .engineCommandComplete s = event (completeCmd (lastWrites s core m) core { m with record := finalRecord m }))
      ∧ (∀ t, s.team? m.team = some t → m.kind = .cpym → firstQueued s core u = true →
          (let reads := (cpymRows m.desc).filterMap (fun r => if r.sp = .g then some (spanAddr t r, r.len) else none)
           (m.st = .started → exec .cpymExecute s = event (whenReady s core m reads [] (fun s => cpymMove s core t m)))
           ∧ (m.st = .queued →
              (∀ e, cpymCheck s t m = .error e → exec .cpymExecute s = event (failCheck s core t m e))
              ∧ (∀ l, cpymCheck s t m = .ok l →
                  (let m1 : Cmd := { m with st := .started, maps := mapsOf l }
                   let s1 := (fillMaps s (cmdWho t m) l).setCmd core m1
                   exec .cpymExecute s = event (whenReady s1 core m1 reads [] (fun s => cpymMove s core t m1))))))))
    ∧ (∀ (die core : Nat) (m m1 : Cmd) (t : Team), s.subject = .num die → lvNext s die = some m → s.cmd? m.uid = some (core, m1) → s.team? m.team = some t →
      (m.st = .started → exec .louverExecute s = event (lvGo s core t m))
      ∧ (m.st ≠ .started →
          (∀ e, lvCheck s t m = .error e → exec .louverExecute s = event (failCheck s core t m e))
          ∧ (∀ l, lvCheck s t m = .ok l →
              (let m2 : Cmd := { m with st := .started, maps := mapsOf l }
               exec .louverExecute s = event (lvGo ((fillMaps s (cmdWho t m) l).setCmd core m2) core t m2)))))
    ∧ (∀ (core : Nat) (m : Cmd) (t : Team), s.subject = .num core → s.team? m.team = some t →
      (let x : Mx := ⟨m.mr, m.blk⟩
       let s0 := s.setCore core { s.core core with mrun := some m.uid }
       ((s.core core).mrun = none → mxNext (s.core core) = some m → m.st ≠ .ended →
          (m.kind = .mzero → exec .matrixCommandStart s = event ((zeroTile s0 t x).setCmd core { m with st := .ended }))
          ∧ (m.kind = .mdrain → exec .matrixCommandStart s = event (runDrain s0 core t m x))
          ∧ (m.kind = .mma → m.st = .queued → exec .matrixCommandStart s =
              event ((if bitOf x.flags 0 && m.step == 0 then zeroTile s0 t x else s0).setCmd core { m with st := .started }))
          ∧ (m.kind = .mma → m.st = .started → exec .matrixCommandStart s = event s0))
       ∧ ((s.core core).mrun = some m.uid → (s.core core).cmds.find? (fun k => k.uid == m.uid) = some m → m.kind = .mma → m.st = .started →
          (let gs := groupSize (mrAFMT x.mr) (mrBFMT x.mr)
           (∀ fl, stepMeta s t m x gs = .error fl → exec .mmaKStep s = event ((orMstat s t.uid fl).setCmd core { m with st := .ended }))
           ∧ (∀ md, stepMeta s t m x gs = .ok md →
              (let parts := (List.range x.m).map (takePart x md gs m.step)
               let last := decide ((x.k + gs - 1) / gs ≤ m.step + 1)
               (stepBad s t x parts = true → exec .mmaKStep s = event ((orMstat s t.uid msUE).setCmd core { m with st := .ended }))
               ∧ (stepBad s t x parts = false → exec .mmaKStep s = event (boundary
                   (if m.stopAt && !last then orWrs (applyStep s t x parts) t.uid wrsMMASTOP else applyStep s t x parts) core { m with
                     st := if m.stopAt || last then .ended else .started, step := m.step + 1, desc := md }))))))))

/-- BANK_QUEUE_NEXT_CHECK of the next entry of a core's bank queue rejects it with the status of its first failing check, starts a shutter
operation, which drains its core before it hands a frame over, or lets a bank run read its program; one whose program reads and whose
last checks pass becomes a run that holds its frames. BANK_RUN_GRANT of a waiting run whose BGEs are free and which no earlier run
precedes loads its image and runs it. HANDING_DONE makes a HANDING frame BANK once no command touches it, no record or held request
awaits it and every load of it is performed, TO_DIE_FRAME a BANK frame that no run holds DIE, for the first of the operations that have
reached it (R319). WINDOW_END of a suspended run all of whose windows are at their end takes the refreshes due and resumes it;
REFRESH_DUE of a channel that a run has is noted, of any other taken at once. Addresses in records, UPC, frame owners and windows follow
the model's reading (log 31, 32, 33, 34, 66). -/
def Obligations.BankEventsComplete : Prop :=
  ∀ (s : State),
    (∀ (core : Nat) (m : Cmd) (t : Team), s.subject = .num core → s.team? m.team = some t →
      (bankReading (s.core core) = none → bankNext (s.core core) = some m →
        (let no (e : Nat × Nat) : Host.Outcome State Fault Refusal := event (failCheck s core t m e)
         (m.kind = .shut →
            (∀ e, shutCheck s t m = .error e → exec .bankQueueNextCheck s = no e)
            ∧ (∀ ys, shutCheck s t m = .ok ys →
                exec .bankQueueNextCheck s = event (shutBegin ((fillPages s t m ys).setCmd core { m with st := .started, blk := ys.map entryFrame }) core
                  { m with st := .started, blk := ys.map entryFrame })))
         ∧ (m.kind ≠ .shut →
            (∀ e, brunCheck s t m = .error e → exec .bankQueueNextCheck s = no e)
            ∧ (∀ r, brunCheck s t m = .ok r →
                (let m1 : Cmd := { m with st := .started, maps := mapsOf r.1 ++ r.2.flatten.map (fun p => (p.1, 1, p.2.pa))
                                          blk := r.2.map entryFrame ++ r.2.map (fun ys => (ys.head?.map (fun p => p.1 / 2 ^ 21 * 2 ^ 21)).getD 0) }
                 exec .bankQueueNextCheck s = event (brunGo ((fillPages (fillMaps s (cmdWho t m) r.1) t m r.2).setCmd core m1) core t m1))))))
      ∧ (bankReading (s.core core) = some m → exec .bankQueueNextCheck s = event (if m.kind = .shut then shutBegin s core m else brunGo s core t m))
      ∧ (let s1 := if toBank m then drainWait s core (fun _ => true) else s
         (toBank m = true → dirtyLeft s1 core (fun _ => true) = true → shutBegin s core m = s1)
         ∧ (toBank m = false ∨ dirtyLeft s1 core (fun _ => true) = false →
            shutBegin s core m = shutGo 10 (s1.setCmd core { m with checked := true }) m.uid))
      ∧ (let d := brunOf m.desc
         let x := serveCmd s core m [(d.progVa t, 4 * d.plen)]
         let prog := (List.range d.plen).map (fun k => BitVec.ofNat 32 (fieldAt (readG x.1 m (d.progVa t) (4 * d.plen)) (4 * k) 4))
         let fs := m.blk.take d.entries
         gather x.1 core x.2.1 [(d.progVa t, 4 * d.plen)] [] = none → x.2.2 = true → tokenFail m [(d.progVa t, 4 * d.plen)] = none →
         badG x.1 m (d.progVa t) (4 * d.plen) = none → prog.all (wordOk d) = true → (∀ f, f ∈ fs → (x.1.frame f).st = .bank) →
         brunGo s core t m = { holdFrames ((x.1.setCmd core { m with checked := true, maps := [], got := [], rows := [], served := [] }).fresh) fs true with
           runs := x.1.runs ++ [newRun x.1 core t m prog] }))
    ∧ (∀ (u : Nat) (r : Run), s.subject = .num u → s.run? u = some r →
      (r.st = .waiting → (∀ y, y ∈ s.runs → y.uid ≠ u → runsMeet y r = true → y.st = .waiting ∧ runBefore y r = false) →
        (∀ k, k < r.xlen / 4 → badDscr s r.die (r.xsrc + 4 * k) 4 = false) →
        exec .bankRunGrant s = event (s.setRun { r with st := .running, xbuf := msetList 0 [] 0 (s.dscrBytes r.die r.xsrc r.xlen) }))
      ∧ (r.st = .suspended → (∀ w, w ∈ r.wins → w.over s.dtime (chanReqs s w.chan) = true) →
          exec .windowEnd s = event (takeRefreshes (s.setRun { r with st := .running, wins := [] }) r true)))
    ∧ (∀ (u core f : Nat) (m : Cmd), s.subject = .num u → s.cmd? u = some (core, m) → m.blk[m.step]? = some f →
      (m.wait = true → (s.frame f).st = .handing → frameTouched s f = false → frameAwaits s f = false →
        (∀ g p v, g ∈ s.groups → p ∈ g.pends → v ∈ p.vals → v.2.place?.any (fun q => q.1.inFrame f) = false) →
        (let s1 := dropGuests s (f * 2 ^ 21) (2 ^ 21)
         exec .handingDone s = event (shutAll ((s1.setFrame f { s1.frame f with st := .bank }).setCmd core (nextFrame m)))))
      ∧ (m.kind = .shut → m.st = .started → toBank m = false → (s.frame f).st = .bank → (s.frame f).hold = 0 →
        (firstAt s f m = true → exec .toDieFrame s = event (shutAll ((homeServe (s.setFrame f {}) f).setCmd core
          { nextFrame m with lost := m.lost + (if (s.frame f).lostw then 2 ^ m.step else 0) })))
        ∧ (firstAt s f m = false → exec .toDieFrame s = event s))
      ∧ (nextFrame m).step = m.step + 1 ∧ (nextFrame m).wait = false ∧ (nextFrame m).reach = none)
    ∧ (∀ (c k : Nat), s.subject = .pair c k →
      (runOn s c = none → exec .refreshDue s = event s)
      ∧ (∀ r, runOn s c = some r → exec .refreshDue s = event { s with
          refresh := (c, k == 1 || s.refresh.any (fun x => x.1 == c && x.2)) :: s.refresh.filter (fun x => x.1 != c) }))

/-- UALINK_REQUEST is answered with an error outside what the part serves, refused where another device holds the token, and otherwise
served at its home, or accepted and held where the peer says so until it tells that it be performed or withdrawn (log 18).
REMOTE_RESPONSE answers a request that has been sent, and rotates the port on a congestion mark; a timeout answers with an error.
LINK_STATE_CHANGE changes LIVE. TOKEN_REQUEST joins the queue of the home; RECALL_DONE and TOKEN_GIVE_BACK free the region of its
holder; TOKEN_RECALL begins the recall of a held token; TOKEN_GRANT gives it to every OWNACQ that waits. What a peer may ask and the
states of the home follow the model's reading (log 43, 44, 53). -/
def Obligations.FabricEventsComplete : Prop :=
  ∀ (s : State),
    (∀ (r : PeerReq), s.subject = .request r →
      ((∀ id, r.kind ≠ .perform id ∧ r.kind ≠ .withdraw id) →
        ((servedShape r && servedTarget r && !frameBusy s r.addr) = false → exec .ualinkRequest s = event (s.send (.reply r.peer .error)))
        ∧ ((servedShape r && servedTarget r && !frameBusy s r.addr) = true →
            (tokenRefuses s r.peer r.addr = true → exec .ualinkRequest s = event (s.send (.reply r.peer .refused)))
            ∧ (tokenRefuses s r.peer r.addr = false → r.hold = none ∨ r.kind = .read → exec .ualinkRequest s = event (peerServe s r))
            ∧ (tokenRefuses s r.peer r.addr = false → r.hold.isSome = true → r.kind ≠ .read →
                (r.kind ≠ .write → badMem s r.addr r.len = true → exec .ualinkRequest s = event (s.send (.reply r.peer .error)))
                ∧ (r.kind = .write ∨ badMem s r.addr r.len = false →
                    exec .ualinkRequest s = event ({ s with heldReqs := s.heldReqs ++ [r] }.send (.reply r.peer (.ok [])))))))
      ∧ (∀ id q, s.heldReqs.find? (fun q => q.peer == r.peer && q.hold == some id) = some q →
          (let s1 : State := { s with heldReqs := s.heldReqs.filter (fun x => !(x.peer == r.peer && x.hold == some id)) }
           (r.kind = .perform id → exec .ualinkRequest s = event (homeServe (peerServe s1 q) (q.addr / 2 ^ 21)))
           ∧ (r.kind = .withdraw id → exec .ualinkRequest s = event (homeServe s1 (q.addr / 2 ^ 21))))))
    ∧ (∀ (t : State) (r : PeerReq), t.laters.any (Later.ofPeer r.peer) = false →
      (∀ t1, linesDrained t [r.addr / 128] = .ok t1 → peerServe t r = serveRequest t1 r)
      ∧ (∀ t1, linesDrained t [r.addr / 128] = .error t1 → peerServe t r = { t1 with laters := t1.laters ++ [.peer r] }))
    ∧ (∀ (id : Nat) (mark : Bool) (resp : RespKind) (r : Remote), s.subject = .response id mark resp → s.remotes.find? (fun r => r.uid == id && r.sent) = some r →
      exec .remoteResponse s = event (answer (if mark && !r.host then rotate s r.core (bitsOf r.addr 50 41) else s) r resp))
    ∧ (∀ (id : Nat) (r : Remote), s.subject = .num id → s.remotes.find? (fun r => r.uid == id && !r.host && r.sent) = some r →
      r.since + 50000 ≤ s.dtime ∨ s.links = [] → exec .remoteRequestTimeout s = event (answer s r .error))
    ∧ (∀ (p : Nat) (up : Bool), s.subject = .flag p up →
      exec .linkStateChange s = event { s with links := (List.range 12).filter (fun q => if q = p then up else s.links.contains q) })
    ∧ (∀ (r d : Nat), s.subject = .pair r d →
      (isMem (r * 2 ^ 21) = true → exec .tokenRequest s = event (homeServe (s.setHomeTok r { s.homeTok r with queue := (s.homeTok r).queue ++ [d] }) r))
      ∧ ((s.homeTok r).holder = some d → exec .tokenGiveBack s = event (homeFreed s r)
          ∧ ((s.homeTok r).recalling = true → exec .recallDone s = event (homeFreed s r))))
    ∧ (∀ (r n : Nat) (t : TokEntry), s.subject = .num r → tokenOf s r = some (n, t) →
      (t.st = .held → exec .tokenRecall s = event (yieldToken s n .recalling))
      ∧ (t.st = .pending →
          (let taken := (ownWaits s (isOwn r)).foldl (fun s u => match s.team? u with
             | some t => takeToken s n t.core t.ctx
             | none => s) (setToken s n { t with st := .held })
           exec .tokenGrant s = event (endParks taken (isOwn r)))))

/-- TOKEN_ARRIVAL at a member that is UP notes the members whose time port is locked, steers device time toward the group time unless its
own is the group time (log 70), and at one that waits sends one frame of each class that has records, class 1 first, with the numbers
after the previous one, and passes; GUARD_ELAPSED passes the token on. A frame with a whole body and the next number after those that
have come is applied record by record, behind those that still wait for a channel, a drain or an entry (log 66); any other frame, a
schedule timeout or a roll call puts a member that is UP into FORMING. At the end of the roll call it is UP with the kept stations, or
DROPPED. LINTEL_ENABLE and LINTEL_DISABLE write LCTL and enter or leave. The numbers, the checksum and the records of frames follow the
model's reading (log 45, 46, 47). -/
def Obligations.LintelEventsComplete : Prop :=
  ∀ (s : State),
    (∀ (n now : Nat) (locks : Word), s.subject = .schedule n now locks → s.lintel.st = .up →
      (let sl : State := { s with lintel := { s.lintel with locks := locks } }
       let s1 : State := if timeSource sl then sl else { sl with dev := { s.dev with steer := ((now : Int) - s.dtime) * 9000000 - s.frac } }
       let r := sendClass 0 (sendClass 1 (s1, BitVec.ofNat 32 n))
       (s.lintel.station = .wait → exec .tokenArrival s = event { r.1 with lintel := { r.1.lintel with station := .pass } })
       ∧ (s.lintel.station ≠ .wait → exec .tokenArrival s = event s1)))
    ∧ (s.lintel.st = .up →
      (s.lintel.station = .pass → exec .guardElapsed s = event { s with lintel := { s.lintel with station := .wait } })
      ∧ exec .scheduleTimeout s = event (toForming s) ∧ exec .rollCall s = event (toForming s)
      ∧ (∀ (o : Nat) (b : List Byte), s.subject = .bytes o b →
          (let next := s.lintel.seq + BitVec.ofNat 32 (s.lintel.frames.length + 1)
           ((frameWhole b && BitVec.ofNat 32 (fieldAt b 4 4) == next) = false → exec .lintelFrameReceive s = event (toForming s))
           ∧ ((frameWhole b && BitVec.ofNat 32 (fieldAt b 4 4) == next) = true →
              (let rs := (parseRecs b.length ((b.drop 16).take (b.length - 20))).map (fun q => (q.hdr, q.data))
               exec .lintelFrameReceive s = event (applyAll
                 { s with lintel := { s.lintel with frames := s.lintel.frames ++ [⟨byteAt b 0 % 32 == s.lintel.stn, rs⟩] } })))))
      ∧ (∀ (n : Nat) (own : Bool) (rest : List LintelFrame),
          (∀ q qs, s.lintel.frames = ⟨own, q :: qs⟩ :: rest →
            (∀ t, applyRec own s ⟨q.1, q.2⟩ = .ok t → applyFrames (n + 1) s = applyFrames n { t with lintel := { t.lintel with frames := ⟨own, qs⟩ :: rest } })
            ∧ (∀ t, applyRec own s ⟨q.1, q.2⟩ = .error t → applyFrames (n + 1) s = t))
          ∧ (s.lintel.frames = ⟨own, []⟩ :: rest →
              applyFrames (n + 1) s = applyFrames n { s with lintel := { s.lintel with frames := rest, seq := s.lintel.seq + 1 } })))
    ∧ (∀ (others : List (Nat × Nat × Bool)), s.subject = .reports others → s.lintel.st = .forming →
      (let own : Nat × Nat × Bool := (s.lintel.stn, s.lintel.seq.toNat, s.lintel.fromDown)
       let rs := own :: others
       let s1 := failRecords { s with lintel := { s.lintel with st := .up, station := .wait, memb := keptMask rs, seq := BitVec.ofNat 32 (highSeq rs), sent := [], fromDown := false } } s.lintel.sent
       (kept rs own = true → exec .rollCallEnd s = event (distribute (if keptMask rs = s.lintel.memb then s1 else raiseLevt s1)))
       ∧ (kept rs own = false → exec .rollCallEnd s = event (distribute (raiseLevt (failAllRecords
            { s with lintel := { s.lintel with st := .dropped, drops := Nat.min 255 (s.lintel.drops + 1), fromDown := false } }))))))
    ∧ (∀ (o w v : Nat), s.subject = .reg o w v →
      (let s1 := bar0Write s o w v
       let s2 : State := { s1 with lintel := { s1.lintel with en := true } }
       (s.lintel.st = .down → exec .lintelEnable s = event (toForming { s2 with lintel := { s2.lintel with fromDown := true } }))
       ∧ (s.lintel.st ≠ .down → exec .lintelEnable s = event s2
            ∧ (let s3 := bar0Write (failAllRecords { s with lintel := { s.lintel with st := .down, station := .wait, frames := [] } }) o w v
               exec .lintelDisable s = event { s3 with lintel := { s3.lintel with en := false } }))
       ∧ (s.lintel.st = .down → exec .lintelDisable s = event { s1 with lintel := { s1.lintel with en := false } })))

/-- MBCMD begins verification, and its end runs the part or rejects the image; POWER_ON_RESET, FATAL_ERROR and ATTESTATION_SIGN do what they
say; REGISTER_WRITE writes the registers it touches, with the effect that a register has. BAR2 reads and writes in the window reach
memory that is not busy, a read once the cores recorded at its lines have drained. A host command that is latched while the part runs
takes effect and completes with its status: SUBMIT and FEED append a record, or hold it while a walk or a channel holds the ring back;
RESUME resumes a stopped group whose record is written, KILL kills a launch, TLBINV begins, once what it must find performed is
performed, an invalidation. Boot, the verdict on the image and its digest (log 8), the firmware, the dump, BAR2 and the host commands
follow choices of the model where the spec leaves them open (log 9, 10, 48, 49, 50, 51, 66), and so does the release of a host TLBINV,
which is that of the firmware core of die 0 (log 42). -/
def Obligations.HostEventsComplete : Prop :=
  ∀ (s : State),
    exec .powerOnReset s = event { State.reset with agenda := s.agenda, out := s.out, draws := s.draws, uid := s.uid, subject := s.subject }
    ∧ (∀ (o w v : Nat), s.subject = .reg o w v → exec .registerWrite s = event (registerWrite s o w v)
      ∧ ((writeEvent o w v).1 = .registerWrite → registerWrite s o w v = bar0Write s o w v)
      ∧ exec .attestationSign s = event (attest (bar0Write s o w v))
      ∧ (let t := bar0Write s o w v
         t.dev.boot = .waitImage ∨ t.dev.boot = .rejected →
          (3073 ≤ t.dev.mblen → t.dev.mblen ≤ 2 ^ 25 →
            exec .mbcmdLoadVerify s = event { t with dev := { t.dev with boot := .verify, reason := 0, latAddr := t.dev.mbaddr, latLen := t.dev.mblen } })
          ∧ (t.dev.mblen < 3073 ∨ 2 ^ 25 < t.dev.mblen → exec .mbcmdLoadVerify s = event { t with dev := { t.dev with boot := .rejected, reason := 1 } })))
    ∧ (∀ (b : List Byte), s.subject = .image b → s.dev.boot = .verify →
      (let img := (b ++ List.replicate s.dev.latLen 0).take s.dev.latLen
       let s1 := putImage s 0 img
       (imageReason img ≠ 0 → exec .imageVerificationEnd s = event { s1 with dev := { s.dev with boot := .rejected, reason := imageReason img } })
       ∧ (imageReason img = 0 → exec .imageVerificationEnd s = event ((List.range 16).foldl rejectCode
          (startFirmware (startFirmware { putImage s1 1 img with dev := { s.dev with boot := .running, reason := 0, fwLen := s.dev.latLen, digest := Config.shake256 img } } 0) 1)))))
    ∧ (s.dev.boot ≠ .fatal →
      (let d := (Config.dump s.draws).take s.dev.dumplen
       let s1 := (((listedCores s).foldl drainCore s).send (.hostWrite s.dev.dumpbase d)).send (.hostWrite s.dev.dumpbase (bytesOf 8 d.length))
       exec .fatalError s = event { s1 with dev := { s1.dev with boot := .fatal, reason := 4 } }))
    ∧ (∀ (o n : Nat), s.subject = .pair o n → o + n ≤ 2 ^ s.dev.b2log →
      (∀ pa, pa ∈ bar2Addrs s o n → isMem pa = true ∧ frameBusy s pa = false) →
      (let pas := (List.range n).map (fun i => s.dev.b2base / 2 ^ s.dev.b2log * 2 ^ s.dev.b2log + o + i)
       (∀ s1, linesDrained s ((pas.map (fun pa => pa / 128)).eraseDups) = .ok s1 → exec .bar2Read s = event (s1.send (.readData (pas.map (hostByte s1)))))
       ∧ (∀ s1, linesDrained s ((pas.map (fun pa => pa / 128)).eraseDups) = .error s1 →
          exec .bar2Read s = event { s1 with laters := s1.laters ++ [.bar2 o n] })))
    ∧ (∀ (o : Nat) (b : List Byte), s.subject = .bytes o b → o + b.length ≤ 2 ^ s.dev.b2log →
      exec .bar2Write s = event ((wordParts ((bar2Addrs s o b.length).zip b)).foldl bar2Part s))
    ∧ (∀ (c : Nat) (b : List Byte),
      (∀ (r : List Byte) (y : Xl) (launch : Bool), s.subject = .record c (some r) → (s.ctx c).hrec = none → latched? s c (if launch then 1 else 2) = some b →
        (let n := fieldAt b 8 4
         let q := queueOf (s.ctx c) launch n
         (onlyNamed b [(8, 4), (16, 8)] && decide (n < (if launch then 16 else 64)) && fieldAt b 16 8 % recBytes launch == 0 && q.ok) = true →
         q.full = false →
         (∀ s0, frontReady s c .store (ringVa q launch q.pi) = .ok s0 → ringXlate s0 c launch q q.pi .store = .ok y →
          (let s1 := appendRec s0 c launch n y.pa ((r ++ List.replicate (recBytes launch) 0).take (recBytes launch)) 0
           exec (if launch then .submit else .feed) s = event (hostDone (if launch then s1 else serveAll s1 c false n) c 1)))
         ∧ (∀ s0, frontReady s c .store (ringVa q launch q.pi) = .error s0 →
          exec (if launch then .submit else .feed) s = event (s0.setCtx c { s0.ctx c with hrec := some (some r) }))))
      ∧ (s.subject = .num c → (s.dev.boot = .running ∧ (s.ctx c).hsts = 0 ∧ (s.ctx c).latched = b) →
        (∀ g, byteAt b 0 = 3 → onlyNamed b [(8, 4), (0xC, 4), (0x10, 1), (0x14, 4)] = true → fieldAt b 0x10 1 ≤ 31 → fieldAt b 0x14 4 % 4 = 0 →
          namedGroup s (fieldAt b 8 4) (fieldAt b 0xC 4) (fieldAt b 0x10 1) = some g → resumable s g = true → g.quiet = true → g.records = [] →
          exec .resume s = event (hostDone (resumeGroup s g (BitVec.ofNat 32 (fieldAt b 0x14 4))) c 1))
        ∧ (∀ l, byteAt b 0 = 4 → onlyNamed b [(8, 4)] = true → s.launch? (fieldAt b 8 4) = some l → l.st ≠ .ended →
          exec .kill s = event (hostDone (killLaunch s l.lch true) c 1))
        ∧ (byteAt b 0 = 5 → onlyNamed b [(8, 8), (16, 8)] = true → fieldAt b 8 8 + fieldAt b 16 8 ≤ 2 ^ 56 → (firmwareRelease s).2 = true →
          (let a := fieldAt b 8 8
           let n := fieldAt b 16 8
           let t := (firmwareRelease s).1.setCtx c { (firmwareRelease s).1.ctx c with latched := [] }
           exec .hostTlbinv s = event (beginInval t.fresh t.uid (some c) (a / 2 ^ 16 * 2 ^ 16)
             (if n = 0 then a / 2 ^ 16 * 2 ^ 16 else (a + n + 2 ^ 16 - 1) / 2 ^ 16 * 2 ^ 16) (some c))))))

/-- TIME_PORT_LOCK notes the lock; the first lock before any launch is accepted steps device time to the given time, never backward, and any
other steers it toward that time by at most 10 ppm a clock; a Lintel member that is UP never steps, and steers so only while its own
time is the group time; TIME_PORT_LOCK_LOSS notes the loss. GOVERNOR_TICK above the cap takes the next measure, at or below it none.
COOLANT_OVER_45C and COOLANT_BELOW_40C set and clear the hot mark. CONTEXT_END, after the write of registers that brings it, clears EN,
returns the held tokens of the context, frees its frames once its runs have ended, and lets shutter operations go on. The governor's
order, the clock's units and the returns at a context's end follow the model's reading (log 44, 52, 55), and so do the time port's part
in a Lintel member that is UP (log 70), the frames of a context by the commands that took them (log 33), and what happens to its frames
that are being handed over (log 50). -/
def Obligations.DeviceEventsComplete : Prop :=
  ∀ (s : State),
    (∀ (n : Nat), s.subject = .num n →
      (let s1 : State := { s with dev := { s.dev with portLock := true, timeLocked := true } }
       let steered : State := { s with dev := { s.dev with portLock := true, timeLocked := true, steer := ((n : Int) - s.dtime) * 9000000 - s.frac } }
       (s.lintel.st = .up → exec .timePortLock s = event (if timeSource s1 then steered else s1))
       ∧ (s.lintel.st ≠ .up → s.dev.timeLocked = false → s.dev.anyAccepted = false →
          exec .timePortLock s = event { s1 with dtime := Nat.max s.dtime n })
       ∧ (s.lintel.st ≠ .up → s.dev.timeLocked = true ∨ s.dev.anyAccepted = true → exec .timePortLock s = event steered))
      ∧ (tick s).dtime * 9000000 + (tick s).frac = s.dtime * 9000000 + s.frac + (5000000 + max (-50) (min 50 s.dev.steer)).toNat
      ∧ (capOf s.dev < n → exec .governorTick s = event { s with dev := { s.dev with throttle := moreThrottle s.dev.throttle } })
      ∧ (n ≤ capOf s.dev → exec .governorTick s = event { s with dev := { s.dev with throttle := .none } })
      ∧ (let s1 := s.setCtx n { s.ctx n with en := false, ended := true }
         let s2 := (s1.tokens.filter (fun k => k.2.st == .held && k.2.ctxs.contains n)).foldl (fun s k => yieldToken s k.1 .returning) s1
         exec .contextEnd s = event (shutAll (skipHanding (freeCtxFrames s2 n) n))))
    ∧ (∀ (o w v n : Nat), s.subject = .reg o w v → endedBy o w v = some n →
        (let s0 := bar0Write s o w v
         let s1 := s0.setCtx n { s0.ctx n with en := false, ended := true }
         let s2 := (s1.tokens.filter (fun k => k.2.st == .held && k.2.ctxs.contains n)).foldl (fun s k => yieldToken s k.1 .returning) s1
         exec .contextEnd s = event (shutAll (skipHanding (freeCtxFrames s2 n) n))))
    ∧ exec .timePortLockLoss s = event { s with dev := { s.dev with portLock := false } }
    ∧ exec .coolantOver45c s = event { s with dev := { s.dev with hot := true } }
    ∧ exec .coolantBelow40c s = event { s with dev := { s.dev with hot := false } }

/-- The E8M0 scale with bits E has the value 2^(E − 127) for E = 0 to 254, positive and never zero or infinite, and is NaN for E = 255.
(R43) -/
def Obligations.ScalesAreEightExponentBits : Prop :=
  (∀ (e : BitVec 8), e ≠ 255 → ∃ num den : Nat, e8m0Val e.toNat = .fin false num den ∧ 0 < num ∧ 0 < den ∧ num * 2 ^ 127 = 2 ^ e.toNat * den)
    ∧ e8m0Val 255 = .nan

/-- After the result of an instruction with a lane destination is put, each lane of act holds word k of its result in register k of the run,
every other register of every lane, the predicates and the uniform registers are as before, and fx has taken no flag away. In every lane
of AM the history has moved up by one entry and its first entry, which lx and h1 name, is bits [31:0] of the lane's result in a lane of
act and 0 in another; lanes outside AM keep theirs; HV has gone up to at most 7. The results were read before any of this. (R20) -/
def Obligations.LaneResultsLand : Prop :=
  ∀ (x : Ix) (d : LaneOp) (w : Width) (r : Nat → LaneRes), dstOk d w.regs = true → x.g.split x.e = x.sp → x.e < x.g.splits.length →
    (let g := putResults x d w.regs r
     (∀ i k n, i < 32 → x.act.getLsbD i = true → k < w.regs → opReg d k = some n → g.reg i n = BitVec.ofNat 32 ((r i).val / 2 ^ (32 * k)))
     ∧ (∀ i n, i < 32 → n < 112 → (x.act.getLsbD i = false ∨ ∀ k, k < w.regs → opReg d k ≠ some n) → g.reg i n = x.g.reg i n)
     ∧ (∀ k, g.pred k = x.g.pred k) ∧ (∀ n, g.ureg n = x.g.ureg n) ∧ g.fx &&& x.g.fx = x.g.fx
     ∧ (∀ i n, i < 32 → 1 ≤ n → n ≤ 7 → mget 0 g.hist (histKey i n) =
          if x.am.getLsbD i then (if n = 1 then (if x.act.getLsbD i then BitVec.ofNat 32 (r i).val else 0) else mget 0 x.g.hist (histKey i (n - 1)))
          else mget 0 x.g.hist (histKey i n))
     ∧ (g.split x.e).hv = Nat.min 7 (x.sp.hv + 1))
    ∧ (∀ (site i k : Nat), readWord x site .lx i k = readWord x site (.h 0) i k)

/-- For every well-formed instruction that a split issues from a word, with every operand at every value its encoding admits, decoding its
encoding gives the instruction back, and so does decoding it with bit S set. -/
def Obligations.LaneEncodingsDecode : Prop :=
  ∀ (i : Instr), i.isLane = true → i.wf = true →
    encode i < 2 ^ 31 ∧ decodeWord (encode i) = some i ∧ decodeWord (encode i + 2 ^ 31) = some i ∧ switchBit (encode i) = false ∧ switchBit (encode i + 2 ^ 31) = true

/-- For every well-formed bank command, with every operand at every value its encoding admits, decoding its encoding gives the command back. -/
def Obligations.BankEncodingsDecode : Prop :=
  ∀ (i : Instr), i.isBank = true → i.wf = true → encode i < 2 ^ 32 ∧ decodeBank (encode i) = some i

/-- A word that decodes gives a well-formed lane instruction whose encoding is the word without bit S; a bank word that decodes gives a
well-formed bank command whose encoding is the word. No other word is read as either. -/
def Obligations.DecodedWordsAreWellFormed : Prop :=
  (∀ (w : Nat) (i : Instr), w < 2 ^ 32 → decodeWord w = some i → i.isLane = true ∧ i.wf = true ∧ encode i = w % 2 ^ 31)
    ∧ (∀ (w : Nat) (i : Instr), w < 2 ^ 32 → decodeBank w = some i → i.isBank = true ∧ i.wf = true ∧ encode i = w)

/-- No step of any state is refused. In a state whose groups have distinct identifiers a step faults only when the next turn of its agenda
is an event with a subject of another kind than the event takes; no instruction, bank command or due event stops the part. -/
def Obligations.StepsNeverRefuse : Prop :=
  ∀ (s : State), (∀ r, step s ≠ .refused r)
    ∧ ((s.groups.map (fun g => g.uid)).Nodup → ∀ f, step s = .fault f → f = .noSubject ∧ ∃ i y rest, s.agenda = .event i y :: rest)

/-- If the memories of a state (the homes of this part, the scratch of the cores, the die scratch, the accumulators) list their cells in
strictly rising order and list none that reads as an unlisted one does, then so do those of the state after any step. -/
def Obligations.StepsKeepTheMemoriesCanonical : Prop :=
  ∀ (s t : State), MemWf s → step s = .next t → MemWf t

/-- After reset device time is 0, the next launch identifier is 0, the part waits for an image, no context is enabled, no launch, team,
group, command, request, token, frame state or invalidation exists, the Lintel member is DOWN, and the memories are in canonical form.
That memory and every register without a stated reset value read as 0 then is the model's choice (log 2, 3). -/
def Obligations.ResetLeaves : Prop :=
  MemWf State.reset ∧ State.reset.dtime = 0 ∧ State.reset.nextLch = 0 ∧ State.reset.dev.boot = .waitImage
    ∧ (∀ c, (State.reset.ctx c).en = false) ∧ State.reset.launches = [] ∧ State.reset.teams = [] ∧ State.reset.groups = []
    ∧ (∀ c, (State.reset.core c).cmds = []) ∧ State.reset.remotes = [] ∧ State.reset.tokens = [] ∧ State.reset.invals = [] ∧ State.reset.runs = []
    ∧ (∀ f, (State.reset.frame f).st = .die) ∧ State.reset.lintel.st = .down ∧ (∀ pa, State.reset.homeByte pa = 0)

/-- An integer, uniform, floating-point, cross-lane, predicate, branch or call instruction, NOP or RDSLK, of a split that awaits no answer
of a home, of a group in which nothing but its own instruction is due and whose launch has a handler, and for which no home holds a
request, changes its own group alone, be it by its effect or by a trap: every other group, every memory, every engine, queue, register
of the part and device time are as before. The model's own counter of draws goes up by one. -/
def Obligations.OwnGroupInstructionsKeepTheRest : Prop :=
  ∀ (i : Instr) (s t : State) (x : Ix), ownGroup i = true → ixOf s = some x → askWaits x.sp = false → (x.sp.ask.getD {}).held = [] → Quiet x.g → HasHandler x → exec i s = .next t →
    ∃ g, g.uid = x.g.uid ∧ g.team = x.g.team ∧ t = { s with
      groups := s.groups.map (fun h => if h.uid = x.g.uid then g else h)
      draws := s.draws + 1 }

/-- A load of any space and form (LDG, LDS, LDC, LDD, LDL, LDX, LDO), whether it completes, waits or traps, leaves every byte of memory,
scratch and die scratch and every accumulator as it was, given that no L1 holds a dirty byte that it could drain, that the group has
nothing else due and that its launch has a handler. -/
def Obligations.LoadsLeaveTheMemories : Prop :=
  ∀ (s t : State) (x : Ix) (w : Width) (d a : LaneOp) (off : BitVec 9) (sp : Space) (k : SubKind) (wide acq : Bool) (sc : Scope) (i : Instr),
    i ∈ ([.ldg w d a off, .lds w d a off, .ldc w d a off, .ldd w d a off, .ldl w d a off, .ldx d a sp k, .ldo wide d a sp acq sc] : List Instr) →
    ixOf s = some x → Quiet x.g → HasHandler x → Settled s → exec i s = .next t →
    t.mem = s.mem ∧ t.scr = s.scr ∧ t.dscr = s.dscr ∧ t.acc = s.acc

/-- After a plain store of any space and width (STG, STS, STC, STD, STL, STX), whether it completes, waits or traps, every byte of scratch,
of die scratch and of the homes reads as before unless it lies in a piece of the access of a lane of act, at the place that the access
computes, or has computed at its issue where homes were asked meanwhile; the accumulators are as before. A store through an L1 changes
no home byte at all until it is written back. The same conditions as for loads hold; for the homes, no line is reached both through the
L1 and past it. -/
def Obligations.StoresWriteOnlyTheirBytes : Prop :=
  ∀ (s t : State) (x : Ix) (w : Width) (d a : LaneOp) (off : BitVec 9) (sp : Space) (half : Bool),
    ixOf s = some x → Quiet x.g → HasHandler x → Settled s →
    (let only (i : Instr) (f : AccForm) : Prop := exec i s = .next t →
       let ps : List Place := match keptOf x with
         | some k => k.all
         | none => (sidePlaces x (sideOf x f .store a)).flatMap (fun l => l.2)
       let n := pieceLen f.size
       (∀ k, (∀ c o q, Place.scr c o q ∈ ps → k < scrKey c o ∨ scrKey c o + n ≤ k) → mget blankByte t.scr k = mget blankByte s.scr k)
       ∧ (∀ k, (∀ c o q, Place.dscr c o q ∈ ps → k < dscrKey c o ∨ dscrKey c o + n ≤ k) → mget blankByte t.dscr k = mget blankByte s.dscr k)
       ∧ ((∀ va y vb z, Place.phys va y ∈ ps → Place.phys vb z ∈ ps → y.pa / 128 = z.pa / 128 → (Place.phys va y).past = (Place.phys vb z).past) →
          ∀ k, (∀ va y, Place.phys va y ∈ ps → (k < y.pa ∨ y.pa + n ≤ k) ∨ (Place.phys va y).past = false) → t.homeByte k = s.homeByte k)
       ∧ t.acc = s.acc
     only (.stg w d a off) (plainForm .g w off) ∧ only (.sts w d a off) (plainForm .s w off) ∧ only (.stc w d a off) (plainForm .c w off)
     ∧ only (.std w d a off) (plainForm .d w off) ∧ only (.stl w d a off) (plainForm .l w off)
     ∧ only (.stx d a sp half) { sp := sp, size := if half then 2 else 1 })

/-- A plain store whose places are of this part, and of which no home holds or has performed anything, writes, in one instruction, the
pieces of its lanes at their places and goes on: the places and data are those that it resolves at its issue; of the pieces that reach
one place, one remains, and which is free (log 6); the others remain all. That a store of this part is performed at its issue (log 5),
and that its translations enter the TLB (log 22), are the model's choices. A piece at a place of scratch or of die scratch is written
there; one at a place of memory goes into the L1, or past it to the home where the access or the page says so. When no two pieces that
remain share a byte, each byte of a piece at a place of scratch or die scratch reads back as the byte of the lane's data. -/
def Obligations.StoresWriteTheirPlaces : Prop :=
  ∀ (s : State) (x : Ix) (f : AccForm) (kp : Kept), f.strong = false → (x.sp.ask.getD {}).held = [] → (x.sp.ask.getD {}).ok = [] →
    (∀ l p, l ∈ kp.places → p ∈ l.2 → (∃ c o n, p = .scr c o n) ∨ (∃ c o n, p = .dscr c o n) ∨ (∃ va y, p = .phys va y ∧ isMem y.pa = true ∧ p.mirror = false)) →
    (let all := joinPieces f.joined (writesOf f.size kp.places (fun i => (kp.operands i).1))
     let ws := winners kp.draw all
     let t := doWrites x f.past (fillTlb x s kp.all) ws
     storeEffect x f false kp s = (t, .step)
     ∧ (∀ (ls : List (Nat × List Place)) (b c : Nat → Nat), (keptNow x ls b c).places = ls ∧ (keptNow x ls b c).draw = x.s.draws
        ∧ ∀ i, i ∈ ls.map (fun l => l.1) → (keptNow x ls b c).operands i = (b i, c i))
     ∧ (∀ w, w ∈ ws → w ∈ all) ∧ (∀ w, w ∈ all → ∃ u, u ∈ ws ∧ u.2.1.key = w.2.1.key)
     ∧ (∀ u w, u ∈ ws → w ∈ ws → u.2.1.key = w.2.1.key → u.1 = w.1)
     ∧ (∀ (q : State) (b : List Byte) (c o n va : Nat) (y : Xl), writePlace x.core x.t.ctx f.past q (.scr c o n) b = q.setScr c o b
        ∧ writePlace x.core x.t.ctx f.past q (.dscr c o n) b = q.setDscr c o b
        ∧ (isMem y.pa = true → writePlace x.core x.t.ctx f.past q (.phys va y) b =
            if f.past = true ∨ (Place.phys va y).past = true then storeHome q x.core y.pa b else storeL1 q x.core x.t.ctx y.pa b))
     ∧ ((∀ u w, u ∈ ws → w ∈ ws → u = w ∨ u.2.1.meets u.2.2.length w.2.1 w.2.2.length = false) →
        ∀ w, w ∈ ws → ∀ c o n k, k < w.2.2.length →
          (w.2.1 = .scr c o n → mget blankByte t.scr (scrKey c o + k) = w.2.2.getD k 0)
          ∧ (w.2.1 = .dscr c o n → mget blankByte t.dscr (dscrKey c o + k) = w.2.2.getD k 0)))

/-- Bytes stored at a home address, in the scratch of a core, or by a core into its L1, read back at their places, and every other byte of
that level reads as before; a store into an L1 leaves the homes, the scratch and every other core's view of memory as they were. A line
of the L1 that an older epoch left dirty is written back before the store (R236), and one that the epoch of the core or none left dirty
is not. -/
def Obligations.WritesReadBack : Prop :=
  ∀ (s : State) (core ctx p : Nat) (b : List Byte),
    (∀ q, (s.setHome p b).homeByte q = if p ≤ q ∧ q < p + b.length then b.getD (q - p) 0 else s.homeByte q)
    ∧ (∀ k, mget blankByte (s.setScr core p b).scr k =
        if scrKey core p ≤ k ∧ k < scrKey core p + b.length then b.getD (k - scrKey core p) 0 else mget blankByte s.scr k)
    ∧ (p % 128 + b.length ≤ 128 →
        (let t := storeL1 s core ctx p b
         let s0 := freshEpoch s core (p / 128)
         (∀ q, coreByte t core q = if p ≤ q ∧ q < p + b.length then b.getD (q - p) 0 else coreByte s0 core q)
         ∧ (∀ c q, c ≠ core → coreByte t c q = coreByte s0 c q) ∧ t.mem = s0.mem ∧ t.scr = s0.scr ∧ t.dscr = s0.dscr
         ∧ ((∀ l, l1Line? s core (p / 128) = some l → l.dirty = 0 ∨ l.epoch = (s.core core).epoch) → s0 = s)))

/-- A trap of a group whose launch has a handler, that is in no handler and has no load or atomic in flight, writes tpc (the next PC for
TRAP, else the PC), tam, tfm, tca (the cause in bits [7:0], FETCH in bit 8, DEFERRED in bit 9, 0 above) and tva, saves the split table
and the frames, and enters the handler as one split in entry 0 with AM tam, PC TRAPH, MR 0, HV 0 and no frame; entries 1 to 3 and the
frames are FREE; lane registers, predicates, generators, fx and uniform registers stand, and nothing outside the group changes, but that
each home that holds a request of the split is told to withdraw it, by messages that are the model's own (log 18). With loads in flight
it only waits. Without a handler, or in one, the group stops, nested when in one. That tva takes the whole address is the model's choice
(log 63). -/
def Obligations.TrapsEnterTheHandler : Prop :=
  ∀ (s : State) (g : Group) (e : Nat) (r : Trap) (t : Team), s.group? g.uid = some g → s.team? g.team = some t → r.cause < 256 →
    (g.quiet = false → takeTrap s g e r = withdrawAsks { s with
        groups := s.groups.map (fun h => if h.uid = g.uid then { g.setSplit e { g.split e with ask := none, word := none } with raised := some ⟨e, (g.split e).pc, (g.split e).am, r⟩ } else h)
        draws := s.draws + 1 } t.core g.uid [g.split e])
    ∧ (g.quiet = true → g.inHandler = false → (s.lrOf t).traph ≠ 0xFFFFFFFF → ∃ h, takeTrap s g e r = withdrawAsks { s with
          groups := s.groups.map (fun k => if k.uid = g.uid then h else k)
          draws := s.draws + 1 } t.core g.uid [g.split e]
        ∧ h.uid = g.uid ∧ h.tpc = (if r.next then (g.split e).pc + 4 else (g.split e).pc) ∧ h.tam = (g.split e).am ∧ h.tfm = r.tfm
        ∧ h.tva = BitVec.ofNat 64 r.tva ∧ h.tca.toNat % 256 = r.cause ∧ h.tca.getLsbD 8 = r.fetch ∧ h.tca.getLsbD 9 = r.deferred
        ∧ h.tca.toNat < 1024 ∧ h.saved = some ⟨e, (g.setSplit e { g.split e with ask := none, word := none }).splits, g.frames⟩ ∧ h.inHandler = true ∧ h.raised = none
        ∧ (∃ sp, h.splits = [sp, {}, {}, {}] ∧ sp.st = .ready ∧ sp.am = (g.split e).am ∧ sp.pc = BitVec.ofNat 32 (s.lrOf t).traph
            ∧ sp.mr = 0 ∧ sp.hv = 0 ∧ sp.frame = 31 ∧ sp.ser = false)
        ∧ h.frames = List.replicate 16 {} ∧ h.regs = g.regs ∧ h.preds = g.preds ∧ h.seeds = g.seeds ∧ h.fx = g.fx ∧ h.gs = g.gs)
    ∧ (g.quiet = true → (g.inHandler = true ∨ (s.lrOf t).traph = 0xFFFFFFFF) → ∃ h, (takeTrap s g e r).group? g.uid = some h
        ∧ h.stop = some ⟨g.inHandler, false⟩ ∧ h.canIssue = false)

/-- SEGLD, TLBINV, TLBINV.ALL and a WRSR of a segment register trap PRIV, with every lane of AM, in a group that is not privileged. CPY,
LOUVER, CPYM, BRUN and SHUT trap ILLEGAL_ROLE in a group with role MATRIX or VECTOR, and MMA, MZERO, MDRAIN and MSTAT in one with role
FEED or VECTOR. The split awaits no answer of a home and holds nothing of an instruction begun, and the queue of an engine instruction
has an entry. Nothing else happens. -/
def Obligations.PrivilegesAndRolesTrap : Prop :=
  ∀ (s : State) (x : Ix), ixOf s = some x → askTrap x.sp = none → askWaits x.sp = false → keptOf x = none →
    (x.g.priv = false → ∀ (sr : BitVec 7) (d a : LaneOp) (wide : Bool),
      exec (.segld sr a) s = traps x { cause := cPRIV, tfm := x.am } ∧ exec (.tlbinv d a) s = traps x { cause := cPRIV, tfm := x.am }
      ∧ exec .tlbinvAll s = traps x { cause := cPRIV, tfm := x.am }
      ∧ (srSegment sr.toNat = true → exec (.wrsr wide sr a) s = traps x { cause := cPRIV, tfm := x.am }))
    ∧ (let role := roleOf x.lr x.g.gix
       let no : Host.Outcome State Fault Refusal := traps x { cause := cILLEGAL_ROLE, tfm := x.am }
       (role = 2 ∨ role = 3 → noEntry .louver x = false → noEntry .brun x = false → ∀ (sz : CpySize) (d a : LaneOp),
          exec (.cpyGs sz d a) s = no ∧ exec (.cpySg sz d a) s = no ∧ exec (.cpyGc sz d a) s = no ∧ exec (.cpySs sz d a) s = no
          ∧ exec (.louver a) s = no ∧ exec (.cpym a) s = no ∧ exec (.brun a) s = no ∧ exec (.shut a) s = no)
       ∧ (role = 1 ∨ role = 3 → noEntry .mma x = false → ∀ (u : UniOp) (a b d : Fin 64) (clr : Bool),
          exec (.mma u a b) s = no ∧ exec (.mzero u b) s = no ∧ exec (.mdrain u a b) s = no ∧ exec (.mstat clr d) s = no))
end

