-- ==== Sys2Proof/Laws/Bits.lean ====
section
/-! SUPPORT. Packed values, byte lists and masks of lanes: what each element, byte and bit of them is. -/

namespace Sys2Proof.Machine

open Sys2Proof

/-- A bit of a list of one-bit elements. -/
theorem packEls_one_testBit (l : List Nat) (i : Nat) : (packEls 1 l).testBit i = (l.getD i 0 % 2 == 1) := by
  induction l generalizing i with
  | nil => simp [packEls]
  | cons y t ih =>
    cases i with
    | zero => simp only [packEls, Nat.testBit_zero, List.getD_cons_zero]; rw [show (y % 2 ^ 1 + 2 ^ 1 * packEls 1 t) % 2 = y % 2 by omega]; rfl
    | succ i =>
      simp only [packEls, Nat.testBit_succ, List.getD_cons_succ]
      rw [show (y % 2 ^ 1 + 2 ^ 1 * packEls 1 t) / 2 = packEls 1 t by omega]
      exact ih i

/-- A lane is in a mask exactly when it meets the test. -/
@[simp] theorem maskOf_getLsbD (f : Nat → Bool) (i : Nat) : (maskOf f).getLsbD i = (decide (i < 32) && f i) := by
  unfold maskOf
  rw [BitVec.getLsbD_ofNat, packEls_one_testBit]
  by_cases h : i < 32
  · rw [List.getD_eq_getElem _ _ (by simpa using h)]
    cases hf : f i <;> simp [hf]
  · simp [h]

/-- Two masks are the same when their lanes are. -/
theorem lanes_ext {a b : Lanes} (h : ∀ i, i < 32 → a.getLsbD i = b.getLsbD i) : a = b := BitVec.eq_of_getLsbD_eq (fun i hi => h i hi)

/-- A mask is empty exactly when no lane meets the test. -/
theorem maskOf_eq_zero (f : Nat → Bool) : maskOf f = 0 ↔ ∀ i, i < 32 → f i = false := by
  constructor
  · intro h i hi
    have e := maskOf_getLsbD f i
    rw [h] at e
    simpa [hi] using e.symm
  · intro h
    refine lanes_ext (fun i hi => ?_)
    rw [maskOf_getLsbD, h i hi]
    simp

/-- The lanes of a mask. -/
theorem mem_lanesOf (m : Lanes) (i : Nat) : i ∈ lanesOf m ↔ i < 32 ∧ m.getLsbD i = true := by
  simp [lanesOf]

/-- The bytes of a value, as many as asked for. -/
@[simp] theorem bytesOf_length (len x : Nat) : (bytesOf len x).length = len := by simp [bytesOf]

/-- A byte of the bytes of a value. -/
theorem bytesOf_getD (len x i : Nat) (h : i < len) : (bytesOf len x).getD i 0 = BitVec.ofNat 8 (x / 2 ^ (8 * i)) := by
  rw [List.getD_eq_getElem _ _ (by simpa using h)]
  simp [bytesOf]

/-- The value of the bytes of a value. -/
theorem ofBytes_bytesOf (len x : Nat) : ofBytes (bytesOf len x) = x % 2 ^ (8 * len) := by
  have key : ∀ (n x : Nat), ofBytes ((List.range n).map (fun i => BitVec.ofNat 8 (x / 2 ^ (8 * i)))) = x % 2 ^ (8 * n) := by
    intro n
    induction n with
    | zero => intro x; simp [ofBytes, Nat.mod_one]
    | succ n ih =>
      intro x
      rw [List.range_succ_eq_map, List.map_cons, List.map_map]
      have e : ((fun i => BitVec.ofNat 8 (x / 2 ^ (8 * i))) ∘ Nat.succ) = (fun i => BitVec.ofNat 8 (x / 2 ^ 8 / 2 ^ (8 * i))) := by
        funext i
        simp only [Function.comp, Nat.div_div_eq_div_mul, ← Nat.pow_add]
        rw [show 8 * Nat.succ i = 8 + 8 * i by omega]
      rw [e, ofBytes, ih]
      simp only [BitVec.toNat_ofNat, Nat.mul_zero, pow_zero, Nat.div_one]
      rw [show 8 * (n + 1) = 8 + 8 * n by omega, Nat.pow_add, Nat.mod_mul]
  exact key len x

/-- The pattern of an integer as a word. -/
theorem ofNat_pat (n : Nat) (z : Int) : BitVec.ofNat n (pat z n) = BitVec.ofInt n z := by
  apply BitVec.eq_of_toNat_eq
  rw [BitVec.toNat_ofNat, BitVec.toNat_ofInt]
  exact Nat.mod_eq_of_lt ((Int.toNat_lt (Int.emod_nonneg _ (by positivity))).mpr (Int.emod_lt_of_pos _ (by positivity)))

end Sys2Proof.Machine
end

