-- ==== Sys2Proof/Laws/Encode.lean ====
section
/-! SUPPORT. The fields of an encoded word, and that each operand is read back from its code. -/

namespace Sys2Proof

open Sys2Proof.Machine

theorem LaneOp.code_lt (d : LaneOp) : d.code < 128 := by
  cases d with
  | v n => have := n.isLt; simp only [LaneOp.code]; omega
  | o n => have := n.isLt; simp only [LaneOp.code]; omega
  | h n => have := n.isLt; simp only [LaneOp.code]; omega
  | _ => simp [LaneOp.code]

@[simp] theorem laneOf_code (d : LaneOp) : laneOf d.code = some d := by
  cases d with
  | v n => revert n; decide
  | o n => revert n; decide
  | h n => revert n; decide
  | _ => rfl

theorem UniOp.code_lt (a : UniOp) : a.code < 128 := by
  cases a with
  | g n => have := n.isLt; simp only [UniOp.code]; omega
  | sid n => have := n.isLt; simp only [UniOp.code]; omega
  | _ => simp [UniOp.code]

@[simp] theorem uniOf_code (a : UniOp) : uniOf a.code = a := by
  cases a with
  | g n => revert n; decide
  | sid n => revert n; decide
  | _ => rfl

theorem Width.code_lt (w : Width) : w.code < 4 := by cases w <;> decide
@[simp] theorem widthOf_code (w : Width) : widthOf w.code = w := by cases w <;> rfl
theorem Rel.code_lt (r : Rel) : r.code < 8 := by cases r <;> decide
@[simp] theorem relOf_code (r : Rel) : relOf r.code = r := by cases r <;> rfl
theorem FRel.code_lt (r : FRel) : r.code < 8 := by cases r <;> decide
@[simp] theorem frelOf_code (r : FRel) : frelOf r.code = r := by cases r <;> rfl
theorem Comb.code_lt (c : Comb) : c.code < 4 := by cases c <;> decide
@[simp] theorem combOf_code (c : Comb) : combOf c.code = c := by cases c <;> rfl
theorem ETy.code_lt (t : ETy) : t.code < 32 := by cases t <;> decide
@[simp] theorem etyOf_code (t : ETy) : etyOf t.code = t := by cases t <;> rfl
theorem Space.code_lt (sp : Space) : sp.code < 8 := by cases sp <;> decide
@[simp] theorem spaceOf_code (sp : Space) : spaceOf sp.code = sp := by cases sp <;> rfl
theorem SubKind.code_lt (k : SubKind) : k.code < 4 := by cases k <;> decide
@[simp] theorem subKindOf_code (k : SubKind) : subKindOf k.code = k := by cases k <;> rfl
theorem Scope.code_lt (c : Scope) : c.code < 8 := by cases c <;> decide
@[simp] theorem scopeOf_code (c : Scope) : scopeOf c.code = c := by cases c <;> rfl
theorem CpySize.code_lt (z : CpySize) : z.code < 4 := by cases z <;> decide
@[simp] theorem cpySizeOf_code (z : CpySize) : cpySizeOf z.code = z := by cases z <;> rfl

/-- A word of Table 03.1 with bit S, and the value of its fields. -/
theorem encW_fields (s maj w d rest : Nat) (hs : s < 2) (hm : maj < 64) (hw : w < 4) (hd : d < 128) (hr : rest < 65536) :
    encW maj w d rest < 2 ^ 31 ∧ (encW maj w d rest + s * 2 ^ 31) % 2 ^ 31 = encW maj w d rest
      ∧ bitsOf (encW maj w d rest + s * 2 ^ 31) 30 25 = maj ∧ bitsOf (encW maj w d rest + s * 2 ^ 31) 24 23 = w
      ∧ bitsOf (encW maj w d rest + s * 2 ^ 31) 22 16 = d ∧ (encW maj w d rest + s * 2 ^ 31) % 65536 = rest := by
  simp only [encW, bitsOf]
  norm_num
  omega

/-- A word of format D with bit S, and the value of its fields. -/
theorem encD_fields (s maj k n off : Nat) (hs : s < 2) (hm : maj < 64) (hk : k < 8) (hn : n < 2) (ho : off < 2 ^ 21) :
    let x := maj * 2 ^ 25 + k * 2 ^ 22 + n * 2 ^ 21 + off + s * 2 ^ 31
    x % 2 ^ 31 + s * 2 ^ 31 = x ∧ bitsOf x 30 25 = maj ∧ bitsOf x 24 22 = k ∧ bitsOf x 21 21 = n ∧ bitsOf x 24 21 = 2 * k + n
      ∧ x % 2 ^ 21 = off := by
  simp only [bitsOf]
  norm_num
  omega

end Sys2Proof
end

