-- ==== Sys2Proof/Laws/Exec.lean ====
section
/-! SUPPORT. What `exec` calls for each constructor, so that no proof unfolds the dispatch. -/

namespace Sys2Proof.Machine

open Sys2Proof

theorem exec_trap (code : BitVec 14) (s : State) : exec (.trap code) s = execTrap code s := rfl
theorem exec_rdsr (wide : Bool) (d : LaneOp) (sr : BitVec 7) (s : State) : exec (.rdsr wide d sr) s = execRdsr wide d sr s := rfl
theorem exec_wrsr (wide : Bool) (sr : BitVec 7) (a : LaneOp) (s : State) : exec (.wrsr wide sr a) s = execWrsr wide sr a s := rfl
theorem exec_segld (sr : BitVec 7) (a : LaneOp) (s : State) : exec (.segld sr a) s = execSegld sr a s := rfl
theorem exec_tlbinv (d : LaneOp) (a : LaneOp) (s : State) : exec (.tlbinv d a) s = execTlbinv d a s := rfl
theorem exec_ownacq (a : LaneOp) (s : State) : exec (.ownacq a) s = execOwnacq a s := rfl
theorem exec_ownrel (a : LaneOp) (s : State) : exec (.ownrel a) s = execOwnrel a s := rfl
theorem exec_add (w : Width) (d : LaneOp) (a : LaneOp) (b : LaneOp) (s : State) : exec (.add w d a b) s = execAdd w d a b s := rfl
theorem exec_sub (w : Width) (d : LaneOp) (a : LaneOp) (b : LaneOp) (s : State) : exec (.sub w d a b) s = execSub w d a b s := rfl
theorem exec_rsub (w : Width) (d : LaneOp) (a : LaneOp) (b : LaneOp) (s : State) : exec (.rsub w d a b) s = execRsub w d a b s := rfl
theorem exec_absd (w : Width) (d : LaneOp) (a : LaneOp) (b : LaneOp) (s : State) : exec (.absd w d a b) s = execAbsd w d a b s := rfl
theorem exec_mul (w : Width) (d : LaneOp) (a : LaneOp) (b : LaneOp) (s : State) : exec (.mul w d a b) s = execMul w d a b s := rfl
theorem exec_mulh (w : Width) (d : LaneOp) (a : LaneOp) (b : LaneOp) (s : State) : exec (.mulh w d a b) s = execMulh w d a b s := rfl
theorem exec_mad (w : Width) (d : LaneOp) (a : LaneOp) (b : LaneOp) (s : State) : exec (.mad w d a b) s = execMad w d a b s := rfl
theorem exec_madh (w : Width) (d : LaneOp) (a : LaneOp) (b : LaneOp) (s : State) : exec (.madh w d a b) s = execMadh w d a b s := rfl
theorem exec_and (w : Width) (d : LaneOp) (a : LaneOp) (b : LaneOp) (s : State) : exec (.and w d a b) s = execAnd w d a b s := rfl
theorem exec_or (w : Width) (d : LaneOp) (a : LaneOp) (b : LaneOp) (s : State) : exec (.or w d a b) s = execOr w d a b s := rfl
theorem exec_xor (w : Width) (d : LaneOp) (a : LaneOp) (b : LaneOp) (s : State) : exec (.xor w d a b) s = execXor w d a b s := rfl
theorem exec_andn (w : Width) (d : LaneOp) (a : LaneOp) (b : LaneOp) (s : State) : exec (.andn w d a b) s = execAndn w d a b s := rfl
theorem exec_shl (w : Width) (d : LaneOp) (a : LaneOp) (b : LaneOp) (s : State) : exec (.shl w d a b) s = execShl w d a b s := rfl
theorem exec_shr (w : Width) (d : LaneOp) (a : LaneOp) (b : LaneOp) (s : State) : exec (.shr w d a b) s = execShr w d a b s := rfl
theorem exec_sha (w : Width) (d : LaneOp) (a : LaneOp) (b : LaneOp) (s : State) : exec (.sha w d a b) s = execSha w d a b s := rfl
theorem exec_rot (w : Width) (d : LaneOp) (a : LaneOp) (b : LaneOp) (s : State) : exec (.rot w d a b) s = execRot w d a b s := rfl
theorem exec_min (w : Width) (d : LaneOp) (a : LaneOp) (b : LaneOp) (s : State) : exec (.min w d a b) s = execMin w d a b s := rfl
theorem exec_max (w : Width) (d : LaneOp) (a : LaneOp) (b : LaneOp) (s : State) : exec (.max w d a b) s = execMax w d a b s := rfl
theorem exec_sel (w : Width) (d : LaneOp) (a : LaneOp) (b : LaneOp) (s : State) : exec (.sel w d a b) s = execSel w d a b s := rfl
theorem exec_selz (w : Width) (d : LaneOp) (a : LaneOp) (b : LaneOp) (s : State) : exec (.selz w d a b) s = execSelz w d a b s := rfl
theorem exec_icmp (wide : Bool) (any : Bool) (rel : Rel) (cb : Comb) (kd : Fin 8) (a : LaneOp) (b : LaneOp) (s : State) : exec (.icmp wide any rel cb kd a b) s = execIcmp wide any rel cb kd a b s := rfl
theorem exec_bfx (w : Width) (d : LaneOp) (a : LaneOp) (b : LaneOp) (s : State) : exec (.bfx w d a b) s = execBfx w d a b s := rfl
theorem exec_bfxs (w : Width) (d : LaneOp) (a : LaneOp) (b : LaneOp) (s : State) : exec (.bfxs w d a b) s = execBfxs w d a b s := rfl
theorem exec_bfi (w : Width) (d : LaneOp) (a : LaneOp) (b : LaneOp) (s : State) : exec (.bfi w d a b) s = execBfi w d a b s := rfl
theorem exec_perm (w : Width) (d : LaneOp) (a : LaneOp) (b : LaneOp) (s : State) : exec (.perm w d a b) s = execPerm w d a b s := rfl
theorem exec_mov (w : Width) (d : LaneOp) (a : LaneOp) (s : State) : exec (.mov w d a) s = execMov w d a s := rfl
theorem exec_not (w : Width) (d : LaneOp) (a : LaneOp) (s : State) : exec (.not w d a) s = execNot w d a s := rfl
theorem exec_neg (w : Width) (d : LaneOp) (a : LaneOp) (s : State) : exec (.neg w d a) s = execNeg w d a s := rfl
theorem exec_abs (w : Width) (d : LaneOp) (a : LaneOp) (s : State) : exec (.abs w d a) s = execAbs w d a s := rfl
theorem exec_clz (w : Width) (d : LaneOp) (a : LaneOp) (s : State) : exec (.clz w d a) s = execClz w d a s := rfl
theorem exec_popc (w : Width) (d : LaneOp) (a : LaneOp) (s : State) : exec (.popc w d a) s = execPopc w d a s := rfl
theorem exec_brev (w : Width) (d : LaneOp) (a : LaneOp) (s : State) : exec (.brev w d a) s = execBrev w d a s := rfl
theorem exec_bswap (w : Width) (d : LaneOp) (a : LaneOp) (s : State) : exec (.bswap w d a) s = execBswap w d a s := rfl
theorem exec_ktoi (d : LaneOp) (k : Fin 8) (s : State) : exec (.ktoi d k) s = execKtoi d k s := rfl
theorem exec_itok (kd : Fin 8) (a : LaneOp) (s : State) : exec (.itok kd a) s = execItok kd a s := rfl
theorem exec_kget (d : LaneOp) (s : State) : exec (.kget d) s = execKget d s := rfl
theorem exec_kput (a : LaneOp) (s : State) : exec (.kput a) s = execKput a s := rfl
theorem exec_movg (wide : Bool) (d : LaneOp) (g : UniOp) (s : State) : exec (.movg wide d g) s = execMovg wide d g s := rfl
theorem exec_sext (w : Width) (d : LaneOp) (a : LaneOp) (m : Fin 32) (s : State) : exec (.sext w d a m) s = execSext w d a m s := rfl
theorem exec_zext (w : Width) (d : LaneOp) (a : LaneOp) (m : Fin 32) (s : State) : exec (.zext w d a m) s = execZext w d a m s := rfl
theorem exec_addi (w : Width) (d : LaneOp) (a : LaneOp) (im : BitVec 9) (s : State) : exec (.addi w d a im) s = execAddi w d a im s := rfl
theorem exec_shli (w : Width) (d : LaneOp) (a : LaneOp) (n : Fin 64) (s : State) : exec (.shli w d a n) s = execShli w d a n s := rfl
theorem exec_shri (w : Width) (d : LaneOp) (a : LaneOp) (n : Fin 64) (s : State) : exec (.shri w d a n) s = execShri w d a n s := rfl
theorem exec_shai (w : Width) (d : LaneOp) (a : LaneOp) (n : Fin 64) (s : State) : exec (.shai w d a n) s = execShai w d a n s := rfl
theorem exec_roti (w : Width) (d : LaneOp) (a : LaneOp) (n : Fin 64) (s : State) : exec (.roti w d a n) s = execRoti w d a n s := rfl
theorem exec_andi (w : Width) (d : LaneOp) (a : LaneOp) (im : BitVec 7) (s : State) : exec (.andi w d a im) s = execAndi w d a im s := rfl
theorem exec_ori (w : Width) (d : LaneOp) (a : LaneOp) (im : BitVec 7) (s : State) : exec (.ori w d a im) s = execOri w d a im s := rfl
theorem exec_xori (w : Width) (d : LaneOp) (a : LaneOp) (im : BitVec 7) (s : State) : exec (.xori w d a im) s = execXori w d a im s := rfl
theorem exec_andni (w : Width) (d : LaneOp) (a : LaneOp) (im : BitVec 7) (s : State) : exec (.andni w d a im) s = execAndni w d a im s := rfl
theorem exec_movi (d : LaneOp) (im : BitVec 16) (s : State) : exec (.movi d im) s = execMovi d im s := rfl
theorem exec_moviZ (d : LaneOp) (im : BitVec 16) (s : State) : exec (.moviZ d im) s = execMoviZ d im s := rfl
theorem exec_moviH (d : LaneOp) (im : BitVec 16) (s : State) : exec (.moviH d im) s = execMoviH d im s := rfl
theorem exec_moviL (d : LaneOp) (im : BitVec 16) (s : State) : exec (.moviL d im) s = execMoviL d im s := rfl
theorem exec_cmpi (wide : Bool) (any : Bool) (rel : Rel) (kd : Fin 8) (a : LaneOp) (im : BitVec 9) (s : State) : exec (.cmpi wide any rel kd a im) s = execCmpi wide any rel kd a im s := rfl
theorem exec_mode (q : Fin 4) (im : BitVec 16) (s : State) : exec (.mode q im) s = execMode q im s := rfl
theorem exec_kand (kd : Fin 8) (na : Bool) (ka : Fin 8) (nb : Bool) (kb : Fin 8) (s : State) : exec (.kand kd na ka nb kb) s = execKand kd na ka nb kb s := rfl
theorem exec_kor (kd : Fin 8) (na : Bool) (ka : Fin 8) (nb : Bool) (kb : Fin 8) (s : State) : exec (.kor kd na ka nb kb) s = execKor kd na ka nb kb s := rfl
theorem exec_kxor (kd : Fin 8) (na : Bool) (ka : Fin 8) (nb : Bool) (kb : Fin 8) (s : State) : exec (.kxor kd na ka nb kb) s = execKxor kd na ka nb kb s := rfl
theorem exec_kandn (kd : Fin 8) (na : Bool) (ka : Fin 8) (nb : Bool) (kb : Fin 8) (s : State) : exec (.kandn kd na ka nb kb) s = execKandn kd na ka nb kb s := rfl
theorem exec_fadd (w : Width) (d : LaneOp) (a : LaneOp) (b : LaneOp) (s : State) : exec (.fadd w d a b) s = execFadd w d a b s := rfl
theorem exec_fsub (w : Width) (d : LaneOp) (a : LaneOp) (b : LaneOp) (s : State) : exec (.fsub w d a b) s = execFsub w d a b s := rfl
theorem exec_fmul (w : Width) (d : LaneOp) (a : LaneOp) (b : LaneOp) (s : State) : exec (.fmul w d a b) s = execFmul w d a b s := rfl
theorem exec_frsub (w : Width) (d : LaneOp) (a : LaneOp) (b : LaneOp) (s : State) : exec (.frsub w d a b) s = execFrsub w d a b s := rfl
theorem exec_ffma (w : Width) (d : LaneOp) (a : LaneOp) (b : LaneOp) (s : State) : exec (.ffma w d a b) s = execFfma w d a b s := rfl
theorem exec_ffms (w : Width) (d : LaneOp) (a : LaneOp) (b : LaneOp) (s : State) : exec (.ffms w d a b) s = execFfms w d a b s := rfl
theorem exec_fnma (w : Width) (d : LaneOp) (a : LaneOp) (b : LaneOp) (s : State) : exec (.fnma w d a b) s = execFnma w d a b s := rfl
theorem exec_fnms (w : Width) (d : LaneOp) (a : LaneOp) (b : LaneOp) (s : State) : exec (.fnms w d a b) s = execFnms w d a b s := rfl
theorem exec_fmin (w : Width) (d : LaneOp) (a : LaneOp) (b : LaneOp) (s : State) : exec (.fmin w d a b) s = execFmin w d a b s := rfl
theorem exec_fmax (w : Width) (d : LaneOp) (a : LaneOp) (b : LaneOp) (s : State) : exec (.fmax w d a b) s = execFmax w d a b s := rfl
theorem exec_fminm (w : Width) (d : LaneOp) (a : LaneOp) (b : LaneOp) (s : State) : exec (.fminm w d a b) s = execFminm w d a b s := rfl
theorem exec_fmaxm (w : Width) (d : LaneOp) (a : LaneOp) (b : LaneOp) (s : State) : exec (.fmaxm w d a b) s = execFmaxm w d a b s := rfl
theorem exec_fcmp (wide : Bool) (any : Bool) (rel : FRel) (cb : Comb) (kd : Fin 8) (a : LaneOp) (b : LaneOp) (s : State) : exec (.fcmp wide any rel cb kd a b) s = execFcmp wide any rel cb kd a b s := rfl
theorem exec_fabs (w : Width) (d : LaneOp) (a : LaneOp) (s : State) : exec (.fabs w d a) s = execFabs w d a s := rfl
theorem exec_fneg (w : Width) (d : LaneOp) (a : LaneOp) (s : State) : exec (.fneg w d a) s = execFneg w d a s := rfl
theorem exec_frcp (w : Width) (d : LaneOp) (a : LaneOp) (s : State) : exec (.frcp w d a) s = execFrcp w d a s := rfl
theorem exec_frsq (w : Width) (d : LaneOp) (a : LaneOp) (s : State) : exec (.frsq w d a) s = execFrsq w d a s := rfl
theorem exec_fsqrt (w : Width) (d : LaneOp) (a : LaneOp) (s : State) : exec (.fsqrt w d a) s = execFsqrt w d a s := rfl
theorem exec_fexp2 (w : Width) (d : LaneOp) (a : LaneOp) (s : State) : exec (.fexp2 w d a) s = execFexp2 w d a s := rfl
theorem exec_flog2 (w : Width) (d : LaneOp) (a : LaneOp) (s : State) : exec (.flog2 w d a) s = execFlog2 w d a s := rfl
theorem exec_fsin (w : Width) (d : LaneOp) (a : LaneOp) (s : State) : exec (.fsin w d a) s = execFsin w d a s := rfl
theorem exec_fcos (w : Width) (d : LaneOp) (a : LaneOp) (s : State) : exec (.fcos w d a) s = execFcos w d a s := rfl
theorem exec_ftanh (w : Width) (d : LaneOp) (a : LaneOp) (s : State) : exec (.ftanh w d a) s = execFtanh w d a s := rfl
theorem exec_frnd (w : Width) (d : LaneOp) (a : LaneOp) (s : State) : exec (.frnd w d a) s = execFrnd w d a s := rfl
theorem exec_fclass (w : Width) (d : LaneOp) (a : LaneOp) (s : State) : exec (.fclass w d a) s = execFclass w d a s := rfl
theorem exec_cvt (w : Width) (d : LaneOp) (a : LaneOp) (trunc : Bool) (part : Fin 8) (dt : ETy) (s : State) : exec (.cvt w d a trunc part dt) s = execCvt w d a trunc part dt s := rfl
theorem exec_packfBf16 (w : Width) (d : LaneOp) (a : LaneOp) (b : LaneOp) (s : State) : exec (.packfBf16 w d a b) s = execPackfBf16 w d a b s := rfl
theorem exec_packfF16 (w : Width) (d : LaneOp) (a : LaneOp) (b : LaneOp) (s : State) : exec (.packfF16 w d a b) s = execPackfF16 w d a b s := rfl
theorem exec_packfE4m3 (w : Width) (d : LaneOp) (a : LaneOp) (b : LaneOp) (s : State) : exec (.packfE4m3 w d a b) s = execPackfE4m3 w d a b s := rfl
theorem exec_packfE5m2 (w : Width) (d : LaneOp) (a : LaneOp) (b : LaneOp) (s : State) : exec (.packfE5m2 w d a b) s = execPackfE5m2 w d a b s := rfl
theorem exec_dot (w : Width) (d : LaneOp) (a : LaneOp) (b : LaneOp) (s : State) : exec (.dot w d a b) s = execDot w d a b s := rfl
theorem exec_dotz (w : Width) (d : LaneOp) (a : LaneOp) (b : LaneOp) (s : State) : exec (.dotz w d a b) s = execDotz w d a b s := rfl
theorem exec_uadd (wide : Bool) (d : Fin 64) (a : UniOp) (b : UniOp) (s : State) : exec (.uadd wide d a b) s = execUadd wide d a b s := rfl
theorem exec_usub (wide : Bool) (d : Fin 64) (a : UniOp) (b : UniOp) (s : State) : exec (.usub wide d a b) s = execUsub wide d a b s := rfl
theorem exec_umul (wide : Bool) (d : Fin 64) (a : UniOp) (b : UniOp) (s : State) : exec (.umul wide d a b) s = execUmul wide d a b s := rfl
theorem exec_umad (wide : Bool) (d : Fin 64) (a : UniOp) (b : UniOp) (s : State) : exec (.umad wide d a b) s = execUmad wide d a b s := rfl
theorem exec_uand (wide : Bool) (d : Fin 64) (a : UniOp) (b : UniOp) (s : State) : exec (.uand wide d a b) s = execUand wide d a b s := rfl
theorem exec_uor (wide : Bool) (d : Fin 64) (a : UniOp) (b : UniOp) (s : State) : exec (.uor wide d a b) s = execUor wide d a b s := rfl
theorem exec_uxor (wide : Bool) (d : Fin 64) (a : UniOp) (b : UniOp) (s : State) : exec (.uxor wide d a b) s = execUxor wide d a b s := rfl
theorem exec_uandn (wide : Bool) (d : Fin 64) (a : UniOp) (b : UniOp) (s : State) : exec (.uandn wide d a b) s = execUandn wide d a b s := rfl
theorem exec_ushl (wide : Bool) (d : Fin 64) (a : UniOp) (b : UniOp) (s : State) : exec (.ushl wide d a b) s = execUshl wide d a b s := rfl
theorem exec_ushr (wide : Bool) (d : Fin 64) (a : UniOp) (b : UniOp) (s : State) : exec (.ushr wide d a b) s = execUshr wide d a b s := rfl
theorem exec_usha (wide : Bool) (d : Fin 64) (a : UniOp) (b : UniOp) (s : State) : exec (.usha wide d a b) s = execUsha wide d a b s := rfl
theorem exec_urot (wide : Bool) (d : Fin 64) (a : UniOp) (b : UniOp) (s : State) : exec (.urot wide d a b) s = execUrot wide d a b s := rfl
theorem exec_umin (wide : Bool) (d : Fin 64) (a : UniOp) (b : UniOp) (s : State) : exec (.umin wide d a b) s = execUmin wide d a b s := rfl
theorem exec_umax (wide : Bool) (d : Fin 64) (a : UniOp) (b : UniOp) (s : State) : exec (.umax wide d a b) s = execUmax wide d a b s := rfl
theorem exec_uminn (wide : Bool) (d : Fin 64) (a : UniOp) (b : UniOp) (s : State) : exec (.uminn wide d a b) s = execUminn wide d a b s := rfl
theorem exec_umaxn (wide : Bool) (d : Fin 64) (a : UniOp) (b : UniOp) (s : State) : exec (.umaxn wide d a b) s = execUmaxn wide d a b s := rfl
theorem exec_uaddi (wide : Bool) (d : Fin 64) (a : UniOp) (im : BitVec 9) (s : State) : exec (.uaddi wide d a im) s = execUaddi wide d a im s := rfl
theorem exec_umovi (d : Fin 64) (im : BitVec 16) (s : State) : exec (.umovi d im) s = execUmovi d im s := rfl
theorem exec_umoviZ (d : Fin 64) (im : BitVec 16) (s : State) : exec (.umoviZ d im) s = execUmoviZ d im s := rfl
theorem exec_umoviH (d : Fin 64) (im : BitVec 16) (s : State) : exec (.umoviH d im) s = execUmoviH d im s := rfl
theorem exec_umoviL (d : Fin 64) (im : BitVec 16) (s : State) : exec (.umoviL d im) s = execUmoviL d im s := rfl
theorem exec_ucmp (wide : Bool) (uns : Bool) (rel : Rel) (cb : Comb) (kd : Fin 8) (a : UniOp) (b : UniOp) (s : State) : exec (.ucmp wide uns rel cb kd a b) s = execUcmp wide uns rel cb kd a b s := rfl
theorem exec_shfli (w : Width) (d : LaneOp) (a : LaneOp) (s : State) : exec (.shfli w d a) s = execShfli w d a s := rfl
theorem exec_shflu (w : Width) (d : LaneOp) (a : LaneOp) (n : Fin 32) (s : State) : exec (.shflu w d a n) s = execShflu w d a n s := rfl
theorem exec_shfld (w : Width) (d : LaneOp) (a : LaneOp) (n : Fin 32) (s : State) : exec (.shfld w d a n) s = execShfld w d a n s := rfl
theorem exec_shflx (w : Width) (d : LaneOp) (a : LaneOp) (n : Fin 32) (s : State) : exec (.shflx w d a n) s = execShflx w d a n s := rfl
theorem exec_ballot (d : LaneOp) (neg : Bool) (k : Fin 8) (s : State) : exec (.ballot d neg k) s = execBallot d neg k s := rfl
theorem exec_scanadd (ex : Bool) (d : LaneOp) (a : LaneOp) (s : State) : exec (.scanadd ex d a) s = execScanadd ex d a s := rfl
theorem exec_redadd (d : LaneOp) (a : LaneOp) (s : State) : exec (.redadd d a) s = execRedadd d a s := rfl
theorem exec_redmin (d : LaneOp) (a : LaneOp) (s : State) : exec (.redmin d a) s = execRedmin d a s := rfl
theorem exec_redmax (d : LaneOp) (a : LaneOp) (s : State) : exec (.redmax d a) s = execRedmax d a s := rfl
theorem exec_rdlane (w : Width) (d : LaneOp) (a : LaneOp) (n : Fin 32) (s : State) : exec (.rdlane w d a n) s = execRdlane w d a n s := rfl
theorem exec_bcast (w : Width) (d : LaneOp) (a : LaneOp) (s : State) : exec (.bcast w d a) s = execBcast w d a s := rfl
theorem exec_firstLane (d : LaneOp) (s : State) : exec (.firstLane d) s = execFirstLane d s := rfl
theorem exec_matchLanes (d : LaneOp) (a : LaneOp) (s : State) : exec (.matchLanes d a) s = execMatchLanes d a s := rfl
theorem exec_bra (k : Fin 8) (n : Bool) (off : BitVec 21) (s : State) : exec (.bra k n off) s = execBra k n off s := rfl
theorem exec_braAlways (off : BitVec 21) (s : State) : exec (.braAlways off) s = execBraAlways off s := rfl
theorem exec_bany (k : Fin 8) (n : Bool) (off : BitVec 21) (s : State) : exec (.bany k n off) s = execBany k n off s := rfl
theorem exec_ball (k : Fin 8) (n : Bool) (off : BitVec 21) (s : State) : exec (.ball k n off) s = execBall k n off s := rfl
theorem exec_bnone (k : Fin 8) (n : Bool) (off : BitVec 21) (s : State) : exec (.bnone k n off) s = execBnone k n off s := rfl
theorem exec_brk (k : Fin 8) (n : Bool) (off : BitVec 21) (s : State) : exec (.brk k n off) s = execBrk k n off s := rfl
theorem exec_jpt (off : BitVec 21) (s : State) : exec (.jpt off) s = execJpt off s := rfl
theorem exec_call (off : BitVec 21) (s : State) : exec (.call off) s = execCall off s := rfl
theorem exec_jmpr (a : LaneOp) (s : State) : exec (.jmpr a) s = execJmpr a s := rfl
theorem exec_callr (a : LaneOp) (s : State) : exec (.callr a) s = execCallr a s := rfl
theorem exec_ldg (w : Width) (d : LaneOp) (a : LaneOp) (off : BitVec 9) (s : State) : exec (.ldg w d a off) s = execLdg w d a off s := rfl
theorem exec_stg (w : Width) (d : LaneOp) (a : LaneOp) (off : BitVec 9) (s : State) : exec (.stg w d a off) s = execStg w d a off s := rfl
theorem exec_lds (w : Width) (d : LaneOp) (a : LaneOp) (off : BitVec 9) (s : State) : exec (.lds w d a off) s = execLds w d a off s := rfl
theorem exec_sts (w : Width) (d : LaneOp) (a : LaneOp) (off : BitVec 9) (s : State) : exec (.sts w d a off) s = execSts w d a off s := rfl
theorem exec_ldc (w : Width) (d : LaneOp) (a : LaneOp) (off : BitVec 9) (s : State) : exec (.ldc w d a off) s = execLdc w d a off s := rfl
theorem exec_stc (w : Width) (d : LaneOp) (a : LaneOp) (off : BitVec 9) (s : State) : exec (.stc w d a off) s = execStc w d a off s := rfl
theorem exec_ldd (w : Width) (d : LaneOp) (a : LaneOp) (off : BitVec 9) (s : State) : exec (.ldd w d a off) s = execLdd w d a off s := rfl
theorem exec_std (w : Width) (d : LaneOp) (a : LaneOp) (off : BitVec 9) (s : State) : exec (.std w d a off) s = execStd w d a off s := rfl
theorem exec_ldl (w : Width) (d : LaneOp) (a : LaneOp) (off : BitVec 9) (s : State) : exec (.ldl w d a off) s = execLdl w d a off s := rfl
theorem exec_stl (w : Width) (d : LaneOp) (a : LaneOp) (off : BitVec 9) (s : State) : exec (.stl w d a off) s = execStl w d a off s := rfl
theorem exec_ldx (d : LaneOp) (a : LaneOp) (sp : Space) (kind : SubKind) (s : State) : exec (.ldx d a sp kind) s = execLdx d a sp kind s := rfl
theorem exec_stx (d : LaneOp) (a : LaneOp) (sp : Space) (half : Bool) (s : State) : exec (.stx d a sp half) s = execStx d a sp half s := rfl
theorem exec_ldo (wide : Bool) (d : LaneOp) (a : LaneOp) (sp : Space) (acq : Bool) (sc : Scope) (s : State) : exec (.ldo wide d a sp acq sc) s = execLdo wide d a sp acq sc s := rfl
theorem exec_sto (wide : Bool) (d : LaneOp) (a : LaneOp) (sp : Space) (rel : Bool) (sc : Scope) (s : State) : exec (.sto wide d a sp rel sc) s = execSto wide d a sp rel sc s := rfl
theorem exec_atomgAdd (d : LaneOp) (a : LaneOp) (b : LaneOp) (s : State) : exec (.atomgAdd d a b) s = execAtomgAdd d a b s := rfl
theorem exec_atomgMin (d : LaneOp) (a : LaneOp) (b : LaneOp) (s : State) : exec (.atomgMin d a b) s = execAtomgMin d a b s := rfl
theorem exec_atomgMax (d : LaneOp) (a : LaneOp) (b : LaneOp) (s : State) : exec (.atomgMax d a b) s = execAtomgMax d a b s := rfl
theorem exec_atomgAnd (d : LaneOp) (a : LaneOp) (b : LaneOp) (s : State) : exec (.atomgAnd d a b) s = execAtomgAnd d a b s := rfl
theorem exec_atomgOr (d : LaneOp) (a : LaneOp) (b : LaneOp) (s : State) : exec (.atomgOr d a b) s = execAtomgOr d a b s := rfl
theorem exec_atomgXor (d : LaneOp) (a : LaneOp) (b : LaneOp) (s : State) : exec (.atomgXor d a b) s = execAtomgXor d a b s := rfl
theorem exec_atomgExch (d : LaneOp) (a : LaneOp) (b : LaneOp) (s : State) : exec (.atomgExch d a b) s = execAtomgExch d a b s := rfl
theorem exec_atomgCas (d : LaneOp) (a : LaneOp) (b : LaneOp) (s : State) : exec (.atomgCas d a b) s = execAtomgCas d a b s := rfl
theorem exec_atomgInc (d : LaneOp) (a : LaneOp) (b : LaneOp) (s : State) : exec (.atomgInc d a b) s = execAtomgInc d a b s := rfl
theorem exec_atomgDec (d : LaneOp) (a : LaneOp) (b : LaneOp) (s : State) : exec (.atomgDec d a b) s = execAtomgDec d a b s := rfl
theorem exec_atomsAdd (d : LaneOp) (a : LaneOp) (b : LaneOp) (s : State) : exec (.atomsAdd d a b) s = execAtomsAdd d a b s := rfl
theorem exec_atomsMin (d : LaneOp) (a : LaneOp) (b : LaneOp) (s : State) : exec (.atomsMin d a b) s = execAtomsMin d a b s := rfl
theorem exec_atomsMax (d : LaneOp) (a : LaneOp) (b : LaneOp) (s : State) : exec (.atomsMax d a b) s = execAtomsMax d a b s := rfl
theorem exec_atomsAnd (d : LaneOp) (a : LaneOp) (b : LaneOp) (s : State) : exec (.atomsAnd d a b) s = execAtomsAnd d a b s := rfl
theorem exec_atomsOr (d : LaneOp) (a : LaneOp) (b : LaneOp) (s : State) : exec (.atomsOr d a b) s = execAtomsOr d a b s := rfl
theorem exec_atomsXor (d : LaneOp) (a : LaneOp) (b : LaneOp) (s : State) : exec (.atomsXor d a b) s = execAtomsXor d a b s := rfl
theorem exec_atomsExch (d : LaneOp) (a : LaneOp) (b : LaneOp) (s : State) : exec (.atomsExch d a b) s = execAtomsExch d a b s := rfl
theorem exec_atomsCas (d : LaneOp) (a : LaneOp) (b : LaneOp) (s : State) : exec (.atomsCas d a b) s = execAtomsCas d a b s := rfl
theorem exec_atomsInc (d : LaneOp) (a : LaneOp) (b : LaneOp) (s : State) : exec (.atomsInc d a b) s = execAtomsInc d a b s := rfl
theorem exec_atomsDec (d : LaneOp) (a : LaneOp) (b : LaneOp) (s : State) : exec (.atomsDec d a b) s = execAtomsDec d a b s := rfl
theorem exec_atomcAdd (d : LaneOp) (a : LaneOp) (b : LaneOp) (s : State) : exec (.atomcAdd d a b) s = execAtomcAdd d a b s := rfl
theorem exec_atomcMin (d : LaneOp) (a : LaneOp) (b : LaneOp) (s : State) : exec (.atomcMin d a b) s = execAtomcMin d a b s := rfl
theorem exec_atomcMax (d : LaneOp) (a : LaneOp) (b : LaneOp) (s : State) : exec (.atomcMax d a b) s = execAtomcMax d a b s := rfl
theorem exec_atomcAnd (d : LaneOp) (a : LaneOp) (b : LaneOp) (s : State) : exec (.atomcAnd d a b) s = execAtomcAnd d a b s := rfl
theorem exec_atomcOr (d : LaneOp) (a : LaneOp) (b : LaneOp) (s : State) : exec (.atomcOr d a b) s = execAtomcOr d a b s := rfl
theorem exec_atomcXor (d : LaneOp) (a : LaneOp) (b : LaneOp) (s : State) : exec (.atomcXor d a b) s = execAtomcXor d a b s := rfl
theorem exec_atomcExch (d : LaneOp) (a : LaneOp) (b : LaneOp) (s : State) : exec (.atomcExch d a b) s = execAtomcExch d a b s := rfl
theorem exec_atomcCas (d : LaneOp) (a : LaneOp) (b : LaneOp) (s : State) : exec (.atomcCas d a b) s = execAtomcCas d a b s := rfl
theorem exec_atomcInc (d : LaneOp) (a : LaneOp) (b : LaneOp) (s : State) : exec (.atomcInc d a b) s = execAtomcInc d a b s := rfl
theorem exec_atomcDec (d : LaneOp) (a : LaneOp) (b : LaneOp) (s : State) : exec (.atomcDec d a b) s = execAtomcDec d a b s := rfl
theorem exec_atomdAdd (d : LaneOp) (a : LaneOp) (b : LaneOp) (s : State) : exec (.atomdAdd d a b) s = execAtomdAdd d a b s := rfl
theorem exec_atomdMin (d : LaneOp) (a : LaneOp) (b : LaneOp) (s : State) : exec (.atomdMin d a b) s = execAtomdMin d a b s := rfl
theorem exec_atomdMax (d : LaneOp) (a : LaneOp) (b : LaneOp) (s : State) : exec (.atomdMax d a b) s = execAtomdMax d a b s := rfl
theorem exec_atomdAnd (d : LaneOp) (a : LaneOp) (b : LaneOp) (s : State) : exec (.atomdAnd d a b) s = execAtomdAnd d a b s := rfl
theorem exec_atomdOr (d : LaneOp) (a : LaneOp) (b : LaneOp) (s : State) : exec (.atomdOr d a b) s = execAtomdOr d a b s := rfl
theorem exec_atomdXor (d : LaneOp) (a : LaneOp) (b : LaneOp) (s : State) : exec (.atomdXor d a b) s = execAtomdXor d a b s := rfl
theorem exec_atomdExch (d : LaneOp) (a : LaneOp) (b : LaneOp) (s : State) : exec (.atomdExch d a b) s = execAtomdExch d a b s := rfl
theorem exec_atomdCas (d : LaneOp) (a : LaneOp) (b : LaneOp) (s : State) : exec (.atomdCas d a b) s = execAtomdCas d a b s := rfl
theorem exec_atomdInc (d : LaneOp) (a : LaneOp) (b : LaneOp) (s : State) : exec (.atomdInc d a b) s = execAtomdInc d a b s := rfl
theorem exec_atomdDec (d : LaneOp) (a : LaneOp) (b : LaneOp) (s : State) : exec (.atomdDec d a b) s = execAtomdDec d a b s := rfl
theorem exec_fenceAcq (sc : Scope) (s : State) : exec (.fenceAcq sc) s = execFenceAcq sc s := rfl
theorem exec_fenceRel (sc : Scope) (s : State) : exec (.fenceRel sc) s = execFenceRel sc s := rfl
theorem exec_fenceFull (sc : Scope) (s : State) : exec (.fenceFull sc) s = execFenceFull sc s := rfl
theorem exec_sig (sm : Fin 64) (n : BitVec 14) (s : State) : exec (.sig sm n) s = execSig sm n s := rfl
theorem exec_swait (sm : Fin 64) (n : BitVec 14) (s : State) : exec (.swait sm n) s = execSwait sm n s := rfl
theorem exec_spoll (d : LaneOp) (sm : Fin 64) (clr : Bool) (s : State) : exec (.spoll d sm clr) s = execSpoll d sm clr s := rfl
theorem exec_yield (sm : Fin 64) (n : BitVec 14) (s : State) : exec (.yield sm n) s = execYield sm n s := rfl
theorem exec_cpyGs (sz : CpySize) (d : LaneOp) (a : LaneOp) (s : State) : exec (.cpyGs sz d a) s = execCpyGs sz d a s := rfl
theorem exec_cpySg (sz : CpySize) (d : LaneOp) (a : LaneOp) (s : State) : exec (.cpySg sz d a) s = execCpySg sz d a s := rfl
theorem exec_cpyGc (sz : CpySize) (d : LaneOp) (a : LaneOp) (s : State) : exec (.cpyGc sz d a) s = execCpyGc sz d a s := rfl
theorem exec_cpySs (sz : CpySize) (d : LaneOp) (a : LaneOp) (s : State) : exec (.cpySs sz d a) s = execCpySs sz d a s := rfl
theorem exec_louver (a : LaneOp) (s : State) : exec (.louver a) s = execLouver a s := rfl
theorem exec_cpym (a : LaneOp) (s : State) : exec (.cpym a) s = execCpym a s := rfl
theorem exec_brun (a : LaneOp) (s : State) : exec (.brun a) s = execBrun a s := rfl
theorem exec_shut (a : LaneOp) (s : State) : exec (.shut a) s = execShut a s := rfl
theorem exec_mma (t : UniOp) (a : Fin 64) (b : Fin 64) (s : State) : exec (.mma t a b) s = execMma t a b s := rfl
theorem exec_mzero (t : UniOp) (b : Fin 64) (s : State) : exec (.mzero t b) s = execMzero t b s := rfl
theorem exec_mdrain (t : UniOp) (a : Fin 64) (b : Fin 64) (s : State) : exec (.mdrain t a b) s = execMdrain t a b s := rfl
theorem exec_mstat (clr : Bool) (d : Fin 64) (s : State) : exec (.mstat clr d) s = execMstat clr d s := rfl
theorem exec_bars (kd : Fin 8) (slot : Fin 4) (s : State) : exec (.bars kd slot) s = execBars kd slot s := rfl
theorem exec_arr (d : Fin 64) (slot : Fin 4) (s : State) : exec (.arr d slot) s = execArr d slot s := rfl
theorem exec_atry (kd : Fin 8) (a : UniOp) (slot : Fin 4) (s : State) : exec (.atry kd a slot) s = execAtry kd a slot s := rfl
theorem exec_pop (d : Fin 64) (a : Fin 64) (s : State) : exec (.pop d a) s = execPop d a s := rfl
theorem exec_enq (kd : Fin 8) (a : Fin 64) (s : State) : exec (.enq kd a) s = execEnq kd a s := rfl
theorem exec_enqW (a : Fin 64) (s : State) : exec (.enqW a) s = execEnqW a s := rfl
theorem exec_valid (a : Fin 64) (s : State) : exec (.valid a) s = execValid a s := rfl
theorem exec_rdvalid (a : Fin 64) (s : State) : exec (.rdvalid a) s = execRdvalid a s := rfl
theorem exec_rdslk (a : Fin 64) (s : State) : exec (.rdslk a) s = execRdslk a s := rfl
theorem exec_bankOpen (fs : Fin 8) (s : State) : exec (.bankOpen fs) s = execBankOpen fs s := rfl
theorem exec_bankRdc (d : Fin 16) (ca : Col) (s : State) : exec (.bankRdc d ca) s = execBankRdc d ca s := rfl
theorem exec_bankWrc (c : Fin 16) (ca : Col) (s : State) : exec (.bankWrc c ca) s = execBankWrc c ca s := rfl
theorem exec_bankMacx (q : Fin 8) (n : Fin 8) (slot : Fin 8) (xr : Fin 8) (ca : Col) (s : State) : exec (.bankMacx q n slot xr ca) s = execBankMacx q n slot xr ca s := rfl
theorem exec_bankMacc (q : Fin 8) (c : Fin 16) (ca : Col) (s : State) : exec (.bankMacc q c ca) s = execBankMacc q c ca s := rfl
theorem exec_bankAxpy (f : Fin 4) (d : Fin 16) (ca : Col) (s : State) : exec (.bankAxpy f d ca) s = execBankAxpy f d ca s := rfl
theorem exec_bankScl (f : Fin 4) (d : Fin 16) (c : Fin 16) (s : State) : exec (.bankScl f d c) s = execBankScl f d c s := rfl
theorem exec_bankQzero (q : Fin 8) (n : Fin 8) (s : State) : exec (.bankQzero q n) s = execBankQzero q n s := rfl
theorem exec_bankHsum (q : Fin 8) (s : State) : exec (.bankHsum q) s = execBankHsum q s := rfl
theorem exec_bankQst (q : Fin 8) (d : Fin 16) (s : State) : exec (.bankQst q d) s = execBankQst q d s := rfl
theorem exec_bankQout (q : Fin 8) (n : Fin 8) (s : State) : exec (.bankQout q n) s = execBankQout q n s := rfl
theorem exec_bankSetb (b : Fin 8) (im : BitVec 16) (s : State) : exec (.bankSetb b im) s = execBankSetb b im s := rfl
theorem exec_bankAddb (b : Fin 8) (im : BitVec 16) (s : State) : exec (.bankAddb b im) s = execBankAddb b im s := rfl
theorem exec_bankSetf (f : Fin 4) (im : BitVec 16) (s : State) : exec (.bankSetf f im) s = execBankSetf f im s := rfl
theorem exec_bankLoop (b : Fin 8) (tgt : Fin 64) (s : State) : exec (.bankLoop b tgt) s = execBankLoop b tgt s := rfl
theorem exec_bankFmt (sat : Bool) (wf : Bool) (s : State) : exec (.bankFmt sat wf) s = execBankFmt sat wf s := rfl
theorem exec_nop (s : State) : exec .nop s = execNop s := rfl
theorem exec_exit (s : State) : exec .exit s = execExit s := rfl
theorem exec_brkpt (s : State) : exec .brkpt s = execBrkpt s := rfl
theorem exec_icinv (s : State) : exec .icinv s = execIcinv s := rfl
theorem exec_tret (s : State) : exec .tret s = execTret s := rfl
theorem exec_tfail (s : State) : exec .tfail s = execTfail s := rfl
theorem exec_tlbinvAll (s : State) : exec .tlbinvAll s = execTlbinvAll s := rfl
theorem exec_ret (s : State) : exec .ret s = execRet s := rfl
theorem exec_bart (s : State) : exec .bart s = execBart s := rfl
theorem exec_bankNop (s : State) : exec .bankNop s = execBankNop s := rfl
theorem exec_bankClose (s : State) : exec .bankClose s = execBankClose s := rfl
theorem exec_bankSig (s : State) : exec .bankSig s = execBankSig s := rfl
theorem exec_bankEnd (s : State) : exec .bankEnd s = execBankEnd s := rfl
theorem exec_powerOnReset (s : State) : exec .powerOnReset s = execPowerOnReset s := rfl
theorem exec_mbcmdLoadVerify (s : State) : exec .mbcmdLoadVerify s = execMbcmdLoadVerify s := rfl
theorem exec_attestationSign (s : State) : exec .attestationSign s = execAttestationSign s := rfl
theorem exec_fatalError (s : State) : exec .fatalError s = execFatalError s := rfl
theorem exec_submit (s : State) : exec .submit s = execSubmit s := rfl
theorem exec_feed (s : State) : exec .feed s = execFeed s := rfl
theorem exec_resume (s : State) : exec .resume s = execResume s := rfl
theorem exec_kill (s : State) : exec .kill s = execKill s := rfl
theorem exec_hostTlbinv (s : State) : exec .hostTlbinv s = execHostTlbinv s := rfl
theorem exec_contextEnd (s : State) : exec .contextEnd s = execContextEnd s := rfl
theorem exec_registerWrite (s : State) : exec .registerWrite s = execRegisterWrite s := rfl
theorem exec_bar2Read (s : State) : exec .bar2Read s = execBar2Read s := rfl
theorem exec_bar2Write (s : State) : exec .bar2Write s = execBar2Write s := rfl
theorem exec_lintelEnable (s : State) : exec .lintelEnable s = execLintelEnable s := rfl
theorem exec_lintelDisable (s : State) : exec .lintelDisable s = execLintelDisable s := rfl
theorem exec_timePortLock (s : State) : exec .timePortLock s = execTimePortLock s := rfl
theorem exec_governorTick (s : State) : exec .governorTick s = execGovernorTick s := rfl
theorem exec_coolantOver45c (s : State) : exec .coolantOver45c s = execCoolantOver45c s := rfl
theorem exec_coolantBelow40c (s : State) : exec .coolantBelow40c s = execCoolantBelow40c s := rfl
theorem exec_refreshDue (s : State) : exec .refreshDue s = execRefreshDue s := rfl
theorem exec_launchAccept (s : State) : exec .launchAccept s = execLaunchAccept s := rfl
theorem exec_preemptionSave (s : State) : exec .preemptionSave s = execPreemptionSave s := rfl
theorem exec_teamRetire (s : State) : exec .teamRetire s = execTeamRetire s := rfl
theorem exec_tWrapReached (s : State) : exec .tWrapReached s = execTWrapReached s := rfl
theorem exec_diversion (s : State) : exec .diversion s = execDiversion s := rfl
theorem exec_deadlineReached (s : State) : exec .deadlineReached s = execDeadlineReached s := rfl
theorem exec_teamKill (s : State) : exec .teamKill s = execTeamKill s := rfl
theorem exec_loadReturn (s : State) : exec .loadReturn s = execLoadReturn s := rfl
theorem exec_splitJoin (s : State) : exec .splitJoin s = execSplitJoin s := rfl
theorem exec_serialTurnEnd (s : State) : exec .serialTurnEnd s = execSerialTurnEnd s := rfl
theorem exec_trapEntry (s : State) : exec .trapEntry s = execTrapEntry s := rfl
theorem exec_trapRecordDeferredWrite (s : State) : exec .trapRecordDeferredWrite s = execTrapRecordDeferredWrite s := rfl
theorem exec_writeBack (s : State) : exec .writeBack s = execWriteBack s := rfl
theorem exec_drainRequest (s : State) : exec .drainRequest s = execDrainRequest s := rfl
theorem exec_invalidationPoint (s : State) : exec .invalidationPoint s = execInvalidationPoint s := rfl
theorem exec_invalidationAck (s : State) : exec .invalidationAck s = execInvalidationAck s := rfl
theorem exec_engineCommandComplete (s : State) : exec .engineCommandComplete s = execEngineCommandComplete s := rfl
theorem exec_cpymExecute (s : State) : exec .cpymExecute s = execCpymExecute s := rfl
theorem exec_louverExecute (s : State) : exec .louverExecute s = execLouverExecute s := rfl
theorem exec_matrixCommandStart (s : State) : exec .matrixCommandStart s = execMatrixCommandStart s := rfl
theorem exec_mmaKStep (s : State) : exec .mmaKStep s = execMmaKStep s := rfl
theorem exec_bankQueueNextCheck (s : State) : exec .bankQueueNextCheck s = execBankQueueNextCheck s := rfl
theorem exec_handingDone (s : State) : exec .handingDone s = execHandingDone s := rfl
theorem exec_toDieFrame (s : State) : exec .toDieFrame s = execToDieFrame s := rfl
theorem exec_bankRunGrant (s : State) : exec .bankRunGrant s = execBankRunGrant s := rfl
theorem exec_windowEnd (s : State) : exec .windowEnd s = execWindowEnd s := rfl
theorem exec_tokenArrival (s : State) : exec .tokenArrival s = execTokenArrival s := rfl
theorem exec_guardElapsed (s : State) : exec .guardElapsed s = execGuardElapsed s := rfl
theorem exec_lintelFrameReceive (s : State) : exec .lintelFrameReceive s = execLintelFrameReceive s := rfl
theorem exec_scheduleTimeout (s : State) : exec .scheduleTimeout s = execScheduleTimeout s := rfl
theorem exec_rollCall (s : State) : exec .rollCall s = execRollCall s := rfl
theorem exec_rollCallEnd (s : State) : exec .rollCallEnd s = execRollCallEnd s := rfl
theorem exec_ualinkRequest (s : State) : exec .ualinkRequest s = execUalinkRequest s := rfl
theorem exec_remoteResponse (s : State) : exec .remoteResponse s = execRemoteResponse s := rfl
theorem exec_remoteRequestTimeout (s : State) : exec .remoteRequestTimeout s = execRemoteRequestTimeout s := rfl
theorem exec_linkStateChange (s : State) : exec .linkStateChange s = execLinkStateChange s := rfl
theorem exec_tokenRequest (s : State) : exec .tokenRequest s = execTokenRequest s := rfl
theorem exec_tokenRecall (s : State) : exec .tokenRecall s = execTokenRecall s := rfl
theorem exec_recallDone (s : State) : exec .recallDone s = execRecallDone s := rfl
theorem exec_tokenGiveBack (s : State) : exec .tokenGiveBack s = execTokenGiveBack s := rfl
theorem exec_tokenGrant (s : State) : exec .tokenGrant s = execTokenGrant s := rfl
theorem exec_illegalEncoding (s : State) : exec .illegalEncoding s = execIllegalEncoding s := rfl
theorem exec_instructionFetchFault (s : State) : exec .instructionFetchFault s = execInstructionFetchFault s := rfl
theorem exec_imageVerificationEnd (s : State) : exec .imageVerificationEnd s = execImageVerificationEnd s := rfl
theorem exec_timePortLockLoss (s : State) : exec .timePortLockLoss s = execTimePortLockLoss s := rfl

end Sys2Proof.Machine
end

