-- ==== Sys2Proof/Laws/Sparse.lean ====
section
/-! SUPPORT. The laws of sparse maps: what a write leaves to be read, and that every operation keeps the canonical form. -/

namespace Sys2Proof.Machine

variable {α : Type}

@[simp] theorem mget_nil (d : α) (k : Nat) : mget d [] k = d := rfl

@[simp] theorem mwf_nil [DecidableEq α] (d : α) : mwf d [] = true := rfl

theorem mwfFrom_mono [DecidableEq α] (d : α) {a b : Nat} (hab : a ≤ b) : ∀ m, mwfFrom d b m = true → mwfFrom d a m = true
  | [], _ => rfl
  | (k, v) :: t, h => by
    simp only [mwfFrom, Bool.and_eq_true, decide_eq_true_eq] at h ⊢
    exact ⟨⟨le_trans hab h.1.1, h.1.2⟩, h.2⟩

theorem filter_mwfFrom [DecidableEq α] (d : α) (p : Nat × α → Bool) : ∀ (m : List (Nat × α)) {b : Nat},
    mwfFrom d b m = true → mwfFrom d b (m.filter p) = true
  | [], _, _ => rfl
  | (k, v) :: t, b, h => by
    simp only [mwfFrom, Bool.and_eq_true] at h
    have ih := filter_mwfFrom d p t h.2
    rw [List.filter_cons]
    split
    · simp only [mwfFrom, Bool.and_eq_true]; exact ⟨h.1, ih⟩
    · exact mwfFrom_mono d (by have := h.1.1; simp at this; omega) _ ih

theorem mput_mwfFrom [DecidableEq α] (d : α) : ∀ (m : List (Nat × α)) {lo k : Nat} {v : α}, v ≠ d →
    mwfFrom d lo m = true → lo ≤ k → mwfFrom d lo (mput m k v) = true
  | [], lo, k, v, hv, _, hk => by simp [mput, mwfFrom, hv, hk]
  | (k', v') :: t, lo, k, v, hv, h, hk => by
    simp only [mwfFrom, Bool.and_eq_true, decide_eq_true_eq, Bool.not_eq_true', decide_eq_false_iff_not] at h
    obtain ⟨⟨h1, h2⟩, h3⟩ := h
    unfold mput
    split
    · next he => subst he; simp [mwfFrom, hv, h1, h3]
    · split
      · simp [mwfFrom, hv, hk, h2, h3]; omega
      · simp only [mwfFrom, h1, h2, decide_true, decide_false, Bool.not_false, Bool.and_true, Bool.true_and]
        exact mput_mwfFrom d t hv h3 (by omega)

theorem mset_mwfFrom [DecidableEq α] (d : α) (m : List (Nat × α)) {lo k : Nat} (v : α) (h : mwfFrom d lo m = true) (hk : lo ≤ k) :
    mwfFrom d lo (mset d m k v) = true := by
  unfold mset
  split
  · exact filter_mwfFrom d _ m h
  · next hv => exact mput_mwfFrom d m hv h hk

@[simp] theorem mset_mwf [DecidableEq α] (d : α) (m : List (Nat × α)) (k : Nat) (v : α) (h : mwf d m = true) :
    mwf d (mset d m k v) = true := mset_mwfFrom d m v h (Nat.zero_le k)

@[simp] theorem msetList_mwf [DecidableEq α] (d : α) (m : List (Nat × α)) (k : Nat) (l : List α) (h : mwf d m = true) :
    mwf d (msetList d m k l) = true := by
  induction l generalizing m k with
  | nil => exact h
  | cons v t ih => exact ih _ _ (mset_mwf d m k v h)

@[simp] theorem mclear_mwf [DecidableEq α] (d : α) (m : List (Nat × α)) (lo hi : Nat) (h : mwf d m = true) :
    mwf d (mclear m lo hi) = true := filter_mwfFrom d _ m h

theorem mget_mput [DecidableEq α] (d : α) : ∀ (m : List (Nat × α)) (k j : Nat) (v : α),
    mget d (mput m k v) j = if j = k then v else mget d m j
  | [], k, j, v => by simp [mput, mget, eq_comm]
  | (k', v') :: t, k, j, v => by
    unfold mput
    split
    · next he => subst he; by_cases hj : j = k' <;> simp [mget, hj, Ne.symm]
    · next he =>
      split
      · by_cases hj : j = k
        · simp [mget, hj]
        · simp [mget, hj, Ne.symm hj]
      · by_cases hj : j = k
        · subst hj; simp [mget, he, mget_mput d t j j v]
        · simp [mget, mget_mput d t k j v, hj]

theorem mget_remove [DecidableEq α] (d : α) : ∀ (m : List (Nat × α)) (k j : Nat),
    mget d (m.filter (fun e => e.1 != k)) j = if j = k then d else mget d m j
  | [], k, j => by simp [mget]
  | (k', v') :: t, k, j => by
    have ih := mget_remove d t k j
    by_cases he : k' = k
    · subst he
      by_cases hj : j = k'
      · subst hj; simpa using ih
      · simp [mget, hj, Ne.symm hj, ih]
    · by_cases hj : j = k
      · subst hj; simp [mget, he, ih]
      · simp [mget, he, hj, ih]

/-- What every key reads as after a write. -/
theorem mget_mset [DecidableEq α] (d : α) (m : List (Nat × α)) (k j : Nat) (v : α) :
    mget d (mset d m k v) j = if j = k then v else mget d m j := by
  unfold mset
  split
  · next hv => subst hv; exact mget_remove v m k j
  · exact mget_mput d m k j v

/-- A read after a write to the same key gives the value written. -/
@[simp] theorem mget_mset_self [DecidableEq α] (d : α) (m : List (Nat × α)) (k : Nat) (v : α) :
    mget d (mset d m k v) k = v := by simp [mget_mset]

/-- A write leaves every other key alone. -/
theorem mget_mset_ne [DecidableEq α] (d : α) (m : List (Nat × α)) {k j : Nat} (v : α) (hj : j ≠ k) :
    mget d (mset d m k v) j = mget d m j := by simp [mget_mset, hj]

/-- What every key reads as after several writes. -/
theorem mget_msetList [DecidableEq α] (d : α) : ∀ (l : List α) (m : List (Nat × α)) (k j : Nat),
    mget d (msetList d m k l) j = if k ≤ j ∧ j < k + l.length then l.getD (j - k) d else mget d m j
  | [], m, k, j => by simp [msetList]
  | v :: t, m, k, j => by
    rw [msetList, mget_msetList d t, mget_mset]
    by_cases h1 : j = k
    · subst h1; simp
    · by_cases h2 : k + 1 ≤ j ∧ j < k + 1 + t.length
      · have : j - k = (j - (k + 1)) + 1 := by omega
        rw [if_pos h2, if_pos (by simp; omega), this, List.getD_cons_succ]
      · rw [if_neg h2, if_neg h1, if_neg (by simp; omega)]

end Sys2Proof.Machine
end

