-- ==== Sys2Proof/Laws/MemForm.lean ====
section
/-! SUPPORT. Every operation of the machine keeps the memories in canonical form: one lemma for each, named after it. This file holds
those of the state's parts, the memory levels, semaphores, barriers, queues, traps and what follows an instruction. -/

namespace Sys2Proof.Machine

open Sys2Proof

/-- Fields beside the memories do not matter. -/
@[simp] theorem MemWf_upd (s : State) (dev : Dev) (dtime : Nat) (frac : Nat) (clock : Nat) (ctxs : List (Nat × Ctx)) (launches : List Launch) (nextLch : Word) (teams : List Team) (groups : List Group) (cores : List (Nat × CoreSt)) (frames : List (Nat × Frame)) (homeRecs : List HomeRec) (guests : List Guest) (dirs : List (Nat × List Nat)) (l2 : List L2Line) (damage : List Damage) (runs : List Run) (refresh : List (Nat × Bool)) (invals : List Inval) (links : List Nat) (remotes : List Remote) (tokens : List (Nat × TokEntry)) (homeToks : List (Nat × HomeTok)) (lintel : Lintel) (raises : List Raise) (posts : List AsyncRec) (wbs : List WantWb) (rowWaits : List RowWait) (fetched : List Fetch) (laters : List Later) (heldReqs : List PeerReq) (out : List OutMsg) (agenda : List Turn) (subject : Subject) (issuer : Option Issuer) (curRun : Option Nat) (issued : List Nat) (passed : List (Nat × Nat)) (draws : Nat) (uid : Nat) :
    MemWf { dev := dev, dtime := dtime, frac := frac, clock := clock, ctxs := ctxs, launches := launches, nextLch := nextLch, teams := teams, groups := groups, cores := cores, mem := s.mem, scr := s.scr, dscr := s.dscr, acc := s.acc, frames := frames, homeRecs := homeRecs, guests := guests, dirs := dirs, l2 := l2, damage := damage, runs := runs, refresh := refresh, invals := invals, links := links, remotes := remotes, tokens := tokens, homeToks := homeToks, lintel := lintel, raises := raises, posts := posts, wbs := wbs, rowWaits := rowWaits, fetched := fetched, laters := laters, heldReqs := heldReqs, out := out, agenda := agenda, subject := subject, issuer := issuer, curRun := curRun, issued := issued, passed := passed, draws := draws, uid := uid } ↔ MemWf s := Iff.rfl

theorem MemWf.mem {s : State} (h : MemWf s) : mwf blankByte s.mem = true := h.1
theorem MemWf.scr {s : State} (h : MemWf s) : mwf blankByte s.scr = true := h.2.1
theorem MemWf.dscr {s : State} (h : MemWf s) : mwf blankByte s.dscr = true := h.2.2.1
theorem MemWf.acc {s : State} (h : MemWf s) : mwf (0 : Word) s.acc = true := h.2.2.2

/-- An operation that may wait keeps the form, whether it goes on or waits. -/
def ExWf (r : Except State State) : Prop := ∀ t, r = .ok t ∨ r = .error t → MemWf t

theorem ExWf.ok {r : Except State State} {t : State} (k : ExWf r) (h : r = .ok t) : MemWf t := k t (.inl h)
theorem ExWf.error {r : Except State State} {t : State} (k : ExWf r) (h : r = .error t) : MemWf t := k t (.inr h)

@[simp] theorem ExWf_ok (s : State) : ExWf (.ok s) ↔ MemWf s := ⟨fun h => h s (.inl rfl), fun h t ht => by simp_all⟩
@[simp] theorem ExWf_error (s : State) : ExWf (.error s) ↔ MemWf s := ⟨fun h => h s (.inr rfl), fun h t ht => by simp_all⟩

/-- A fold of an operation that keeps the form. -/
@[simp] theorem foldl_memWf {α : Type} (f : State → α → State) (l : List α) (s : State) (hs : MemWf s)
    (hf : ∀ s a, MemWf s → MemWf (f s a)) : MemWf (l.foldl f s) := by
  induction l generalizing s with
  | nil => exact hs
  | cons a t ih => exact ih _ (hf s a hs)

/-- A fold that carries a state beside other data. -/
@[simp] theorem foldl_fst_memWf {α β : Type} (f : State × β → α → State × β) (l : List α) (p : State × β) (hp : MemWf p.1)
    (hf : ∀ p a, MemWf p.1 → MemWf (f p a).1) : MemWf (l.foldl f p).1 := by
  induction l generalizing p with
  | nil => exact hp
  | cons a t ih => exact ih _ (hf p a hp)

/-- The same from the right. -/
@[simp] theorem foldr_memWf {α : Type} (f : α → State → State) (l : List α) (s : State) (hs : MemWf s)
    (hf : ∀ a s, MemWf s → MemWf (f a s)) : MemWf (l.foldr f s) := by
  induction l with
  | nil => exact hs
  | cons a t ih => exact hf a _ ih

@[simp] theorem State.setGroup_memWf (s : State) (g : Group) (hs : MemWf s) :
    MemWf (State.setGroup s g) := by
  simp_all [State.setGroup]

@[simp] theorem State.modGroup_memWf (s : State) (u : Nat) (f : Group → Group) (hs : MemWf s) :
    MemWf (State.modGroup s u f) := by
  simp_all [State.modGroup]

@[simp] theorem State.setTeam_memWf (s : State) (t : Team) (hs : MemWf s) :
    MemWf (State.setTeam s t) := by
  simp_all [State.setTeam]

@[simp] theorem State.setLaunch_memWf (s : State) (l : Launch) (hs : MemWf s) :
    MemWf (State.setLaunch s l) := by
  simp_all [State.setLaunch]

@[simp] theorem State.setCore_memWf (s : State) (c : Nat) (x : CoreSt) (hs : MemWf s) :
    MemWf (State.setCore s c x) := by
  simp_all [State.setCore]

@[simp] theorem State.setCtx_memWf (s : State) (c : Nat) (x : Ctx) (hs : MemWf s) :
    MemWf (State.setCtx s c x) := by
  simp_all [State.setCtx]

@[simp] theorem State.setFrame_memWf (s : State) (f : Nat) (x : Frame) (hs : MemWf s) :
    MemWf (State.setFrame s f x) := by
  simp_all [State.setFrame]

@[simp] theorem State.setRun_memWf (s : State) (r : Run) (hs : MemWf s) :
    MemWf (State.setRun s r) := by
  simp_all [State.setRun]

@[simp] theorem tlbFill_memWf (s : State) (core ctx va : Nat) (x : Xl) (hs : MemWf s) :
    MemWf (tlbFill s core ctx va x) := by
  unfold tlbFill; dsimp only; (repeat' split) <;> simp_all +contextual (maxDischargeDepth := 12)

@[simp] theorem dropGuests_memWf (s : State) (pa : Nat) (len : Nat) (hs : MemWf s) :
    MemWf (dropGuests s pa len) := by
  unfold dropGuests; dsimp only; (repeat' split) <;> simp_all +contextual (maxDischargeDepth := 12)

@[simp] theorem State.setHome_memWf (s : State) (pa : Nat) (b : List Byte) (hs : MemWf s) : MemWf (s.setHome pa b) :=
  ⟨msetList_mwf _ _ _ _ hs.mem, hs.scr, hs.dscr, hs.acc⟩

@[simp] theorem State.send_memWf (s : State) (m : OutMsg) (hs : MemWf s) :
    MemWf (State.send s m) := by
  simp_all [State.send]

@[simp] theorem State.fresh_memWf (s : State) (hs : MemWf s) :
    MemWf (State.fresh s) := by
  simp_all [State.fresh]

@[simp] theorem State.emit_memWf (s : State) (r : Remote) (hs : MemWf s) :
    MemWf (State.emit s r) := by
  simp only [State.emit]; (repeat' split) <;> simp_all +contextual (maxDischargeDepth := 12)

@[simp] theorem tookEntry_memWf (s : State) (agent : Nat) (t : TblEntry) (hs : MemWf s) : MemWf (tookEntry s agent t) := by
  simp_all [tookEntry]

@[simp] theorem endWalk_memWf (s : State) (agent : Nat) (hs : MemWf s) : MemWf (endWalk s agent) := by
  simp_all [endWalk]

@[simp] theorem ownHome_memWf (s : State) (core pa : Nat) (b : List Byte) (hs : MemWf s) : MemWf (ownHome s core pa b) := by
  simp_all [ownHome]

@[simp] theorem State.request_memWf (s : State) (r : Remote) (hs : MemWf s) :
    MemWf (State.request s r) := by
  unfold State.request; dsimp only; (repeat' split) <;> simp_all +contextual (maxDischargeDepth := 12)

@[simp] theorem State.answered_memWf (s : State) (r : Remote) (hs : MemWf s) :
    MemWf (State.answered s r) := by
  unfold State.answered; dsimp only; (repeat' split) <;> simp_all +contextual (maxDischargeDepth := 12)

@[simp] theorem State.writePa_memWf (s : State) (core : Nat) (grp : Nat) (pa : Nat) (b : List Byte) (cmd : Option Nat) (hs : MemWf s) :
    MemWf (State.writePa s core grp pa b cmd) := by
  unfold State.writePa; dsimp only; (repeat' split) <;> simp_all +contextual (maxDischargeDepth := 12)

theorem ringWrite_memWf (s : State) (ctx : Nat) (b : List Byte) (hs : MemWf s) (t : State) (ht : ringWrite s ctx b = some t) :
    MemWf t := by
  unfold ringWrite at ht
  dsimp only at ht
  split at ht
  · simp at ht
  · rw [Option.some.injEq] at ht
    subst ht

    repeat' split
    all_goals simp_all +contextual (maxDischargeDepth := 12)

/-- The ring after a record, where one is written. -/
@[simp] theorem ringWrite_getD_memWf (s r : State) (ctx : Nat) (b : List Byte) (hs : MemWf s) (hr : MemWf r) :
    MemWf ((ringWrite s ctx b).getD r) := by
  cases h : ringWrite s ctx b with
  | none => exact hr
  | some t => exact ringWrite_memWf s ctx b hs t h

@[simp] theorem ringDrop_memWf (s : State) (ctx : Nat) (hs : MemWf s) :
    MemWf (ringDrop s ctx) := by
  simp_all [ringDrop]

@[simp] theorem ringLost_memWf (s : State) (ctx : Nat) (hs : MemWf s) :
    MemWf (ringLost s ctx) := by
  simp_all [ringLost]

@[simp] theorem postAsync_memWf (s : State) (die ctx cause lch tva pa : Nat) (core grp : Option Nat) (hs : MemWf s) :
    MemWf (postAsync s die ctx cause lch tva pa core grp) := by
  unfold postAsync; dsimp only; (repeat' split) <;> simp_all +contextual (maxDischargeDepth := 12)

@[simp] theorem l1Put_memWf (s : State) (core : Nat) (l : L1Line) (hs : MemWf s) :
    MemWf (l1Put s core l) := by
  simp_all [l1Put]

@[simp] theorem healL1_memWf (s : State) (core : Nat) (p : Nat → Bool) (hs : MemWf s) :
    MemWf (healL1 s core p) := by
  simp_all [healL1]

@[simp] theorem l1Drop_memWf (s : State) (core line : Nat) (hs : MemWf s) :
    MemWf (l1Drop s core line) := by
  simp_all [l1Drop]

@[simp] theorem backRequest_memWf (s : State) (core : Nat) (ctx : Nat) (pa : Nat) (data : List Byte) (mask : BitVec 128) (hs : MemWf s) :
    MemWf (backRequest s core ctx pa data mask) := by
  simp_all [backRequest]

@[simp] theorem backDamaged_memWf (s : State) (core ctx pa : Nat) (ws : List Nat) (hs : MemWf s) :
    MemWf (backDamaged s core ctx pa ws) := by
  unfold backDamaged; (repeat' split) <;> simp_all +contextual (maxDischargeDepth := 12)

@[simp] theorem writeBackLine_memWf (s : State) (core : Nat) (l : L1Line) (hs : MemWf s) :
    MemWf (writeBackLine s core l) := by
  unfold writeBackLine; dsimp only; (repeat' split) <;> simp_all +contextual (maxDischargeDepth := 12)

@[simp] theorem cleanLine_memWf (s : State) (core : Nat) (l : L1Line) (hs : MemWf s) :
    MemWf (cleanLine s core l) := by
  unfold cleanLine; dsimp only; (repeat' split) <;> simp_all +contextual (maxDischargeDepth := 12)

@[simp] theorem drainIf_memWf (s : State) (core : Nat) (p : L1Line → Bool) (hs : MemWf s) :
    MemWf (drainIf s core p) := by
  simp_all [drainIf]

@[simp] theorem drainCore_memWf (s : State) (core : Nat) (hs : MemWf s) :
    MemWf (drainCore s core) := by
  simp_all [drainCore]

@[simp] theorem drainTo_memWf (s : State) (core : Nat) (ep : Word) (hs : MemWf s) :
    MemWf (drainTo s core ep) := by
  simp_all [drainTo]

@[simp] theorem acquireCore_memWf (s : State) (core : Nat) (hs : MemWf s) :
    MemWf (acquireCore s core) := by
  simp_all [acquireCore]

@[simp] theorem refreshIc_memWf (s : State) (core : Nat) (hs : MemWf s) :
    MemWf (refreshIc s core) := by
  unfold refreshIc; dsimp only; (repeat' split) <;> simp_all +contextual (maxDischargeDepth := 12)

@[simp] theorem reachHome_memWf (s : State) (core line : Nat) (hs : MemWf s) :
    MemWf (reachHome s core line) := by
  simp_all [reachHome]

@[simp] theorem releaseAt_memWf (s : State) (core line : Nat) (hs : MemWf s) :
    MemWf (releaseAt s core line) := by
  unfold releaseAt; dsimp only; (repeat' split) <;> simp_all +contextual (maxDischargeDepth := 12)

@[simp] theorem fillGuest_memWf (s : State) (core : Nat) (line : Nat) (hs : MemWf s) :
    MemWf (fillGuest s core line) := by
  unfold fillGuest; dsimp only; (repeat' split) <;> simp_all +contextual (maxDischargeDepth := 12)

@[simp] theorem fillL1_memWf (s : State) (core : Nat) (ctx : Nat) (line : Nat) (hs : MemWf s) :
    MemWf (fillL1 s core ctx line) := by
  unfold fillL1; dsimp only; (repeat' split) <;> simp_all +contextual (maxDischargeDepth := 12)

@[simp] theorem loadL1_memWf (s : State) (core ctx pa len : Nat) (hs : MemWf s) : MemWf (loadL1 s core ctx pa len).s := by
  unfold loadL1; dsimp only
  (repeat' split) <;> simp_all +contextual (maxDischargeDepth := 12)

@[simp] theorem flushOwn_memWf (s : State) (core line : Nat) (hs : MemWf s) :
    MemWf (flushOwn s core line) := by
  unfold flushOwn; split <;> simp_all

@[simp] theorem loadHome_memWf (s : State) (core pa len : Nat) (hs : MemWf s) : MemWf (loadHome s core pa len).s := by
  unfold loadHome
  simp_all +contextual (maxDischargeDepth := 12)

@[simp] theorem freshEpoch_memWf (s : State) (core : Nat) (line : Nat) (hs : MemWf s) :
    MemWf (freshEpoch s core line) := by
  simp only [freshEpoch]; (repeat' split) <;> simp_all +contextual (maxDischargeDepth := 12)

@[simp] theorem storeL1_memWf (s : State) (core ctx pa : Nat) (b : List Byte) (hs : MemWf s) :
    MemWf (storeL1 s core ctx pa b) := by
  simp_all [storeL1]

@[simp] theorem storeHome_memWf (s : State) (core pa : Nat) (b : List Byte) (hs : MemWf s) :
    MemWf (storeHome s core pa b) := by
  simp_all [storeHome]

@[simp] theorem State.setScr_memWf (s : State) (core off : Nat) (b : List Byte) (hs : MemWf s) : MemWf (s.setScr core off b) :=
  ⟨hs.mem, msetList_mwf _ _ _ _ hs.scr, hs.dscr, hs.acc⟩

@[simp] theorem State.setDscr_memWf (s : State) (die off : Nat) (b : List Byte) (hs : MemWf s) : MemWf (s.setDscr die off b) :=
  ⟨hs.mem, hs.scr, msetList_mwf _ _ _ _ hs.dscr, hs.acc⟩

@[simp] theorem readLocal_memWf (s : State) (core : Nat) (ctx : Nat) (past : Bool) (size : Nat) (sgn : Bool) (y0 : Place) (hs : MemWf s) :
    MemWf (readLocal s core ctx past size sgn y0).1 := by
  unfold readLocal; dsimp only; (repeat' split) <;> simp_all +contextual (maxDischargeDepth := 12)

theorem serveRow_memWf (s : State) (pa : Nat) (hs : MemWf s) :
    ∀ t, serveRow s pa = some t → MemWf t := by
  intro t ht; unfold serveRow at ht; dsimp only at ht; (repeat' split at ht) <;> first | (simp at ht; done) | (cases ht; simp_all +contextual (maxDischargeDepth := 12); done) | (simp only [Option.some.injEq] at ht; subst ht; simp_all +contextual (maxDischargeDepth := 12))

theorem serveRead_memWf (s : State) (core : Nat) (past : Bool) (size : Nat) (p : Place) (hs : MemWf s) (t : State)
    (ht : serveRead s core past size p = some t) : MemWf t := by
  unfold serveRead at ht
  split at ht
  · exact serveRow_memWf _ _ hs _ ht
  · cases ht; exact hs

@[simp] theorem waitRow_memWf (s : State) (pa : Nat) (want : RowWant) (hs : MemWf s) : MemWf (waitRow s pa want) := by
  unfold waitRow; split <;> simp_all

@[simp] theorem readEntry_memWf (s : State) (agent ctx lvl va pa : Nat) (hs : MemWf s) : MemWf (readEntry s agent ctx lvl va pa) := by
  simp_all [readEntry]

@[simp] theorem askFar_memWf (s : State) (agent ctx lvl va pa : Nat) (hs : MemWf s) : MemWf (askFar s agent ctx lvl va pa) := by
  unfold askFar; dsimp only; split <;> simp_all

@[simp] theorem askEntry_memWf (s : State) (agent ctx va : Nat) (hs : MemWf s) : MemWf (askEntry s agent ctx va) := by
  unfold askEntry
  split
  · dsimp only
    split
    · simp_all
    · split
      · exact readEntry_memWf _ _ _ _ _ _ (serveRow_memWf _ _ hs _ (by assumption))
      · simp_all
  · exact hs

@[simp] theorem chanReady_exWf (s : State) (pa : Nat) (hs : MemWf s) : ExWf (chanReady s pa) := by
  unfold chanReady
  split
  · simpa
  · split
    · rename_i s1 h
      have := serveRow_memWf _ _ hs _ h
      simp_all
    · simp_all

@[simp] theorem frontReady_exWf (s : State) (ctx : Nat) (a : Acc) (va : Nat) (hs : MemWf s) : ExWf (frontReady s ctx a va) := by
  unfold frontReady
  split
  · split <;> simp_all
  · simp_all

@[simp] theorem keepLine_memWf (s : State) (op : FrontOp) (pa : Nat) (hs : MemWf s) : MemWf (keepLine s op pa) := by
  simp_all [keepLine]

@[simp] theorem askLine_memWf (s : State) (op : FrontOp) (pa va : Nat) (hs : MemWf s) : MemWf (askLine s op pa va) := by
  unfold askLine; dsimp only; (repeat' split) <;> simp_all +contextual (maxDischargeDepth := 12)

@[simp] theorem lineReady_exWf (s : State) (op : FrontOp) (pa va : Nat) (hs : MemWf s) : ExWf (lineReady s op pa va) := by
  unfold lineReady
  repeat' split
  all_goals first
    | (simp_all; done)
    | (have := serveRow_memWf _ _ hs _ (by assumption); simp_all; done)
    | (have := serveRow_memWf _ _ hs _ (by assumption); split <;> simp_all)

@[simp] theorem linesReady_exWf (s : State) (op : FrontOp) (ls : List (Nat × Nat)) (hs : MemWf s) : ExWf (linesReady s op ls) := by
  unfold linesReady
  have h : MemWf (ls.foldl (fun (a : State × Bool) l => match lineReady a.1 op l.1 l.2 with
      | .ok s1 => (s1, a.2)
      | .error s1 => (s1, false)) (s, true)).1 := by
    refine foldl_fst_memWf _ _ _ hs (fun a l h => ?_)
    split
    · exact (lineReady_exWf _ _ _ _ h).ok (by assumption)
    · exact (lineReady_exWf _ _ _ _ h).error (by assumption)
  dsimp only
  split
  · exact (ExWf_ok _).2 h
  · exact (ExWf_error _).2 h

@[simp] theorem endOp_memWf (s : State) (op : FrontOp) (hs : MemWf s) : MemWf (endOp s op) := by
  simp_all [endOp]

@[simp] theorem failWalk_memWf (s : State) (core : Nat) (hs : MemWf s) : MemWf (failWalk s core) := by
  simp_all [failWalk]

@[simp] theorem tlbLoad_memWf (s : State) (agent ctx va : Nat) (hs : MemWf s) : MemWf (tlbLoad s agent ctx va) := by
  unfold tlbLoad; dsimp only; split <;> simp_all

@[simp] theorem serveRows_memWf (s : State) (pas : List Nat) (hs : MemWf s) : MemWf (serveRows s pas).1 := by
  unfold serveRows
  refine foldl_fst_memWf _ _ _ hs (fun a pa h => ?_)
  split
  · exact serveRow_memWf _ _ h _ (by assumption)
  · exact h

@[simp] theorem drainServed_memWf (s : State) (core : Nat) (hs : MemWf s) : MemWf (drainServed s core).1 := by
  unfold drainServed
  refine foldl_fst_memWf _ _ _ hs (fun a l h => ?_)
  split
  · exact cleanLine_memWf _ _ _ (serveRow_memWf _ _ h _ (by assumption))
  · exact h

@[simp] theorem wantBack_memWf (s : State) (core : Nat) (l : L1Line) (hs : MemWf s) : MemWf (wantBack s core l) := by
  unfold wantBack
  split
  · rename_i s1 h
    split at h
    · exact cleanLine_memWf _ _ _ (serveRow_memWf _ _ hs _ h)
    · cases h; exact cleanLine_memWf _ _ _ hs
  · split <;> simp_all

@[simp] theorem drainWait_memWf (s : State) (core : Nat) (p : L1Line → Bool) (hs : MemWf s) :
    MemWf (drainWait s core p) := by
  unfold drainWait; (repeat' split) <;> simp_all +contextual (maxDischargeDepth := 12)

@[simp] theorem drainRec_memWf (s : State) (r : HomeRec) (hs : MemWf s) :
    MemWf (drainRec s r) := by
  unfold drainRec; dsimp only; (repeat' split) <;> simp_all +contextual (maxDischargeDepth := 12)

@[simp] theorem reachWait_memWf (s : State) (core line : Nat) (hs : MemWf s) :
    MemWf (reachWait s core line) := by
  unfold reachWait; (repeat' split) <;> simp_all +contextual (maxDischargeDepth := 12)

theorem performVal_memWf (more : Bool) (s : State) (t : Team) (v : PVal) (hs : MemWf s) (r : State × PVal)
    (hr : performVal more s t v = some r) : MemWf r.1 := by
  unfold performVal at hr
  split at hr
  · split at hr
    · cases hr
    · rw [Option.map_eq_some_iff] at hr
      obtain ⟨s1, h1, rfl⟩ := hr
      split at h1
      · cases h1; exact readLocal_memWf _ _ _ _ _ _ _ hs
      · exact readLocal_memWf _ _ _ _ _ _ _ (serveRead_memWf _ _ _ _ _ hs _ h1)
  · cases hr; exact hs
  · cases hr

theorem performWords_memWf (t : Team) (g : Group) (ws : List WordId) (more : Bool) (s : State) (hs : MemWf s)
    (r : State × List (WordId × PVal)) (hr : performWords t g more ws s = some r) : MemWf r.1 := by
  induction ws generalizing more s r with
  | nil => cases hr; exact hs
  | cons w ws ih =>
    unfold performWords at hr
    split at hr
    · exact ih _ _ hs _ hr
    · split at hr
      · cases hr
      · split at hr
        · cases hr
        · rename_i q hq
          rw [Option.map_eq_some_iff] at hr
          obtain ⟨y, hy, rfl⟩ := hr
          exact ih _ _ (performVal_memWf _ _ _ _ hs _ hq) y hy

@[simp] theorem performWord_memWf (u : Nat) (s : State) (w : WordId) (hs : MemWf s) : MemWf (performWord u s w) := by
  unfold performWord
  repeat' split
  · exact hs
  · exact hs
  · exact State.modGroup_memWf _ _ _ hs
  · dsimp only
    split
    · exact foldl_memWf _ _ _ hs (fun _ _ h => reachWait_memWf _ _ _ h)
    · exact State.modGroup_memWf _ _ _ (performWords_memWf _ _ _ _ _ (foldl_memWf _ _ _ hs (fun _ _ h => reachWait_memWf _ _ _ h)) _ (by assumption))

@[simp] theorem performIf_memWf (s : State) (u : Nat) (f : WordId → PVal → Bool) (hs : MemWf s) :
    MemWf (performIf s u f) := by
  simp only [performIf]; (repeat' split) <;> simp_all +contextual (maxDischargeDepth := 12)

@[simp] theorem settle_memWf (s : State) (u : Nat) (hs : MemWf s) :
    MemWf (settle s u) := by
  simp_all [settle]

@[simp] theorem settleAt_memWf (s : State) (u : Nat) (ws : List (Place × Nat)) (hs : MemWf s) :
    MemWf (settleAt s u ws) := by
  simp_all [settleAt]

@[simp] theorem settleWhere_memWf (s : State) (f : Place → Bool) (hs : MemWf s) :
    MemWf (settleWhere s f) := by
  simp_all [settleWhere]

@[simp] theorem recordApplied_memWf (s : State) (id : Nat) (hs : MemWf s) :
    MemWf (recordApplied s id) := by
  unfold recordApplied; dsimp only; (repeat' split) <;> simp_all +contextual (maxDischargeDepth := 12)

@[simp] theorem performTurn_memWf (s : State) (load : Nat) (reg : Nat) (lane : Nat) (hs : MemWf s) :
    MemWf (performTurn s load reg lane) := by
  simp only [performTurn]; (repeat' split) <;> simp_all +contextual (maxDischargeDepth := 12)

@[simp] theorem mapVals_memWf (s : State) (f : PVal → PVal) (hs : MemWf s) :
    MemWf (mapVals s f) := by
  unfold mapVals; (repeat' split) <;> simp_all +contextual (maxDischargeDepth := 12)

@[simp] theorem endParks_memWf (s : State) (f : PVal → Bool) (hs : MemWf s) :
    MemWf (endParks s f) := by
  unfold endParks; (repeat' split) <;> simp_all +contextual (maxDischargeDepth := 12)

@[simp] theorem releaseWid_memWf (s : State) (wid : Nat) (hs : MemWf s) :
    MemWf (releaseWid s wid) := by
  simp_all [releaseWid]

@[simp] theorem semIncr_memWf (s : State) (team n k : Nat) (hs : MemWf s) :
    MemWf (semIncr s team n k) := by
  unfold semIncr; dsimp only; (repeat' split) <;> simp_all +contextual (maxDischargeDepth := 12)

@[simp] theorem semLeave_memWf (s : State) (team : Nat) (wids : List Nat) (hs : MemWf s) :
    MemWf (semLeave s team wids) := by
  unfold semLeave; dsimp only; (repeat' split) <;> simp_all +contextual (maxDischargeDepth := 12)

@[simp] theorem releaseTeam_memWf (s : State) (team : Nat) (p : Wait → Bool) (v : Bool) (hs : MemWf s) :
    MemWf (releaseTeam s team p v) := by
  simp_all [releaseTeam]

@[simp] theorem testBart_memWf (s : State) (team : Nat) (hs : MemWf s) :
    MemWf (testBart s team) := by
  unfold testBart; split <;> simp_all

@[simp] theorem drainSet_memWf (s : State) (lch : Nat) (n : Nat) (hs : MemWf s) :
    MemWf (drainSet s lch n) := by
  simp only [drainSet]; (repeat' split) <;> simp_all +contextual (maxDischargeDepth := 12)

@[simp] theorem testBars_memWf (s : State) (l : Launch) (n : Nat) (q : SetSt) (hs : MemWf s) :
    MemWf (testBars s l n q) := by
  unfold testBars; dsimp only; (repeat' split) <;> simp_all +contextual (maxDischargeDepth := 12)

@[simp] theorem retireGroup_memWf (s0 : State) (u : Nat) (hs0 : MemWf s0) : MemWf (retireGroup s0 u) := by
  unfold retireGroup
  split
  · exact hs0
  · dsimp only
    generalize hd : drainWait s0 _ _ = s
    have hs : MemWf s := hd ▸ drainWait_memWf _ _ _ hs0
    (repeat' split) <;> simp_all +contextual (maxDischargeDepth := 12)

@[simp] theorem retirePending_memWf (s : State) (hs : MemWf s) :
    MemWf (retirePending s) := by
  simp_all [retirePending]

@[simp] theorem afterBack_memWf (s : State) (hs : MemWf s) : MemWf (afterBack s) := by
  unfold afterBack
  refine foldl_memWf _ _ _ (retirePending_memWf _ hs) (fun s p h => ?_)
  (repeat' split) <;> simp_all

@[simp] theorem retest_memWf (s : State) (u : Nat) (hs : MemWf s) :
    MemWf (retest s u) := by
  unfold retest; dsimp only; (repeat' split) <;> simp_all +contextual (maxDischargeDepth := 12)

@[simp] theorem appendRec_memWf (s : State) (ctx : Nat) (launch : Bool) (n pa : Nat) (b : List Byte) (from_ : Nat) (hs : MemWf s) :
    MemWf (appendRec s ctx launch n pa b from_) := by
  simp_all +contextual (maxDischargeDepth := 12) [appendRec]

@[simp] theorem popTake_memWf (s : State) (ctx n : Nat) (g : Group) (off gd pa : Nat) (hs : MemWf s) :
    MemWf (popTake s ctx n g off gd pa) := by
  unfold popTake; dsimp only; (repeat' split) <;> simp_all +contextual (maxDischargeDepth := 12)

@[simp] theorem reissueWid_memWf (s : State) (wid : Nat) (hs : MemWf s) :
    MemWf (reissueWid s wid) := by
  unfold reissueWid; dsimp only; (repeat' split) <;> simp_all +contextual (maxDischargeDepth := 12)

theorem popReady_memWf (s : State) (ctx n : Nat) (hs : MemWf s) :
    (∀ t, popReady s ctx n = .error t → MemWf t) ∧ (∀ r, popReady s ctx n = .ok r → MemWf r.1) := by
  unfold popReady
  dsimp only
  split
  · split <;> simp_all
  · split
    · rename_i h; have := (lineReady_exWf _ _ _ _ hs).error h; simp_all
    · rename_i h; have := (lineReady_exWf _ _ _ _ hs).ok h; split <;> simp_all

theorem servePop_memWf (s : State) (ctx n : Nat) (hs : MemWf s) (r : State × Bool) (ht : servePop s ctx n = some r) : MemWf r.1 := by
  unfold servePop at ht
  dsimp only at ht
  have h := popReady_memWf s ctx n hs
  repeat' split at ht
  all_goals first | (simp at ht; done) | (rw [Option.some.injEq] at ht; subst ht; simp_all +contextual (maxDischargeDepth := 12))

theorem serveEnq_memWf (s : State) (ctx : Nat) (launch : Bool) (n : Nat) (hs : MemWf s) (r : State × Bool)
    (ht : serveEnq s ctx launch n = some r) : MemWf r.1 := by
  unfold serveEnq at ht
  dsimp only at ht
  split at ht
  · simp at ht
  · split at ht
    · simp at ht
    · split at ht
      · split at ht
        · rename_i h; have := (frontReady_exWf _ _ _ _ hs).error h; rw [Option.some.injEq] at ht; subst ht; simpa
        · rename_i h; have := (frontReady_exWf _ _ _ _ hs).ok h
          split at ht <;> (rw [Option.some.injEq] at ht; subst ht; simp_all +contextual (maxDischargeDepth := 12))
      · rw [Option.some.injEq] at ht; subst ht; simp_all

@[simp] theorem serveQueue_memWf (ctx : Nat) (launch : Bool) (n k : Nat) (s : State) (hs : MemWf s) :
    MemWf (serveQueue ctx launch n k s) := by
  induction k generalizing s with
  | zero => exact hs
  | succ k ih =>
    unfold serveQueue
    split
    · rename_i r h
      have h1 : MemWf r.1 := by
        split at h
        · simp at h
        · exact servePop_memWf _ _ _ hs _ h
      split
      · exact ih _ h1
      · exact h1
    · split
      · rename_i r h
        have h1 := serveEnq_memWf _ _ _ _ hs _ h
        split
        · exact ih _ h1
        · exact h1
      · exact hs

@[simp] theorem serveAll_memWf (s : State) (ctx : Nat) (launch : Bool) (n : Nat) (hs : MemWf s) :
    MemWf (serveAll s ctx launch n) := by
  simp_all [serveAll]

@[simp] theorem setDevReg_memWf (s : State) (off v : Nat) (hs : MemWf s) :
    MemWf (setDevReg s off v) := by
  unfold setDevReg; split <;> simp_all

@[simp] theorem hostDone_memWf (s : State) (c status : Nat) (hs : MemWf s) :
    MemWf (hostDone s c status) := by
  simp_all [hostDone]

@[simp] theorem rejectCode_memWf (s : State) (c : Nat) (hs : MemWf s) :
    MemWf (rejectCode s c) := by
  unfold rejectCode; dsimp only; (repeat' split) <;> simp_all +contextual (maxDischargeDepth := 12)

@[simp] theorem ringDoor_memWf (s : State) (c : Nat) (hs : MemWf s) :
    MemWf (ringDoor s c) := by
  unfold ringDoor; dsimp only; (repeat' split) <;> simp_all +contextual (maxDischargeDepth := 12)

@[simp] theorem setCtxReg_memWf (s : State) (c o v low : Nat) (hs : MemWf s) :
    MemWf (setCtxReg s c o v low) := by
  unfold setCtxReg; split <;> simp_all

@[simp] theorem writeReg1_memWf (s : State) (off len value : Nat) (r : Nat × Nat × Nat) (hs : MemWf s) :
    MemWf (writeReg1 s off len value r) := by
  unfold writeReg1; dsimp only; (repeat' split) <;> simp_all +contextual (maxDischargeDepth := 12)

@[simp] theorem bar0Write_memWf (s : State) (off len value : Nat) (hs : MemWf s) :
    MemWf (bar0Write s off len value) := by
  simp_all [bar0Write]

@[simp] theorem recRelease_memWf (s : State) (core : Option Nat) (hs : MemWf s) : MemWf (recRelease s core).1 := by
  unfold recRelease; split <;> simp_all

@[simp] theorem ringReady_exWf (s : State) (ctx : Nat) (hs : MemWf s) : ExWf (ringReady s ctx) := by
  simp_all [ringReady]

@[simp] theorem ringPut_memWf (s : State) (ctx : Nat) (b : List Byte) (hs : MemWf s) :
    MemWf (ringPut s ctx b) := by
  unfold ringPut; (repeat' split) <;> simp_all +contextual (maxDischargeDepth := 12)

@[simp] theorem asyncPut_memWf (s : State) (r : AsyncRec) (ctx : Nat) (gone : State → State) (hs : MemWf s)
    (hg : ∀ s, MemWf s → MemWf (gone s)) : MemWf (asyncPut s r ctx gone).1 := by
  unfold asyncPut
  dsimp only
  split
  · simp_all
  · split
    · exact (ringReady_exWf _ _ (recRelease_memWf _ _ hs)).error (by assumption)
    · exact ringPut_memWf _ _ _ (hg _ ((ringReady_exWf _ _ (recRelease_memWf _ _ hs)).ok (by assumption)))

@[simp] theorem flushHolds_memWf (ctx die n : Nat) (s : State) (hs : MemWf s) : MemWf (flushHolds ctx die n s) := by
  induction n generalizing s with
  | zero => exact hs
  | succ n ih => unfold flushHolds; dsimp only; (repeat' split) <;> simp_all +contextual (maxDischargeDepth := 12)

@[simp] theorem postRec_memWf (s : State) (r : AsyncRec) (hs : MemWf s) :
    MemWf (postRec s r) := by
  unfold postRec; dsimp only; (repeat' split) <;> simp_all +contextual (maxDischargeDepth := 12)

@[simp] theorem flushPosts_memWf (s : State) (ctx die : Nat) (hs : MemWf s) :
    MemWf (flushPosts s ctx die) := by
  unfold flushPosts; dsimp only; (repeat' split) <;> simp_all +contextual (maxDischargeDepth := 12)

@[simp] theorem flushRecords_memWf (s : State) (u : Nat) (hs : MemWf s) :
    MemWf (flushRecords s u) := by
  unfold flushRecords
  dsimp only
  repeat' split
  all_goals first
    | (have := (ringReady_exWf _ _ (recRelease_memWf _ _ hs)).error (by assumption); simpa)
    | (have := (ringReady_exWf _ _ (recRelease_memWf _ _ hs)).ok (by assumption); simp_all +contextual (maxDischargeDepth := 12); done)
    | (simp_all +contextual (maxDischargeDepth := 12); done)

@[simp] theorem stopGroup_memWf (s : State) (u : Nat) (nested tfail : Bool) (hs : MemWf s) :
    MemWf (stopGroup s u nested tfail) := by
  unfold stopGroup; dsimp only; (repeat' split) <;> simp_all +contextual (maxDischargeDepth := 12)

@[simp] theorem enterTrap_memWf (s : State) (u : Nat) (hs : MemWf s) :
    MemWf (enterTrap s u) := by
  unfold enterTrap; dsimp only; (repeat' split) <;> simp_all +contextual (maxDischargeDepth := 12)

@[simp] theorem tellHome_memWf (core grp : Nat) (keep : Bool) (s : State) (h : Nat × Nat) (hs : MemWf s) :
    MemWf (tellHome core grp keep s h) := by
  unfold tellHome; (repeat' split) <;> simp_all +contextual (maxDischargeDepth := 12)

@[simp] theorem withdrawAsks_memWf (s : State) (core grp : Nat) (sps : List Split) (hs : MemWf s) :
    MemWf (withdrawAsks s core grp sps) := by
  unfold withdrawAsks; (repeat' split) <;> simp_all +contextual (maxDischargeDepth := 12)

@[simp] theorem takeTrap_memWf (s : State) (g : Group) (e : Nat) (t : Trap) (hs : MemWf s) :
    MemWf (takeTrap s g e t) := by
  have h : MemWf (withdrawAsks { s.setGroup { g.setSplit e { g.split e with ask := none, word := none } with raised := some ⟨e, (g.split e).pc, (g.split e).am, t⟩ } with draws := s.draws + 1 }
      (((s.team? g.team).map (fun t => t.core)).getD 0) g.uid [g.split e]) :=
    withdrawAsks_memWf _ _ _ _ ((MemWf_upd _ ..).2 (State.setGroup_memWf _ _ hs))
  unfold takeTrap
  dsimp only
  split
  · exact enterTrap_memWf _ _ h
  · exact h

@[simp] theorem postUndelivered_memWf (s : State) (t : Team) (grp : Nat) (exm : Lanes) (old new : List FailedReg) (hs : MemWf s) :
    MemWf (postUndelivered s t grp exm old new) := by
  simp_all [postUndelivered]

@[simp] theorem retireIfDone_memWf (s : State) (u : Nat) (nx : Next) (hs : MemWf s) :
    MemWf (retireIfDone s u nx) := by
  simp only [retireIfDone]; (repeat' split) <;> simp_all +contextual (maxDischargeDepth := 12)

@[simp] theorem finish_memWf (x : Ix) (s : State) (nx : Next) (hx : MemWf x.s) (hs : MemWf s) :
    MemWf (finish x s nx) := by
  unfold finish; dsimp only; (repeat' split) <;> simp_all +contextual (maxDischargeDepth := 12)

@[simp] theorem ownTrap_memWf (x : Ix) (s : State) (t : Trap) (hx : MemWf x.s) (hs : MemWf s) : MemWf (ownTrap x s t) := by
  unfold ownTrap
  repeat' split
  all_goals simp_all

/-- What an issuing instruction sees is the state before it. -/
theorem ixOf_s (s : State) (x : Ix) (h : ixOf s = some x) : x.s = s := by
  unfold ixOf at h
  repeat' split at h
  all_goals simp_all
  all_goals (subst h; rfl)

/-- An instruction keeps the form when its effect does. -/
theorem issue_memWf (n : Needs) (body : Ix → Except Trap (State × Next)) (s t : State) (hs : MemWf s)
    (hb : ∀ x r, MemWf x.s → body x = .ok r → MemWf r.1) (h : issue n body s = .next t) : MemWf t := by
  unfold issue at h
  split at h
  · cases h
  · rename_i x hx
    have hxs : MemWf x.s := by rw [ixOf_s s x hx]; exact hs
    repeat' split at h
    all_goals (cases h)
    all_goals first
      | exact takeTrap_memWf _ _ _ _ hs
      | exact finish_memWf _ _ _ hxs hs
      | exact ownTrap_memWf _ _ _ hxs hs
      | exact finish_memWf _ _ _ hxs (hb x _ hxs (by assumption))

/-- An instruction whose effect is on its group keeps the form. -/
theorem issueG_memWf (n : Needs) (body : Ix → Group × Next) (s t : State) (hs : MemWf s) (h : issueG n body s = .next t) :
    MemWf t := by
  refine issue_memWf n _ s t hs ?_ h
  intro x r hx hr
  cases hr
  exact State.setGroup_memWf _ _ hx

@[simp] theorem turnAway_memWf (x : Ix) (s : State) (rows served : List Nat) (hx : MemWf x.s) (hs : MemWf s) :
    MemWf (turnAway x s rows served).1 := by
  unfold turnAway; dsimp only; (repeat' split) <;> simp_all +contextual (maxDischargeDepth := 12)

@[simp] theorem released_memWf (x : Ix) (scope : Option Nat) (eager : Bool) (k : Ix → State × Next) (mirror : Bool) (hx : MemWf x.s) (hk : ∀ y, MemWf y.s → MemWf (k y).1) :
    MemWf (released x scope eager k mirror).1 := by
  unfold released; dsimp only; (repeat' split) <;> simp_all +contextual (maxDischargeDepth := 12)

@[simp] theorem dropLines_memWf (s : State) (p : Nat → Bool) (hs : MemWf s) :
    MemWf (dropLines s p) := by
  unfold dropLines; dsimp only; (repeat' split) <;> simp_all +contextual (maxDischargeDepth := 12)

@[simp] theorem backL2_memWf (ctx : Nat) (s : State) (l : L2Line) (hs : MemWf s) :
    MemWf (backL2 ctx s l) := by
  unfold backL2; (repeat' split) <;> simp_all +contextual (maxDischargeDepth := 12)

@[simp] theorem dropL2_memWf (s : State) (region : Nat) (ctx : Nat) (hs : MemWf s) :
    MemWf (dropL2 s region ctx) := by
  unfold dropL2; dsimp only; (repeat' split) <;> simp_all +contextual (maxDischargeDepth := 12)

@[simp] theorem dropRegion_memWf (s : State) (region : Nat) (ctx : Nat) (hs : MemWf s) :
    MemWf (dropRegion s region ctx) := by
  simp only [dropRegion]; (repeat' split) <;> simp_all +contextual (maxDischargeDepth := 12)

@[simp] theorem setToken_memWf (s : State) (n : Nat) (t : TokEntry) (hs : MemWf s) :
    MemWf (setToken s n t) := by
  simp_all [setToken]

@[simp] theorem settleToken_memWf (s : State) (n : Nat) (hs : MemWf s) :
    MemWf (settleToken s n) := by
  unfold settleToken; dsimp only; (repeat' split) <;> simp_all +contextual (maxDischargeDepth := 12)

@[simp] theorem settleTokens_memWf (s : State) (hs : MemWf s) :
    MemWf (settleTokens s) := by
  simp_all [settleTokens]

@[simp] theorem yieldToken_memWf (s : State) (n : Nat) (st : TokSt) (hs : MemWf s) :
    MemWf (yieldToken s n st) := by
  unfold yieldToken; dsimp only; (repeat' split) <;> simp_all +contextual (maxDischargeDepth := 12)

@[simp] theorem State.setHomeTok_memWf (s : State) (r : Nat) (h : HomeTok) (hs : MemWf s) :
    MemWf (State.setHomeTok s r h) := by
  simp_all [State.setHomeTok]

@[simp] theorem dropHome_memWf (s : State) (r : Nat) (hs : MemWf s) :
    MemWf (dropHome s r) := by
  simp only [dropHome]; (repeat' split) <;> simp_all +contextual (maxDischargeDepth := 12)

@[simp] theorem drainHome_memWf (s : State) (r : Nat) (hs : MemWf s) :
    MemWf (drainHome s r) := by
  unfold drainHome; (repeat' split) <;> simp_all +contextual (maxDischargeDepth := 12)

@[simp] theorem recallHome_memWf (s : State) (r : Nat) (bank : Bool) (hs : MemWf s) :
    MemWf (recallHome s r bank) := by
  unfold recallHome; dsimp only; (repeat' split) <;> simp_all +contextual (maxDischargeDepth := 12)

@[simp] theorem recallForBank_memWf (s : State) (r : Nat) (hs : MemWf s) :
    MemWf (recallForBank s r) := by
  simp_all [recallForBank]

@[simp] theorem homeServe_memWf (s : State) (r : Nat) (hs : MemWf s) : MemWf (homeServe s r) := by
  unfold homeServe; dsimp only; split <;> (repeat' split) <;> simp_all +contextual (maxDischargeDepth := 12)

@[simp] theorem serveHomes_memWf (s : State) (hs : MemWf s) :
    MemWf (serveHomes s) := by
  unfold serveHomes; (repeat' split) <;> simp_all +contextual (maxDischargeDepth := 12)

@[simp] theorem takeToken_memWf (s : State) (n : Nat) (core : Nat) (ctx : Nat) (hs : MemWf s) :
    MemWf (takeToken s n core ctx) := by
  unfold takeToken; dsimp only; (repeat' split) <;> simp_all +contextual (maxDischargeDepth := 12)

end Sys2Proof.Machine
end

