-- ==== Sys2Proof/Laws/MemFormAccess.lean ====
section
/-! SUPPORT. The lemmas of Laws/MemForm.lean for accesses, atomics, fences, the system and team instructions, and copies. -/

namespace Sys2Proof.Machine

open Sys2Proof

@[simp] theorem fillTlb_memWf (x : Ix) (s : State) (ps : List Place) (hs : MemWf s) : MemWf (fillTlb x s ps) := by
  refine foldl_memWf _ _ _ hs (fun s p h => ?_)
  split <;> simp_all

@[simp] theorem lineRequest_memWf (core grp : Nat) (fill : Bool) (a : ReadSt) (pa va : Nat) (ha : MemWf a.1) :
    MemWf (lineRequest core grp fill a pa va).1.1 := by
  unfold lineRequest; dsimp only
  split <;> simp_all

@[simp] theorem awaitPlace_memWf (core grp : Nat) (past : Bool) (size at_ len : Nat) (sgn : Bool) (recs : List Nat) (a : ReadSt) (p : Place)
    (ha : MemWf a.1) : MemWf (awaitPlace core grp past size at_ len sgn recs a p).1.1 := by
  unfold awaitPlace; dsimp only
  repeat' split
  all_goals first | exact ha | exact lineRequest_memWf _ _ _ _ _ _ ha | simp_all +contextual (maxDischargeDepth := 12)

@[simp] theorem writePlace_memWf (core : Nat) (ctx : Nat) (past : Bool) (s : State) (p : Place) (b : List Byte) (hs : MemWf s) :
    MemWf (writePlace core ctx past s p b) := by
  simp only [writePlace]; (repeat' split) <;> simp_all +contextual (maxDischargeDepth := 12)

@[simp] theorem lintelPut_memWf (s : State) (cls : Nat) (rs : List LintelRec) (hs : MemWf s) :
    MemWf (lintelPut s cls rs) := by
  unfold lintelPut; split <;> simp_all

/-- A fold that carries a read's state beside other data. -/
theorem foldl_read_memWf {α β : Type} (f : ReadSt × β → α → ReadSt × β) (hf : ∀ r a, MemWf r.1.1 → MemWf (f r a).1.1) (l : List α)
    (r : ReadSt × β) (hr : MemWf r.1.1) : MemWf (l.foldl f r).1.1 := by
  induction l generalizing r with
  | nil => exact hr
  | cons a t ih => exact ih _ (hf _ _ hr)

@[simp] theorem awaitLane_memWf (x : Ix) (f : AccForm) (a : ReadSt) (ps : List Place) (ha : MemWf a.1) :
    MemWf (awaitLane x f a ps).1.1 := by
  unfold awaitLane
  refine foldl_read_memWf _ ?_ _ _ ha
  exact fun r p h => awaitPlace_memWf _ _ _ _ _ _ _ _ _ _ h

@[simp] theorem awaitLanes_memWf (x : Ix) (f : AccForm) (a : ReadSt) (ls : List (Nat × List Place)) (ha : MemWf a.1) :
    MemWf (awaitLanes x f a ls).1.1 := by
  unfold awaitLanes
  refine foldl_read_memWf _ ?_ _ _ ha
  exact fun r p h => awaitLane_memWf _ _ _ _ h

@[simp] theorem discardVal_memWf (x : Ix) (s : State) (v : PVal) (hs : MemWf s) : MemWf (discardVal x s v) := by
  unfold discardVal
  cases hp : performVal false s x.t v with
  | none => simpa
  | some r => have := performVal_memWf _ _ _ _ hs _ hp; split <;> simp_all

@[simp] theorem discardVals_memWf (x : Ix) (s : State) (vals : List (Nat × List PVal)) (hs : MemWf s) : MemWf (discardVals x s vals) := by
  unfold discardVals
  exact foldl_memWf _ _ _ hs (fun s v h => discardVal_memWf x s v h)

@[simp] theorem loadEffect_memWf (x : Ix) (f : AccForm) (w : Nat) (d : LaneOp) (ls : List (Nat × List Place)) (hx : MemWf x.s) :
    MemWf (loadEffect x f w d ls).1 := by
  have h2 : MemWf (awaitLanes x f ((fillTlb x x.s (ls.flatMap (fun l => l.2))).fresh, []) ls).1.1 :=
    awaitLanes_memWf _ _ _ _ (State.fresh_memWf _ (fillTlb_memWf _ _ _ hx))
  unfold loadEffect
  dsimp only
  refine State.modGroup_memWf _ _ _ ?_
  split
  · exact discardVals_memWf _ _ _ h2
  · exact h2

theorem loadOp_memWf (f : AccForm) (w : Nat) (d a : LaneOp) (s t : State) (hs : MemWf s) (h : loadOp f w d a s = .next t) :
    MemWf t := by
  refine issue_memWf _ _ s t hs (fun x r hx hr => ?_) h
  dsimp only at hr
  split at hr
  · cases hr
  · cases hr
    split
    · exact hx
    · exact loadEffect_memWf _ _ _ _ _ hx

@[simp] theorem lineWrite_memWf (x : Ix) (hold : Bool) (s : State) (line : Nat) (ws : List (Nat × Place × List Byte)) (hx : MemWf x.s) (hs : MemWf s) :
    MemWf (lineWrite x hold s line ws) := by
  unfold lineWrite; dsimp only; (repeat' split) <;> simp_all +contextual (maxDischargeDepth := 12)

@[simp] theorem holdSplit_memWf (x : Ix) (k : Kept) (before : State) (after : State) (hafter : MemWf after) :
    MemWf (holdSplit x k before after).1 := by
  unfold holdSplit; dsimp only; (repeat' split) <;> simp_all +contextual (maxDischargeDepth := 12)

@[simp] theorem doWrites_memWf (x : Ix) (past : Bool) (s : State) (ws : List (Nat × Place × List Byte)) (hx : MemWf x.s) (hs : MemWf s) :
    MemWf (doWrites x past s ws) := by
  simp_all [doWrites]

@[simp] theorem releaseLines_memWf (core : Nat) (s : State) (ls : List Nat) (hs : MemWf s) :
    MemWf (releaseLines core s ls) := by
  simp_all [releaseLines]

@[simp] theorem mirrorRecs_memWf (x : Ix) (s : State) (size : Nat) (ls : List (Nat × List Place)) (v : Nat → Nat) (hx : MemWf x.s) (hs : MemWf s) :
    MemWf (mirrorRecs x s size ls v).1 := by
  simp_all [mirrorRecs]

@[simp] theorem performHeld_memWf (x : Ix) (s : State) (hs : MemWf s) :
    MemWf (performHeld x s) := by
  simp_all [performHeld]

@[simp] theorem reachAll_memWf (s : State) (core : Nat) (ls : List Nat) (hs : MemWf s) : MemWf (reachAll s core ls) :=
  foldl_memWf _ _ _ hs (fun _ _ h => reachWait_memWf _ _ _ h)

@[simp] theorem cleared_memWf (x : Ix) (past atom : Bool) (ps : List Place) (size : Nat) (k : State → State × Next) (hx : MemWf x.s)
    (hk : ∀ y, MemWf y → MemWf (k y).1) : MemWf (cleared x past atom ps size k).1 := by
  unfold cleared; dsimp only; (repeat' split) <;> simp_all +contextual (maxDischargeDepth := 12)

@[simp] theorem storeEffect_memWf (x : Ix) (f : AccForm) (lazy : Bool) (k : Kept) (s : State)
    (hx : MemWf x.s) (hs : MemWf s) : MemWf (storeEffect x f lazy k s).1 := by
  have hm := mirrorRecs_memWf x (fillTlb x s k.all) f.size k.places (fun i => (k.operands i).1) hx (fillTlb_memWf _ _ _ hs)
  unfold storeEffect; dsimp only; (repeat' split) <;> simp_all +contextual (maxDischargeDepth := 12)

theorem storeOp_memWf (f : AccForm) (w : Nat) (d a : LaneOp) (s t : State) (hs : MemWf s) (h : storeOp f w d a s = .next t) :
    MemWf t := by
  refine issue_memWf _ _ s t hs (fun x r hx hr => ?_) h
  dsimp only at hr
  split at hr
  · cases hr
    exact cleared_memWf _ _ _ _ _ _ hx (fun s hs => storeEffect_memWf _ _ _ _ _ hx hs)
  · split at hr
    · cases hr
    · cases hr
      exact released_memWf _ _ _ _ _ hx (fun y hy => cleared_memWf _ _ _ _ _ _ hy (fun s hs => storeEffect_memWf _ _ _ _ _ hy hs))

theorem atomHere_memWf (op ty : Nat) (a : AtomSt) (lane note pa : Nat) (bad : Bool) (m b c : Nat) (put : State → List Byte → State)
    (hp : ∀ v, MemWf (put a.s v)) (ha : MemWf a.s) : MemWf (atomHere op ty a lane note pa bad m b c put).s := by
  unfold atomHere; dsimp only
  split <;> simp_all

@[simp] theorem putHalves_memWf (s : State) (core : Nat) (hv : List (Nat × Nat)) (v : List Byte) (hs : MemWf s) :
    MemWf (putHalves s core hv v) := by
  induction hv generalizing s v with
  | nil => exact hs
  | cons p t ih => exact ih _ _ (ownHome_memWf _ _ _ _ hs)

@[simp] theorem atomRequest_memWf (x : Ix) (op ty : Nat) (a : AtomSt) (lane : Nat) (host : Bool) (addr va b c : Nat) (ask : Option Lanes)
    (hold : Bool) (ha : MemWf a.s) : MemWf (atomRequest x op ty a lane host addr va b c ask hold).s := by
  simp_all [atomRequest]

theorem loadHalves_memWf (core : Nat) (hs : List (Nat × Nat)) (g : Got) (hg : MemWf g.s) :
    MemWf (hs.foldl (fun (g : Got) h =>
      let r := loadHome g.s core h.1 h.2
      { s := r.s, bytes := g.bytes ++ r.bytes, bad := g.bad || r.bad }) g).s := by
  induction hs generalizing g with
  | nil => exact hg
  | cons p t ih => exact ih _ (loadHome_memWf g.s core p.1 p.2 hg)

theorem atomLane_memWf (x : Ix) (op ty : Nat) (past : Bool) (a : AtomSt) (lane : Nat) (ps : List Place) (b c : Nat)
    (ha : MemWf a.s) : MemWf (atomLane x op ty past a lane ps b c).s := by
  unfold atomLane; dsimp only
  split
  · exact atomHere_memWf _ _ _ _ _ _ _ _ _ _ _ (fun v => State.setScr_memWf _ _ _ _ ha) ha
  · exact atomHere_memWf _ _ _ _ _ _ _ _ _ _ _ (fun v => State.setDscr_memWf _ _ _ _ ha) ha
  · split
    · simp_all [atomRequest]
    · split
      · exact atomHere_memWf _ _ _ _ _ _ _ _ _ _ _ (fun v => writePlace_memWf _ _ _ _ _ _ ha) ha
      · split
        · simp_all
        · rename_i y _ _ _ _
          have h := loadHalves_memWf x.core (atomHalves (atomBytes ty) y.pa ps) ⟨a.s, [], false⟩ ha
          exact atomHere_memWf _ _ _ _ _ _ _ _ _ _ _ (fun v => putHalves_memWf _ _ _ _ h) h

@[simp] theorem postAtoms_memWf (x : Ix) (s : State) (vals : List (Nat × List PVal)) (hx : MemWf x.s) (hs : MemWf s) :
    MemWf (postAtoms x s vals) := by
  unfold postAtoms; refine foldl_memWf _ _ _ (by simp_all) (fun s a h => ?_); (repeat' split) <;> simp_all +contextual (maxDischargeDepth := 12)

theorem atomLanes_memWf {α : Type} (f : AtomSt → α → AtomSt) (hf : ∀ a l, MemWf a.s → MemWf (f a l).s) (ls : List α) (a : AtomSt)
    (ha : MemWf a.s) : MemWf (ls.foldl f a).s := by
  induction ls generalizing a with
  | nil => exact ha
  | cons p t ih => exact ih _ (hf _ _ ha)

@[simp] theorem askAtoms_memWf (x : Ix) (op : Nat) (k : Kept) (hold : Bool) (s : State) (ls : List (Nat × List Place)) (hs : MemWf s) :
    MemWf (askAtoms x op k hold s ls) := atomLanes_memWf _ (fun _ _ h => atomRequest_memWf _ _ _ _ _ _ _ _ _ _ _ _ h) _ _ hs

@[simp] theorem fillLines_memWf (x : Ix) (s : State) (ps : List Place) (hs : MemWf s) : MemWf (fillLines x s ps) :=
  foldl_fst_memWf _ _ _ hs (fun _ _ h => lineRequest_memWf _ _ _ _ _ _ h)

@[simp] theorem atomRun_memWf (x : Ix) (op : Nat) (k : Kept) (ls : List (Nat × List Place)) (s : State) (hs : MemWf s) :
    MemWf (atomRun x op k ls s).s :=
  atomLanes_memWf _ (fun _ _ h => atomLane_memWf _ _ _ _ _ _ _ _ _ h) _ _ (State.fresh_memWf _ hs)

theorem atomEffect_memWf (x : Ix) (op : Nat) (lazy acq strong : Bool) (d : LaneOp) (k : Kept) (s : State)
    (hx : MemWf x.s) (hs : MemWf s) : MemWf (atomEffect x op lazy acq strong d k s).1 := by
  unfold atomEffect; dsimp only
  repeat' split
  all_goals simp +contextual (maxDischargeDepth := 12) [hx, hs]

theorem atomOp_memWf (op : Nat) (sp : Space) (d a b : LaneOp) (s t : State) (hs : MemWf s) (h : atomOp op sp d a b s = .next t) :
    MemWf t := by
  refine issue_memWf _ _ s t hs (fun x r hx hr => ?_) h
  dsimp only at hr
  split at hr
  · cases hr
    exact cleared_memWf _ _ _ _ _ _ hx (fun s hs => atomEffect_memWf _ _ _ _ _ _ _ _ hx hs)
  · split at hr
    · cases hr
    · cases hr
      exact released_memWf _ _ _ _ _ hx (fun y hy => cleared_memWf _ _ _ _ _ _ hy (fun s hs => atomEffect_memWf _ _ _ _ _ _ _ _ hy hs))

@[simp] theorem fencePend_memWf (x : Ix) (s : State) (ids : List Nat) (acq strong : Bool) (hx : MemWf x.s) (hs : MemWf s) :
    MemWf (fencePend x s ids acq strong) := by
  simp_all [fencePend]

theorem fenceOp_memWf (acq : Bool) (sc : Scope) (s t : State) (hs : MemWf s) (h : fenceOp acq sc s = .next t) : MemWf t := by
  refine issue_memWf _ _ s t hs (fun x r hx hr => ?_) h
  dsimp only at hr
  cases hr
  have h1 : MemWf (if decide (2 ≤ effScope .g (scopeCode sc)) then drainServed (settle x.s x.g.uid) x.core
      else (settle x.s x.g.uid, [])).1 := by split <;> simp_all
  repeat' split
  all_goals simp_all +contextual (maxDischargeDepth := 12)

theorem semWait_memWf (sem n : Nat) (cont : Ix → Word) (s t : State) (hs : MemWf s) (h : semWait sem n cont s = .next t) :
    MemWf t := by
  refine issue_memWf _ _ s t hs (fun x r hx hr => ?_) h
  dsimp only at hr
  split at hr <;> cases hr <;> simp_all +contextual (maxDischargeDepth := 12)

@[simp] theorem recordSet_memWf (s : State) (lch : Nat) (n : Nat) (core : Nat) (hs : MemWf s) :
    MemWf (recordSet s lch n core) := by
  simp only [recordSet]; (repeat' split) <;> simp_all +contextual (maxDischargeDepth := 12)

theorem enqOp_memWf (a : Fin 64) (hb : Bool) (full : Ix → State → Bool → Nat → List Byte → State × Next) (done : Ix → State → State)
    (s t : State) (hs : MemWf s) (hf : ∀ x s l n b, MemWf x.s → MemWf s → MemWf (full x s l n b).1)
    (hd : ∀ x s, MemWf x.s → MemWf s → MemWf (done x s)) (h : enqOp a hb full done s = .next t) : MemWf t := by
  refine issue_memWf _ _ s t hs (fun x r hx hr => ?_) h
  dsimp only at hr
  repeat' split at hr
  all_goals cases hr
  all_goals first
    | exact askEntry_memWf _ _ _ _ hx
    | refine released_memWf _ _ _ _ _ hx (fun y hy => ?_)
  all_goals (repeat' split)
  all_goals first
    | exact hf _ _ _ _ _ hy hy
    | exact turnAway_memWf _ _ _ _ hy hy
    | exact hd _ _ hy (serveAll_memWf _ _ _ _ (appendRec_memWf _ _ _ _ _ _ _ (serveRow_memWf _ _ hy _ (by assumption))))
    | (rename_i h; cases h; exact hd _ _ hy (serveAll_memWf _ _ _ _ (appendRec_memWf _ _ _ _ _ _ _ hy)))

@[simp] theorem enqPred_memWf (kd : Nat) (v : Bool) (x : Ix) (s : State) (hx : MemWf x.s) (hs : MemWf s) :
    MemWf (enqPred kd v x s) := by
  simp_all [enqPred]

@[simp] theorem writeSr_memWf (x : Ix) (n : Nat) (a : LaneOp) (hx : MemWf x.s) :
    MemWf (writeSr x n a) := by
  unfold writeSr; split <;> simp_all

@[simp] theorem writeSeg_memWf (x : Ix) (n v : Nat) (hx : MemWf x.s) :
    MemWf (writeSeg x n v) := by
  unfold writeSeg; split <;> simp_all

@[simp] theorem beginInval_memWf (s : State) (uid : Nat) (ctx : Option Nat) (lo hi : Nat) (host : Option Nat) (hs : MemWf s) :
    MemWf (beginInval s uid ctx lo hi host) := by
  simp_all [beginInval]

@[simp] theorem parkOn_memWf (x : Ix) (s : State) (v : PVal) (hs : MemWf s) : MemWf (parkOn x s v) := by
  simp_all [parkOn]

@[simp] theorem splitInval_memWf (x : Ix) (ctx : Option Nat) (lo hi : Nat) (hx : MemWf x.s) : MemWf (splitInval x ctx lo hi).1 := by
  unfold splitInval
  refine released_memWf _ _ _ _ _ hx (fun y hy => ?_)
  simp_all +contextual (maxDischargeDepth := 12)

@[simp] theorem bump_memWf (s : State) (hs : MemWf s) :
    MemWf (bump s) := by
  simp_all [bump]

theorem onNum_memWf (f : State → Nat → State) (s t : State) (hf : ∀ n, MemWf (f s n)) (h : onNum f s = .next t) :
    MemWf t := by
  unfold onNum at h
  split at h <;> cases h
  exact bump_memWf _ (hf _)

theorem onPair_memWf (f : State → Nat → Nat → State) (s t : State) (hf : ∀ a b, MemWf (f s a b))
    (h : onPair f s = .next t) : MemWf t := by
  unfold onPair at h
  split at h <;> cases h
  exact bump_memWf _ (hf _ _)

theorem onNone_memWf (f : State → State) (s t : State) (hf : MemWf (f s)) (h : onNone f s = .next t) : MemWf t := by
  unfold onNone at h
  cases h
  exact bump_memWf _ hf

@[simp] theorem State.setCmd_memWf (s : State) (core : Nat) (m : Cmd) (hs : MemWf s) :
    MemWf (State.setCmd s core m) := by
  simp_all [State.setCmd]

@[simp] theorem refillTeam_memWf (s : State) (t : Team) (hs : MemWf s) :
    MemWf (refillTeam s t) := by
  unfold refillTeam; dsimp only; (repeat' split) <;> simp_all +contextual (maxDischargeDepth := 12)

@[simp] theorem State.dropCmd_memWf (s : State) (core uid : Nat) (hs : MemWf s) :
    MemWf (State.dropCmd s core uid) := by
  simp_all [State.dropCmd]

@[simp] theorem completeCmd_memWf (s : State) (core : Nat) (m : Cmd) (hs : MemWf s) :
    MemWf (completeCmd s core m) := by
  unfold completeCmd; dsimp only; (repeat' split) <;> simp_all +contextual (maxDischargeDepth := 12)

@[simp] theorem orWrs_memWf (s : State) (team n : Nat) (hs : MemWf s) :
    MemWf (orWrs s team n) := by
  unfold orWrs; split <;> simp_all

@[simp] theorem fillMaps_memWf (s : State) (w : Who) (l : List (Nat × Nat × Xl)) (hs : MemWf s) :
    MemWf (fillMaps s w l) := by
  simp only [fillMaps]; (repeat' split) <;> simp_all +contextual (maxDischargeDepth := 12)

@[simp] theorem cmdStore_memWf (s : State) (core : Nat) (m : Cmd) (pa : Nat) (b : List Byte) (hs : MemWf s) :
    MemWf (cmdStore s core m pa b) :=
  State.writePa_memWf _ _ _ _ _ _ (foldl_memWf _ _ _ hs (fun _ _ h => flushOwn_memWf _ _ _ h))

@[simp] theorem serveCmd_memWf (s : State) (core : Nat) (m : Cmd) (rs : List (Nat × Nat)) (hs : MemWf s) :
    MemWf (serveCmd s core m rs).1 := by
  unfold serveCmd
  dsimp only
  split
  · exact hs
  · refine State.setCmd_memWf _ _ _ ?_
    split <;> simp_all

@[simp] theorem writeG_memWf (s : State) (m : Cmd) (core va : Nat) (b : List Byte) (hs : MemWf s) : MemWf (writeG s m core va b) := by
  refine foldl_memWf _ _ _ hs (fun s p h => ?_)
  split
  · exact cmdStore_memWf _ _ _ _ _ h
  · exact h

@[simp] theorem cmdRead_memWf (core : Nat) (m : Cmd) (s : State) (l : Nat × Nat) (hs : MemWf s) :
    MemWf (cmdRead core m s l) := by
  unfold cmdRead; dsimp only; (repeat' split) <;> simp_all +contextual (maxDischargeDepth := 12)

@[simp] theorem cmdAsk_memWf (core : Nat) (m : Cmd) (s : State) (l : Nat × Nat) (hs : MemWf s) :
    MemWf (cmdAsk core m s l) := by
  simp_all [cmdAsk]

theorem gather_memWf (s : State) (core : Nat) (m : Cmd) (reads : List (Nat × Nat)) (writes : List (Nat × Nat)) (hs : MemWf s) :
    ∀ t, gather s core m reads writes = some t → MemWf t := by
  intro t ht; unfold gather at ht; dsimp only at ht; (repeat' split at ht) <;> first | (simp at ht; done) | (cases ht; simp_all +contextual (maxDischargeDepth := 12); done) | (simp only [Option.some.injEq] at ht; subst ht; simp_all +contextual (maxDischargeDepth := 12))

@[simp] theorem writeSpan_memWf (s : State) (t : Team) (m : Cmd) (sp : Space) (lo : Nat) (b : List Byte) (hs : MemWf s) :
    MemWf (writeSpan s t m sp lo b) := by
  simp only [writeSpan]; (repeat' split) <;> simp_all +contextual (maxDischargeDepth := 12)

@[simp] theorem cmdIssue_memWf (x : Ix) (k : Ix → State × Next) (hx : MemWf x.s) (hk : ∀ y, MemWf y.s → MemWf (k y).1) :
    MemWf (cmdIssue x k).1 := by
  unfold cmdIssue; dsimp only; (repeat' split) <;> simp_all +contextual (maxDischargeDepth := 12)

@[simp] theorem enqueue_memWf (x : Ix) (m : Cmd) (hx : MemWf x.s) :
    MemWf (enqueue x m) := by
  simp_all [enqueue]

theorem cpyOp_memWf (sz : CpySize) (src dst : Space) (d a : LaneOp) (s t : State) (hs : MemWf s) (h : cpyOp sz src dst d a s = .next t) :
    MemWf t := by
  refine issue_memWf _ _ s t hs (fun x r hx hr => ?_) h
  dsimp only at hr
  repeat' split at hr
  all_goals first | (cases hr; done) | (cases hr; simp_all +contextual (maxDischargeDepth := 12))

theorem ecmdOp_memWf (kind : CmdKind) (a : LaneOp) (s t : State) (hs : MemWf s) (h : ecmdOp kind a s = .next t) : MemWf t := by
  refine issue_memWf _ _ s t hs (fun x r hx hr => ?_) h
  dsimp only at hr
  repeat' split at hr
  all_goals first | (cases hr; done) | (cases hr; simp_all +contextual (maxDischargeDepth := 12))

@[simp] theorem endWrite_memWf (s : State) (core : Nat) (m : Cmd) (e : CpyEnd) (o : Nat) (b : List Byte) (hs : MemWf s) :
    MemWf (endWrite s core m e o b) := by
  simp only [endWrite]; (repeat' split) <;> simp_all +contextual (maxDischargeDepth := 12)

@[simp] theorem noteErrors_memWf (s : State) (team : Nat) (es : List (Nat × Nat)) (hs : MemWf s) :
    MemWf (noteErrors s team es) := by
  simp only [noteErrors]; (repeat' split) <;> simp_all +contextual (maxDischargeDepth := 12)

@[simp] theorem moveCpy_memWf (s : State) (core : Nat) (m : Cmd) (size : Nat) (pairs : List (CpyEnd × CpyEnd)) (hs : MemWf s) :
    MemWf (moveCpy s core m size pairs) := by
  unfold moveCpy; dsimp only; (repeat' split) <;> simp_all +contextual (maxDischargeDepth := 12)

@[simp] theorem endCmd_memWf (before : State) (after : State) (core : Nat) (m : Cmd) (record : List Byte) (hbefore : MemWf before) (hafter : MemWf after) :
    MemWf (endCmd before after core m record) := by
  simp_all [endCmd]

@[simp] theorem whenReady_memWf (s : State) (core : Nat) (m : Cmd) (reads writes : List (Nat × Nat)) (go : State → State) (hs : MemWf s)
    (hgo : ∀ t, MemWf t → MemWf (go t)) : MemWf (whenReady s core m reads writes go) := by
  have h1 := serveCmd_memWf s core m (reads ++ writes) hs
  unfold whenReady
  dsimp only
  split
  · exact gather_memWf _ _ _ _ _ h1 _ (by assumption)
  · split
    · exact hgo _ h1
    · exact h1

@[simp] theorem runCpy_memWf (s : State) (core : Nat) (m : Cmd) (size : Nat) (pairs : List (CpyEnd × CpyEnd)) (hs : MemWf s) :
    MemWf (runCpy s core m size pairs) := by
  unfold runCpy
  exact whenReady_memWf _ _ _ _ _ _ hs (fun t ht => endCmd_memWf _ _ _ _ _ ht (moveCpy_memWf _ _ _ _ _ ht))

@[simp] theorem lastWrites_memWf (s : State) (core : Nat) (m : Cmd) (hs : MemWf s) :
    MemWf (lastWrites s core m) := by
  unfold lastWrites; dsimp only; (repeat' split) <;> simp_all +contextual (maxDischargeDepth := 12)

@[simp] theorem completeNum_memWf (s : State) (uid : Nat) (hs : MemWf s) :
    MemWf (completeNum s uid) := by
  simp only [completeNum]; (repeat' split) <;> simp_all +contextual (maxDischargeDepth := 12)

@[simp] theorem cpymSlot_memWf (t : Team) (m : Cmd) (rows : List (List Byte)) (a : State × Nat × Nat) (slot : Nat) (ha : MemWf a.1) :
    MemWf (cpymSlot t m rows a slot).1 := by
  unfold cpymSlot; dsimp only; (repeat' split) <;> simp_all +contextual (maxDischargeDepth := 12)

@[simp] theorem cpymMove_memWf (s : State) (core : Nat) (t : Team) (m : Cmd) (hs : MemWf s) :
    MemWf (cpymMove s core t m) := by
  unfold cpymMove; dsimp only; (repeat' split) <;> simp_all +contextual (maxDischargeDepth := 12)

@[simp] theorem failCheck_memWf (s : State) (core : Nat) (t : Team) (m : Cmd) (e : Nat × Nat) (hs : MemWf s) :
    MemWf (failCheck s core t m e) := by
  unfold failCheck; dsimp only; split <;> simp_all

@[simp] theorem cpymNum_memWf (s : State) (uid : Nat) (hs : MemWf s) :
    MemWf (cpymNum s uid) := by
  unfold cpymNum; dsimp only
  (repeat' split) <;> first
    | exact whenReady_memWf _ _ _ _ _ _ hs (fun _ ht => cpymMove_memWf _ _ _ _ ht)
    | exact whenReady_memWf _ _ _ _ _ _ (State.setCmd_memWf _ _ _ (fillMaps_memWf _ _ _ hs)) (fun _ ht => cpymMove_memWf _ _ _ _ ht)
    | simp_all

end Sys2Proof.Machine
end

