-- ==== Sys2Proof/Laws/Issue.lean ====
section
/-! SUPPORT. What the issue of an instruction can answer: its own effect, its own trap of check 5, or the trap of an earlier check. -/

namespace Sys2Proof.Machine

open Sys2Proof

theorem issue_does {n : Needs} {body : Ix → Except Trap (State × Next)} {s : State} {x : Ix} {r : State × Next}
    (h : Issues s x n) (hb : body x = .ok r) : issue n body s = does x r.1 r.2 := by
  unfold issue
  rw [h.names]
  simp only [h.clear, h.asked, h.room, h.passes, hb, does, Bool.or_self, Bool.false_eq_true, if_false, ite_self]

theorem issue_traps {n : Needs} {body : Ix → Except Trap (State × Next)} {s : State} {x : Ix} {t : Trap}
    (h : Issues s x n) (hb : body x = .error t) : issue n body s = traps x t := by
  unfold issue
  rw [h.names]
  simp only [h.clear, h.asked, h.room, h.passes, hb, traps, ixOf_s s x h.names, Bool.or_self, Bool.false_eq_true, if_false, ite_self]

theorem issueG_does {n : Needs} {body : Ix → Group × Next} {s : State} {x : Ix} (h : Issues s x n) :
    issueG n body s = does x (x.s.setGroup (body x).1) (body x).2 := by
  unfold issueG
  exact issue_does (r := (x.s.setGroup (body x).1, (body x).2)) h rfl

/-- A check of 2 to 4 that fails traps, and a failed register that it delivers is marked read (R76, R372). -/
theorem issue_check {n : Needs} {body : Ix → Except Trap (State × Next)} {s : State} {x : Ix} {t : Trap}
    (hx : ixOf s = some x) (hv : askTrap x.sp = none) (ha : askWaits x.sp = false) (hb : n.blocked x = false) (hk : keptOf x = none)
    (hc : preCheck n x = some t) : issue n body s = .next (takeTrap s (if t.deferred then markRead n x else x.g) x.e t) := by
  unfold issue
  rw [hx]
  simp only [hv, ha, hb, hk, hc, Option.isSome_none, Bool.or_self, Bool.false_eq_true, if_false]

/-- An instruction that homes or a full queue hold back is passed over (R261, R425). -/
theorem issue_again {n : Needs} {body : Ix → Except Trap (State × Next)} {s : State} {x : Ix}
    (hx : ixOf s = some x) (hv : askTrap x.sp = none) (hw : askWaits x.sp = true ∨ n.blocked x = true) :
    issue n body s = .next (finish x s .again) := by
  unfold issue
  rw [hx]
  have h : (askWaits x.sp || n.blocked x) = true := by rcases hw with h | h <;> simp [h]
  simp only [hv, h, if_true]

/-- A split whose homes have refused its instruction traps at it (R423, Table 20.3). -/
theorem issue_refused {n : Needs} {body : Ix → Except Trap (State × Next)} {s : State} {x : Ix} {t : Trap}
    (hx : ixOf s = some x) (hv : askTrap x.sp = some t) : issue n body s = .next (takeTrap s x.g x.e t) := by
  unfold issue
  rw [hx]
  simp only [hv]

/-- The answer of a group instruction whose body is known. -/
theorem issueG_eq {n n' : Needs} {body : Ix → Group × Next} {s : State} {x : Ix} {g : Group} {nx : Next}
    (h : Issues s x n) (e : n = n') (hb : body x = (g, nx)) : issueG n' body s = does x (x.s.setGroup g) nx := by
  subst e
  rw [issueG_does h, hb]

/-- The answer of an instruction whose body is known to succeed. -/
theorem issue_eq {n n' : Needs} {body : Ix → Except Trap (State × Next)} {s : State} {x : Ix} {t : State} {nx : Next}
    (h : Issues s x n) (e : n = n') (hb : body x = .ok (t, nx)) : issue n' body s = does x t nx := by
  subst e
  rw [issue_does h hb]

/-- The answer of an instruction whose body is known to trap. -/
theorem issue_trap_eq {n n' : Needs} {body : Ix → Except Trap (State × Next)} {s : State} {x : Ix} {t : Trap}
    (h : Issues s x n) (e : n = n') (hb : body x = .error t) : issue n' body s = traps x t := by
  subst e
  rw [issue_traps h hb]

/-- What the issuing split's description holds. -/
theorem ixOf_fields {s : State} {x : Ix} (h : ixOf s = some x) :
    x.s = s ∧ x.lr = s.lrOf x.t ∧ x.sp = x.g.split x.e ∧ s.team? x.g.team = some x.t ∧
      (∃ i, s.issuer = some i ∧ s.group? i.grp = some x.g ∧ x.e = i.e ∧ x.sw = i.sw) ∧ x.g.canIssue = true ∧ x.sp.st = .ready := by
  unfold ixOf at h
  split at h
  · cases h
  · rename_i i hi
    split at h
    · cases h
    · rename_i g hg
      split at h
      · cases h
      · rename_i t ht
        split at h
        · rename_i hc
          rw [Bool.and_eq_true] at hc
          cases h
          exact ⟨rfl, rfl, rfl, ht, ⟨i, hi, hg, rfl, rfl⟩, hc.1, by simpa using hc.2⟩
        · cases h

/-- The answer of a bank command that goes on. -/
theorem bankCmd_goes {s : State} {r : Run} {f : State → Run → BankNx} {t : State} {q : Run} {u : Nat}
    (h : Running s r) (hf : f s r = .go t q u) : bankCmd f s = bankGoes r t q u := by
  unfold bankCmd
  rw [h.names]
  simp only [h.on, hf]
  rfl

/-- The answer of a bank command that ends its run. -/
theorem bankCmd_ends {s : State} {r : Run} {f : State → Run → BankNx} {t : State} {q : Run} {a u b : Nat}
    (h : Running s r) (hf : f s r = .stop t q a u b) : bankCmd f s = bankEnds t q a u b := by
  unfold bankCmd
  rw [h.names]
  simp only [h.on, hf]
  rfl

/-- The answer of an event whose subject is a number. -/
theorem onNum_event {f : State → Nat → State} {s : State} {n : Nat} (h : s.subject = .num n) : onNum f s = event (f s n) := by
  unfold onNum
  rw [h]
  rfl

/-- The answer of an event whose subject is a pair. -/
theorem onPair_event {f : State → Nat → Nat → State} {s : State} {a b : Nat} (h : s.subject = .pair a b) :
    onPair f s = event (f s a b) := by
  unfold onPair
  rw [h]
  rfl

end Sys2Proof.Machine
end

