-- ==== Sys2Proof/Laws/State.lean ====
section
/-! SUPPORT. What each replacement of a part of the state leaves alone: one lemma for each field of the state and each replacement, so that no
proof unfolds a record update. -/

namespace Sys2Proof.Machine

open Sys2Proof

/-! ### `State.setGroup` -/

@[simp] theorem State.setGroup_dev (s : State) (g : Group) : (s.setGroup g).dev = s.dev := rfl
@[simp] theorem State.setGroup_dtime (s : State) (g : Group) : (s.setGroup g).dtime = s.dtime := rfl
@[simp] theorem State.setGroup_frac (s : State) (g : Group) : (s.setGroup g).frac = s.frac := rfl
@[simp] theorem State.setGroup_clock (s : State) (g : Group) : (s.setGroup g).clock = s.clock := rfl
@[simp] theorem State.setGroup_ctxs (s : State) (g : Group) : (s.setGroup g).ctxs = s.ctxs := rfl
@[simp] theorem State.setGroup_launches (s : State) (g : Group) : (s.setGroup g).launches = s.launches := rfl
@[simp] theorem State.setGroup_nextLch (s : State) (g : Group) : (s.setGroup g).nextLch = s.nextLch := rfl
@[simp] theorem State.setGroup_teams (s : State) (g : Group) : (s.setGroup g).teams = s.teams := rfl
@[simp] theorem State.setGroup_cores (s : State) (g : Group) : (s.setGroup g).cores = s.cores := rfl
@[simp] theorem State.setGroup_mem (s : State) (g : Group) : (s.setGroup g).mem = s.mem := rfl
@[simp] theorem State.setGroup_scr (s : State) (g : Group) : (s.setGroup g).scr = s.scr := rfl
@[simp] theorem State.setGroup_dscr (s : State) (g : Group) : (s.setGroup g).dscr = s.dscr := rfl
@[simp] theorem State.setGroup_acc (s : State) (g : Group) : (s.setGroup g).acc = s.acc := rfl
@[simp] theorem State.setGroup_frames (s : State) (g : Group) : (s.setGroup g).frames = s.frames := rfl
@[simp] theorem State.setGroup_homeRecs (s : State) (g : Group) : (s.setGroup g).homeRecs = s.homeRecs := rfl
@[simp] theorem State.setGroup_guests (s : State) (g : Group) : (s.setGroup g).guests = s.guests := rfl
@[simp] theorem State.setGroup_dirs (s : State) (g : Group) : (s.setGroup g).dirs = s.dirs := rfl
@[simp] theorem State.setGroup_l2 (s : State) (g : Group) : (s.setGroup g).l2 = s.l2 := rfl
@[simp] theorem State.setGroup_damage (s : State) (g : Group) : (s.setGroup g).damage = s.damage := rfl
@[simp] theorem State.setGroup_runs (s : State) (g : Group) : (s.setGroup g).runs = s.runs := rfl
@[simp] theorem State.setGroup_refresh (s : State) (g : Group) : (s.setGroup g).refresh = s.refresh := rfl
@[simp] theorem State.setGroup_invals (s : State) (g : Group) : (s.setGroup g).invals = s.invals := rfl
@[simp] theorem State.setGroup_links (s : State) (g : Group) : (s.setGroup g).links = s.links := rfl
@[simp] theorem State.setGroup_remotes (s : State) (g : Group) : (s.setGroup g).remotes = s.remotes := rfl
@[simp] theorem State.setGroup_tokens (s : State) (g : Group) : (s.setGroup g).tokens = s.tokens := rfl
@[simp] theorem State.setGroup_homeToks (s : State) (g : Group) : (s.setGroup g).homeToks = s.homeToks := rfl
@[simp] theorem State.setGroup_lintel (s : State) (g : Group) : (s.setGroup g).lintel = s.lintel := rfl
@[simp] theorem State.setGroup_raises (s : State) (g : Group) : (s.setGroup g).raises = s.raises := rfl
@[simp] theorem State.setGroup_posts (s : State) (g : Group) : (s.setGroup g).posts = s.posts := rfl
@[simp] theorem State.setGroup_wbs (s : State) (g : Group) : (s.setGroup g).wbs = s.wbs := rfl
@[simp] theorem State.setGroup_rowWaits (s : State) (g : Group) : (s.setGroup g).rowWaits = s.rowWaits := rfl
@[simp] theorem State.setGroup_fetched (s : State) (g : Group) : (s.setGroup g).fetched = s.fetched := rfl
@[simp] theorem State.setGroup_laters (s : State) (g : Group) : (s.setGroup g).laters = s.laters := rfl
@[simp] theorem State.setGroup_heldReqs (s : State) (g : Group) : (s.setGroup g).heldReqs = s.heldReqs := rfl
@[simp] theorem State.setGroup_out (s : State) (g : Group) : (s.setGroup g).out = s.out := rfl
@[simp] theorem State.setGroup_agenda (s : State) (g : Group) : (s.setGroup g).agenda = s.agenda := rfl
@[simp] theorem State.setGroup_subject (s : State) (g : Group) : (s.setGroup g).subject = s.subject := rfl
@[simp] theorem State.setGroup_issuer (s : State) (g : Group) : (s.setGroup g).issuer = s.issuer := rfl
@[simp] theorem State.setGroup_curRun (s : State) (g : Group) : (s.setGroup g).curRun = s.curRun := rfl
@[simp] theorem State.setGroup_issued (s : State) (g : Group) : (s.setGroup g).issued = s.issued := rfl
@[simp] theorem State.setGroup_passed (s : State) (g : Group) : (s.setGroup g).passed = s.passed := rfl
@[simp] theorem State.setGroup_draws (s : State) (g : Group) : (s.setGroup g).draws = s.draws := rfl
@[simp] theorem State.setGroup_uid (s : State) (g : Group) : (s.setGroup g).uid = s.uid := rfl

/-! ### `State.setTeam` -/

@[simp] theorem State.setTeam_dev (s : State) (t : Team) : (s.setTeam t).dev = s.dev := rfl
@[simp] theorem State.setTeam_dtime (s : State) (t : Team) : (s.setTeam t).dtime = s.dtime := rfl
@[simp] theorem State.setTeam_frac (s : State) (t : Team) : (s.setTeam t).frac = s.frac := rfl
@[simp] theorem State.setTeam_clock (s : State) (t : Team) : (s.setTeam t).clock = s.clock := rfl
@[simp] theorem State.setTeam_ctxs (s : State) (t : Team) : (s.setTeam t).ctxs = s.ctxs := rfl
@[simp] theorem State.setTeam_launches (s : State) (t : Team) : (s.setTeam t).launches = s.launches := rfl
@[simp] theorem State.setTeam_nextLch (s : State) (t : Team) : (s.setTeam t).nextLch = s.nextLch := rfl
@[simp] theorem State.setTeam_groups (s : State) (t : Team) : (s.setTeam t).groups = s.groups := rfl
@[simp] theorem State.setTeam_cores (s : State) (t : Team) : (s.setTeam t).cores = s.cores := rfl
@[simp] theorem State.setTeam_mem (s : State) (t : Team) : (s.setTeam t).mem = s.mem := rfl
@[simp] theorem State.setTeam_scr (s : State) (t : Team) : (s.setTeam t).scr = s.scr := rfl
@[simp] theorem State.setTeam_dscr (s : State) (t : Team) : (s.setTeam t).dscr = s.dscr := rfl
@[simp] theorem State.setTeam_acc (s : State) (t : Team) : (s.setTeam t).acc = s.acc := rfl
@[simp] theorem State.setTeam_frames (s : State) (t : Team) : (s.setTeam t).frames = s.frames := rfl
@[simp] theorem State.setTeam_homeRecs (s : State) (t : Team) : (s.setTeam t).homeRecs = s.homeRecs := rfl
@[simp] theorem State.setTeam_guests (s : State) (t : Team) : (s.setTeam t).guests = s.guests := rfl
@[simp] theorem State.setTeam_dirs (s : State) (t : Team) : (s.setTeam t).dirs = s.dirs := rfl
@[simp] theorem State.setTeam_l2 (s : State) (t : Team) : (s.setTeam t).l2 = s.l2 := rfl
@[simp] theorem State.setTeam_damage (s : State) (t : Team) : (s.setTeam t).damage = s.damage := rfl
@[simp] theorem State.setTeam_runs (s : State) (t : Team) : (s.setTeam t).runs = s.runs := rfl
@[simp] theorem State.setTeam_refresh (s : State) (t : Team) : (s.setTeam t).refresh = s.refresh := rfl
@[simp] theorem State.setTeam_invals (s : State) (t : Team) : (s.setTeam t).invals = s.invals := rfl
@[simp] theorem State.setTeam_links (s : State) (t : Team) : (s.setTeam t).links = s.links := rfl
@[simp] theorem State.setTeam_remotes (s : State) (t : Team) : (s.setTeam t).remotes = s.remotes := rfl
@[simp] theorem State.setTeam_tokens (s : State) (t : Team) : (s.setTeam t).tokens = s.tokens := rfl
@[simp] theorem State.setTeam_homeToks (s : State) (t : Team) : (s.setTeam t).homeToks = s.homeToks := rfl
@[simp] theorem State.setTeam_lintel (s : State) (t : Team) : (s.setTeam t).lintel = s.lintel := rfl
@[simp] theorem State.setTeam_raises (s : State) (t : Team) : (s.setTeam t).raises = s.raises := rfl
@[simp] theorem State.setTeam_posts (s : State) (t : Team) : (s.setTeam t).posts = s.posts := rfl
@[simp] theorem State.setTeam_wbs (s : State) (t : Team) : (s.setTeam t).wbs = s.wbs := rfl
@[simp] theorem State.setTeam_rowWaits (s : State) (t : Team) : (s.setTeam t).rowWaits = s.rowWaits := rfl
@[simp] theorem State.setTeam_fetched (s : State) (t : Team) : (s.setTeam t).fetched = s.fetched := rfl
@[simp] theorem State.setTeam_laters (s : State) (t : Team) : (s.setTeam t).laters = s.laters := rfl
@[simp] theorem State.setTeam_heldReqs (s : State) (t : Team) : (s.setTeam t).heldReqs = s.heldReqs := rfl
@[simp] theorem State.setTeam_out (s : State) (t : Team) : (s.setTeam t).out = s.out := rfl
@[simp] theorem State.setTeam_agenda (s : State) (t : Team) : (s.setTeam t).agenda = s.agenda := rfl
@[simp] theorem State.setTeam_subject (s : State) (t : Team) : (s.setTeam t).subject = s.subject := rfl
@[simp] theorem State.setTeam_issuer (s : State) (t : Team) : (s.setTeam t).issuer = s.issuer := rfl
@[simp] theorem State.setTeam_curRun (s : State) (t : Team) : (s.setTeam t).curRun = s.curRun := rfl
@[simp] theorem State.setTeam_issued (s : State) (t : Team) : (s.setTeam t).issued = s.issued := rfl
@[simp] theorem State.setTeam_passed (s : State) (t : Team) : (s.setTeam t).passed = s.passed := rfl
@[simp] theorem State.setTeam_draws (s : State) (t : Team) : (s.setTeam t).draws = s.draws := rfl
@[simp] theorem State.setTeam_uid (s : State) (t : Team) : (s.setTeam t).uid = s.uid := rfl

/-! ### `State.setLaunch` -/

@[simp] theorem State.setLaunch_dev (s : State) (l : Launch) : (s.setLaunch l).dev = s.dev := rfl
@[simp] theorem State.setLaunch_dtime (s : State) (l : Launch) : (s.setLaunch l).dtime = s.dtime := rfl
@[simp] theorem State.setLaunch_frac (s : State) (l : Launch) : (s.setLaunch l).frac = s.frac := rfl
@[simp] theorem State.setLaunch_clock (s : State) (l : Launch) : (s.setLaunch l).clock = s.clock := rfl
@[simp] theorem State.setLaunch_ctxs (s : State) (l : Launch) : (s.setLaunch l).ctxs = s.ctxs := rfl
@[simp] theorem State.setLaunch_nextLch (s : State) (l : Launch) : (s.setLaunch l).nextLch = s.nextLch := rfl
@[simp] theorem State.setLaunch_teams (s : State) (l : Launch) : (s.setLaunch l).teams = s.teams := rfl
@[simp] theorem State.setLaunch_groups (s : State) (l : Launch) : (s.setLaunch l).groups = s.groups := rfl
@[simp] theorem State.setLaunch_cores (s : State) (l : Launch) : (s.setLaunch l).cores = s.cores := rfl
@[simp] theorem State.setLaunch_mem (s : State) (l : Launch) : (s.setLaunch l).mem = s.mem := rfl
@[simp] theorem State.setLaunch_scr (s : State) (l : Launch) : (s.setLaunch l).scr = s.scr := rfl
@[simp] theorem State.setLaunch_dscr (s : State) (l : Launch) : (s.setLaunch l).dscr = s.dscr := rfl
@[simp] theorem State.setLaunch_acc (s : State) (l : Launch) : (s.setLaunch l).acc = s.acc := rfl
@[simp] theorem State.setLaunch_frames (s : State) (l : Launch) : (s.setLaunch l).frames = s.frames := rfl
@[simp] theorem State.setLaunch_homeRecs (s : State) (l : Launch) : (s.setLaunch l).homeRecs = s.homeRecs := rfl
@[simp] theorem State.setLaunch_guests (s : State) (l : Launch) : (s.setLaunch l).guests = s.guests := rfl
@[simp] theorem State.setLaunch_dirs (s : State) (l : Launch) : (s.setLaunch l).dirs = s.dirs := rfl
@[simp] theorem State.setLaunch_l2 (s : State) (l : Launch) : (s.setLaunch l).l2 = s.l2 := rfl
@[simp] theorem State.setLaunch_damage (s : State) (l : Launch) : (s.setLaunch l).damage = s.damage := rfl
@[simp] theorem State.setLaunch_runs (s : State) (l : Launch) : (s.setLaunch l).runs = s.runs := rfl
@[simp] theorem State.setLaunch_refresh (s : State) (l : Launch) : (s.setLaunch l).refresh = s.refresh := rfl
@[simp] theorem State.setLaunch_invals (s : State) (l : Launch) : (s.setLaunch l).invals = s.invals := rfl
@[simp] theorem State.setLaunch_links (s : State) (l : Launch) : (s.setLaunch l).links = s.links := rfl
@[simp] theorem State.setLaunch_remotes (s : State) (l : Launch) : (s.setLaunch l).remotes = s.remotes := rfl
@[simp] theorem State.setLaunch_tokens (s : State) (l : Launch) : (s.setLaunch l).tokens = s.tokens := rfl
@[simp] theorem State.setLaunch_homeToks (s : State) (l : Launch) : (s.setLaunch l).homeToks = s.homeToks := rfl
@[simp] theorem State.setLaunch_lintel (s : State) (l : Launch) : (s.setLaunch l).lintel = s.lintel := rfl
@[simp] theorem State.setLaunch_raises (s : State) (l : Launch) : (s.setLaunch l).raises = s.raises := rfl
@[simp] theorem State.setLaunch_posts (s : State) (l : Launch) : (s.setLaunch l).posts = s.posts := rfl
@[simp] theorem State.setLaunch_wbs (s : State) (l : Launch) : (s.setLaunch l).wbs = s.wbs := rfl
@[simp] theorem State.setLaunch_rowWaits (s : State) (l : Launch) : (s.setLaunch l).rowWaits = s.rowWaits := rfl
@[simp] theorem State.setLaunch_fetched (s : State) (l : Launch) : (s.setLaunch l).fetched = s.fetched := rfl
@[simp] theorem State.setLaunch_laters (s : State) (l : Launch) : (s.setLaunch l).laters = s.laters := rfl
@[simp] theorem State.setLaunch_heldReqs (s : State) (l : Launch) : (s.setLaunch l).heldReqs = s.heldReqs := rfl
@[simp] theorem State.setLaunch_out (s : State) (l : Launch) : (s.setLaunch l).out = s.out := rfl
@[simp] theorem State.setLaunch_agenda (s : State) (l : Launch) : (s.setLaunch l).agenda = s.agenda := rfl
@[simp] theorem State.setLaunch_subject (s : State) (l : Launch) : (s.setLaunch l).subject = s.subject := rfl
@[simp] theorem State.setLaunch_issuer (s : State) (l : Launch) : (s.setLaunch l).issuer = s.issuer := rfl
@[simp] theorem State.setLaunch_curRun (s : State) (l : Launch) : (s.setLaunch l).curRun = s.curRun := rfl
@[simp] theorem State.setLaunch_issued (s : State) (l : Launch) : (s.setLaunch l).issued = s.issued := rfl
@[simp] theorem State.setLaunch_passed (s : State) (l : Launch) : (s.setLaunch l).passed = s.passed := rfl
@[simp] theorem State.setLaunch_draws (s : State) (l : Launch) : (s.setLaunch l).draws = s.draws := rfl
@[simp] theorem State.setLaunch_uid (s : State) (l : Launch) : (s.setLaunch l).uid = s.uid := rfl

/-! ### `State.setCore` -/

@[simp] theorem State.setCore_dev (s : State) (c : Nat) (x : CoreSt) : (s.setCore c x).dev = s.dev := rfl
@[simp] theorem State.setCore_dtime (s : State) (c : Nat) (x : CoreSt) : (s.setCore c x).dtime = s.dtime := rfl
@[simp] theorem State.setCore_frac (s : State) (c : Nat) (x : CoreSt) : (s.setCore c x).frac = s.frac := rfl
@[simp] theorem State.setCore_clock (s : State) (c : Nat) (x : CoreSt) : (s.setCore c x).clock = s.clock := rfl
@[simp] theorem State.setCore_ctxs (s : State) (c : Nat) (x : CoreSt) : (s.setCore c x).ctxs = s.ctxs := rfl
@[simp] theorem State.setCore_launches (s : State) (c : Nat) (x : CoreSt) : (s.setCore c x).launches = s.launches := rfl
@[simp] theorem State.setCore_nextLch (s : State) (c : Nat) (x : CoreSt) : (s.setCore c x).nextLch = s.nextLch := rfl
@[simp] theorem State.setCore_teams (s : State) (c : Nat) (x : CoreSt) : (s.setCore c x).teams = s.teams := rfl
@[simp] theorem State.setCore_groups (s : State) (c : Nat) (x : CoreSt) : (s.setCore c x).groups = s.groups := rfl
@[simp] theorem State.setCore_mem (s : State) (c : Nat) (x : CoreSt) : (s.setCore c x).mem = s.mem := rfl
@[simp] theorem State.setCore_scr (s : State) (c : Nat) (x : CoreSt) : (s.setCore c x).scr = s.scr := rfl
@[simp] theorem State.setCore_dscr (s : State) (c : Nat) (x : CoreSt) : (s.setCore c x).dscr = s.dscr := rfl
@[simp] theorem State.setCore_acc (s : State) (c : Nat) (x : CoreSt) : (s.setCore c x).acc = s.acc := rfl
@[simp] theorem State.setCore_frames (s : State) (c : Nat) (x : CoreSt) : (s.setCore c x).frames = s.frames := rfl
@[simp] theorem State.setCore_homeRecs (s : State) (c : Nat) (x : CoreSt) : (s.setCore c x).homeRecs = s.homeRecs := rfl
@[simp] theorem State.setCore_guests (s : State) (c : Nat) (x : CoreSt) : (s.setCore c x).guests = s.guests := rfl
@[simp] theorem State.setCore_dirs (s : State) (c : Nat) (x : CoreSt) : (s.setCore c x).dirs = s.dirs := rfl
@[simp] theorem State.setCore_l2 (s : State) (c : Nat) (x : CoreSt) : (s.setCore c x).l2 = s.l2 := rfl
@[simp] theorem State.setCore_damage (s : State) (c : Nat) (x : CoreSt) : (s.setCore c x).damage = s.damage := rfl
@[simp] theorem State.setCore_runs (s : State) (c : Nat) (x : CoreSt) : (s.setCore c x).runs = s.runs := rfl
@[simp] theorem State.setCore_refresh (s : State) (c : Nat) (x : CoreSt) : (s.setCore c x).refresh = s.refresh := rfl
@[simp] theorem State.setCore_invals (s : State) (c : Nat) (x : CoreSt) : (s.setCore c x).invals = s.invals := rfl
@[simp] theorem State.setCore_links (s : State) (c : Nat) (x : CoreSt) : (s.setCore c x).links = s.links := rfl
@[simp] theorem State.setCore_remotes (s : State) (c : Nat) (x : CoreSt) : (s.setCore c x).remotes = s.remotes := rfl
@[simp] theorem State.setCore_tokens (s : State) (c : Nat) (x : CoreSt) : (s.setCore c x).tokens = s.tokens := rfl
@[simp] theorem State.setCore_homeToks (s : State) (c : Nat) (x : CoreSt) : (s.setCore c x).homeToks = s.homeToks := rfl
@[simp] theorem State.setCore_lintel (s : State) (c : Nat) (x : CoreSt) : (s.setCore c x).lintel = s.lintel := rfl
@[simp] theorem State.setCore_raises (s : State) (c : Nat) (x : CoreSt) : (s.setCore c x).raises = s.raises := rfl
@[simp] theorem State.setCore_posts (s : State) (c : Nat) (x : CoreSt) : (s.setCore c x).posts = s.posts := rfl
@[simp] theorem State.setCore_wbs (s : State) (c : Nat) (x : CoreSt) : (s.setCore c x).wbs = s.wbs := rfl
@[simp] theorem State.setCore_rowWaits (s : State) (c : Nat) (x : CoreSt) : (s.setCore c x).rowWaits = s.rowWaits := rfl
@[simp] theorem State.setCore_fetched (s : State) (c : Nat) (x : CoreSt) : (s.setCore c x).fetched = s.fetched := rfl
@[simp] theorem State.setCore_laters (s : State) (c : Nat) (x : CoreSt) : (s.setCore c x).laters = s.laters := rfl
@[simp] theorem State.setCore_heldReqs (s : State) (c : Nat) (x : CoreSt) : (s.setCore c x).heldReqs = s.heldReqs := rfl
@[simp] theorem State.setCore_out (s : State) (c : Nat) (x : CoreSt) : (s.setCore c x).out = s.out := rfl
@[simp] theorem State.setCore_agenda (s : State) (c : Nat) (x : CoreSt) : (s.setCore c x).agenda = s.agenda := rfl
@[simp] theorem State.setCore_subject (s : State) (c : Nat) (x : CoreSt) : (s.setCore c x).subject = s.subject := rfl
@[simp] theorem State.setCore_issuer (s : State) (c : Nat) (x : CoreSt) : (s.setCore c x).issuer = s.issuer := rfl
@[simp] theorem State.setCore_curRun (s : State) (c : Nat) (x : CoreSt) : (s.setCore c x).curRun = s.curRun := rfl
@[simp] theorem State.setCore_issued (s : State) (c : Nat) (x : CoreSt) : (s.setCore c x).issued = s.issued := rfl
@[simp] theorem State.setCore_passed (s : State) (c : Nat) (x : CoreSt) : (s.setCore c x).passed = s.passed := rfl
@[simp] theorem State.setCore_draws (s : State) (c : Nat) (x : CoreSt) : (s.setCore c x).draws = s.draws := rfl
@[simp] theorem State.setCore_uid (s : State) (c : Nat) (x : CoreSt) : (s.setCore c x).uid = s.uid := rfl

/-! ### `State.setCtx` -/

@[simp] theorem State.setCtx_dev (s : State) (c : Nat) (x : Ctx) : (s.setCtx c x).dev = s.dev := rfl
@[simp] theorem State.setCtx_dtime (s : State) (c : Nat) (x : Ctx) : (s.setCtx c x).dtime = s.dtime := rfl
@[simp] theorem State.setCtx_frac (s : State) (c : Nat) (x : Ctx) : (s.setCtx c x).frac = s.frac := rfl
@[simp] theorem State.setCtx_clock (s : State) (c : Nat) (x : Ctx) : (s.setCtx c x).clock = s.clock := rfl
@[simp] theorem State.setCtx_launches (s : State) (c : Nat) (x : Ctx) : (s.setCtx c x).launches = s.launches := rfl
@[simp] theorem State.setCtx_nextLch (s : State) (c : Nat) (x : Ctx) : (s.setCtx c x).nextLch = s.nextLch := rfl
@[simp] theorem State.setCtx_teams (s : State) (c : Nat) (x : Ctx) : (s.setCtx c x).teams = s.teams := rfl
@[simp] theorem State.setCtx_groups (s : State) (c : Nat) (x : Ctx) : (s.setCtx c x).groups = s.groups := rfl
@[simp] theorem State.setCtx_cores (s : State) (c : Nat) (x : Ctx) : (s.setCtx c x).cores = s.cores := rfl
@[simp] theorem State.setCtx_mem (s : State) (c : Nat) (x : Ctx) : (s.setCtx c x).mem = s.mem := rfl
@[simp] theorem State.setCtx_scr (s : State) (c : Nat) (x : Ctx) : (s.setCtx c x).scr = s.scr := rfl
@[simp] theorem State.setCtx_dscr (s : State) (c : Nat) (x : Ctx) : (s.setCtx c x).dscr = s.dscr := rfl
@[simp] theorem State.setCtx_acc (s : State) (c : Nat) (x : Ctx) : (s.setCtx c x).acc = s.acc := rfl
@[simp] theorem State.setCtx_frames (s : State) (c : Nat) (x : Ctx) : (s.setCtx c x).frames = s.frames := rfl
@[simp] theorem State.setCtx_homeRecs (s : State) (c : Nat) (x : Ctx) : (s.setCtx c x).homeRecs = s.homeRecs := rfl
@[simp] theorem State.setCtx_guests (s : State) (c : Nat) (x : Ctx) : (s.setCtx c x).guests = s.guests := rfl
@[simp] theorem State.setCtx_dirs (s : State) (c : Nat) (x : Ctx) : (s.setCtx c x).dirs = s.dirs := rfl
@[simp] theorem State.setCtx_l2 (s : State) (c : Nat) (x : Ctx) : (s.setCtx c x).l2 = s.l2 := rfl
@[simp] theorem State.setCtx_damage (s : State) (c : Nat) (x : Ctx) : (s.setCtx c x).damage = s.damage := rfl
@[simp] theorem State.setCtx_runs (s : State) (c : Nat) (x : Ctx) : (s.setCtx c x).runs = s.runs := rfl
@[simp] theorem State.setCtx_refresh (s : State) (c : Nat) (x : Ctx) : (s.setCtx c x).refresh = s.refresh := rfl
@[simp] theorem State.setCtx_invals (s : State) (c : Nat) (x : Ctx) : (s.setCtx c x).invals = s.invals := rfl
@[simp] theorem State.setCtx_links (s : State) (c : Nat) (x : Ctx) : (s.setCtx c x).links = s.links := rfl
@[simp] theorem State.setCtx_remotes (s : State) (c : Nat) (x : Ctx) : (s.setCtx c x).remotes = s.remotes := rfl
@[simp] theorem State.setCtx_tokens (s : State) (c : Nat) (x : Ctx) : (s.setCtx c x).tokens = s.tokens := rfl
@[simp] theorem State.setCtx_homeToks (s : State) (c : Nat) (x : Ctx) : (s.setCtx c x).homeToks = s.homeToks := rfl
@[simp] theorem State.setCtx_lintel (s : State) (c : Nat) (x : Ctx) : (s.setCtx c x).lintel = s.lintel := rfl
@[simp] theorem State.setCtx_raises (s : State) (c : Nat) (x : Ctx) : (s.setCtx c x).raises = s.raises := rfl
@[simp] theorem State.setCtx_posts (s : State) (c : Nat) (x : Ctx) : (s.setCtx c x).posts = s.posts := rfl
@[simp] theorem State.setCtx_wbs (s : State) (c : Nat) (x : Ctx) : (s.setCtx c x).wbs = s.wbs := rfl
@[simp] theorem State.setCtx_rowWaits (s : State) (c : Nat) (x : Ctx) : (s.setCtx c x).rowWaits = s.rowWaits := rfl
@[simp] theorem State.setCtx_fetched (s : State) (c : Nat) (x : Ctx) : (s.setCtx c x).fetched = s.fetched := rfl
@[simp] theorem State.setCtx_laters (s : State) (c : Nat) (x : Ctx) : (s.setCtx c x).laters = s.laters := rfl
@[simp] theorem State.setCtx_heldReqs (s : State) (c : Nat) (x : Ctx) : (s.setCtx c x).heldReqs = s.heldReqs := rfl
@[simp] theorem State.setCtx_out (s : State) (c : Nat) (x : Ctx) : (s.setCtx c x).out = s.out := rfl
@[simp] theorem State.setCtx_agenda (s : State) (c : Nat) (x : Ctx) : (s.setCtx c x).agenda = s.agenda := rfl
@[simp] theorem State.setCtx_subject (s : State) (c : Nat) (x : Ctx) : (s.setCtx c x).subject = s.subject := rfl
@[simp] theorem State.setCtx_issuer (s : State) (c : Nat) (x : Ctx) : (s.setCtx c x).issuer = s.issuer := rfl
@[simp] theorem State.setCtx_curRun (s : State) (c : Nat) (x : Ctx) : (s.setCtx c x).curRun = s.curRun := rfl
@[simp] theorem State.setCtx_issued (s : State) (c : Nat) (x : Ctx) : (s.setCtx c x).issued = s.issued := rfl
@[simp] theorem State.setCtx_passed (s : State) (c : Nat) (x : Ctx) : (s.setCtx c x).passed = s.passed := rfl
@[simp] theorem State.setCtx_draws (s : State) (c : Nat) (x : Ctx) : (s.setCtx c x).draws = s.draws := rfl
@[simp] theorem State.setCtx_uid (s : State) (c : Nat) (x : Ctx) : (s.setCtx c x).uid = s.uid := rfl

/-! ### `State.setFrame` -/

@[simp] theorem State.setFrame_dev (s : State) (f : Nat) (x : Frame) : (s.setFrame f x).dev = s.dev := rfl
@[simp] theorem State.setFrame_dtime (s : State) (f : Nat) (x : Frame) : (s.setFrame f x).dtime = s.dtime := rfl
@[simp] theorem State.setFrame_frac (s : State) (f : Nat) (x : Frame) : (s.setFrame f x).frac = s.frac := rfl
@[simp] theorem State.setFrame_clock (s : State) (f : Nat) (x : Frame) : (s.setFrame f x).clock = s.clock := rfl
@[simp] theorem State.setFrame_ctxs (s : State) (f : Nat) (x : Frame) : (s.setFrame f x).ctxs = s.ctxs := rfl
@[simp] theorem State.setFrame_launches (s : State) (f : Nat) (x : Frame) : (s.setFrame f x).launches = s.launches := rfl
@[simp] theorem State.setFrame_nextLch (s : State) (f : Nat) (x : Frame) : (s.setFrame f x).nextLch = s.nextLch := rfl
@[simp] theorem State.setFrame_teams (s : State) (f : Nat) (x : Frame) : (s.setFrame f x).teams = s.teams := rfl
@[simp] theorem State.setFrame_groups (s : State) (f : Nat) (x : Frame) : (s.setFrame f x).groups = s.groups := rfl
@[simp] theorem State.setFrame_cores (s : State) (f : Nat) (x : Frame) : (s.setFrame f x).cores = s.cores := rfl
@[simp] theorem State.setFrame_mem (s : State) (f : Nat) (x : Frame) : (s.setFrame f x).mem = s.mem := rfl
@[simp] theorem State.setFrame_scr (s : State) (f : Nat) (x : Frame) : (s.setFrame f x).scr = s.scr := rfl
@[simp] theorem State.setFrame_dscr (s : State) (f : Nat) (x : Frame) : (s.setFrame f x).dscr = s.dscr := rfl
@[simp] theorem State.setFrame_acc (s : State) (f : Nat) (x : Frame) : (s.setFrame f x).acc = s.acc := rfl
@[simp] theorem State.setFrame_homeRecs (s : State) (f : Nat) (x : Frame) : (s.setFrame f x).homeRecs = s.homeRecs := rfl
@[simp] theorem State.setFrame_guests (s : State) (f : Nat) (x : Frame) : (s.setFrame f x).guests = s.guests := rfl
@[simp] theorem State.setFrame_dirs (s : State) (f : Nat) (x : Frame) : (s.setFrame f x).dirs = s.dirs := rfl
@[simp] theorem State.setFrame_l2 (s : State) (f : Nat) (x : Frame) : (s.setFrame f x).l2 = s.l2 := rfl
@[simp] theorem State.setFrame_damage (s : State) (f : Nat) (x : Frame) : (s.setFrame f x).damage = s.damage := rfl
@[simp] theorem State.setFrame_runs (s : State) (f : Nat) (x : Frame) : (s.setFrame f x).runs = s.runs := rfl
@[simp] theorem State.setFrame_refresh (s : State) (f : Nat) (x : Frame) : (s.setFrame f x).refresh = s.refresh := rfl
@[simp] theorem State.setFrame_invals (s : State) (f : Nat) (x : Frame) : (s.setFrame f x).invals = s.invals := rfl
@[simp] theorem State.setFrame_links (s : State) (f : Nat) (x : Frame) : (s.setFrame f x).links = s.links := rfl
@[simp] theorem State.setFrame_remotes (s : State) (f : Nat) (x : Frame) : (s.setFrame f x).remotes = s.remotes := rfl
@[simp] theorem State.setFrame_tokens (s : State) (f : Nat) (x : Frame) : (s.setFrame f x).tokens = s.tokens := rfl
@[simp] theorem State.setFrame_homeToks (s : State) (f : Nat) (x : Frame) : (s.setFrame f x).homeToks = s.homeToks := rfl
@[simp] theorem State.setFrame_lintel (s : State) (f : Nat) (x : Frame) : (s.setFrame f x).lintel = s.lintel := rfl
@[simp] theorem State.setFrame_raises (s : State) (f : Nat) (x : Frame) : (s.setFrame f x).raises = s.raises := rfl
@[simp] theorem State.setFrame_posts (s : State) (f : Nat) (x : Frame) : (s.setFrame f x).posts = s.posts := rfl
@[simp] theorem State.setFrame_wbs (s : State) (f : Nat) (x : Frame) : (s.setFrame f x).wbs = s.wbs := rfl
@[simp] theorem State.setFrame_rowWaits (s : State) (f : Nat) (x : Frame) : (s.setFrame f x).rowWaits = s.rowWaits := rfl
@[simp] theorem State.setFrame_fetched (s : State) (f : Nat) (x : Frame) : (s.setFrame f x).fetched = s.fetched := rfl
@[simp] theorem State.setFrame_laters (s : State) (f : Nat) (x : Frame) : (s.setFrame f x).laters = s.laters := rfl
@[simp] theorem State.setFrame_heldReqs (s : State) (f : Nat) (x : Frame) : (s.setFrame f x).heldReqs = s.heldReqs := rfl
@[simp] theorem State.setFrame_out (s : State) (f : Nat) (x : Frame) : (s.setFrame f x).out = s.out := rfl
@[simp] theorem State.setFrame_agenda (s : State) (f : Nat) (x : Frame) : (s.setFrame f x).agenda = s.agenda := rfl
@[simp] theorem State.setFrame_subject (s : State) (f : Nat) (x : Frame) : (s.setFrame f x).subject = s.subject := rfl
@[simp] theorem State.setFrame_issuer (s : State) (f : Nat) (x : Frame) : (s.setFrame f x).issuer = s.issuer := rfl
@[simp] theorem State.setFrame_curRun (s : State) (f : Nat) (x : Frame) : (s.setFrame f x).curRun = s.curRun := rfl
@[simp] theorem State.setFrame_issued (s : State) (f : Nat) (x : Frame) : (s.setFrame f x).issued = s.issued := rfl
@[simp] theorem State.setFrame_passed (s : State) (f : Nat) (x : Frame) : (s.setFrame f x).passed = s.passed := rfl
@[simp] theorem State.setFrame_draws (s : State) (f : Nat) (x : Frame) : (s.setFrame f x).draws = s.draws := rfl
@[simp] theorem State.setFrame_uid (s : State) (f : Nat) (x : Frame) : (s.setFrame f x).uid = s.uid := rfl

/-! ### `State.setRun` -/

@[simp] theorem State.setRun_dev (s : State) (r : Run) : (s.setRun r).dev = s.dev := rfl
@[simp] theorem State.setRun_dtime (s : State) (r : Run) : (s.setRun r).dtime = s.dtime := rfl
@[simp] theorem State.setRun_frac (s : State) (r : Run) : (s.setRun r).frac = s.frac := rfl
@[simp] theorem State.setRun_clock (s : State) (r : Run) : (s.setRun r).clock = s.clock := rfl
@[simp] theorem State.setRun_ctxs (s : State) (r : Run) : (s.setRun r).ctxs = s.ctxs := rfl
@[simp] theorem State.setRun_launches (s : State) (r : Run) : (s.setRun r).launches = s.launches := rfl
@[simp] theorem State.setRun_nextLch (s : State) (r : Run) : (s.setRun r).nextLch = s.nextLch := rfl
@[simp] theorem State.setRun_teams (s : State) (r : Run) : (s.setRun r).teams = s.teams := rfl
@[simp] theorem State.setRun_groups (s : State) (r : Run) : (s.setRun r).groups = s.groups := rfl
@[simp] theorem State.setRun_cores (s : State) (r : Run) : (s.setRun r).cores = s.cores := rfl
@[simp] theorem State.setRun_mem (s : State) (r : Run) : (s.setRun r).mem = s.mem := rfl
@[simp] theorem State.setRun_scr (s : State) (r : Run) : (s.setRun r).scr = s.scr := rfl
@[simp] theorem State.setRun_dscr (s : State) (r : Run) : (s.setRun r).dscr = s.dscr := rfl
@[simp] theorem State.setRun_acc (s : State) (r : Run) : (s.setRun r).acc = s.acc := rfl
@[simp] theorem State.setRun_frames (s : State) (r : Run) : (s.setRun r).frames = s.frames := rfl
@[simp] theorem State.setRun_homeRecs (s : State) (r : Run) : (s.setRun r).homeRecs = s.homeRecs := rfl
@[simp] theorem State.setRun_guests (s : State) (r : Run) : (s.setRun r).guests = s.guests := rfl
@[simp] theorem State.setRun_dirs (s : State) (r : Run) : (s.setRun r).dirs = s.dirs := rfl
@[simp] theorem State.setRun_l2 (s : State) (r : Run) : (s.setRun r).l2 = s.l2 := rfl
@[simp] theorem State.setRun_damage (s : State) (r : Run) : (s.setRun r).damage = s.damage := rfl
@[simp] theorem State.setRun_refresh (s : State) (r : Run) : (s.setRun r).refresh = s.refresh := rfl
@[simp] theorem State.setRun_invals (s : State) (r : Run) : (s.setRun r).invals = s.invals := rfl
@[simp] theorem State.setRun_links (s : State) (r : Run) : (s.setRun r).links = s.links := rfl
@[simp] theorem State.setRun_remotes (s : State) (r : Run) : (s.setRun r).remotes = s.remotes := rfl
@[simp] theorem State.setRun_tokens (s : State) (r : Run) : (s.setRun r).tokens = s.tokens := rfl
@[simp] theorem State.setRun_homeToks (s : State) (r : Run) : (s.setRun r).homeToks = s.homeToks := rfl
@[simp] theorem State.setRun_lintel (s : State) (r : Run) : (s.setRun r).lintel = s.lintel := rfl
@[simp] theorem State.setRun_raises (s : State) (r : Run) : (s.setRun r).raises = s.raises := rfl
@[simp] theorem State.setRun_posts (s : State) (r : Run) : (s.setRun r).posts = s.posts := rfl
@[simp] theorem State.setRun_wbs (s : State) (r : Run) : (s.setRun r).wbs = s.wbs := rfl
@[simp] theorem State.setRun_rowWaits (s : State) (r : Run) : (s.setRun r).rowWaits = s.rowWaits := rfl
@[simp] theorem State.setRun_fetched (s : State) (r : Run) : (s.setRun r).fetched = s.fetched := rfl
@[simp] theorem State.setRun_laters (s : State) (r : Run) : (s.setRun r).laters = s.laters := rfl
@[simp] theorem State.setRun_heldReqs (s : State) (r : Run) : (s.setRun r).heldReqs = s.heldReqs := rfl
@[simp] theorem State.setRun_out (s : State) (r : Run) : (s.setRun r).out = s.out := rfl
@[simp] theorem State.setRun_agenda (s : State) (r : Run) : (s.setRun r).agenda = s.agenda := rfl
@[simp] theorem State.setRun_subject (s : State) (r : Run) : (s.setRun r).subject = s.subject := rfl
@[simp] theorem State.setRun_issuer (s : State) (r : Run) : (s.setRun r).issuer = s.issuer := rfl
@[simp] theorem State.setRun_curRun (s : State) (r : Run) : (s.setRun r).curRun = s.curRun := rfl
@[simp] theorem State.setRun_issued (s : State) (r : Run) : (s.setRun r).issued = s.issued := rfl
@[simp] theorem State.setRun_passed (s : State) (r : Run) : (s.setRun r).passed = s.passed := rfl
@[simp] theorem State.setRun_draws (s : State) (r : Run) : (s.setRun r).draws = s.draws := rfl
@[simp] theorem State.setRun_uid (s : State) (r : Run) : (s.setRun r).uid = s.uid := rfl

/-! ### `State.send` -/

@[simp] theorem State.send_dev (s : State) (m : OutMsg) : (s.send m).dev = s.dev := rfl
@[simp] theorem State.send_dtime (s : State) (m : OutMsg) : (s.send m).dtime = s.dtime := rfl
@[simp] theorem State.send_frac (s : State) (m : OutMsg) : (s.send m).frac = s.frac := rfl
@[simp] theorem State.send_clock (s : State) (m : OutMsg) : (s.send m).clock = s.clock := rfl
@[simp] theorem State.send_ctxs (s : State) (m : OutMsg) : (s.send m).ctxs = s.ctxs := rfl
@[simp] theorem State.send_launches (s : State) (m : OutMsg) : (s.send m).launches = s.launches := rfl
@[simp] theorem State.send_nextLch (s : State) (m : OutMsg) : (s.send m).nextLch = s.nextLch := rfl
@[simp] theorem State.send_teams (s : State) (m : OutMsg) : (s.send m).teams = s.teams := rfl
@[simp] theorem State.send_groups (s : State) (m : OutMsg) : (s.send m).groups = s.groups := rfl
@[simp] theorem State.send_cores (s : State) (m : OutMsg) : (s.send m).cores = s.cores := rfl
@[simp] theorem State.send_mem (s : State) (m : OutMsg) : (s.send m).mem = s.mem := rfl
@[simp] theorem State.send_scr (s : State) (m : OutMsg) : (s.send m).scr = s.scr := rfl
@[simp] theorem State.send_dscr (s : State) (m : OutMsg) : (s.send m).dscr = s.dscr := rfl
@[simp] theorem State.send_acc (s : State) (m : OutMsg) : (s.send m).acc = s.acc := rfl
@[simp] theorem State.send_frames (s : State) (m : OutMsg) : (s.send m).frames = s.frames := rfl
@[simp] theorem State.send_homeRecs (s : State) (m : OutMsg) : (s.send m).homeRecs = s.homeRecs := rfl
@[simp] theorem State.send_guests (s : State) (m : OutMsg) : (s.send m).guests = s.guests := rfl
@[simp] theorem State.send_dirs (s : State) (m : OutMsg) : (s.send m).dirs = s.dirs := rfl
@[simp] theorem State.send_l2 (s : State) (m : OutMsg) : (s.send m).l2 = s.l2 := rfl
@[simp] theorem State.send_damage (s : State) (m : OutMsg) : (s.send m).damage = s.damage := rfl
@[simp] theorem State.send_runs (s : State) (m : OutMsg) : (s.send m).runs = s.runs := rfl
@[simp] theorem State.send_refresh (s : State) (m : OutMsg) : (s.send m).refresh = s.refresh := rfl
@[simp] theorem State.send_invals (s : State) (m : OutMsg) : (s.send m).invals = s.invals := rfl
@[simp] theorem State.send_links (s : State) (m : OutMsg) : (s.send m).links = s.links := rfl
@[simp] theorem State.send_remotes (s : State) (m : OutMsg) : (s.send m).remotes = s.remotes := rfl
@[simp] theorem State.send_tokens (s : State) (m : OutMsg) : (s.send m).tokens = s.tokens := rfl
@[simp] theorem State.send_homeToks (s : State) (m : OutMsg) : (s.send m).homeToks = s.homeToks := rfl
@[simp] theorem State.send_lintel (s : State) (m : OutMsg) : (s.send m).lintel = s.lintel := rfl
@[simp] theorem State.send_raises (s : State) (m : OutMsg) : (s.send m).raises = s.raises := rfl
@[simp] theorem State.send_posts (s : State) (m : OutMsg) : (s.send m).posts = s.posts := rfl
@[simp] theorem State.send_wbs (s : State) (m : OutMsg) : (s.send m).wbs = s.wbs := rfl
@[simp] theorem State.send_rowWaits (s : State) (m : OutMsg) : (s.send m).rowWaits = s.rowWaits := rfl
@[simp] theorem State.send_fetched (s : State) (m : OutMsg) : (s.send m).fetched = s.fetched := rfl
@[simp] theorem State.send_laters (s : State) (m : OutMsg) : (s.send m).laters = s.laters := rfl
@[simp] theorem State.send_heldReqs (s : State) (m : OutMsg) : (s.send m).heldReqs = s.heldReqs := rfl
@[simp] theorem State.send_agenda (s : State) (m : OutMsg) : (s.send m).agenda = s.agenda := rfl
@[simp] theorem State.send_subject (s : State) (m : OutMsg) : (s.send m).subject = s.subject := rfl
@[simp] theorem State.send_issuer (s : State) (m : OutMsg) : (s.send m).issuer = s.issuer := rfl
@[simp] theorem State.send_curRun (s : State) (m : OutMsg) : (s.send m).curRun = s.curRun := rfl
@[simp] theorem State.send_issued (s : State) (m : OutMsg) : (s.send m).issued = s.issued := rfl
@[simp] theorem State.send_passed (s : State) (m : OutMsg) : (s.send m).passed = s.passed := rfl
@[simp] theorem State.send_draws (s : State) (m : OutMsg) : (s.send m).draws = s.draws := rfl
@[simp] theorem State.send_uid (s : State) (m : OutMsg) : (s.send m).uid = s.uid := rfl

/-! ### `State.fresh` -/

@[simp] theorem State.fresh_dev (s : State) : (s.fresh).dev = s.dev := rfl
@[simp] theorem State.fresh_dtime (s : State) : (s.fresh).dtime = s.dtime := rfl
@[simp] theorem State.fresh_frac (s : State) : (s.fresh).frac = s.frac := rfl
@[simp] theorem State.fresh_clock (s : State) : (s.fresh).clock = s.clock := rfl
@[simp] theorem State.fresh_ctxs (s : State) : (s.fresh).ctxs = s.ctxs := rfl
@[simp] theorem State.fresh_launches (s : State) : (s.fresh).launches = s.launches := rfl
@[simp] theorem State.fresh_nextLch (s : State) : (s.fresh).nextLch = s.nextLch := rfl
@[simp] theorem State.fresh_teams (s : State) : (s.fresh).teams = s.teams := rfl
@[simp] theorem State.fresh_groups (s : State) : (s.fresh).groups = s.groups := rfl
@[simp] theorem State.fresh_cores (s : State) : (s.fresh).cores = s.cores := rfl
@[simp] theorem State.fresh_mem (s : State) : (s.fresh).mem = s.mem := rfl
@[simp] theorem State.fresh_scr (s : State) : (s.fresh).scr = s.scr := rfl
@[simp] theorem State.fresh_dscr (s : State) : (s.fresh).dscr = s.dscr := rfl
@[simp] theorem State.fresh_acc (s : State) : (s.fresh).acc = s.acc := rfl
@[simp] theorem State.fresh_frames (s : State) : (s.fresh).frames = s.frames := rfl
@[simp] theorem State.fresh_homeRecs (s : State) : (s.fresh).homeRecs = s.homeRecs := rfl
@[simp] theorem State.fresh_guests (s : State) : (s.fresh).guests = s.guests := rfl
@[simp] theorem State.fresh_dirs (s : State) : (s.fresh).dirs = s.dirs := rfl
@[simp] theorem State.fresh_l2 (s : State) : (s.fresh).l2 = s.l2 := rfl
@[simp] theorem State.fresh_damage (s : State) : (s.fresh).damage = s.damage := rfl
@[simp] theorem State.fresh_runs (s : State) : (s.fresh).runs = s.runs := rfl
@[simp] theorem State.fresh_refresh (s : State) : (s.fresh).refresh = s.refresh := rfl
@[simp] theorem State.fresh_invals (s : State) : (s.fresh).invals = s.invals := rfl
@[simp] theorem State.fresh_links (s : State) : (s.fresh).links = s.links := rfl
@[simp] theorem State.fresh_remotes (s : State) : (s.fresh).remotes = s.remotes := rfl
@[simp] theorem State.fresh_tokens (s : State) : (s.fresh).tokens = s.tokens := rfl
@[simp] theorem State.fresh_homeToks (s : State) : (s.fresh).homeToks = s.homeToks := rfl
@[simp] theorem State.fresh_lintel (s : State) : (s.fresh).lintel = s.lintel := rfl
@[simp] theorem State.fresh_raises (s : State) : (s.fresh).raises = s.raises := rfl
@[simp] theorem State.fresh_posts (s : State) : (s.fresh).posts = s.posts := rfl
@[simp] theorem State.fresh_wbs (s : State) : (s.fresh).wbs = s.wbs := rfl
@[simp] theorem State.fresh_rowWaits (s : State) : (s.fresh).rowWaits = s.rowWaits := rfl
@[simp] theorem State.fresh_fetched (s : State) : (s.fresh).fetched = s.fetched := rfl
@[simp] theorem State.fresh_laters (s : State) : (s.fresh).laters = s.laters := rfl
@[simp] theorem State.fresh_heldReqs (s : State) : (s.fresh).heldReqs = s.heldReqs := rfl
@[simp] theorem State.fresh_out (s : State) : (s.fresh).out = s.out := rfl
@[simp] theorem State.fresh_agenda (s : State) : (s.fresh).agenda = s.agenda := rfl
@[simp] theorem State.fresh_subject (s : State) : (s.fresh).subject = s.subject := rfl
@[simp] theorem State.fresh_issuer (s : State) : (s.fresh).issuer = s.issuer := rfl
@[simp] theorem State.fresh_curRun (s : State) : (s.fresh).curRun = s.curRun := rfl
@[simp] theorem State.fresh_issued (s : State) : (s.fresh).issued = s.issued := rfl
@[simp] theorem State.fresh_passed (s : State) : (s.fresh).passed = s.passed := rfl
@[simp] theorem State.fresh_draws (s : State) : (s.fresh).draws = s.draws := rfl

/-! ### `State.setHome` -/

@[simp] theorem State.setHome_dev (s : State) (pa : Nat) (b : List Byte) : (s.setHome pa b).dev = s.dev := rfl
@[simp] theorem State.setHome_dtime (s : State) (pa : Nat) (b : List Byte) : (s.setHome pa b).dtime = s.dtime := rfl
@[simp] theorem State.setHome_frac (s : State) (pa : Nat) (b : List Byte) : (s.setHome pa b).frac = s.frac := rfl
@[simp] theorem State.setHome_clock (s : State) (pa : Nat) (b : List Byte) : (s.setHome pa b).clock = s.clock := rfl
@[simp] theorem State.setHome_ctxs (s : State) (pa : Nat) (b : List Byte) : (s.setHome pa b).ctxs = s.ctxs := rfl
@[simp] theorem State.setHome_launches (s : State) (pa : Nat) (b : List Byte) : (s.setHome pa b).launches = s.launches := rfl
@[simp] theorem State.setHome_nextLch (s : State) (pa : Nat) (b : List Byte) : (s.setHome pa b).nextLch = s.nextLch := rfl
@[simp] theorem State.setHome_teams (s : State) (pa : Nat) (b : List Byte) : (s.setHome pa b).teams = s.teams := rfl
@[simp] theorem State.setHome_groups (s : State) (pa : Nat) (b : List Byte) : (s.setHome pa b).groups = s.groups := rfl
@[simp] theorem State.setHome_cores (s : State) (pa : Nat) (b : List Byte) : (s.setHome pa b).cores = s.cores := rfl
@[simp] theorem State.setHome_scr (s : State) (pa : Nat) (b : List Byte) : (s.setHome pa b).scr = s.scr := rfl
@[simp] theorem State.setHome_dscr (s : State) (pa : Nat) (b : List Byte) : (s.setHome pa b).dscr = s.dscr := rfl
@[simp] theorem State.setHome_acc (s : State) (pa : Nat) (b : List Byte) : (s.setHome pa b).acc = s.acc := rfl
@[simp] theorem State.setHome_frames (s : State) (pa : Nat) (b : List Byte) : (s.setHome pa b).frames = s.frames := rfl
@[simp] theorem State.setHome_homeRecs (s : State) (pa : Nat) (b : List Byte) : (s.setHome pa b).homeRecs = s.homeRecs := rfl
@[simp] theorem State.setHome_runs (s : State) (pa : Nat) (b : List Byte) : (s.setHome pa b).runs = s.runs := rfl
@[simp] theorem State.setHome_refresh (s : State) (pa : Nat) (b : List Byte) : (s.setHome pa b).refresh = s.refresh := rfl
@[simp] theorem State.setHome_invals (s : State) (pa : Nat) (b : List Byte) : (s.setHome pa b).invals = s.invals := rfl
@[simp] theorem State.setHome_links (s : State) (pa : Nat) (b : List Byte) : (s.setHome pa b).links = s.links := rfl
@[simp] theorem State.setHome_remotes (s : State) (pa : Nat) (b : List Byte) : (s.setHome pa b).remotes = s.remotes := rfl
@[simp] theorem State.setHome_tokens (s : State) (pa : Nat) (b : List Byte) : (s.setHome pa b).tokens = s.tokens := rfl
@[simp] theorem State.setHome_homeToks (s : State) (pa : Nat) (b : List Byte) : (s.setHome pa b).homeToks = s.homeToks := rfl
@[simp] theorem State.setHome_lintel (s : State) (pa : Nat) (b : List Byte) : (s.setHome pa b).lintel = s.lintel := rfl
@[simp] theorem State.setHome_raises (s : State) (pa : Nat) (b : List Byte) : (s.setHome pa b).raises = s.raises := rfl
@[simp] theorem State.setHome_posts (s : State) (pa : Nat) (b : List Byte) : (s.setHome pa b).posts = s.posts := rfl
@[simp] theorem State.setHome_wbs (s : State) (pa : Nat) (b : List Byte) : (s.setHome pa b).wbs = s.wbs := rfl
@[simp] theorem State.setHome_rowWaits (s : State) (pa : Nat) (b : List Byte) : (s.setHome pa b).rowWaits = s.rowWaits := rfl
@[simp] theorem State.setHome_fetched (s : State) (pa : Nat) (b : List Byte) : (s.setHome pa b).fetched = s.fetched := rfl
@[simp] theorem State.setHome_laters (s : State) (pa : Nat) (b : List Byte) : (s.setHome pa b).laters = s.laters := rfl
@[simp] theorem State.setHome_heldReqs (s : State) (pa : Nat) (b : List Byte) : (s.setHome pa b).heldReqs = s.heldReqs := rfl
@[simp] theorem State.setHome_out (s : State) (pa : Nat) (b : List Byte) : (s.setHome pa b).out = s.out := rfl
@[simp] theorem State.setHome_agenda (s : State) (pa : Nat) (b : List Byte) : (s.setHome pa b).agenda = s.agenda := rfl
@[simp] theorem State.setHome_subject (s : State) (pa : Nat) (b : List Byte) : (s.setHome pa b).subject = s.subject := rfl
@[simp] theorem State.setHome_issuer (s : State) (pa : Nat) (b : List Byte) : (s.setHome pa b).issuer = s.issuer := rfl
@[simp] theorem State.setHome_curRun (s : State) (pa : Nat) (b : List Byte) : (s.setHome pa b).curRun = s.curRun := rfl
@[simp] theorem State.setHome_issued (s : State) (pa : Nat) (b : List Byte) : (s.setHome pa b).issued = s.issued := rfl
@[simp] theorem State.setHome_passed (s : State) (pa : Nat) (b : List Byte) : (s.setHome pa b).passed = s.passed := rfl
@[simp] theorem State.setHome_draws (s : State) (pa : Nat) (b : List Byte) : (s.setHome pa b).draws = s.draws := rfl
@[simp] theorem State.setHome_uid (s : State) (pa : Nat) (b : List Byte) : (s.setHome pa b).uid = s.uid := rfl

/-! ### `State.setScr` -/

@[simp] theorem State.setScr_dev (s : State) (c o : Nat) (b : List Byte) : (s.setScr c o b).dev = s.dev := rfl
@[simp] theorem State.setScr_dtime (s : State) (c o : Nat) (b : List Byte) : (s.setScr c o b).dtime = s.dtime := rfl
@[simp] theorem State.setScr_frac (s : State) (c o : Nat) (b : List Byte) : (s.setScr c o b).frac = s.frac := rfl
@[simp] theorem State.setScr_clock (s : State) (c o : Nat) (b : List Byte) : (s.setScr c o b).clock = s.clock := rfl
@[simp] theorem State.setScr_ctxs (s : State) (c o : Nat) (b : List Byte) : (s.setScr c o b).ctxs = s.ctxs := rfl
@[simp] theorem State.setScr_launches (s : State) (c o : Nat) (b : List Byte) : (s.setScr c o b).launches = s.launches := rfl
@[simp] theorem State.setScr_nextLch (s : State) (c o : Nat) (b : List Byte) : (s.setScr c o b).nextLch = s.nextLch := rfl
@[simp] theorem State.setScr_teams (s : State) (c o : Nat) (b : List Byte) : (s.setScr c o b).teams = s.teams := rfl
@[simp] theorem State.setScr_groups (s : State) (c o : Nat) (b : List Byte) : (s.setScr c o b).groups = s.groups := rfl
@[simp] theorem State.setScr_cores (s : State) (c o : Nat) (b : List Byte) : (s.setScr c o b).cores = s.cores := rfl
@[simp] theorem State.setScr_mem (s : State) (c o : Nat) (b : List Byte) : (s.setScr c o b).mem = s.mem := rfl
@[simp] theorem State.setScr_dscr (s : State) (c o : Nat) (b : List Byte) : (s.setScr c o b).dscr = s.dscr := rfl
@[simp] theorem State.setScr_acc (s : State) (c o : Nat) (b : List Byte) : (s.setScr c o b).acc = s.acc := rfl
@[simp] theorem State.setScr_frames (s : State) (c o : Nat) (b : List Byte) : (s.setScr c o b).frames = s.frames := rfl
@[simp] theorem State.setScr_homeRecs (s : State) (c o : Nat) (b : List Byte) : (s.setScr c o b).homeRecs = s.homeRecs := rfl
@[simp] theorem State.setScr_guests (s : State) (c o : Nat) (b : List Byte) : (s.setScr c o b).guests = s.guests := rfl
@[simp] theorem State.setScr_dirs (s : State) (c o : Nat) (b : List Byte) : (s.setScr c o b).dirs = s.dirs := rfl
@[simp] theorem State.setScr_l2 (s : State) (c o : Nat) (b : List Byte) : (s.setScr c o b).l2 = s.l2 := rfl
@[simp] theorem State.setScr_runs (s : State) (c o : Nat) (b : List Byte) : (s.setScr c o b).runs = s.runs := rfl
@[simp] theorem State.setScr_refresh (s : State) (c o : Nat) (b : List Byte) : (s.setScr c o b).refresh = s.refresh := rfl
@[simp] theorem State.setScr_invals (s : State) (c o : Nat) (b : List Byte) : (s.setScr c o b).invals = s.invals := rfl
@[simp] theorem State.setScr_links (s : State) (c o : Nat) (b : List Byte) : (s.setScr c o b).links = s.links := rfl
@[simp] theorem State.setScr_remotes (s : State) (c o : Nat) (b : List Byte) : (s.setScr c o b).remotes = s.remotes := rfl
@[simp] theorem State.setScr_tokens (s : State) (c o : Nat) (b : List Byte) : (s.setScr c o b).tokens = s.tokens := rfl
@[simp] theorem State.setScr_homeToks (s : State) (c o : Nat) (b : List Byte) : (s.setScr c o b).homeToks = s.homeToks := rfl
@[simp] theorem State.setScr_lintel (s : State) (c o : Nat) (b : List Byte) : (s.setScr c o b).lintel = s.lintel := rfl
@[simp] theorem State.setScr_raises (s : State) (c o : Nat) (b : List Byte) : (s.setScr c o b).raises = s.raises := rfl
@[simp] theorem State.setScr_posts (s : State) (c o : Nat) (b : List Byte) : (s.setScr c o b).posts = s.posts := rfl
@[simp] theorem State.setScr_wbs (s : State) (c o : Nat) (b : List Byte) : (s.setScr c o b).wbs = s.wbs := rfl
@[simp] theorem State.setScr_rowWaits (s : State) (c o : Nat) (b : List Byte) : (s.setScr c o b).rowWaits = s.rowWaits := rfl
@[simp] theorem State.setScr_fetched (s : State) (c o : Nat) (b : List Byte) : (s.setScr c o b).fetched = s.fetched := rfl
@[simp] theorem State.setScr_laters (s : State) (c o : Nat) (b : List Byte) : (s.setScr c o b).laters = s.laters := rfl
@[simp] theorem State.setScr_heldReqs (s : State) (c o : Nat) (b : List Byte) : (s.setScr c o b).heldReqs = s.heldReqs := rfl
@[simp] theorem State.setScr_out (s : State) (c o : Nat) (b : List Byte) : (s.setScr c o b).out = s.out := rfl
@[simp] theorem State.setScr_agenda (s : State) (c o : Nat) (b : List Byte) : (s.setScr c o b).agenda = s.agenda := rfl
@[simp] theorem State.setScr_subject (s : State) (c o : Nat) (b : List Byte) : (s.setScr c o b).subject = s.subject := rfl
@[simp] theorem State.setScr_issuer (s : State) (c o : Nat) (b : List Byte) : (s.setScr c o b).issuer = s.issuer := rfl
@[simp] theorem State.setScr_curRun (s : State) (c o : Nat) (b : List Byte) : (s.setScr c o b).curRun = s.curRun := rfl
@[simp] theorem State.setScr_issued (s : State) (c o : Nat) (b : List Byte) : (s.setScr c o b).issued = s.issued := rfl
@[simp] theorem State.setScr_passed (s : State) (c o : Nat) (b : List Byte) : (s.setScr c o b).passed = s.passed := rfl
@[simp] theorem State.setScr_draws (s : State) (c o : Nat) (b : List Byte) : (s.setScr c o b).draws = s.draws := rfl
@[simp] theorem State.setScr_uid (s : State) (c o : Nat) (b : List Byte) : (s.setScr c o b).uid = s.uid := rfl

/-! ### `State.setDscr` -/

@[simp] theorem State.setDscr_dev (s : State) (c o : Nat) (b : List Byte) : (s.setDscr c o b).dev = s.dev := rfl
@[simp] theorem State.setDscr_dtime (s : State) (c o : Nat) (b : List Byte) : (s.setDscr c o b).dtime = s.dtime := rfl
@[simp] theorem State.setDscr_frac (s : State) (c o : Nat) (b : List Byte) : (s.setDscr c o b).frac = s.frac := rfl
@[simp] theorem State.setDscr_clock (s : State) (c o : Nat) (b : List Byte) : (s.setDscr c o b).clock = s.clock := rfl
@[simp] theorem State.setDscr_ctxs (s : State) (c o : Nat) (b : List Byte) : (s.setDscr c o b).ctxs = s.ctxs := rfl
@[simp] theorem State.setDscr_launches (s : State) (c o : Nat) (b : List Byte) : (s.setDscr c o b).launches = s.launches := rfl
@[simp] theorem State.setDscr_nextLch (s : State) (c o : Nat) (b : List Byte) : (s.setDscr c o b).nextLch = s.nextLch := rfl
@[simp] theorem State.setDscr_teams (s : State) (c o : Nat) (b : List Byte) : (s.setDscr c o b).teams = s.teams := rfl
@[simp] theorem State.setDscr_groups (s : State) (c o : Nat) (b : List Byte) : (s.setDscr c o b).groups = s.groups := rfl
@[simp] theorem State.setDscr_cores (s : State) (c o : Nat) (b : List Byte) : (s.setDscr c o b).cores = s.cores := rfl
@[simp] theorem State.setDscr_mem (s : State) (c o : Nat) (b : List Byte) : (s.setDscr c o b).mem = s.mem := rfl
@[simp] theorem State.setDscr_scr (s : State) (c o : Nat) (b : List Byte) : (s.setDscr c o b).scr = s.scr := rfl
@[simp] theorem State.setDscr_acc (s : State) (c o : Nat) (b : List Byte) : (s.setDscr c o b).acc = s.acc := rfl
@[simp] theorem State.setDscr_frames (s : State) (c o : Nat) (b : List Byte) : (s.setDscr c o b).frames = s.frames := rfl
@[simp] theorem State.setDscr_homeRecs (s : State) (c o : Nat) (b : List Byte) : (s.setDscr c o b).homeRecs = s.homeRecs := rfl
@[simp] theorem State.setDscr_guests (s : State) (c o : Nat) (b : List Byte) : (s.setDscr c o b).guests = s.guests := rfl
@[simp] theorem State.setDscr_dirs (s : State) (c o : Nat) (b : List Byte) : (s.setDscr c o b).dirs = s.dirs := rfl
@[simp] theorem State.setDscr_l2 (s : State) (c o : Nat) (b : List Byte) : (s.setDscr c o b).l2 = s.l2 := rfl
@[simp] theorem State.setDscr_runs (s : State) (c o : Nat) (b : List Byte) : (s.setDscr c o b).runs = s.runs := rfl
@[simp] theorem State.setDscr_refresh (s : State) (c o : Nat) (b : List Byte) : (s.setDscr c o b).refresh = s.refresh := rfl
@[simp] theorem State.setDscr_invals (s : State) (c o : Nat) (b : List Byte) : (s.setDscr c o b).invals = s.invals := rfl
@[simp] theorem State.setDscr_links (s : State) (c o : Nat) (b : List Byte) : (s.setDscr c o b).links = s.links := rfl
@[simp] theorem State.setDscr_remotes (s : State) (c o : Nat) (b : List Byte) : (s.setDscr c o b).remotes = s.remotes := rfl
@[simp] theorem State.setDscr_tokens (s : State) (c o : Nat) (b : List Byte) : (s.setDscr c o b).tokens = s.tokens := rfl
@[simp] theorem State.setDscr_homeToks (s : State) (c o : Nat) (b : List Byte) : (s.setDscr c o b).homeToks = s.homeToks := rfl
@[simp] theorem State.setDscr_lintel (s : State) (c o : Nat) (b : List Byte) : (s.setDscr c o b).lintel = s.lintel := rfl
@[simp] theorem State.setDscr_raises (s : State) (c o : Nat) (b : List Byte) : (s.setDscr c o b).raises = s.raises := rfl
@[simp] theorem State.setDscr_posts (s : State) (c o : Nat) (b : List Byte) : (s.setDscr c o b).posts = s.posts := rfl
@[simp] theorem State.setDscr_wbs (s : State) (c o : Nat) (b : List Byte) : (s.setDscr c o b).wbs = s.wbs := rfl
@[simp] theorem State.setDscr_rowWaits (s : State) (c o : Nat) (b : List Byte) : (s.setDscr c o b).rowWaits = s.rowWaits := rfl
@[simp] theorem State.setDscr_fetched (s : State) (c o : Nat) (b : List Byte) : (s.setDscr c o b).fetched = s.fetched := rfl
@[simp] theorem State.setDscr_laters (s : State) (c o : Nat) (b : List Byte) : (s.setDscr c o b).laters = s.laters := rfl
@[simp] theorem State.setDscr_heldReqs (s : State) (c o : Nat) (b : List Byte) : (s.setDscr c o b).heldReqs = s.heldReqs := rfl
@[simp] theorem State.setDscr_out (s : State) (c o : Nat) (b : List Byte) : (s.setDscr c o b).out = s.out := rfl
@[simp] theorem State.setDscr_agenda (s : State) (c o : Nat) (b : List Byte) : (s.setDscr c o b).agenda = s.agenda := rfl
@[simp] theorem State.setDscr_subject (s : State) (c o : Nat) (b : List Byte) : (s.setDscr c o b).subject = s.subject := rfl
@[simp] theorem State.setDscr_issuer (s : State) (c o : Nat) (b : List Byte) : (s.setDscr c o b).issuer = s.issuer := rfl
@[simp] theorem State.setDscr_curRun (s : State) (c o : Nat) (b : List Byte) : (s.setDscr c o b).curRun = s.curRun := rfl
@[simp] theorem State.setDscr_issued (s : State) (c o : Nat) (b : List Byte) : (s.setDscr c o b).issued = s.issued := rfl
@[simp] theorem State.setDscr_passed (s : State) (c o : Nat) (b : List Byte) : (s.setDscr c o b).passed = s.passed := rfl
@[simp] theorem State.setDscr_draws (s : State) (c o : Nat) (b : List Byte) : (s.setDscr c o b).draws = s.draws := rfl
@[simp] theorem State.setDscr_uid (s : State) (c o : Nat) (b : List Byte) : (s.setDscr c o b).uid = s.uid := rfl

/-! ### `State.modGroup` -/

@[simp] theorem State.modGroup_dev (s : State) (u : Nat) (h : Group → Group) : (s.modGroup u h).dev = s.dev := rfl
@[simp] theorem State.modGroup_dtime (s : State) (u : Nat) (h : Group → Group) : (s.modGroup u h).dtime = s.dtime := rfl
@[simp] theorem State.modGroup_frac (s : State) (u : Nat) (h : Group → Group) : (s.modGroup u h).frac = s.frac := rfl
@[simp] theorem State.modGroup_clock (s : State) (u : Nat) (h : Group → Group) : (s.modGroup u h).clock = s.clock := rfl
@[simp] theorem State.modGroup_ctxs (s : State) (u : Nat) (h : Group → Group) : (s.modGroup u h).ctxs = s.ctxs := rfl
@[simp] theorem State.modGroup_launches (s : State) (u : Nat) (h : Group → Group) : (s.modGroup u h).launches = s.launches := rfl
@[simp] theorem State.modGroup_nextLch (s : State) (u : Nat) (h : Group → Group) : (s.modGroup u h).nextLch = s.nextLch := rfl
@[simp] theorem State.modGroup_teams (s : State) (u : Nat) (h : Group → Group) : (s.modGroup u h).teams = s.teams := rfl
@[simp] theorem State.modGroup_cores (s : State) (u : Nat) (h : Group → Group) : (s.modGroup u h).cores = s.cores := rfl
@[simp] theorem State.modGroup_mem (s : State) (u : Nat) (h : Group → Group) : (s.modGroup u h).mem = s.mem := rfl
@[simp] theorem State.modGroup_scr (s : State) (u : Nat) (h : Group → Group) : (s.modGroup u h).scr = s.scr := rfl
@[simp] theorem State.modGroup_dscr (s : State) (u : Nat) (h : Group → Group) : (s.modGroup u h).dscr = s.dscr := rfl
@[simp] theorem State.modGroup_acc (s : State) (u : Nat) (h : Group → Group) : (s.modGroup u h).acc = s.acc := rfl
@[simp] theorem State.modGroup_frames (s : State) (u : Nat) (h : Group → Group) : (s.modGroup u h).frames = s.frames := rfl
@[simp] theorem State.modGroup_homeRecs (s : State) (u : Nat) (h : Group → Group) : (s.modGroup u h).homeRecs = s.homeRecs := rfl
@[simp] theorem State.modGroup_guests (s : State) (u : Nat) (h : Group → Group) : (s.modGroup u h).guests = s.guests := rfl
@[simp] theorem State.modGroup_dirs (s : State) (u : Nat) (h : Group → Group) : (s.modGroup u h).dirs = s.dirs := rfl
@[simp] theorem State.modGroup_l2 (s : State) (u : Nat) (h : Group → Group) : (s.modGroup u h).l2 = s.l2 := rfl
@[simp] theorem State.modGroup_damage (s : State) (u : Nat) (h : Group → Group) : (s.modGroup u h).damage = s.damage := rfl
@[simp] theorem State.modGroup_runs (s : State) (u : Nat) (h : Group → Group) : (s.modGroup u h).runs = s.runs := rfl
@[simp] theorem State.modGroup_refresh (s : State) (u : Nat) (h : Group → Group) : (s.modGroup u h).refresh = s.refresh := rfl
@[simp] theorem State.modGroup_invals (s : State) (u : Nat) (h : Group → Group) : (s.modGroup u h).invals = s.invals := rfl
@[simp] theorem State.modGroup_links (s : State) (u : Nat) (h : Group → Group) : (s.modGroup u h).links = s.links := rfl
@[simp] theorem State.modGroup_remotes (s : State) (u : Nat) (h : Group → Group) : (s.modGroup u h).remotes = s.remotes := rfl
@[simp] theorem State.modGroup_tokens (s : State) (u : Nat) (h : Group → Group) : (s.modGroup u h).tokens = s.tokens := rfl
@[simp] theorem State.modGroup_homeToks (s : State) (u : Nat) (h : Group → Group) : (s.modGroup u h).homeToks = s.homeToks := rfl
@[simp] theorem State.modGroup_lintel (s : State) (u : Nat) (h : Group → Group) : (s.modGroup u h).lintel = s.lintel := rfl
@[simp] theorem State.modGroup_raises (s : State) (u : Nat) (h : Group → Group) : (s.modGroup u h).raises = s.raises := rfl
@[simp] theorem State.modGroup_posts (s : State) (u : Nat) (h : Group → Group) : (s.modGroup u h).posts = s.posts := rfl
@[simp] theorem State.modGroup_wbs (s : State) (u : Nat) (h : Group → Group) : (s.modGroup u h).wbs = s.wbs := rfl
@[simp] theorem State.modGroup_rowWaits (s : State) (u : Nat) (h : Group → Group) : (s.modGroup u h).rowWaits = s.rowWaits := rfl
@[simp] theorem State.modGroup_fetched (s : State) (u : Nat) (h : Group → Group) : (s.modGroup u h).fetched = s.fetched := rfl
@[simp] theorem State.modGroup_laters (s : State) (u : Nat) (h : Group → Group) : (s.modGroup u h).laters = s.laters := rfl
@[simp] theorem State.modGroup_heldReqs (s : State) (u : Nat) (h : Group → Group) : (s.modGroup u h).heldReqs = s.heldReqs := rfl
@[simp] theorem State.modGroup_out (s : State) (u : Nat) (h : Group → Group) : (s.modGroup u h).out = s.out := rfl
@[simp] theorem State.modGroup_agenda (s : State) (u : Nat) (h : Group → Group) : (s.modGroup u h).agenda = s.agenda := rfl
@[simp] theorem State.modGroup_subject (s : State) (u : Nat) (h : Group → Group) : (s.modGroup u h).subject = s.subject := rfl
@[simp] theorem State.modGroup_issuer (s : State) (u : Nat) (h : Group → Group) : (s.modGroup u h).issuer = s.issuer := rfl
@[simp] theorem State.modGroup_curRun (s : State) (u : Nat) (h : Group → Group) : (s.modGroup u h).curRun = s.curRun := rfl
@[simp] theorem State.modGroup_issued (s : State) (u : Nat) (h : Group → Group) : (s.modGroup u h).issued = s.issued := rfl
@[simp] theorem State.modGroup_passed (s : State) (u : Nat) (h : Group → Group) : (s.modGroup u h).passed = s.passed := rfl
@[simp] theorem State.modGroup_draws (s : State) (u : Nat) (h : Group → Group) : (s.modGroup u h).draws = s.draws := rfl
@[simp] theorem State.modGroup_uid (s : State) (u : Nat) (h : Group → Group) : (s.modGroup u h).uid = s.uid := rfl

/-! ### `State.setHomeTok` -/

@[simp] theorem State.setHomeTok_dev (s : State) (r : Nat) (h : HomeTok) : (s.setHomeTok r h).dev = s.dev := rfl
@[simp] theorem State.setHomeTok_dtime (s : State) (r : Nat) (h : HomeTok) : (s.setHomeTok r h).dtime = s.dtime := rfl
@[simp] theorem State.setHomeTok_frac (s : State) (r : Nat) (h : HomeTok) : (s.setHomeTok r h).frac = s.frac := rfl
@[simp] theorem State.setHomeTok_clock (s : State) (r : Nat) (h : HomeTok) : (s.setHomeTok r h).clock = s.clock := rfl
@[simp] theorem State.setHomeTok_ctxs (s : State) (r : Nat) (h : HomeTok) : (s.setHomeTok r h).ctxs = s.ctxs := rfl
@[simp] theorem State.setHomeTok_launches (s : State) (r : Nat) (h : HomeTok) : (s.setHomeTok r h).launches = s.launches := rfl
@[simp] theorem State.setHomeTok_nextLch (s : State) (r : Nat) (h : HomeTok) : (s.setHomeTok r h).nextLch = s.nextLch := rfl
@[simp] theorem State.setHomeTok_teams (s : State) (r : Nat) (h : HomeTok) : (s.setHomeTok r h).teams = s.teams := rfl
@[simp] theorem State.setHomeTok_groups (s : State) (r : Nat) (h : HomeTok) : (s.setHomeTok r h).groups = s.groups := rfl
@[simp] theorem State.setHomeTok_cores (s : State) (r : Nat) (h : HomeTok) : (s.setHomeTok r h).cores = s.cores := rfl
@[simp] theorem State.setHomeTok_mem (s : State) (r : Nat) (h : HomeTok) : (s.setHomeTok r h).mem = s.mem := rfl
@[simp] theorem State.setHomeTok_scr (s : State) (r : Nat) (h : HomeTok) : (s.setHomeTok r h).scr = s.scr := rfl
@[simp] theorem State.setHomeTok_dscr (s : State) (r : Nat) (h : HomeTok) : (s.setHomeTok r h).dscr = s.dscr := rfl
@[simp] theorem State.setHomeTok_acc (s : State) (r : Nat) (h : HomeTok) : (s.setHomeTok r h).acc = s.acc := rfl
@[simp] theorem State.setHomeTok_frames (s : State) (r : Nat) (h : HomeTok) : (s.setHomeTok r h).frames = s.frames := rfl
@[simp] theorem State.setHomeTok_homeRecs (s : State) (r : Nat) (h : HomeTok) : (s.setHomeTok r h).homeRecs = s.homeRecs := rfl
@[simp] theorem State.setHomeTok_guests (s : State) (r : Nat) (h : HomeTok) : (s.setHomeTok r h).guests = s.guests := rfl
@[simp] theorem State.setHomeTok_dirs (s : State) (r : Nat) (h : HomeTok) : (s.setHomeTok r h).dirs = s.dirs := rfl
@[simp] theorem State.setHomeTok_l2 (s : State) (r : Nat) (h : HomeTok) : (s.setHomeTok r h).l2 = s.l2 := rfl
@[simp] theorem State.setHomeTok_damage (s : State) (r : Nat) (h : HomeTok) : (s.setHomeTok r h).damage = s.damage := rfl
@[simp] theorem State.setHomeTok_runs (s : State) (r : Nat) (h : HomeTok) : (s.setHomeTok r h).runs = s.runs := rfl
@[simp] theorem State.setHomeTok_refresh (s : State) (r : Nat) (h : HomeTok) : (s.setHomeTok r h).refresh = s.refresh := rfl
@[simp] theorem State.setHomeTok_invals (s : State) (r : Nat) (h : HomeTok) : (s.setHomeTok r h).invals = s.invals := rfl
@[simp] theorem State.setHomeTok_links (s : State) (r : Nat) (h : HomeTok) : (s.setHomeTok r h).links = s.links := rfl
@[simp] theorem State.setHomeTok_remotes (s : State) (r : Nat) (h : HomeTok) : (s.setHomeTok r h).remotes = s.remotes := rfl
@[simp] theorem State.setHomeTok_tokens (s : State) (r : Nat) (h : HomeTok) : (s.setHomeTok r h).tokens = s.tokens := rfl
@[simp] theorem State.setHomeTok_lintel (s : State) (r : Nat) (h : HomeTok) : (s.setHomeTok r h).lintel = s.lintel := rfl
@[simp] theorem State.setHomeTok_raises (s : State) (r : Nat) (h : HomeTok) : (s.setHomeTok r h).raises = s.raises := rfl
@[simp] theorem State.setHomeTok_posts (s : State) (r : Nat) (h : HomeTok) : (s.setHomeTok r h).posts = s.posts := rfl
@[simp] theorem State.setHomeTok_wbs (s : State) (r : Nat) (h : HomeTok) : (s.setHomeTok r h).wbs = s.wbs := rfl
@[simp] theorem State.setHomeTok_rowWaits (s : State) (r : Nat) (h : HomeTok) : (s.setHomeTok r h).rowWaits = s.rowWaits := rfl
@[simp] theorem State.setHomeTok_fetched (s : State) (r : Nat) (h : HomeTok) : (s.setHomeTok r h).fetched = s.fetched := rfl
@[simp] theorem State.setHomeTok_laters (s : State) (r : Nat) (h : HomeTok) : (s.setHomeTok r h).laters = s.laters := rfl
@[simp] theorem State.setHomeTok_heldReqs (s : State) (r : Nat) (h : HomeTok) : (s.setHomeTok r h).heldReqs = s.heldReqs := rfl
@[simp] theorem State.setHomeTok_out (s : State) (r : Nat) (h : HomeTok) : (s.setHomeTok r h).out = s.out := rfl
@[simp] theorem State.setHomeTok_agenda (s : State) (r : Nat) (h : HomeTok) : (s.setHomeTok r h).agenda = s.agenda := rfl
@[simp] theorem State.setHomeTok_subject (s : State) (r : Nat) (h : HomeTok) : (s.setHomeTok r h).subject = s.subject := rfl
@[simp] theorem State.setHomeTok_issuer (s : State) (r : Nat) (h : HomeTok) : (s.setHomeTok r h).issuer = s.issuer := rfl
@[simp] theorem State.setHomeTok_curRun (s : State) (r : Nat) (h : HomeTok) : (s.setHomeTok r h).curRun = s.curRun := rfl
@[simp] theorem State.setHomeTok_issued (s : State) (r : Nat) (h : HomeTok) : (s.setHomeTok r h).issued = s.issued := rfl
@[simp] theorem State.setHomeTok_passed (s : State) (r : Nat) (h : HomeTok) : (s.setHomeTok r h).passed = s.passed := rfl
@[simp] theorem State.setHomeTok_draws (s : State) (r : Nat) (h : HomeTok) : (s.setHomeTok r h).draws = s.draws := rfl
@[simp] theorem State.setHomeTok_uid (s : State) (r : Nat) (h : HomeTok) : (s.setHomeTok r h).uid = s.uid := rfl

/-! ### `Group.setSplit` -/

@[simp] theorem Group.setSplit_uid (g : Group) (e : Nat) (x : Split) : (g.setSplit e x).uid = g.uid := rfl
@[simp] theorem Group.setSplit_team (g : Group) (e : Nat) (x : Split) : (g.setSplit e x).team = g.team := rfl
@[simp] theorem Group.setSplit_gix (g : Group) (e : Nat) (x : Split) : (g.setSplit e x).gix = g.gix := rfl
@[simp] theorem Group.setSplit_slot (g : Group) (e : Nat) (x : Split) : (g.setSplit e x).slot = g.slot := rfl
@[simp] theorem Group.setSplit_priv (g : Group) (e : Nat) (x : Split) : (g.setSplit e x).priv = g.priv := rfl
@[simp] theorem Group.setSplit_regs (g : Group) (e : Nat) (x : Split) : (g.setSplit e x).regs = g.regs := rfl
@[simp] theorem Group.setSplit_hist (g : Group) (e : Nat) (x : Split) : (g.setSplit e x).hist = g.hist := rfl
@[simp] theorem Group.setSplit_preds (g : Group) (e : Nat) (x : Split) : (g.setSplit e x).preds = g.preds := rfl
@[simp] theorem Group.setSplit_seeds (g : Group) (e : Nat) (x : Split) : (g.setSplit e x).seeds = g.seeds := rfl
@[simp] theorem Group.setSplit_gs (g : Group) (e : Nat) (x : Split) : (g.setSplit e x).gs = g.gs := rfl
@[simp] theorem Group.setSplit_fx (g : Group) (e : Nat) (x : Split) : (g.setSplit e x).fx = g.fx := rfl
@[simp] theorem Group.setSplit_exm (g : Group) (e : Nat) (x : Split) : (g.setSplit e x).exm = g.exm := rfl
@[simp] theorem Group.setSplit_tpc (g : Group) (e : Nat) (x : Split) : (g.setSplit e x).tpc = g.tpc := rfl
@[simp] theorem Group.setSplit_tam (g : Group) (e : Nat) (x : Split) : (g.setSplit e x).tam = g.tam := rfl
@[simp] theorem Group.setSplit_tfm (g : Group) (e : Nat) (x : Split) : (g.setSplit e x).tfm = g.tfm := rfl
@[simp] theorem Group.setSplit_tca (g : Group) (e : Nat) (x : Split) : (g.setSplit e x).tca = g.tca := rfl
@[simp] theorem Group.setSplit_tva (g : Group) (e : Nat) (x : Split) : (g.setSplit e x).tva = g.tva := rfl
@[simp] theorem Group.setSplit_slBase (g : Group) (e : Nat) (x : Split) : (g.setSplit e x).slBase = g.slBase := rfl
@[simp] theorem Group.setSplit_slLimit (g : Group) (e : Nat) (x : Split) : (g.setSplit e x).slLimit = g.slLimit := rfl
@[simp] theorem Group.setSplit_frames (g : Group) (e : Nat) (x : Split) : (g.setSplit e x).frames = g.frames := rfl
@[simp] theorem Group.setSplit_pends (g : Group) (e : Nat) (x : Split) : (g.setSplit e x).pends = g.pends := rfl
@[simp] theorem Group.setSplit_failed (g : Group) (e : Nat) (x : Split) : (g.setSplit e x).failed = g.failed := rfl
@[simp] theorem Group.setSplit_badRegs (g : Group) (e : Nat) (x : Split) : (g.setSplit e x).badRegs = g.badRegs := rfl
@[simp] theorem Group.setSplit_badPreds (g : Group) (e : Nat) (x : Split) : (g.setSplit e x).badPreds = g.badPreds := rfl
@[simp] theorem Group.setSplit_badUnis (g : Group) (e : Nat) (x : Split) : (g.setSplit e x).badUnis = g.badUnis := rfl
@[simp] theorem Group.setSplit_raised (g : Group) (e : Nat) (x : Split) : (g.setSplit e x).raised = g.raised := rfl
@[simp] theorem Group.setSplit_saved (g : Group) (e : Nat) (x : Split) : (g.setSplit e x).saved = g.saved := rfl
@[simp] theorem Group.setSplit_inHandler (g : Group) (e : Nat) (x : Split) : (g.setSplit e x).inHandler = g.inHandler := rfl
@[simp] theorem Group.setSplit_stop (g : Group) (e : Nat) (x : Split) : (g.setSplit e x).stop = g.stop := rfl
@[simp] theorem Group.setSplit_records (g : Group) (e : Nat) (x : Split) : (g.setSplit e x).records = g.records := rfl
@[simp] theorem Group.setSplit_stale (g : Group) (e : Nat) (x : Split) : (g.setSplit e x).stale = g.stale := rfl
@[simp] theorem Group.setSplit_hold (g : Group) (e : Nat) (x : Split) : (g.setSplit e x).hold = g.hold := rfl
@[simp] theorem Group.setSplit_diverted (g : Group) (e : Nat) (x : Split) : (g.setSplit e x).diverted = g.diverted := rfl
@[simp] theorem Group.setSplit_retired (g : Group) (e : Nat) (x : Split) : (g.setSplit e x).retired = g.retired := rfl

/-! ### `Group.setFrame` -/

@[simp] theorem Group.setFrame_uid (g : Group) (e : Nat) (x : DFrame) : (g.setFrame e x).uid = g.uid := rfl
@[simp] theorem Group.setFrame_team (g : Group) (e : Nat) (x : DFrame) : (g.setFrame e x).team = g.team := rfl
@[simp] theorem Group.setFrame_gix (g : Group) (e : Nat) (x : DFrame) : (g.setFrame e x).gix = g.gix := rfl
@[simp] theorem Group.setFrame_slot (g : Group) (e : Nat) (x : DFrame) : (g.setFrame e x).slot = g.slot := rfl
@[simp] theorem Group.setFrame_priv (g : Group) (e : Nat) (x : DFrame) : (g.setFrame e x).priv = g.priv := rfl
@[simp] theorem Group.setFrame_regs (g : Group) (e : Nat) (x : DFrame) : (g.setFrame e x).regs = g.regs := rfl
@[simp] theorem Group.setFrame_hist (g : Group) (e : Nat) (x : DFrame) : (g.setFrame e x).hist = g.hist := rfl
@[simp] theorem Group.setFrame_preds (g : Group) (e : Nat) (x : DFrame) : (g.setFrame e x).preds = g.preds := rfl
@[simp] theorem Group.setFrame_seeds (g : Group) (e : Nat) (x : DFrame) : (g.setFrame e x).seeds = g.seeds := rfl
@[simp] theorem Group.setFrame_gs (g : Group) (e : Nat) (x : DFrame) : (g.setFrame e x).gs = g.gs := rfl
@[simp] theorem Group.setFrame_fx (g : Group) (e : Nat) (x : DFrame) : (g.setFrame e x).fx = g.fx := rfl
@[simp] theorem Group.setFrame_exm (g : Group) (e : Nat) (x : DFrame) : (g.setFrame e x).exm = g.exm := rfl
@[simp] theorem Group.setFrame_tpc (g : Group) (e : Nat) (x : DFrame) : (g.setFrame e x).tpc = g.tpc := rfl
@[simp] theorem Group.setFrame_tam (g : Group) (e : Nat) (x : DFrame) : (g.setFrame e x).tam = g.tam := rfl
@[simp] theorem Group.setFrame_tfm (g : Group) (e : Nat) (x : DFrame) : (g.setFrame e x).tfm = g.tfm := rfl
@[simp] theorem Group.setFrame_tca (g : Group) (e : Nat) (x : DFrame) : (g.setFrame e x).tca = g.tca := rfl
@[simp] theorem Group.setFrame_tva (g : Group) (e : Nat) (x : DFrame) : (g.setFrame e x).tva = g.tva := rfl
@[simp] theorem Group.setFrame_slBase (g : Group) (e : Nat) (x : DFrame) : (g.setFrame e x).slBase = g.slBase := rfl
@[simp] theorem Group.setFrame_slLimit (g : Group) (e : Nat) (x : DFrame) : (g.setFrame e x).slLimit = g.slLimit := rfl
@[simp] theorem Group.setFrame_splits (g : Group) (e : Nat) (x : DFrame) : (g.setFrame e x).splits = g.splits := rfl
@[simp] theorem Group.setFrame_pends (g : Group) (e : Nat) (x : DFrame) : (g.setFrame e x).pends = g.pends := rfl
@[simp] theorem Group.setFrame_failed (g : Group) (e : Nat) (x : DFrame) : (g.setFrame e x).failed = g.failed := rfl
@[simp] theorem Group.setFrame_badRegs (g : Group) (e : Nat) (x : DFrame) : (g.setFrame e x).badRegs = g.badRegs := rfl
@[simp] theorem Group.setFrame_badPreds (g : Group) (e : Nat) (x : DFrame) : (g.setFrame e x).badPreds = g.badPreds := rfl
@[simp] theorem Group.setFrame_badUnis (g : Group) (e : Nat) (x : DFrame) : (g.setFrame e x).badUnis = g.badUnis := rfl
@[simp] theorem Group.setFrame_raised (g : Group) (e : Nat) (x : DFrame) : (g.setFrame e x).raised = g.raised := rfl
@[simp] theorem Group.setFrame_saved (g : Group) (e : Nat) (x : DFrame) : (g.setFrame e x).saved = g.saved := rfl
@[simp] theorem Group.setFrame_inHandler (g : Group) (e : Nat) (x : DFrame) : (g.setFrame e x).inHandler = g.inHandler := rfl
@[simp] theorem Group.setFrame_stop (g : Group) (e : Nat) (x : DFrame) : (g.setFrame e x).stop = g.stop := rfl
@[simp] theorem Group.setFrame_records (g : Group) (e : Nat) (x : DFrame) : (g.setFrame e x).records = g.records := rfl
@[simp] theorem Group.setFrame_stale (g : Group) (e : Nat) (x : DFrame) : (g.setFrame e x).stale = g.stale := rfl
@[simp] theorem Group.setFrame_hold (g : Group) (e : Nat) (x : DFrame) : (g.setFrame e x).hold = g.hold := rfl
@[simp] theorem Group.setFrame_diverted (g : Group) (e : Nat) (x : DFrame) : (g.setFrame e x).diverted = g.diverted := rfl
@[simp] theorem Group.setFrame_retired (g : Group) (e : Nat) (x : DFrame) : (g.setFrame e x).retired = g.retired := rfl

/-! ### `Group.setPred` -/

@[simp] theorem Group.setPred_uid (g : Group) (k : Nat) (m v : Lanes) : (g.setPred k m v).uid = g.uid := rfl
@[simp] theorem Group.setPred_team (g : Group) (k : Nat) (m v : Lanes) : (g.setPred k m v).team = g.team := rfl
@[simp] theorem Group.setPred_gix (g : Group) (k : Nat) (m v : Lanes) : (g.setPred k m v).gix = g.gix := rfl
@[simp] theorem Group.setPred_slot (g : Group) (k : Nat) (m v : Lanes) : (g.setPred k m v).slot = g.slot := rfl
@[simp] theorem Group.setPred_priv (g : Group) (k : Nat) (m v : Lanes) : (g.setPred k m v).priv = g.priv := rfl
@[simp] theorem Group.setPred_regs (g : Group) (k : Nat) (m v : Lanes) : (g.setPred k m v).regs = g.regs := rfl
@[simp] theorem Group.setPred_hist (g : Group) (k : Nat) (m v : Lanes) : (g.setPred k m v).hist = g.hist := rfl
@[simp] theorem Group.setPred_seeds (g : Group) (k : Nat) (m v : Lanes) : (g.setPred k m v).seeds = g.seeds := rfl
@[simp] theorem Group.setPred_gs (g : Group) (k : Nat) (m v : Lanes) : (g.setPred k m v).gs = g.gs := rfl
@[simp] theorem Group.setPred_fx (g : Group) (k : Nat) (m v : Lanes) : (g.setPred k m v).fx = g.fx := rfl
@[simp] theorem Group.setPred_exm (g : Group) (k : Nat) (m v : Lanes) : (g.setPred k m v).exm = g.exm := rfl
@[simp] theorem Group.setPred_tpc (g : Group) (k : Nat) (m v : Lanes) : (g.setPred k m v).tpc = g.tpc := rfl
@[simp] theorem Group.setPred_tam (g : Group) (k : Nat) (m v : Lanes) : (g.setPred k m v).tam = g.tam := rfl
@[simp] theorem Group.setPred_tfm (g : Group) (k : Nat) (m v : Lanes) : (g.setPred k m v).tfm = g.tfm := rfl
@[simp] theorem Group.setPred_tca (g : Group) (k : Nat) (m v : Lanes) : (g.setPred k m v).tca = g.tca := rfl
@[simp] theorem Group.setPred_tva (g : Group) (k : Nat) (m v : Lanes) : (g.setPred k m v).tva = g.tva := rfl
@[simp] theorem Group.setPred_slBase (g : Group) (k : Nat) (m v : Lanes) : (g.setPred k m v).slBase = g.slBase := rfl
@[simp] theorem Group.setPred_slLimit (g : Group) (k : Nat) (m v : Lanes) : (g.setPred k m v).slLimit = g.slLimit := rfl
@[simp] theorem Group.setPred_splits (g : Group) (k : Nat) (m v : Lanes) : (g.setPred k m v).splits = g.splits := rfl
@[simp] theorem Group.setPred_frames (g : Group) (k : Nat) (m v : Lanes) : (g.setPred k m v).frames = g.frames := rfl
@[simp] theorem Group.setPred_pends (g : Group) (k : Nat) (m v : Lanes) : (g.setPred k m v).pends = g.pends := rfl
@[simp] theorem Group.setPred_failed (g : Group) (k : Nat) (m v : Lanes) : (g.setPred k m v).failed = g.failed := rfl
@[simp] theorem Group.setPred_badRegs (g : Group) (k : Nat) (m v : Lanes) : (g.setPred k m v).badRegs = g.badRegs := rfl
@[simp] theorem Group.setPred_badUnis (g : Group) (k : Nat) (m v : Lanes) : (g.setPred k m v).badUnis = g.badUnis := rfl
@[simp] theorem Group.setPred_raised (g : Group) (k : Nat) (m v : Lanes) : (g.setPred k m v).raised = g.raised := rfl
@[simp] theorem Group.setPred_saved (g : Group) (k : Nat) (m v : Lanes) : (g.setPred k m v).saved = g.saved := rfl
@[simp] theorem Group.setPred_inHandler (g : Group) (k : Nat) (m v : Lanes) : (g.setPred k m v).inHandler = g.inHandler := rfl
@[simp] theorem Group.setPred_stop (g : Group) (k : Nat) (m v : Lanes) : (g.setPred k m v).stop = g.stop := rfl
@[simp] theorem Group.setPred_records (g : Group) (k : Nat) (m v : Lanes) : (g.setPred k m v).records = g.records := rfl
@[simp] theorem Group.setPred_stale (g : Group) (k : Nat) (m v : Lanes) : (g.setPred k m v).stale = g.stale := rfl
@[simp] theorem Group.setPred_hold (g : Group) (k : Nat) (m v : Lanes) : (g.setPred k m v).hold = g.hold := rfl
@[simp] theorem Group.setPred_diverted (g : Group) (k : Nat) (m v : Lanes) : (g.setPred k m v).diverted = g.diverted := rfl
@[simp] theorem Group.setPred_retired (g : Group) (k : Nat) (m v : Lanes) : (g.setPred k m v).retired = g.retired := rfl

/-! ### `Group.setUreg` -/

@[simp] theorem Group.setUreg_uid (g : Group) (n : Nat) (v : Word) : (g.setUreg n v).uid = g.uid := rfl
@[simp] theorem Group.setUreg_team (g : Group) (n : Nat) (v : Word) : (g.setUreg n v).team = g.team := rfl
@[simp] theorem Group.setUreg_gix (g : Group) (n : Nat) (v : Word) : (g.setUreg n v).gix = g.gix := rfl
@[simp] theorem Group.setUreg_slot (g : Group) (n : Nat) (v : Word) : (g.setUreg n v).slot = g.slot := rfl
@[simp] theorem Group.setUreg_priv (g : Group) (n : Nat) (v : Word) : (g.setUreg n v).priv = g.priv := rfl
@[simp] theorem Group.setUreg_regs (g : Group) (n : Nat) (v : Word) : (g.setUreg n v).regs = g.regs := rfl
@[simp] theorem Group.setUreg_hist (g : Group) (n : Nat) (v : Word) : (g.setUreg n v).hist = g.hist := rfl
@[simp] theorem Group.setUreg_preds (g : Group) (n : Nat) (v : Word) : (g.setUreg n v).preds = g.preds := rfl
@[simp] theorem Group.setUreg_seeds (g : Group) (n : Nat) (v : Word) : (g.setUreg n v).seeds = g.seeds := rfl
@[simp] theorem Group.setUreg_fx (g : Group) (n : Nat) (v : Word) : (g.setUreg n v).fx = g.fx := rfl
@[simp] theorem Group.setUreg_exm (g : Group) (n : Nat) (v : Word) : (g.setUreg n v).exm = g.exm := rfl
@[simp] theorem Group.setUreg_tpc (g : Group) (n : Nat) (v : Word) : (g.setUreg n v).tpc = g.tpc := rfl
@[simp] theorem Group.setUreg_tam (g : Group) (n : Nat) (v : Word) : (g.setUreg n v).tam = g.tam := rfl
@[simp] theorem Group.setUreg_tfm (g : Group) (n : Nat) (v : Word) : (g.setUreg n v).tfm = g.tfm := rfl
@[simp] theorem Group.setUreg_tca (g : Group) (n : Nat) (v : Word) : (g.setUreg n v).tca = g.tca := rfl
@[simp] theorem Group.setUreg_tva (g : Group) (n : Nat) (v : Word) : (g.setUreg n v).tva = g.tva := rfl
@[simp] theorem Group.setUreg_slBase (g : Group) (n : Nat) (v : Word) : (g.setUreg n v).slBase = g.slBase := rfl
@[simp] theorem Group.setUreg_slLimit (g : Group) (n : Nat) (v : Word) : (g.setUreg n v).slLimit = g.slLimit := rfl
@[simp] theorem Group.setUreg_splits (g : Group) (n : Nat) (v : Word) : (g.setUreg n v).splits = g.splits := rfl
@[simp] theorem Group.setUreg_frames (g : Group) (n : Nat) (v : Word) : (g.setUreg n v).frames = g.frames := rfl
@[simp] theorem Group.setUreg_pends (g : Group) (n : Nat) (v : Word) : (g.setUreg n v).pends = g.pends := rfl
@[simp] theorem Group.setUreg_failed (g : Group) (n : Nat) (v : Word) : (g.setUreg n v).failed = g.failed := rfl
@[simp] theorem Group.setUreg_badRegs (g : Group) (n : Nat) (v : Word) : (g.setUreg n v).badRegs = g.badRegs := rfl
@[simp] theorem Group.setUreg_badPreds (g : Group) (n : Nat) (v : Word) : (g.setUreg n v).badPreds = g.badPreds := rfl
@[simp] theorem Group.setUreg_raised (g : Group) (n : Nat) (v : Word) : (g.setUreg n v).raised = g.raised := rfl
@[simp] theorem Group.setUreg_saved (g : Group) (n : Nat) (v : Word) : (g.setUreg n v).saved = g.saved := rfl
@[simp] theorem Group.setUreg_inHandler (g : Group) (n : Nat) (v : Word) : (g.setUreg n v).inHandler = g.inHandler := rfl
@[simp] theorem Group.setUreg_stop (g : Group) (n : Nat) (v : Word) : (g.setUreg n v).stop = g.stop := rfl
@[simp] theorem Group.setUreg_records (g : Group) (n : Nat) (v : Word) : (g.setUreg n v).records = g.records := rfl
@[simp] theorem Group.setUreg_stale (g : Group) (n : Nat) (v : Word) : (g.setUreg n v).stale = g.stale := rfl
@[simp] theorem Group.setUreg_hold (g : Group) (n : Nat) (v : Word) : (g.setUreg n v).hold = g.hold := rfl
@[simp] theorem Group.setUreg_diverted (g : Group) (n : Nat) (v : Word) : (g.setUreg n v).diverted = g.diverted := rfl
@[simp] theorem Group.setUreg_retired (g : Group) (n : Nat) (v : Word) : (g.setUreg n v).retired = g.retired := rfl

/-! ### `writeReg` -/

@[simp] theorem writeReg_uid (g : Group) (i r : Nat) (v : Word) : (writeReg g i r v).uid = g.uid := rfl
@[simp] theorem writeReg_team (g : Group) (i r : Nat) (v : Word) : (writeReg g i r v).team = g.team := rfl
@[simp] theorem writeReg_gix (g : Group) (i r : Nat) (v : Word) : (writeReg g i r v).gix = g.gix := rfl
@[simp] theorem writeReg_slot (g : Group) (i r : Nat) (v : Word) : (writeReg g i r v).slot = g.slot := rfl
@[simp] theorem writeReg_priv (g : Group) (i r : Nat) (v : Word) : (writeReg g i r v).priv = g.priv := rfl
@[simp] theorem writeReg_hist (g : Group) (i r : Nat) (v : Word) : (writeReg g i r v).hist = g.hist := rfl
@[simp] theorem writeReg_preds (g : Group) (i r : Nat) (v : Word) : (writeReg g i r v).preds = g.preds := rfl
@[simp] theorem writeReg_seeds (g : Group) (i r : Nat) (v : Word) : (writeReg g i r v).seeds = g.seeds := rfl
@[simp] theorem writeReg_gs (g : Group) (i r : Nat) (v : Word) : (writeReg g i r v).gs = g.gs := rfl
@[simp] theorem writeReg_fx (g : Group) (i r : Nat) (v : Word) : (writeReg g i r v).fx = g.fx := rfl
@[simp] theorem writeReg_exm (g : Group) (i r : Nat) (v : Word) : (writeReg g i r v).exm = g.exm := rfl
@[simp] theorem writeReg_tpc (g : Group) (i r : Nat) (v : Word) : (writeReg g i r v).tpc = g.tpc := rfl
@[simp] theorem writeReg_tam (g : Group) (i r : Nat) (v : Word) : (writeReg g i r v).tam = g.tam := rfl
@[simp] theorem writeReg_tfm (g : Group) (i r : Nat) (v : Word) : (writeReg g i r v).tfm = g.tfm := rfl
@[simp] theorem writeReg_tca (g : Group) (i r : Nat) (v : Word) : (writeReg g i r v).tca = g.tca := rfl
@[simp] theorem writeReg_tva (g : Group) (i r : Nat) (v : Word) : (writeReg g i r v).tva = g.tva := rfl
@[simp] theorem writeReg_slBase (g : Group) (i r : Nat) (v : Word) : (writeReg g i r v).slBase = g.slBase := rfl
@[simp] theorem writeReg_slLimit (g : Group) (i r : Nat) (v : Word) : (writeReg g i r v).slLimit = g.slLimit := rfl
@[simp] theorem writeReg_splits (g : Group) (i r : Nat) (v : Word) : (writeReg g i r v).splits = g.splits := rfl
@[simp] theorem writeReg_frames (g : Group) (i r : Nat) (v : Word) : (writeReg g i r v).frames = g.frames := rfl
@[simp] theorem writeReg_badPreds (g : Group) (i r : Nat) (v : Word) : (writeReg g i r v).badPreds = g.badPreds := rfl
@[simp] theorem writeReg_badUnis (g : Group) (i r : Nat) (v : Word) : (writeReg g i r v).badUnis = g.badUnis := rfl
@[simp] theorem writeReg_raised (g : Group) (i r : Nat) (v : Word) : (writeReg g i r v).raised = g.raised := rfl
@[simp] theorem writeReg_saved (g : Group) (i r : Nat) (v : Word) : (writeReg g i r v).saved = g.saved := rfl
@[simp] theorem writeReg_inHandler (g : Group) (i r : Nat) (v : Word) : (writeReg g i r v).inHandler = g.inHandler := rfl
@[simp] theorem writeReg_stop (g : Group) (i r : Nat) (v : Word) : (writeReg g i r v).stop = g.stop := rfl
@[simp] theorem writeReg_records (g : Group) (i r : Nat) (v : Word) : (writeReg g i r v).records = g.records := rfl
@[simp] theorem writeReg_stale (g : Group) (i r : Nat) (v : Word) : (writeReg g i r v).stale = g.stale := rfl
@[simp] theorem writeReg_hold (g : Group) (i r : Nat) (v : Word) : (writeReg g i r v).hold = g.hold := rfl
@[simp] theorem writeReg_diverted (g : Group) (i r : Nat) (v : Word) : (writeReg g i r v).diverted = g.diverted := rfl
@[simp] theorem writeReg_retired (g : Group) (i r : Nat) (v : Word) : (writeReg g i r v).retired = g.retired := rfl

end Sys2Proof.Machine
end

