-- ==== Sys2Proof/Laws/Release.lean ====
section
/-! SUPPORT. What a drain of a core leaves alone, and what a release does when nothing holds it back (`Unheld`): the drain, and then the
instruction's own effect. -/

namespace Sys2Proof.Machine

open Sys2Proof

/-! ### What write-backs leave alone -/

/-- Two states have the same groups, teams and bank runs. -/
structure SameActors (s t : State) : Prop where
  groups : t.groups = s.groups
  teams : t.teams = s.teams
  runs : t.runs = s.runs

theorem SameActors.refl (s : State) : SameActors s s := ⟨rfl, rfl, rfl⟩

theorem SameActors.trans {s t u : State} (h : SameActors s t) (k : SameActors t u) : SameActors s u :=
  ⟨k.groups.trans h.groups, k.teams.trans h.teams, k.runs.trans h.runs⟩

/-- A fold of replacements that keep the actors keeps them. -/
theorem foldl_sameActors {α : Type} (f : State → α → State) (hf : ∀ s a, SameActors s (f s a)) (l : List α) (s : State) :
    SameActors s (l.foldl f s) := by
  induction l generalizing s with
  | nil => exact .refl s
  | cons a t ih => exact (hf s a).trans (ih _)

theorem setHome_sameActors (s : State) (pa : Nat) (b : List Byte) : SameActors s (s.setHome pa b) := ⟨rfl, rfl, rfl⟩
theorem setCore_sameActors (s : State) (n : Nat) (c : CoreSt) : SameActors s (s.setCore n c) := ⟨rfl, rfl, rfl⟩
theorem ownHome_sameActors (s : State) (core pa : Nat) (b : List Byte) : SameActors s (ownHome s core pa b) := by
  have h := setHome_sameActors s pa b
  exact ⟨h.groups, h.teams, h.runs⟩
theorem setCtx_sameActors (s : State) (n : Nat) (c : Ctx) : SameActors s (s.setCtx n c) := ⟨rfl, rfl, rfl⟩
theorem setFrame_sameActors (s : State) (n : Nat) (f : Frame) : SameActors s (s.setFrame n f) := ⟨rfl, rfl, rfl⟩
theorem fresh_sameActors (s : State) : SameActors s s.fresh := ⟨rfl, rfl, rfl⟩

theorem emit_sameActors (s : State) (r : Remote) : SameActors s (s.emit r) := by
  unfold State.emit
  repeat' split
  all_goals exact ⟨rfl, rfl, rfl⟩

theorem request_sameActors (s : State) (r : Remote) : SameActors s (s.request r) := by
  unfold State.request
  dsimp only
  split
  · exact ⟨rfl, rfl, rfl⟩
  · have h := emit_sameActors { s with remotes := s.remotes ++ [{ r with sent := !s.remotes.any (fun q => q.sameLine r) }] } r
    exact ⟨h.groups, h.teams, h.runs⟩

theorem writePa_sameActors (s : State) (core grp pa : Nat) (b : List Byte) (cmd : Option Nat) :
    SameActors s (s.writePa core grp pa b cmd) := by
  unfold State.writePa
  split
  all_goals try exact ⟨rfl, rfl, rfl⟩
  split
  · exact ⟨rfl, rfl, rfl⟩
  · refine foldl_sameActors _ (fun s p => ?_) _ _
    exact (fresh_sameActors s).trans (request_sameActors _ _)

theorem postAsync_sameActors (s : State) (die ctx cause lch tva pa : Nat) (core grp : Option Nat) :
    SameActors s (postAsync s die ctx cause lch tva pa core grp) := ⟨rfl, rfl, rfl⟩

theorem backDamaged_sameActors (s : State) (core ctx pa : Nat) (ws : List Nat) : SameActors s (backDamaged s core ctx pa ws) := by
  unfold backDamaged
  split
  · exact .refl s
  · exact postAsync_sameActors _ _ _ _ _ _ _ _ _

theorem writeBackLine_sameActors (s : State) (core : Nat) (l : L1Line) : SameActors s (writeBackLine s core l) := by
  have parts : ∀ (ps : List (Nat × List Byte)) (s : State), SameActors s (ps.foldl (fun s x => ownHome s core (l.line * 128 + x.1) x.2) s) :=
    fun ps s => foldl_sameActors (fun s (x : Nat × List Byte) => ownHome s core (l.line * 128 + x.1) x.2)
      (fun _ _ => ownHome_sameActors _ _ _ _) ps s
  have damaged : ∀ (d : List Damage) (s : State), SameActors s { s with damage := d } := fun _ _ => ⟨rfl, rfl, rfl⟩
  unfold writeBackLine
  dsimp only
  split
  · exact .refl s
  · split
    · refine SameActors.trans ?_ (postAsync_sameActors _ _ _ _ _ _ _ _ _)
      exact setFrame_sameActors s _ _
    · split
      · split
        · exact parts _ s
        · refine SameActors.trans ?_ (postAsync_sameActors _ _ _ _ _ _ _ _ _)
          exact (parts (dirtyParts l) s).trans (damaged _ _)
      · exact ((fresh_sameActors s).trans (request_sameActors _ _)).trans (backDamaged_sameActors _ _ _ _ _)

theorem cleanLine_sameActors (s : State) (core : Nat) (l : L1Line) : SameActors s (cleanLine s core l) := by
  have h := writeBackLine_sameActors { s with wbs := s.wbs.filter (fun w => !(w.core == core && w.line == l.line)) } core l
  unfold cleanLine
  dsimp only
  split
  all_goals exact ⟨h.groups, h.teams, h.runs⟩

/-- A drain of a core changes no group, team or bank run. -/
theorem drainCore_sameActors (s : State) (core : Nat) : SameActors s (drainCore s core) :=
  foldl_sameActors _ (fun s l => cleanLine_sameActors s core l) _ _

/-! ### Channels that no bank run has -/

/-- No bank run has a channel. -/
def NoRunOn (s : State) : Prop := ∀ r ∈ s.runs, r.st = .waiting

theorem NoRunOn.of {s t : State} (h : NoRunOn s) (k : SameActors s t) : NoRunOn t := by
  intro r hr
  rw [k.runs] at hr
  exact h r hr

theorem runOn_none {s : State} (h : NoRunOn s) (chan : Nat) : runOn s chan = none := by
  unfold runOn
  rw [List.find?_eq_none]
  intro r hr
  simp [h r hr]

/-- A request to a row is served at once where no bank run has a channel. -/
theorem serveRow_some {s : State} (h : NoRunOn s) (pa : Nat) : serveRow s pa = some s := by
  unfold serveRow
  simp only [runOn_none h]

theorem serveRows_eq {s : State} (h : NoRunOn s) (pas : List Nat) : serveRows s pas = (s, []) := by
  unfold serveRows
  induction pas with
  | nil => rfl
  | cons p t ih => simp only [List.foldl_cons, serveRow_some h]; exact ih

theorem drainServed_spec {s : State} (h : NoRunOn s) (core : Nat) :
    (drainServed s core).2 = [] ∧ SameActors s (drainServed s core).1 := by
  unfold drainServed
  generalize (s.core core).l1.filter (fun l => l.dirty != 0 && regionOf (128 * l.line) == .tier1) = ls
  suffices ∀ (ls : List L1Line) (a : State), SameActors s a →
      (ls.foldl (fun (a : State × List Nat) l => match serveRow a.1 (128 * l.line) with
        | some s1 => (cleanLine s1 core l, a.2)
        | none => (a.1, rowOf (128 * l.line) :: a.2)) (a, [])).2 = []
      ∧ SameActors s (ls.foldl (fun (a : State × List Nat) l => match serveRow a.1 (128 * l.line) with
        | some s1 => (cleanLine s1 core l, a.2)
        | none => (a.1, rowOf (128 * l.line) :: a.2)) (a, [])).1 from this ls s (.refl s)
  intro ls
  induction ls with
  | nil => exact fun a ha => ⟨rfl, ha⟩
  | cons l t ih =>
    intro a ha
    simp only [List.foldl_cons, serveRow_some (h.of ha)]
    exact ih _ (ha.trans (cleanLine_sameActors _ _ _))

/-! ### A group with no load to perform -/

theorem words_nil {g : Group} {f : WordId → PVal → Bool} (h : ∀ p ∈ g.pends, ∀ v ∈ p.vals, f (p.load, p.reg, v.1) v.2 = false) :
    g.words f = [] := by
  unfold Group.words
  rw [List.flatMap_eq_nil_iff]
  intro p hp
  rw [List.map_eq_nil_iff, List.filter_eq_nil_iff]
  intro v hv
  simp [h p hp v hv]

theorem performIf_eq {s : State} {g : Group} {f : WordId → PVal → Bool} (hg : s.group? g.uid = some g)
    (h : ∀ p ∈ g.pends, ∀ v ∈ p.vals, f (p.load, p.reg, v.1) v.2 = false) : performIf s g.uid f = s := by
  unfold performIf
  simp only [hg, words_nil h]
  rfl

theorem anyLate_eq_false {g : Group} (h : anyLate g = false) : ∀ p ∈ g.pends, ∀ v ∈ p.vals, isLate v.2 = false := by
  intro p hp v hv
  unfold anyLate at h
  rw [List.any_eq_false] at h
  have h1 := h p hp
  rw [Bool.not_eq_true, List.any_eq_false] at h1
  simpa using h1 v hv

/-- Nothing is left to perform for a group all of whose loads are performed. -/
theorem settle_eq {s : State} {g : Group} (hg : s.group? g.uid = some g) (h : anyLate g = false) : settle s g.uid = s :=
  performIf_eq hg (fun p hp v hv => anyLate_eq_false h p hp v hv)

theorem touches_late {ws : List (Place × Nat)} {v : PVal} (h : isLate v = false) : touches ws v = false := by
  unfold touches
  unfold isLate at h
  cases hp : v.place? with
  | none => rfl
  | some q => rw [hp] at h; cases h

/-! ### The release -/

/-- What `ixOf` says of the group it names, in terms of the state. -/
theorem Issues.group {s : State} {x : Ix} {n : Needs} (h : Issues s x n) : x.s.group? x.g.uid = some x.g := by
  obtain ⟨rfl, -, -, -, ⟨i, -, hg, -, -⟩, -, -⟩ := ixOf_fields h.names
  have : x.g.uid = i.grp := by
    have := List.find?_some hg
    simpa using this
  rw [this]
  exact hg

theorem group?_of {s t : State} (h : SameActors s t) (u : Nat) : t.group? u = s.group? u := by
  unfold State.group?
  rw [h.groups]

theorem afterRelease_or (x : Ix) (scope : Option Nat) (eager : Bool) :
    afterRelease x scope eager = x ∨ afterRelease x scope eager = { x with s := drained x } := by
  unfold afterRelease
  split
  · exact .inl rfl
  · cases eager
    · exact .inl rfl
    · exact .inr rfl

/-- A release changes the state alone: the issuing split's team, group and entry are as before. -/
theorem afterRelease_same (x : Ix) (scope : Option Nat) (eager : Bool) :
    (afterRelease x scope eager).g = x.g ∧ (afterRelease x scope eager).sp = x.sp ∧ (afterRelease x scope eager).t = x.t
      ∧ (afterRelease x scope eager).core = x.core ∧ (afterRelease x scope eager).e = x.e := by
  rcases afterRelease_or x scope eager with h | h <;> rw [h] <;> exact ⟨rfl, rfl, rfl, rfl, rfl⟩

/-- The drain of a release changes no group, team or bank run. -/
theorem afterRelease_sameActors {x : Ix} (h : NoRunOn x.s) (scope : Option Nat) (eager : Bool) :
    SameActors x.s (afterRelease x scope eager).s := by
  rcases afterRelease_or x scope eager with h1 | h1 <;> rw [h1]
  · exact .refl _
  · exact (drainServed_spec h x.core).2.trans (drainCore_sameActors _ _)

/-- A release that nothing holds back is its drain, and then the instruction's own effect. -/
theorem released_eq {x : Ix} {scope : Option Nat} {eager mirror : Bool} (hg : x.s.group? x.g.uid = some x.g) (h : Unheld x scope eager mirror)
    (k : Ix → State × Next) : released x scope eager k mirror = k (afterRelease x scope eager) := by
  unfold released afterRelease
  have ha := h.answered
  unfold afterRelease at ha
  cases scope with
  | none => rfl
  | some n =>
    specialize ha n rfl
    simp only [settle_eq hg h.loads]
    cases eager with
    | false =>
      simp only [Bool.false_eq_true, if_false] at ha ⊢
      simp only [List.isEmpty_nil, Bool.not_true, Bool.false_eq_true, if_false, hg, h.loads, ha, Bool.or_self]
    | true =>
      obtain ⟨h1, h2⟩ := drainServed_spec h.channels x.core
      have h3 : SameActors x.s (drained x) := h2.trans (drainCore_sameActors _ _)
      have h4 : (drained x).group? x.g.uid = some x.g := (group?_of h3 _).trans hg
      simp only [if_true] at ha ⊢
      unfold drained at h4 ha ⊢
      simp only [h1, List.isEmpty_nil, Bool.not_true, Bool.false_eq_true, if_false, h4, h.loads, ha, Bool.or_self]

theorem serveRow_sameActors {s t : State} (hc : NoRunOn s) {pa : Nat} (h : serveRow s pa = some t) : SameActors s t := by
  rw [serveRow_some hc] at h
  cases h
  exact .refl s

theorem wantBack_sameActors {s : State} (hc : NoRunOn s) (core : Nat) (l : L1Line) : SameActors s (wantBack s core l) := by
  unfold wantBack
  rw [serveRow_some hc, ite_self]
  exact cleanLine_sameActors s core l

/-- A fold of replacements that keep the actors where no bank run has a channel. -/
theorem foldl_sameActors' {α : Type} (f : State → α → State) (hf : ∀ s a, NoRunOn s → SameActors s (f s a)) (l : List α) (s : State)
    (hc : NoRunOn s) : SameActors s (l.foldl f s) := by
  induction l generalizing s with
  | nil => exact .refl s
  | cons a t ih => exact (hf s a hc).trans (ih _ (hc.of (hf s a hc)))

theorem drainWait_sameActors {s : State} (hc : NoRunOn s) (core : Nat) (p : L1Line → Bool) : SameActors s (drainWait s core p) :=
  foldl_sameActors' _ (fun _ l h => wantBack_sameActors h core l) _ s hc

theorem drainRec_sameActors {s : State} (hc : NoRunOn s) (r : HomeRec) : SameActors s (drainRec s r) := by
  have h := drainWait_sameActors hc r.core (upTo r.epoch)
  unfold drainRec
  dsimp only
  split
  · exact h
  · exact ⟨h.groups, h.teams, h.runs⟩

theorem reachWait_sameActors {s : State} (hc : NoRunOn s) (core line : Nat) : SameActors s (reachWait s core line) :=
  foldl_sameActors' _ (fun _ r h => drainRec_sameActors h r) _ s hc

theorem reachAll_sameActors {s : State} (hc : NoRunOn s) (core : Nat) (ls : List Nat) : SameActors s (reachAll s core ls) :=
  foldl_sameActors' _ (fun _ l h => reachWait_sameActors h core l) _ s hc

/-- An access whose lines and channels are free, whose atomics find the cores recorded at their home lines drained, and whose group has no
load to perform goes on at once. -/
theorem cleared_eq {x : Ix} {past atom : Bool} {ps : List Place} {size : Nat} (hg : x.s.group? x.g.uid = some x.g)
    (hc : NoRunOn x.s) (hl : anyLate x.g = false) (hb : ps.any (placeBusy x.s x.core) = false)
    (hr : ∀ l, l ∈ atomLines atom ps → reachLeft (reachAll x.s x.core (atomLines atom ps)) x.core l = false) (k : State → State × Next) :
    cleared x past atom ps size k = k (reachAll x.s x.core (atomLines atom ps)) := by
  have ha := reachAll_sameActors hc x.core (atomLines atom ps)
  have hg1 := (group?_of ha x.g.uid).trans hg
  unfold cleared
  have h1 : settleAt (reachAll x.s x.core (atomLines atom ps)) x.g.uid (ps.map (fun p => (p, size))) = reachAll x.s x.core (atomLines atom ps) :=
    performIf_eq hg1 (fun p hp v hv => touches_late (anyLate_eq_false hl p hp v hv))
  have h2 : ∀ ws, lateAt x.g ws = false := by
    intro ws
    unfold lateAt
    rw [List.any_eq_false]
    intro p hp
    rw [Bool.not_eq_true, List.any_eq_false]
    intro v hv
    simp [touches_late (anyLate_eq_false hl p hp v hv)]
  have h3 : (atomLines atom ps).any (reachLeft (reachAll x.s x.core (atomLines atom ps)) x.core) = false := by
    rw [List.any_eq_false]
    exact fun l hl => by simp [hr l hl]
  simp only [hb, h3, serveRows_eq (hc.of ha), Bool.false_eq_true, if_false, List.isEmpty_nil, Bool.not_true, h1, hg1, Option.any_some, h2]

/-- The same after a release that nothing holds back. -/
theorem cleared_after {x : Ix} {past atom : Bool} {ps : List Place} {size : Nat} {scope : Option Nat} {eager mirror : Bool}
    (hg : x.s.group? x.g.uid = some x.g) (h : Unheld x scope eager mirror)
    (hb : ps.any (placeBusy (afterRelease x scope eager).s x.core) = false)
    (hr : ∀ l, l ∈ atomLines atom ps → reachLeft (reachAll (afterRelease x scope eager).s x.core (atomLines atom ps)) x.core l = false)
    (k : State → State × Next) :
    cleared (afterRelease x scope eager) past atom ps size k = k (reachAll (afterRelease x scope eager).s x.core (atomLines atom ps)) := by
  obtain ⟨h1, -, -, h4, -⟩ := afterRelease_same x scope eager
  have ha := afterRelease_sameActors h.channels scope eager
  have := cleared_eq (x := afterRelease x scope eager) (past := past) (atom := atom) (ps := ps) (size := size)
    (by rw [h1]; exact (group?_of ha _).trans hg) (NoRunOn.of h.channels ha) (by rw [h1]; exact h.loads) (by rw [h4]; exact hb)
    (by rw [h4]; exact hr) k
  rw [this, h4]

/-- The issue of a command whose release nothing holds back: the release, then its own effect. -/
theorem cmdIssue_eq {x : Ix} (hg : x.s.group? x.g.uid = some x.g) (h : Unheld x (if mrAREL x.sp.mr then some (mrSCOPE x.sp.mr) else none) true)
    (k : Ix → State × Next) : cmdIssue x k = k (afterRelease x (if mrAREL x.sp.mr then some (mrSCOPE x.sp.mr) else none) true) := by
  unfold cmdIssue
  rw [released_eq hg h]
  generalize (if mrAREL x.sp.mr then some (mrSCOPE x.sp.mr) else none) = sc at h ⊢
  have h1 := (afterRelease_same x sc true).1
  have ha := afterRelease_sameActors h.channels sc true
  have h3 : (afterRelease x sc true).s.group? (afterRelease x sc true).g.uid = some (afterRelease x sc true).g := by
    rw [h1]; exact (group?_of ha _).trans hg
  have h2 : ∀ f : WordId → PVal → Bool, (∀ w v, isLate v = false → f w v = false) →
      performIf (afterRelease x sc true).s (afterRelease x sc true).g.uid f = (afterRelease x sc true).s := by
    intro f hf
    refine performIf_eq h3 (fun p hp v hv => hf _ _ ?_)
    rw [h1] at hp
    exact anyLate_eq_false h.loads p hp v hv
  dsimp only
  rw [h2 _ (fun w v hv => ?_), h3]
  · rfl
  · unfold isLate at hv
    cases hp : v.place? with
    | none => rfl
    | some q => rw [hp] at hv; cases hv

end Sys2Proof.Machine
end

