-- ==== Sys2Proof/Laws/Late.lean ====
section
/-! SUPPORT. What LOAD_RETURN does: a turn of a word that has arrived changes nothing, so the return of a register all of whose words have
arrived is `returnPend`; and the performing of one word that nothing holds is the read at its place. -/

namespace Sys2Proof.Machine

open Sys2Proof

/-- What `pendOf` names: an entry of the in-flight set of a group of the state. -/
theorem pendOf_spec {s : State} {load reg : Nat} {g : Group} {p : Pend} (h : pendOf s load reg = some (g, p)) :
    g ∈ s.groups ∧ g.pends.find? (fun p => p.load == load && p.reg == reg) = some p ∧ p ∈ g.pends ∧ p.load = load ∧ p.reg = reg := by
  unfold pendOf at h
  obtain ⟨g1, hg, hp⟩ := List.exists_of_findSome?_eq_some h
  rw [Option.map_eq_some_iff] at hp
  obtain ⟨p1, hf, he⟩ := hp
  cases he
  have h1 := List.find?_some hf
  rw [Bool.and_eq_true, beq_iff_eq, beq_iff_eq] at h1
  exact ⟨hg, hf, List.mem_of_find?_eq_some hf, h1.1, h1.2⟩

theorem val?_mem {g : Group} {w : WordId} {v : PVal} (h : g.val? w = some v) :
    ∃ p, g.pends.find? (fun p => p.load == w.1 && p.reg == w.2.1) = some p ∧ p ∈ g.pends ∧ p.load = w.1 ∧ p.reg = w.2.1 ∧ (w.2.2, v) ∈ p.vals := by
  unfold Group.val? at h
  rw [Option.bind_eq_some_iff] at h
  obtain ⟨p, hp, h1⟩ := h
  rw [Option.map_eq_some_iff] at h1
  obtain ⟨x, hx, rfl⟩ := h1
  have h2 := List.find?_some hp
  rw [Bool.and_eq_true, beq_iff_eq, beq_iff_eq] at h2
  have h3 := List.find?_some hx
  rw [beq_iff_eq] at h3
  refine ⟨p, hp, List.mem_of_find?_eq_some hp, h2.1, h2.2, ?_⟩
  rw [← h3]
  exact List.mem_of_find?_eq_some hx

/-- A value that has arrived is not still to be performed. -/
theorem unperformed_arrived {v : PVal} (h : arrived v = true) : unperformed v = false := by
  cases v <;> first | rfl | cases h

/-- Words that have all arrived are performed by nothing. -/
theorem performWords_arrived {t : Team} {g : Group} {ws : List WordId} (h : ∀ w ∈ ws, ∀ v, g.val? w = some v → arrived v = true)
    (more : Bool) (s : State) : performWords t g more ws s = some (s, []) := by
  induction ws with
  | nil => rfl
  | cons a ws ih =>
    have hn : (g.val? a).filter unperformed = none := by
      cases hv : g.val? a with
      | none => rfl
      | some v => rw [Option.filter_some, unperformed_arrived (h a (List.mem_cons_self ..) v hv)]; rfl
    unfold performWords
    rw [hn]
    exact ih (fun w hw => h w (List.mem_cons_of_mem _ hw))

/-- Words that have all arrived reach no home line. -/
theorem wordLines_arrived {s : State} {core : Nat} {g : Group} {ws : List WordId} (h : ∀ w ∈ ws, ∀ v, g.val? w = some v → arrived v = true) :
    wordLines s core g ws = [] := by
  unfold wordLines
  rw [List.filterMap_eq_nil_iff]
  intro w hw
  cases hv : g.val? w with
  | none => rfl
  | some v =>
    have := h w hw v hv
    cases v <;> first | rfl | cases this

theorem staleWord_arrived {s : State} {g : Group} {w : WordId} (h : ∀ v, g.val? w = some v → arrived v = true) : staleWord s g w = none := by
  unfold staleWord
  cases hv : g.val? w with
  | none => rfl
  | some v =>
    have := h v hv
    cases v <;> first | rfl | cases this

theorem sawHome_nil (g : Group) : g.sawHome [] = g := by
  unfold Group.sawHome
  simp

theorem modGroup_id (s : State) (u : Nat) (f : Group → Group) (h : ∀ g, f g = g) : s.modGroup u f = s := by
  unfold State.modGroup
  simp [h]

/-- A word all of whose access has arrived is not performed again. -/
theorem performWord_arrived {s : State} {u : Nat} {g : Group} {w : WordId} (hg : s.group? u = some g)
    (hw : ∀ v, g.val? w = some v → arrived v = true) (h : ∀ x ∈ g.together w, ∀ v, g.val? x = some v → arrived v = true) :
    performWord u s w = s := by
  unfold performWord
  rw [hg]
  dsimp only
  split
  · rfl
  · rw [staleWord_arrived hw, wordLines_arrived h, List.foldl_nil]
    dsimp only
    rw [performWords_arrived h]
    exact modGroup_id _ _ _ (fun g => sawHome_nil g)

theorem place?_arrived {v : PVal} (h : arrived v = true) : v.place? = none := by
  cases v <;> first | rfl | cases h

/-- The group whose in-flight register a word belongs to. -/
theorem find_val {s : State} {load reg lane : Nat} {g : Group} {p : Pend} (h : pendOf s load reg = some (g, p))
    (hm : lane ∈ p.vals.map (fun v => v.1)) : ∃ v, s.groups.find? (fun g => (g.val? (load, reg, lane)).isSome) = some g
      ∧ g.val? (load, reg, lane) = some v ∧ (lane, v) ∈ p.vals := by
  obtain ⟨hmem, hf, -, -, -⟩ := pendOf_spec h
  have hv : ∃ v, p.vals.find? (fun v => v.1 == lane) = some (lane, v) := by
    obtain ⟨x, hx, rfl⟩ := List.mem_map.mp hm
    cases hq : p.vals.find? (fun v => v.1 == x.1) with
    | none =>
      rw [List.find?_eq_none] at hq
      exact absurd (beq_self_eq_true x.1) (hq x hx)
    | some y =>
      have := List.find?_some hq
      rw [beq_iff_eq] at this
      exact ⟨y.2, by rw [← this]⟩
  obtain ⟨v, hv⟩ := hv
  have hval : g.val? (load, reg, lane) = some v := by
    unfold Group.val?
    rw [hf]
    simp only [Option.bind_some, hv, Option.map_some]
  refine ⟨v, ?_, hval, List.mem_of_find?_eq_some hv⟩
  unfold pendOf at h
  revert h
  generalize s.groups = l
  intro h
  induction l with
  | nil => cases h
  | cons a l ih =>
    rw [List.findSome?_cons] at h
    cases ha : a.pends.find? (fun p => p.load == load && p.reg == reg) with
    | some q =>
      rw [ha] at h
      cases h
      rw [List.find?_cons_of_pos]
      rw [hval]
      rfl
    | none =>
      rw [ha] at h
      rw [List.find?_cons_of_neg]
      · exact ih h
      · unfold Group.val?
        rw [ha]
        simp

/-- The words of an access whose load has all arrived have arrived. -/
theorem together_arrived {g : Group} {load reg lane : Nat} {p : Pend}
    (hp : g.pends.find? (fun p => p.load == load && p.reg == reg) = some p) (ha : ∀ v, v ∈ p.vals → arrived v.2 = true)
    (hw : p.whole = true → ∀ q v, q ∈ g.pends → q.load = load → v ∈ q.vals → arrived v.2 = true) :
    ∀ x ∈ g.together (load, reg, lane), ∀ v, g.val? x = some v → arrived v = true := by
  have one : ∀ v, g.val? (load, reg, lane) = some v → arrived v = true := by
    intro v hv
    obtain ⟨q, hq, -, -, -, hin⟩ := val?_mem hv
    rw [hp] at hq
    cases hq
    exact ha _ hin
  have other : ∀ x ∈ (if p.whole = true then g.words (fun x _ => x.1 == load && x.2.2 == lane) else [(load, reg, lane)]),
      ∀ v, g.val? x = some v → arrived v = true := by
    intro x hx v hv
    split at hx
    · rename_i hwh
      unfold Group.words at hx
      obtain ⟨q, hq, hx⟩ := List.mem_flatMap.mp hx
      obtain ⟨y, hy, rfl⟩ := List.mem_map.mp hx
      have hc := (List.mem_filter.mp hy).2
      rw [Bool.and_eq_true, beq_iff_eq] at hc
      obtain ⟨r, -, hr, h1, -, hin⟩ := val?_mem hv
      exact hw hwh r _ hr (h1.trans hc.1) hin
    · rw [List.mem_singleton] at hx
      subst hx
      exact one v hv
  unfold Group.together
  dsimp only
  rw [hp]
  cases hv : g.val? (load, reg, lane) with
  | none => exact other
  | some v =>
    have := one v hv
    cases v <;> first | exact other | cases this

/-- LOAD_RETURN of a register all of whose words have arrived, with those of the rest of its access, returns them. -/
theorem loadReturn_arrived {s : State} {load reg : Nat} {g : Group} {p : Pend} {t : Team} (h : pendOf s load reg = some (g, p))
    (hg : s.group? g.uid = some g) (ht : s.team? g.team = some t) (ha : ∀ v, v ∈ p.vals → arrived v.2 = true)
    (hw : p.whole = true → ∀ q v, q ∈ g.pends → q.load = load → v ∈ q.vals → arrived v.2 = true) :
    loadReturn s load reg = serveHomes (returnPend s g t p) := by
  have hfind := (pendOf_spec h).2.1
  have turn : ∀ lane, lane ∈ p.vals.map (fun v => v.1) → performTurn s load reg lane = s := by
    intro lane hm
    obtain ⟨v, hf, hv, hin⟩ := find_val h hm
    have hav := ha _ hin
    unfold performTurn
    rw [hf]
    simp only [hv, Option.bind_some, place?_arrived hav]
    exact performWord_arrived hg (fun u hu => by rw [hv] at hu; cases hu; exact hav) (together_arrived hfind ha hw)
  have fold : (p.vals.map (fun v => v.1)).foldl (fun s lane => performTurn s load reg lane) s = s := by
    generalize p.vals.map (fun v => v.1) = l at turn
    induction l with
    | nil => rfl
    | cons a l ih =>
      rw [List.foldl_cons, turn a (List.mem_cons_self ..)]
      exact ih (fun x hx => turn x (List.mem_cons_of_mem _ hx))
  unfold loadReturn
  rw [h]
  dsimp only
  rw [fold, h]
  dsimp only
  rw [ht]
  dsimp only
  rw [if_pos]
  rw [Bool.or_eq_true]
  cases hv : p.vals with
  | nil => exact .inr rfl
  | cons a l =>
    refine .inl ?_
    rw [List.any_cons, ha a (by rw [hv]; exact List.mem_cons_self ..)]
    rfl

end Sys2Proof.Machine
end

