-- ==== Sys2Proof/Laws/MemFormEngines.lean ====
section
/-! SUPPORT. The lemmas of Laws/MemForm.lean for Louver, the matrix engine, the bank engines and the launches. -/

namespace Sys2Proof.Machine

open Sys2Proof

@[simp] theorem lvMove_memWf (s : State) (t : Team) (m : Cmd) (hs : MemWf s) :
    MemWf (lvMove s t m).1 := by
  unfold lvMove; dsimp only; (repeat' split) <;> simp_all +contextual (maxDischargeDepth := 12)

@[simp] theorem lvData_memWf (s : State) (core : Nat) (t : Team) (m : Cmd) (hs : MemWf s) :
    MemWf (lvData s core t m) := by
  unfold lvData; dsimp only; (repeat' split) <;> simp_all +contextual (maxDischargeDepth := 12)

@[simp] theorem lvGo_memWf (s : State) (core : Nat) (t : Team) (m : Cmd) (hs : MemWf s) :
    MemWf (lvGo s core t m) := by
  simp_all [lvGo]

@[simp] theorem louverDie_memWf (s : State) (die : Nat) (hs : MemWf s) :
    MemWf (louverDie s die) := by
  unfold louverDie; dsimp only; (repeat' split) <;> simp_all +contextual (maxDischargeDepth := 12)

@[simp] theorem accPut_memWf (s : State) (t : Team) (off : Nat) (v : Word) (hs : MemWf s) : MemWf (accPut s t off v) :=
  ⟨hs.mem, hs.scr, hs.dscr, mset_mwf _ _ _ _ hs.acc⟩

@[simp] theorem orMstat_memWf (s : State) (team fl : Nat) (hs : MemWf s) :
    MemWf (orMstat s team fl) := by
  unfold orMstat; split <;> simp_all

theorem mxOp_memWf (kind : CmdKind) (bad : Mx → Bool) (chks : Mx → List Chk) (u : UniOp) (a : Option (Fin 64)) (b : Fin 64)
    (s t : State) (hs : MemWf s) (h : mxOp kind bad chks u a b s = .next t) : MemWf t := by
  refine issue_memWf _ _ s t hs (fun x r hx hr => ?_) h
  dsimp only at hr
  repeat' split at hr
  all_goals first | (cases hr; done) | (cases hr; simp_all +contextual (maxDischargeDepth := 12))

@[simp] theorem zeroTile_memWf (s : State) (t : Team) (x : Mx) (hs : MemWf s) :
    MemWf (zeroTile s t x) := by
  simp_all [zeroTile]

@[simp] theorem runDrain_memWf (s : State) (core : Nat) (t : Team) (m : Cmd) (x : Mx) (hs : MemWf s) :
    MemWf (runDrain s core t m x) := by
  unfold runDrain; dsimp only; (repeat' split) <;> simp_all +contextual (maxDischargeDepth := 12)

@[simp] theorem startMx_memWf (s : State) (core : Nat) (m : Cmd) (hs : MemWf s) :
    MemWf (startMx s core m) := by
  unfold startMx; dsimp only; (repeat' split) <;> simp_all +contextual (maxDischargeDepth := 12)

@[simp] theorem matrixStart_memWf (s : State) (core : Nat) (hs : MemWf s) :
    MemWf (matrixStart s core) := by
  simp only [matrixStart]; (repeat' split) <;> simp_all +contextual (maxDischargeDepth := 12)

@[simp] theorem applyStep_memWf (s : State) (t : Team) (x : Mx) (parts : List (List (Nat × Nat))) (hs : MemWf s) :
    MemWf (applyStep s t x parts) := by
  unfold applyStep; dsimp only; simp_all +contextual (maxDischargeDepth := 12)

@[simp] theorem boundary_memWf (s : State) (core : Nat) (m : Cmd) (hs : MemWf s) :
    MemWf (boundary s core m) := by
  unfold boundary; dsimp only; (repeat' split) <;> simp_all +contextual (maxDischargeDepth := 12)

@[simp] theorem kStep_memWf (s : State) (core : Nat) (hs : MemWf s) :
    MemWf (kStep s core) := by
  unfold kStep; dsimp only; (repeat' split) <;> simp_all +contextual (maxDischargeDepth := 12)

@[simp] theorem fillPages_memWf (s : State) (t : Team) (m : Cmd) (ys : List (List (Nat × Xl))) (hs : MemWf s) :
    MemWf (fillPages s t m ys) := by
  simp_all [fillPages]

@[simp] theorem reachFrame_memWf (s : State) (core : Nat) (m : Cmd) (hs : MemWf s) : MemWf (reachFrame s core m).1 := by
  unfold reachFrame; split <;> simp_all

@[simp] theorem shutGo_memWf (k : Nat) (s : State) (uid : Nat) (hs : MemWf s) : MemWf (shutGo k s uid) := by
  induction k generalizing s with
  | zero => exact hs
  | succ k ih =>
    unfold shutGo
    dsimp only
    repeat' split
    all_goals first
      | exact ih _ (State.setCmd_memWf _ _ _ (reachFrame_memWf _ _ _ hs))
      | simp_all +contextual (maxDischargeDepth := 12)

@[simp] theorem shutPasses_memWf (us : List Nat) (n : Nat) (s : State) (hs : MemWf s) : MemWf (shutPasses us n s) := by
  induction n generalizing s with
  | zero => exact hs
  | succ n ih => exact ih _ (foldl_memWf _ _ _ hs (fun _ _ h => shutGo_memWf _ _ _ h))

@[simp] theorem shutAll_memWf (s : State) (hs : MemWf s) :
    MemWf (shutAll s) := by
  simp_all [shutAll]

@[simp] theorem handingDone_memWf (s : State) (uid : Nat) (hs : MemWf s) :
    MemWf (handingDone s uid) := by
  unfold handingDone; dsimp only; (repeat' split) <;> simp_all +contextual (maxDischargeDepth := 12)

@[simp] theorem freeFrame_memWf (s : State) (f : Nat) (hs : MemWf s) :
    MemWf (freeFrame s f) := by
  simp_all [freeFrame]

@[simp] theorem toDieFrame_memWf (s : State) (uid : Nat) (hs : MemWf s) :
    MemWf (toDieFrame s uid) := by
  unfold toDieFrame; dsimp only; (repeat' split) <;> simp_all +contextual (maxDischargeDepth := 12)

@[simp] theorem holdFrames_memWf (s : State) (fs : List Nat) (up : Bool) (hs : MemWf s) :
    MemWf (holdFrames s fs up) := by
  simp_all [holdFrames]

@[simp] theorem shutBegin_memWf (s : State) (core : Nat) (m : Cmd) (hs : MemWf s) : MemWf (shutBegin s core m) := by
  unfold shutBegin
  dsimp only
  (repeat' split) <;> first
    | exact hs
    | exact drainWait_memWf _ _ _ hs
    | exact shutGo_memWf _ _ _ (State.setCmd_memWf _ _ _ (drainWait_memWf _ _ _ hs))
    | exact shutGo_memWf _ _ _ (State.setCmd_memWf _ _ _ hs)

@[simp] theorem failCmd_memWf (s : State) (core : Nat) (m : Cmd) (e : Nat × Nat) (hs : MemWf s) :
    MemWf (failCmd s core m e) := by
  simp_all [failCmd]

@[simp] theorem brunStart_memWf (s : State) (core : Nat) (t : Team) (m : Cmd) (hs : MemWf s) :
    MemWf (brunStart s core t m) := by
  unfold brunStart; dsimp only; (repeat' split) <;> simp_all +contextual (maxDischargeDepth := 12)

@[simp] theorem brunGo_memWf (s : State) (core : Nat) (t : Team) (m : Cmd) (hs : MemWf s) : MemWf (brunGo s core t m) :=
  whenReady_memWf _ _ _ _ _ _ hs (fun _ ht => brunStart_memWf _ _ _ _ ht)

@[simp] theorem bankBegin_memWf (s : State) (core : Nat) (t : Team) (m : Cmd) (hs : MemWf s) :
    MemWf (bankBegin s core t m) := by
  unfold bankBegin; dsimp only; (repeat' split) <;> simp_all +contextual (maxDischargeDepth := 12)

@[simp] theorem bankCheck_memWf (s : State) (core : Nat) (hs : MemWf s) :
    MemWf (bankCheck s core) := by
  simp only [bankCheck]; (repeat' split) <;> simp_all +contextual (maxDischargeDepth := 12)

@[simp] theorem freeCtxFrames_memWf (s : State) (ctx : Nat) (hs : MemWf s) :
    MemWf (freeCtxFrames s ctx) := by
  simp only [freeCtxFrames]; (repeat' split) <;> simp_all +contextual (maxDischargeDepth := 12)

@[simp] theorem endRun_memWf (s : State) (r : Run) (status upc faddr : Nat) (hs : MemWf s) :
    MemWf (endRun s r status upc faddr) := by
  unfold endRun; dsimp only; (repeat' split) <;> simp_all +contextual (maxDischargeDepth := 12)

@[simp] theorem cutRun_memWf (s : State) (r : Run) (hs : MemWf s) :
    MemWf (cutRun s r) := by
  unfold cutRun; split <;> simp_all

@[simp] theorem grantRun_memWf (s : State) (uid : Nat) (hs : MemWf s) :
    MemWf (grantRun s uid) := by
  unfold grantRun; dsimp only; (repeat' split) <;> simp_all +contextual (maxDischargeDepth := 12)

@[simp] theorem takeRefreshes_memWf (s : State) (r : Run) (all : Bool) (hs : MemWf s) :
    MemWf (takeRefreshes s r all) := by
  simp_all [takeRefreshes]

theorem atBoundary_memWf (s : State) (r : Run) (hs : MemWf s) (t : State) (ht : atBoundary s r = some t) : MemWf t := by
  unfold atBoundary at ht
  repeat' split at ht
  all_goals first | (cases ht; done) | (cases ht; simp_all)

@[simp] theorem windowEnd_memWf (s : State) (uid : Nat) (hs : MemWf s) :
    MemWf (windowEnd s uid) := by
  simp only [windowEnd]; (repeat' split) <;> simp_all +contextual (maxDischargeDepth := 12)

@[simp] theorem refreshDue_memWf (s : State) (chan : Nat) (must : Bool) (hs : MemWf s) :
    MemWf (refreshDue s chan must) := by
  unfold refreshDue; dsimp only; (repeat' split) <;> simp_all +contextual (maxDischargeDepth := 12)

/-- What a bank command leaves keeps the form. -/
def BankNx.Wf : BankNx → Prop
  | .go s _ _ => MemWf s
  | .stop s _ _ _ _ => MemWf s

theorem bankCmd_memWf (f : State → Run → BankNx) (s t : State) (hf : ∀ r, (f s r).Wf) (h : bankCmd f s = .next t) : MemWf t := by
  unfold bankCmd at h
  split at h
  · cases h
  · rename_i r _
    have hw := hf r
    split at h
    · cases h
    · split at h <;> rename_i h1 <;> rw [h1] at hw <;> cases h
      · exact bump_memWf _ (endRun_memWf _ _ _ _ _ (State.setRun_memWf _ _ hw))
      · refine bump_memWf _ ?_
        split
        · exact endRun_memWf _ _ _ _ _ (State.setRun_memWf _ _ hw)
        · exact State.setRun_memWf _ _ hw

theorem bankReg_memWf (f : Run → Run) (s t : State) (hs : MemWf s) (h : bankReg f s = .next t) : MemWf t :=
  bankCmd_memWf (fun s r => .go s (f r) (r.upc + 1)) s t (fun _ => hs) h

theorem colCmd_memWf (reads : Bool) (bad : Run → Nat → Bool) (ca : Col) (f : State → Run → Nat → Nat → State × Run) (s t : State)
    (hs : MemWf s) (hf : ∀ r a b, MemWf (f s r a b).1) (h : colCmd reads bad ca f s = .next t) : MemWf t := by
  refine bankCmd_memWf _ s t (fun r => ?_) h
  dsimp only
  repeat' split
  all_goals first | exact hs | exact hf _ _ _

end Sys2Proof.Machine
end

