-- ==== Sys2Proof/Laws/MemFormLaunch.lean ====
section
/-! SUPPORT. The lemmas of Laws/MemForm.lean for the distributor, the end of teams and launches, fetches, joins and invalidations. -/

namespace Sys2Proof.Machine

open Sys2Proof

theorem writeCtx_memWf (s : State) (ctx va : Nat) (b : List Byte) (hs : MemWf s) (t : State) (ht : writeCtx s ctx va b = some t) :
    MemWf t := by
  unfold writeCtx at ht
  rw [Option.map_eq_some_iff] at ht
  obtain ⟨l, _, rfl⟩ := ht
  exact foldl_memWf _ _ _ hs (fun s p h => State.writePa_memWf _ _ _ _ _ _ h)

@[simp] theorem postUnreachable_memWf (s : State) (ctx lch va : Nat) (hs : MemWf s) :
    MemWf (postUnreachable s ctx lch va) := by
  simp_all [postUnreachable]

@[simp] theorem readReady_exWf (s : State) (op : FrontOp) (ctx va len : Nat) (hs : MemWf s) : ExWf (readReady s op ctx va len) := by
  unfold readReady
  repeat' split
  all_goals simp_all

@[simp] theorem readsReady_exWf (s : State) (op : FrontOp) (ctx : Nat) (l : List (Nat × Nat)) (hs : MemWf s) : ExWf (readsReady s op ctx l) := by
  unfold readsReady
  suffices h : ∀ a : Except State State, ExWf a → ExWf (l.foldl (fun a r => match a with
      | .ok s1 => readReady s1 op ctx r.1 r.2
      | .error s1 => match readReady s1 op ctx r.1 r.2 with
        | .ok s2 => .error s2
        | .error s2 => .error s2) a) from h _ (by simpa)
  induction l with
  | nil => exact fun a ha => ha
  | cons r rs ih =>
    refine fun a ha => ih _ ?_
    dsimp only
    split
    · exact readReady_exWf _ _ _ _ _ (ha.ok rfl)
    · have h := readReady_exWf _ op ctx r.1 r.2 (ha.error rfl)
      split
      · exact (ExWf_error _).2 (h.ok (by assumption))
      · exact (ExWf_error _).2 (h.error (by assumption))

@[simp] theorem postLost_memWf (s : State) (op : FrontOp) (ctx lch va len : Nat) (hs : MemWf s) : MemWf (postLost s op ctx lch va len) := by
  unfold postLost; split <;> simp_all

@[simp] theorem writeReady_exWf (s : State) (ctx va len : Nat) (hs : MemWf s) : ExWf (writeReady s ctx va len) := by
  unfold writeReady
  split
  · simp_all
  · split
    · simpa
    · rename_i l _
      suffices h : ∀ a : Except State State, ExWf a → ExWf (l.foldl (fun a p => match a with
          | .ok s1 => chanReady s1 p.2.2
          | .error s1 => .error s1) a) from h _ (by simpa)
      clear * -
      induction l with
      | nil => exact fun a ha => ha
      | cons r rs ih =>
        refine fun a ha => ih _ ?_
        dsimp only
        split
        · exact chanReady_exWf _ _ (ha.ok rfl)
        · exact ha

@[simp] theorem setsReady_exWf (s : State) (op : FrontOp) (ctx : Nat) (r : LRec) (hs : MemWf s) : ExWf (setsReady s op ctx r) := by
  unfold setsReady
  split
  · simpa
  · have h := readReady_exWf s op ctx r.sets (32 * r.nsets) hs
    split
    · exact (ExWf_error _).2 (h.error (by assumption))
    · exact readsReady_exWf _ _ _ _ (h.ok (by assumption))

@[simp] theorem postSets_memWf (s : State) (op : FrontOp) (ctx lch : Nat) (r : LRec) (hs : MemWf s) : MemWf (postSets s op ctx lch r) := by
  unfold postSets
  split
  · exact hs
  · exact foldl_memWf _ _ _ hs (fun s x h => postLost_memWf _ _ _ _ _ _ h)

@[simp] theorem bumpFill_memWf (s : State) (ctx va pa : Nat) (hs : MemWf s) : MemWf (bumpFill s ctx va pa) := by
  simp_all [bumpFill]

@[simp] theorem bumpWord_memWf (s : State) (ctx lch va pa : Nat) (hs : MemWf s) :
    MemWf (bumpWord s ctx lch va pa) := by
  unfold bumpWord; dsimp only; (repeat' split) <;> simp_all +contextual (maxDischargeDepth := 12)

@[simp] theorem bumpReady_exWf (s : State) (pa : Nat) (hs : MemWf s) : ExWf (bumpReady s pa) := by
  unfold bumpReady
  dsimp only
  (repeat' split) <;> simp_all

@[simp] theorem reportWaits_memWf (s : State) (l : Launch) (hs : MemWf s) : MemWf (reportWaits s l) := by
  refine foldl_memWf _ _ _ hs (fun s n h => ?_)
  dsimp only
  (repeat' split) <;> simp_all +contextual (maxDischargeDepth := 12)

@[simp] theorem waitsReady_exWf (s : State) (l : Launch) (hs : MemWf s) : ExWf (waitsReady s l) := by
  simp_all [waitsReady]

@[simp] theorem setReading_memWf (s : State) (lch : Nat) (b : Bool) (hs : MemWf s) : MemWf (setReading s lch b) := by
  unfold setReading; split <;> simp_all

@[simp] theorem testRead_memWf (s : State) (l : Launch) (hs : MemWf s) : MemWf (testRead s l) := by
  unfold testRead; dsimp only; (repeat' split) <;> simp_all +contextual (maxDischargeDepth := 12)

@[simp] theorem testBlocked_memWf (s : State) (lch : Nat) (hs : MemWf s) :
    MemWf (testBlocked s lch) := by
  unfold testBlocked
  split
  · exact hs
  · rename_i l _
    split
    · exact hs
    · have h := waitsReady_exWf s l hs
      split
      · exact setReading_memWf _ _ _ (h.error (by assumption))
      · exact testRead_memWf _ _ (h.ok (by assumption))

@[simp] theorem testWaiters_memWf (s : State) (pa : Nat) (hs : MemWf s) :
    MemWf (testWaiters s pa) := by
  unfold testWaiters
  exact foldl_memWf _ _ _ hs (fun s l h => testBlocked_memWf _ _ (endOp_memWf _ _ h))

@[simp] theorem sendIrq_memWf (s : State) (irq : Option Nat) (hs : MemWf s) :
    MemWf (sendIrq s irq) := by
  unfold sendIrq; (repeat' split) <;> simp_all +contextual (maxDischargeDepth := 12)

@[simp] theorem keepRaise_memWf (s : State) (r : Raise) (hs : MemWf s) : MemWf (keepRaise s r) := by
  simp_all [keepRaise]

@[simp] theorem raiseFail_memWf (s : State) (r : Raise) (hs : MemWf s) : MemWf (raiseFail s r) := by
  simp_all +contextual (maxDischargeDepth := 12) [raiseFail]

@[simp] theorem raiseWord_memWf (s : State) (r : Raise) (hs : MemWf s) : MemWf (raiseWord s r) := by
  unfold raiseWord
  split
  · split <;> simp_all
  · rename_i y _
    dsimp only
    split
    · simp_all
    · have h := bumpReady_exWf s y.pa hs
      split
      · exact keepRaise_memWf _ _ (h.error (by assumption))
      · have h1 := h.ok (by assumption)
        split <;> simp_all +contextual (maxDischargeDepth := 12)

@[simp] theorem raiseNow_memWf (s : State) (r : Raise) (hs : MemWf s) :
    MemWf (raiseNow s r) := by
  unfold raiseNow; split <;> simp_all

theorem writeCtx_getD_memWf (s t : State) (ctx va : Nat) (b : List Byte) (hs : MemWf s) (ht : MemWf t) :
    MemWf ((writeCtx s ctx va b).getD t) := by
  cases h : writeCtx s ctx va b with
  | none => exact ht
  | some u => exact writeCtx_memWf _ _ _ _ hs _ h

@[simp] theorem raiseRecord_memWf (s : State) (r : Raise) (hs : MemWf s) : MemWf (raiseRecord s r) := by
  unfold raiseRecord
  split
  · exact raiseNow_memWf _ _ hs
  · rename_i c _
    have h := writeReady_exWf s r.ctx c.1 c.2.length hs
    split
    · exact keepRaise_memWf _ _ (h.error (by assumption))
    · have h1 := h.ok (by assumption)
      have h2 := endWalk_memWf _ frontEnd (writeCtx_getD_memWf _ _ r.ctx c.1 c.2 h1 (postUnreachable_memWf _ r.ctx r.lch c.1 h1))
      dsimp only
      split <;> simp_all

@[simp] theorem raiseEvent_memWf (s : State) (ctx lch va : Nat) (irq : Option Nat) (crec : Option (Nat × List Byte)) (hs : MemWf s) :
    MemWf (raiseEvent s ctx lch va irq crec) := by
  simp_all [raiseEvent]

@[simp] theorem raiseOn_memWf (s : State) (r : Raise) (hs : MemWf s) :
    MemWf (raiseOn s r) := by
  unfold raiseOn; (repeat' split) <;> simp_all +contextual (maxDischargeDepth := 12)

@[simp] theorem raisesOn_memWf (s : State) (hs : MemWf s) : MemWf (raisesOn s) := by
  unfold raisesOn
  exact foldl_memWf _ _ _ (by simp_all) (fun s r h => raiseOn_memWf _ _ h)

@[simp] theorem settleRaises_memWf (s : State) (id : Nat) (failed : Bool) (hs : MemWf s) :
    MemWf (settleRaises s id failed) := by
  unfold settleRaises
  dsimp only
  refine raisesOn_memWf _ ((MemWf_upd _ ..).2 ?_)
  exact foldl_memWf _ _ _ hs (fun s r h => raiseFail_memWf _ _ h)

@[simp] theorem endLaunch_memWf (s : State) (lch reason : Nat) (hs : MemWf s) : MemWf (endLaunch s lch reason) := by
  unfold endLaunch
  split
  · exact hs
  · split
    · exact hs
    · dsimp only
      exact foldl_memWf _ _ _ (raiseEvent_memWf _ _ _ _ _ _ (State.setLaunch_memWf _ _ hs)) (fun s l h => testBlocked_memWf _ _ h)

@[simp] theorem lowerSet_memWf (p : Nat → Bool) (lch : Nat) (s : State) (k : Nat) (hs : MemWf s) :
    MemWf (lowerSet p lch s k) := by
  unfold lowerSet; dsimp only; (repeat' split) <;> simp_all +contextual (maxDischargeDepth := 12)

@[simp] theorem finishTeams_memWf (s : State) (lch n : Nat) (p : Nat → Bool) (hs : MemWf s) :
    MemWf (finishTeams s lch n p) := by
  unfold finishTeams; dsimp only; (repeat' split) <;> simp_all +contextual (maxDischargeDepth := 12)

@[simp] theorem dropUnplaced_memWf (s : State) (lch : Nat) (hs : MemWf s) :
    MemWf (dropUnplaced s lch) := by
  unfold dropUnplaced; split <;> simp_all

@[simp] theorem zeroScr_memWf (s : State) (core off len : Nat) (hs : MemWf s) : MemWf (zeroScr s core off len) :=
  ⟨hs.mem, mclear_mwf _ _ _ _ hs.scr, hs.dscr, hs.acc⟩

@[simp] theorem zeroAcc_memWf (s : State) (core cls off len : Nat) (hs : MemWf s) : MemWf (zeroAcc s core cls off len) :=
  ⟨hs.mem, hs.scr, hs.dscr, mclear_mwf _ _ _ _ hs.acc⟩

@[simp] theorem viewCode_memWf (s : State) (uid : Nat) (hs : MemWf s) :
    MemWf (viewCode s uid) := by
  simp only [viewCode]; (repeat' split) <;> simp_all +contextual (maxDischargeDepth := 12)

@[simp] theorem placeNew_memWf (s : State) (lch tix : Nat) (p : Spot) (hs : MemWf s) :
    MemWf (placeNew s lch tix p) := by
  unfold placeNew; dsimp only; (repeat' split) <;> simp_all +contextual (maxDischargeDepth := 12)

theorem placeAll_memWf (lch : Nat) (ts : List Nat) (s : State) (hs : MemWf s) (t : State) (ht : placeAll lch ts s = some t) :
    MemWf t := by
  induction ts generalizing s with
  | nil => cases ht; exact hs
  | cons k ks ih =>
    unfold placeAll at ht
    split at ht
    · cases ht
    · split at ht
      · exact ih _ (placeNew_memWf _ _ _ _ hs) ht
      · cases ht

@[simp] theorem emptied_memWf (s : State) (hs : MemWf s) :
    MemWf (emptied s) := by
  simp_all [emptied]

@[simp] theorem cancelCmd_memWf (s : State) (core : Nat) (m : Cmd) (hs : MemWf s) :
    MemWf (cancelCmd s core m) := by
  simp_all [cancelCmd]

@[simp] theorem endWork_memWf (s : State) (x : Nat × Cmd) (hs : MemWf s) :
    MemWf (endWork s x) := by
  unfold endWork; dsimp only; (repeat' split) <;> simp_all +contextual (maxDischargeDepth := 12)

@[simp] theorem cancelWaiting_memWf (s : State) (team : Nat) (hs : MemWf s) :
    MemWf (cancelWaiting s team) := by
  simp only [cancelWaiting]; (repeat' split) <;> simp_all +contextual (maxDischargeDepth := 12)

@[simp] theorem cancelTeam_memWf (s : State) (team : Nat) (hs : MemWf s) :
    MemWf (cancelTeam s team) := by
  simp_all [cancelTeam]

@[simp] theorem leaveWaits_memWf (s : State) (team : Nat) (ctx : Nat) (sps : List Split) (hs : MemWf s) :
    MemWf (leaveWaits s team ctx sps) := by
  unfold leaveWaits; dsimp only; (repeat' split) <;> simp_all +contextual (maxDischargeDepth := 12)

@[simp] theorem divertGroup_memWf (s : State) (u : Nat) (hs : MemWf s) :
    MemWf (divertGroup s u) := by
  unfold divertGroup; dsimp only; (repeat' split) <;> simp_all +contextual (maxDischargeDepth := 12)

@[simp] theorem diversion_memWf (s : State) (u : Nat) (hs : MemWf s) :
    MemWf (diversion s u) := by
  simp only [diversion]; (repeat' split) <;> simp_all +contextual (maxDischargeDepth := 12)

@[simp] theorem applyHeld_memWf (s : State) (uid : Nat) (hs : MemWf s) : MemWf (applyHeld s uid) := by
  unfold applyHeld
  split
  · exact hs
  · dsimp only
    refine foldl_memWf _ _ _ (foldl_memWf _ _ _ (State.setTeam_memWf _ _ hs) (fun s a h => ?_)) (fun s a h => ?_)
    all_goals (split <;> simp_all)

@[simp] theorem serveRestored_memWf (s : State) (ctx : Nat) (hs : MemWf s) :
    MemWf (serveRestored s ctx) := by
  unfold serveRestored; dsimp only; (repeat' split) <;> simp_all +contextual (maxDischargeDepth := 12)

@[simp] theorem unseat_memWf (s : State) (uid : Nat) (hs : MemWf s) :
    MemWf (unseat s uid) := by
  simp_all [unseat]

@[simp] theorem reseat_memWf (l : Launch) (t : Team) (s : State) (u : Nat) (hs : MemWf s) :
    MemWf (reseat l t s u) := by
  simp_all [reseat]

/-- Values stored at several keys in turn. -/
theorem foldl_mset_mwf {α : Type} [DecidableEq α] (d : α) (f : Nat → Nat) (l : List (Nat × α)) (m : List (Nat × α))
    (h : mwf d m = true) : mwf d (l.foldl (fun m x => mset d m (f x.1) x.2) m) = true := by
  induction l generalizing m with
  | nil => exact h
  | cons x t ih => exact ih _ (mset_mwf _ _ _ _ h)

@[simp] theorem loadImage_memWf (s : State) (l : Launch) (p : Spot) (i : Image) (hs : MemWf s) : MemWf (loadImage s l p i) := by
  have h : MemWf (zeroAcc (zeroScr s p.core p.scr l.lr.scr) p.core l.lr.cls p.acc (accNeed l)) := by simp [hs]
  exact ⟨h.mem, foldl_mset_mwf blankByte (fun k => scrKey p.core (p.scr + k)) i.scr _ h.scr, h.dscr,
    foldl_mset_mwf 0 (fun k => p.core * 65536 + l.lr.cls * 32768 + p.acc / 4 + k) i.acc _ h.acc⟩

@[simp] theorem seatImage_memWf (s : State) (l : Launch) (t : Team) (i : Image) (p : Spot) (hs : MemWf s) : MemWf (seatImage s l t i p) := by
  refine acquireCore_memWf _ _ ?_
  split
  · exact refillTeam_memWf _ _ (applyHeld_memWf _ _ (foldl_memWf _ _ _ (unseat_memWf _ _ (State.fresh_memWf _ (State.setTeam_memWf _ _
      (loadImage_memWf _ _ _ _ (State.setLaunch_memWf _ _ hs))))) (fun s u h => reseat_memWf _ _ _ _ h)))
  · exact applyHeld_memWf _ _ (foldl_memWf _ _ _ (unseat_memWf _ _ (State.fresh_memWf _ (State.setTeam_memWf _ _
      (loadImage_memWf _ _ _ _ (State.setLaunch_memWf _ _ hs))))) (fun s u h => reseat_memWf _ _ _ _ h))

@[simp] theorem restoreTeam_memWf (s : State) (uid : Nat) (p : Spot) (hs : MemWf s) : MemWf (restoreTeam s uid p) := by
  unfold restoreTeam
  split
  · exact hs
  · split
    · rename_i l i _ _
      dsimp only
      generalize hq : seatImage s l _ i p = s1
      have h1 : MemWf s1 := hq ▸ seatImage_memWf _ _ _ _ _ hs
      have h2 : ∀ gs : List Group, MemWf (gs.foldl (fun s g => if diverts g then divertGroup s g.uid else s) s1) :=
        fun gs => foldl_memWf _ _ _ h1 (fun s g h => by split <;> simp_all)
      refine serveRestored_memWf _ _ ?_
      (repeat' split) <;> simp_all
    · exact hs

theorem placeUnit_memWf (s : State) (l : Launch) (hs : MemWf s) (t : State) (ht : placeUnit s l = some t) : MemWf t := by
  unfold placeUnit at ht
  split at ht
  · cases ht
  · rw [Option.map_eq_some_iff] at ht
    obtain ⟨p, _, rfl⟩ := ht
    exact restoreTeam_memWf _ _ _ hs
  · exact placeAll_memWf _ _ _ hs _ ht

theorem distOnce_memWf (s : State) (hs : MemWf s) (t : State) (ht : distOnce s = some t) : MemWf t := by
  unfold distOnce at ht
  dsimp only at ht
  obtain ⟨l, _, h⟩ := List.exists_of_findSome?_eq_some ht
  split at h
  · cases h
  · exact placeUnit_memWf _ _ hs _ h

theorem distGo_memWf (n : Nat) (s : State) (hs : MemWf s) : MemWf (distGo n s) := by
  induction n generalizing s with
  | zero => exact hs
  | succ n ih =>
    unfold distGo
    split
    · exact ih _ (distOnce_memWf _ hs _ (by assumption))
    · exact hs

theorem reserveImages_memWf (s : State) (ts : List Team) (hs : MemWf s) (t : State) (ht : reserveImages s ts = some t) : MemWf t := by
  have key : ∀ (ts : List Team) (a : Option State), (∀ s, a = some s → MemWf s) → ∀ t,
      ts.foldl (fun a t => a.bind (fun s => (lowestFree (imageBlocks s t.ctx) (imageBytes s t) 1 (s.ctx t.ctx).savelen).map (fun off =>
        s.setTeam { t with img := some { scr := [], acc := [], badScr := [], badAcc := [], cmds := [], off := off, size := imageBytes s t } }))) a
        = some t → MemWf t := by
    intro ts
    induction ts with
    | nil => exact fun a ha t h => ha t h
    | cons u us ih =>
      refine fun a ha t h => ih _ (fun s2 h2 => ?_) t h
      obtain ⟨s1, h1, h3⟩ := Option.bind_eq_some_iff.mp h2
      obtain ⟨off, _, rfl⟩ := Option.map_eq_some_iff.mp h3
      exact State.setTeam_memWf _ _ (ha _ h1)
  exact key ts (some s) (fun s1 h => by cases h; exact hs) t ht

@[simp] theorem returnDscr_memWf (s : State) (lch : Nat) (hs : MemWf s) :
    MemWf (returnDscr s lch) := by
  unfold returnDscr; dsimp only; (repeat' split) <;> simp_all +contextual (maxDischargeDepth := 12)

@[simp] theorem without_memWf (s : State) (us : List Nat) (hs : MemWf s) :
    MemWf (without s us) := by
  refine foldl_memWf _ _ _ ?_ (fun s l h => returnDscr_memWf _ _ h)
  simp_all

@[simp] theorem holdTeam_memWf (s : State) (uid : Nat) (h : Hold) (hs : MemWf s) :
    MemWf (holdTeam s uid h) := by
  simp_all [holdTeam]

@[simp] theorem preempt_memWf (s : State) (hs : MemWf s) : MemWf (preempt s) := by
  unfold preempt
  dsimp only
  split
  · exact foldl_memWf _ _ _ (reserveImages_memWf _ _ hs _ (by assumption)) (fun s t h => holdTeam_memWf _ _ _ h)
  · exact hs

@[simp] theorem distribute_memWf (s : State) (hs : MemWf s) : MemWf (distribute s) := by
  unfold distribute
  split
  · exact preempt_memWf _ (distGo_memWf _ _ hs)
  · exact hs

@[simp] theorem rejectLaunch_memWf (s : State) (l : Launch) (reason : Nat) (hs : MemWf s) :
    MemWf (rejectLaunch s l reason) := by
  simp_all [rejectLaunch]

@[simp] theorem endUnplaced_memWf (s : State) (lch : Nat) (hs : MemWf s) :
    MemWf (endUnplaced s lch) := by
  unfold endUnplaced; split <;> simp_all

@[simp] theorem acceptRecord_memWf (s : State) (op : FrontOp) (ctx queue from_ : Nat) (b : List Byte) (hs : MemWf s) :
    MemWf (acceptRecord s op ctx queue from_ b) := by
  unfold acceptRecord; dsimp only; (repeat' split) <;> simp_all +contextual (maxDischargeDepth := 12)

@[simp] theorem takeHead_memWf (s : State) (ctx queue : Nat) (hs : MemWf s) : MemWf (takeHead s ctx queue) := by
  simp_all [takeHead]

@[simp] theorem checkReads_exWf (s : State) (op : FrontOp) (ctx from_ : Nat) (b : List Byte) (hs : MemWf s) :
    ExWf (checkReads s op ctx from_ b) := by
  unfold checkReads; split <;> simp_all

@[simp] theorem launchAccept_memWf (s : State) (ctx queue : Nat) (hs : MemWf s) :
    MemWf (launchAccept s ctx queue) := by
  unfold launchAccept
  dsimp only
  split
  · exact hs
  · have h := readReady_exWf s (.accept ctx queue) ctx (ringVa (queueOf (s.ctx ctx) true queue) true (queueOf (s.ctx ctx) true queue).ci) 256 hs
    split
    · exact h.error (by assumption)
    · have h1 := h.ok (by assumption)
      split
      · simp_all +contextual (maxDischargeDepth := 12)
      · split
        · simp_all
        · rename_i b _
          have h2 := checkReads_exWf _ (.accept ctx queue) ctx (mget 0 (s.ctx ctx).lqFrom (queue * 2 ^ 32 + (queueOf (s.ctx ctx) true queue).ci.toNat)) b h1
          split
          · exact h2.error (by assumption)
          · have h3 := h2.ok (by assumption)
            simp_all +contextual (maxDischargeDepth := 12)

@[simp] theorem dropCode_memWf (s : State) (core uid : Nat) (hs : MemWf s) :
    MemWf (dropCode s core uid) := by
  simp_all [dropCode]

@[simp] theorem leaveRecords_memWf (s : State) (t : Team) (hs : MemWf s) : MemWf (leaveRecords s t) := by
  simp_all [leaveRecords]

@[simp] theorem freeTeam_memWf (s : State) (uid : Nat) (hs : MemWf s) :
    MemWf (freeTeam s uid) := by
  unfold freeTeam; dsimp only; (repeat' split) <;> simp_all +contextual (maxDischargeDepth := 12)

@[simp] theorem testSets_memWf (s : State) (lch : Nat) (hs : MemWf s) :
    MemWf (testSets s lch) := by
  unfold testSets; split <;> simp_all

theorem unbound_memWf (s : State) (t : Team) (hs : MemWf s) (u : State) (h : unbound s t = some u) : MemWf u := by
  unfold unbound at h
  split at h <;> cases h
  exact settleWhere_memWf _ _ hs

@[simp] theorem teamRetire_memWf (s : State) (uid : Nat) (hs : MemWf s) : MemWf (teamRetire s uid) := by
  unfold teamRetire
  split
  · exact hs
  · split
    · exact hs
    · split
      · simp_all
      · have h1 := freeTeam_memWf _ uid (unbound_memWf _ _ hs _ (by assumption))
        dsimp only
        split
        · exact h1
        · exact distribute_memWf _ (testSets_memWf _ _ (finishTeams_memWf _ _ _ _ (State.setLaunch_memWf _ _ h1)))

@[simp] theorem breakSets_memWf (s : State) (lch : Nat) (t : Team) (live : Nat) (hs : MemWf s) : MemWf (breakSets s lch t live) := by
  unfold breakSets
  split
  · exact hs
  · dsimp only
    refine foldl_memWf _ _ _ (State.setLaunch_memWf _ _ hs) (fun s x h => ?_)
    split
    · exact foldl_memWf _ _ _ h (fun s m h => releaseTeam_memWf _ _ _ _ h)
    · exact h

@[simp] theorem killTeam_memWf (s : State) (uid : Nat) (hs : MemWf s) :
    MemWf (killTeam s uid) := by
  unfold killTeam; dsimp only; (repeat' split) <;> simp_all +contextual (maxDischargeDepth := 12)

@[simp] theorem teamKill_memWf (s : State) (uid : Nat) (hs : MemWf s) : MemWf (teamKill s uid) := by
  unfold teamKill
  repeat' split
  all_goals first
    | exact hs
    | exact distribute_memWf _ (freeTeam_memWf _ _ hs)
    | exact distribute_memWf _ (freeTeam_memWf _ _ (unbound_memWf _ _ hs _ (by assumption)))

@[simp] theorem killLaunch_memWf (s : State) (lch : Nat) (byHost : Bool) (hs : MemWf s) :
    MemWf (killLaunch s lch byHost) := by
  unfold killLaunch; dsimp only; (repeat' split) <;> simp_all +contextual (maxDischargeDepth := 12)

@[simp] theorem wrapTeams_memWf (s : State) (lch : Nat) (hs : MemWf s) :
    MemWf (wrapTeams s lch) := by
  simp_all [wrapTeams]

@[simp] theorem tWrapReached_memWf (s : State) (lch : Nat) (hs : MemWf s) :
    MemWf (tWrapReached s lch) := by
  unfold tWrapReached; dsimp only; (repeat' split) <;> simp_all +contextual (maxDischargeDepth := 12)

@[simp] theorem deadlineReached_memWf (s : State) (lch : Nat) (hs : MemWf s) :
    MemWf (deadlineReached s lch) := by
  simp only [deadlineReached]; (repeat' split) <;> simp_all +contextual (maxDischargeDepth := 12)

@[simp] theorem dropSaved_memWf (s : State) (core : Nat) (i : Image) (hs : MemWf s) :
    MemWf (dropSaved s core i) := by
  simp_all [dropSaved]

@[simp] theorem writeImage_memWf (s : State) (t : Team) (i : Image) (hs : MemWf s) :
    MemWf (writeImage s t i) := by
  simp_all [writeImage]

@[simp] theorem saveTeam_memWf (s : State) (t : Team) (hs : MemWf s) :
    MemWf (saveTeam s t) := by
  unfold saveTeam; dsimp only; simp_all +contextual (maxDischargeDepth := 12)

@[simp] theorem preemptionSave_memWf (s : State) (uid : Nat) (hs : MemWf s) :
    MemWf (preemptionSave s uid) := by
  simp only [preemptionSave]; (repeat' split) <;> simp_all +contextual (maxDischargeDepth := 12)

-- NONE codeLine_memWf

theorem fetchPa_memWf (s : State) (t : Team) (va : Nat) (y : Xl) (hs : MemWf s) (s1 : State) (w : Word)
    (h : fetchPa s t va y = .got s1 w) : MemWf s1 := by
  unfold fetchPa at h
  dsimp only at h
  split at h
  · cases h; exact hs
  · split at h
    · cases h
    · split at h
      · cases h; exact hs
      · split at h
        · cases h
        · rename_i s2 h2
          have hw : MemWf s2 := by
            split at h2
            · exact serveRow_memWf _ _ hs _ h2
            · cases h2; exact hs
          split at h
          · cases h
          · cases h
            split <;> simp_all

theorem fetchFirmware_memWf (s : State) (t : Team) (pc : Word) (hs : MemWf s) (s1 : State) (w : Word)
    (h : fetchFirmware s t pc = .got s1 w) : MemWf s1 := by
  unfold fetchFirmware at h
  dsimp only at h
  split at h <;> cases h
  exact hs

theorem fetchWord_memWf (s : State) (g : Group) (t : Team) (pc : Word) (hs : MemWf s) (s1 : State) (w : Word)
    (h : fetchWord s g t pc = .got s1 w) : MemWf s1 := by
  unfold fetchWord at h
  dsimp only at h
  split at h
  · exact fetchFirmware_memWf _ _ _ hs _ _ h
  · split at h
    · split at h <;> cases h
    · exact fetchPa_memWf _ _ _ _ (tlbFill_memWf _ _ _ _ _ hs) _ _ h

@[simp] theorem returnPend_memWf (s : State) (g : Group) (t : Team) (p : Pend) (hs : MemWf s) :
    MemWf (returnPend s g t p) := by
  unfold returnPend; dsimp only; (repeat' split) <;> simp_all +contextual (maxDischargeDepth := 12)

@[simp] theorem loadReturn_memWf (s : State) (load reg : Nat) (hs : MemWf s) :
    MemWf (loadReturn s load reg) := by
  simp only [loadReturn]; (repeat' split) <;> simp_all +contextual (maxDischargeDepth := 12)

@[simp] theorem splitJoin_memWf (s : State) (u e : Nat) (hs : MemWf s) :
    MemWf (splitJoin s u e) := by
  simp only [splitJoin]; (repeat' split) <;> simp_all +contextual (maxDischargeDepth := 12)

@[simp] theorem serialTurnEnd_memWf (s : State) (u e : Nat) (hs : MemWf s) :
    MemWf (serialTurnEnd s u e) := by
  simp only [serialTurnEnd]; (repeat' split) <;> simp_all +contextual (maxDischargeDepth := 12)

@[simp] theorem trapEntry_memWf (s : State) (u : Nat) (hs : MemWf s) :
    MemWf (trapEntry s u) := by
  simp only [trapEntry]; (repeat' split) <;> simp_all +contextual (maxDischargeDepth := 12)

@[simp] theorem writeBack_memWf (s : State) (core line : Nat) (hs : MemWf s) : MemWf (writeBack s core line) := by
  unfold writeBack
  split
  · split
    · simp_all
    · split
      · rename_i s1 h1
        refine serveHomes_memWf _ (afterBack_memWf _ (cleanLine_memWf _ _ _ ?_))
        split at h1
        · exact serveRow_memWf _ _ hs _ h1
        · cases h1; exact hs
      · exact hs
  · exact hs

@[simp] theorem drainRequest_memWf (s : State) (line core : Nat) (hs : MemWf s) :
    MemWf (drainRequest s line core) := by
  simp_all [drainRequest]

@[simp] theorem setInval_memWf (s : State) (i : Inval) (hs : MemWf s) :
    MemWf (setInval s i) := by
  simp_all [setInval]

@[simp] theorem invalDone_memWf (s : State) (i : Inval) (hs : MemWf s) :
    MemWf (invalDone s i) := by
  unfold invalDone; split <;> simp_all

@[simp] theorem invalNext_memWf (s : State) (i : Inval) (hs : MemWf s) :
    MemWf (invalNext s i) := by
  simp only [invalNext]; (repeat' split) <;> simp_all +contextual (maxDischargeDepth := 12)

@[simp] theorem dropWalks_memWf (s : State) (i : Inval) (agent : Nat) (hs : MemWf s) : MemWf (dropWalks s i agent) := by
  simp_all [dropWalks]

@[simp] theorem dropAgent_memWf (s : State) (i : Inval) (agent : Nat) (hs : MemWf s) : MemWf (dropAgent s i agent) := by
  simp_all [dropAgent]

@[simp] theorem withdrawIdle_memWf (s : State) (core : Nat) (hs : MemWf s) : MemWf (withdrawIdle s core) := by
  unfold withdrawIdle
  exact foldl_memWf _ _ _ hs (fun s g h => State.modGroup_memWf _ _ _ (withdrawAsks_memWf _ _ _ _ h))

@[simp] theorem invalPoint_memWf (s : State) (u agent : Nat) (hs : MemWf s) :
    MemWf (invalPoint s u agent) := by
  unfold invalPoint; dsimp only; (repeat' split) <;> simp_all +contextual (maxDischargeDepth := 12)

@[simp] theorem clearFilter_memWf (s : State) (i : Inval) (agent : Nat) (hs : MemWf s) :
    MemWf (clearFilter s i agent) := by
  unfold clearFilter; dsimp only; (repeat' split) <;> simp_all +contextual (maxDischargeDepth := 12)

@[simp] theorem invalAck_memWf (s : State) (u : Nat) (agent : Nat) (hs : MemWf s) :
    MemWf (invalAck s u agent) := by
  unfold invalAck; dsimp only; (repeat' split) <;> simp_all +contextual (maxDischargeDepth := 12)

end Sys2Proof.Machine
end

