-- ==== Sys2Proof/Laws/MemFormOutside.lean ====
section
/-! SUPPORT. The lemmas of Laws/MemForm.lean for the fabric, the Lintel plane, the host and the clock. -/

namespace Sys2Proof.Machine

open Sys2Proof

@[simp] theorem writeMasked_memWf (s : State) (pa : Nat) (data : List Byte) (mask : List Bool) (hs : MemWf s) :
    MemWf (writeMasked s pa data mask) := by
  simp_all [writeMasked]

@[simp] theorem serveRequest_memWf (s : State) (r : PeerReq) (hs : MemWf s) :
    MemWf (serveRequest s r) := by
  unfold serveRequest; dsimp only; (repeat' split) <;> simp_all +contextual (maxDischargeDepth := 12)

@[simp] theorem linesDrained_exWf (s : State) (lines : List Nat) (hs : MemWf s) : ExWf (linesDrained s lines) := by
  have h : MemWf (lines.foldl (fun s l => reachWait s frontEnd l) s) := foldl_memWf _ _ _ hs (fun s l h => reachWait_memWf _ _ _ h)
  unfold linesDrained
  dsimp only
  split <;> simp_all

@[simp] theorem peerServe_memWf (s : State) (r : PeerReq) (hs : MemWf s) : MemWf (peerServe s r) := by
  unfold peerServe
  split
  · simp_all
  · have h := linesDrained_exWf s [r.addr / 128] hs
    split
    · exact serveRequest_memWf _ _ (h.ok (by assumption))
    · exact (MemWf_upd _ ..).2 (h.error (by assumption))

@[simp] theorem toldHeld_memWf (s : State) (peer id : Nat) (keep : Bool) (hs : MemWf s) :
    MemWf (toldHeld s peer id keep) := by
  unfold toldHeld; dsimp only; (repeat' split) <;> simp_all +contextual (maxDischargeDepth := 12)

@[simp] theorem ualinkRequest_memWf (s : State) (r : PeerReq) (hs : MemWf s) :
    MemWf (ualinkRequest s r) := by
  simp only [ualinkRequest]; (repeat' split) <;> simp_all +contextual (maxDischargeDepth := 12)

@[simp] theorem rotate_memWf (s : State) (core peer : Nat) (hs : MemWf s) :
    MemWf (rotate s core peer) := by
  simp_all [rotate]

@[simp] theorem tellSplits_memWf (s : State) (r : Remote) (resp : RespKind) (hs : MemWf s) :
    MemWf (tellSplits s r resp) := by
  simp_all [tellSplits]

@[simp] theorem takeFill_memWf (s : State) (r : Remote) (resp : RespKind) (hs : MemWf s) : MemWf (takeFill s r resp) := by
  have key : ∀ (f : Nat → Nat × Byte) (l : List Nat) (m : List Host.Cell), mwf blankByte m = true →
      mwf blankByte (l.foldl (fun m i => mset blankByte m (f i).1 (f i).2) m) = true := by
    intro f l
    induction l with
    | nil => exact fun m h => h
    | cons a t ih => exact fun m h => ih _ (mset_mwf _ _ _ _ h)
  unfold takeFill
  dsimp only
  repeat' split
  all_goals first | exact hs | exact ⟨key (fun i => (_, _)) _ _ hs.mem, hs.scr, hs.dscr, hs.acc⟩

@[simp] theorem takeCode_memWf (s : State) (r : Remote) (resp : RespKind) (hs : MemWf s) :
    MemWf (takeCode s r resp) := by
  unfold takeCode; (repeat' split) <;> simp_all +contextual (maxDischargeDepth := 12)

@[simp] theorem takeWalk_memWf (s : State) (r : Remote) (resp : RespKind) (hs : MemWf s) : MemWf (takeWalk s r resp) := by
  unfold takeWalk; split <;> simp_all

@[simp] theorem takeLine_memWf (s : State) (r : Remote) (resp : RespKind) (hs : MemWf s) : MemWf (takeLine s r resp) := by
  unfold takeLine; split <;> simp_all

@[simp] theorem takeData_memWf (s : State) (r : Remote) (resp : RespKind) (hs : MemWf s) : MemWf (takeData s r resp) := by
  unfold takeData; simp_all +contextual (maxDischargeDepth := 12)

@[simp] theorem tellCmd_memWf (s : State) (r : Remote) (resp : RespKind) (hs : MemWf s) :
    MemWf (tellCmd s r resp) := by
  simp only [tellCmd]; (repeat' split) <;> simp_all +contextual (maxDischargeDepth := 12)

@[simp] theorem reportFail_memWf (s : State) (r : Remote) (resp : RespKind) (hs : MemWf s) :
    MemWf (reportFail s r resp) := by
  simp only [reportFail]; (repeat' split) <;> simp_all +contextual (maxDischargeDepth := 12)

@[simp] theorem dropHeld_memWf (s : State) (r : Remote) (resp : RespKind) (hs : MemWf s) :
    MemWf (dropHeld s r resp) := by
  unfold dropHeld; (repeat' split) <;> simp_all +contextual (maxDischargeDepth := 12)

@[simp] theorem answer_memWf (s : State) (r : Remote) (resp : RespKind) (hs : MemWf s) :
    MemWf (answer s r resp) := by
  unfold answer; dsimp only; (repeat' split) <;> simp_all +contextual (maxDischargeDepth := 12)

@[simp] theorem remoteResponse_memWf (s : State) (id : Nat) (mark : Bool) (resp : RespKind) (hs : MemWf s) :
    MemWf (remoteResponse s id mark resp) := by
  simp only [remoteResponse]; (repeat' split) <;> simp_all +contextual (maxDischargeDepth := 12)

@[simp] theorem requestTimeout_memWf (s : State) (id : Nat) (hs : MemWf s) :
    MemWf (requestTimeout s id) := by
  simp only [requestTimeout]; (repeat' split) <;> simp_all +contextual (maxDischargeDepth := 12)

@[simp] theorem linkChange_memWf (s : State) (port : Nat) (up : Bool) (hs : MemWf s) :
    MemWf (linkChange s port up) := by
  simp_all [linkChange]

@[simp] theorem tokenRequest_memWf (s : State) (r d : Nat) (hs : MemWf s) :
    MemWf (tokenRequest s r d) := by
  unfold tokenRequest; split <;> simp_all

@[simp] theorem homeFreed_memWf (s : State) (r : Nat) (hs : MemWf s) :
    MemWf (homeFreed s r) := by
  unfold homeFreed; dsimp only; (repeat' split) <;> simp_all +contextual (maxDischargeDepth := 12)

@[simp] theorem recallDone_memWf (s : State) (r d : Nat) (hs : MemWf s) :
    MemWf (recallDone s r d) := by
  unfold recallDone; dsimp only; (repeat' split) <;> simp_all +contextual (maxDischargeDepth := 12)

@[simp] theorem tokenGiveBack_memWf (s : State) (r d : Nat) (hs : MemWf s) :
    MemWf (tokenGiveBack s r d) := by
  unfold tokenGiveBack; split <;> simp_all

@[simp] theorem tokenRecall_memWf (s : State) (r : Nat) (hs : MemWf s) :
    MemWf (tokenRecall s r) := by
  simp only [tokenRecall]; (repeat' split) <;> simp_all +contextual (maxDischargeDepth := 12)

@[simp] theorem tokenGrant_memWf (s : State) (r : Nat) (hs : MemWf s) : MemWf (tokenGrant s r) := by
  unfold tokenGrant
  repeat' split
  all_goals first
    | exact hs
    | exact endParks_memWf _ _ (foldl_memWf _ _ _ (setToken_memWf _ _ _ hs) (fun s w h => by split <;> simp_all))

@[simp] theorem sendClass_memWf (cls : Nat) (a : State × Word) (ha : MemWf a.1) :
    MemWf (sendClass cls a).1 := by
  unfold sendClass; dsimp only; (repeat' split) <;> simp_all +contextual (maxDischargeDepth := 12)

@[simp] theorem steerTo_memWf (s : State) (now : Nat) (hs : MemWf s) :
    MemWf (steerTo s now) := by
  unfold steerTo; dsimp only; (repeat' split) <;> simp_all +contextual (maxDischargeDepth := 12)

@[simp] theorem tokenArrival_memWf (s0 : State) (prev time : Nat) (locks : Word) (hs0 : MemWf s0) :
    MemWf (tokenArrival s0 prev time locks) := by
  unfold tokenArrival; dsimp only; (repeat' split) <;> simp_all +contextual (maxDischargeDepth := 12)

@[simp] theorem guardElapsed_memWf (s : State) (hs : MemWf s) :
    MemWf (guardElapsed s) := by
  unfold guardElapsed; split <;> simp_all

@[simp] theorem recordDone_memWf (s : State) (r : LintelRec) (v : Nat → PVal) (hs : MemWf s) : MemWf (recordDone s r v) :=
  retirePending_memWf _ (recordApplied_memWf _ _ (mapVals_memWf _ _ hs))

@[simp] theorem failRecord_memWf (s : State) (r : LintelRec) (hs : MemWf s) :
    MemWf (failRecord s r) := by
  unfold failRecord; dsimp only; (repeat' split) <;> simp_all +contextual (maxDischargeDepth := 12)

@[simp] theorem failRecords_memWf (s : State) (rs : List LintelRec) (hs : MemWf s) :
    MemWf (failRecords s rs) := by
  simp_all [failRecords]

@[simp] theorem failAllRecords_memWf (s : State) (hs : MemWf s) :
    MemWf (failAllRecords s) := by
  simp_all [failAllRecords]

@[simp] theorem takeOwn_memWf (s : State) (own : Bool) (hs : MemWf s) : MemWf (takeOwn s own).2 := by
  unfold takeOwn
  split
  · exact hs
  · exact hs

@[simp] theorem keepStale_memWf (s : State) (own : Option LintelRec) (pa len : Nat) (hs : MemWf s) :
    MemWf (keepStale s own pa len) := by
  unfold keepStale; (repeat' split) <;> simp_all +contextual (maxDischargeDepth := 12)

@[simp] theorem recWrite_memWf (s : State) (own : Option LintelRec) (pa : Nat) (b : List Byte) (hs : MemWf s) :
    MemWf (recWrite s own pa b) := by
  unfold recWrite; split <;> simp_all

@[simp] theorem applyAtomic_memWf (s : State) (pa hdr : Nat) (data : List Byte) (own : Option LintelRec) (hs : MemWf s) :
    MemWf (applyAtomic s pa hdr data own) := by
  unfold applyAtomic; dsimp only; (repeat' split) <;> simp_all +contextual (maxDischargeDepth := 12)

@[simp] theorem applyAt_memWf (own : Bool) (s : State) (q : FrameRec) (at_ : Option Nat) (hs : MemWf s) :
    MemWf (applyAt own s q at_) := by
  unfold applyAt; dsimp only; (repeat' split) <;> simp_all +contextual (maxDischargeDepth := 12)

theorem recReady_memWf (s : State) (hdr : Nat) (hs : MemWf s) :
    (∀ t, recReady s hdr = .error t → MemWf t) ∧ (∀ r, recReady s hdr = .ok r → MemWf r.1) := by
  unfold recReady
  split
  · split <;> simp_all
  · rename_i y _
    split
    · simp_all
    · have h : ExWf (if recAtomic hdr then bumpReady s y.pa else chanReady s y.pa) := by split <;> simp_all
      split
      · have := h.error (by assumption); simp_all
      · have := h.ok (by assumption); simp_all

@[simp] theorem applyRec_exWf (own : Bool) (s : State) (q : FrameRec) (hs : MemWf s) : ExWf (applyRec own s q) := by
  have h := recReady_memWf s q.hdr hs
  unfold applyRec
  split
  · exact (ExWf_error _).2 (h.1 _ (by assumption))
  · exact (ExWf_ok _).2 (applyAt_memWf _ _ _ _ (h.2 _ (by assumption)))

@[simp] theorem setFrames_memWf (s : State) (l : List LintelFrame) (hs : MemWf s) : MemWf (setFrames s l) := by
  simp_all [setFrames]

@[simp] theorem applyFrames_memWf (n : Nat) (s : State) (hs : MemWf s) : MemWf (applyFrames n s) := by
  induction n generalizing s with
  | zero => exact hs
  | succ n ih =>
    unfold applyFrames
    split
    · exact hs
    · split
      · exact ih _ ((MemWf_upd _ ..).2 hs)
      · have h := applyRec_exWf (‹LintelFrame› : LintelFrame).own s ⟨(‹Nat × List Byte› : Nat × List Byte).1, (‹Nat × List Byte› : Nat × List Byte).2⟩ hs
        split
        · exact h.error (by assumption)
        · exact ih _ (setFrames_memWf _ _ (h.ok (by assumption)))

@[simp] theorem applyAll_memWf (s : State) (hs : MemWf s) : MemWf (applyAll s) := by
  simp_all [applyAll]

@[simp] theorem toForming_memWf (s : State) (hs : MemWf s) :
    MemWf (toForming s) := by
  simp_all [toForming]

@[simp] theorem frameReceive_memWf (s : State) (b : List Byte) (hs : MemWf s) :
    MemWf (frameReceive s b) := by
  unfold frameReceive; dsimp only; (repeat' split) <;> simp_all +contextual (maxDischargeDepth := 12)

@[simp] theorem leaveUp_memWf (s : State) (hs : MemWf s) :
    MemWf (leaveUp s) := by
  unfold leaveUp; split <;> simp_all

@[simp] theorem raiseLevt_memWf (s : State) (hs : MemWf s) :
    MemWf (raiseLevt s) := by
  simp_all [raiseLevt]

@[simp] theorem rollCallEnd_memWf (s : State) (others : List (Nat × Nat × Bool)) (hs : MemWf s) :
    MemWf (rollCallEnd s others) := by
  unfold rollCallEnd; dsimp only; (repeat' split) <;> simp_all +contextual (maxDischargeDepth := 12)

@[simp] theorem lintelEnable_memWf (s : State) (off width value : Nat) (hs : MemWf s) :
    MemWf (lintelEnable s off width value) := by
  unfold lintelEnable; split <;> simp_all

@[simp] theorem lintelDisable_memWf (s : State) (off width value : Nat) (hs : MemWf s) :
    MemWf (lintelDisable s off width value) := by
  unfold lintelDisable; split <;> simp_all

@[simp] theorem powerOnReset_memWf (s : State) : MemWf (powerOnReset s) := ⟨rfl, rfl, rfl, rfl⟩

@[simp] theorem withWrite_memWf (s : State) (hs : MemWf s) :
    MemWf (withWrite s) := by
  unfold withWrite; split <;> simp_all

@[simp] theorem loadVerify_memWf (s : State) (hs : MemWf s) :
    MemWf (loadVerify s) := by
  unfold loadVerify; dsimp only; (repeat' split) <;> simp_all +contextual (maxDischargeDepth := 12)

@[simp] theorem putImage_memWf (s : State) (die : Nat) (img : List Byte) (hs : MemWf s) :
    MemWf (putImage s die img) := by
  simp_all [putImage]

@[simp] theorem startFirmware_memWf (s : State) (die : Nat) (hs : MemWf s) :
    MemWf (startFirmware s die) := by
  simp_all [startFirmware]

@[simp] theorem verificationEnd_memWf (s : State) (bytes : List Byte) (hs : MemWf s) :
    MemWf (verificationEnd s bytes) := by
  unfold verificationEnd; dsimp only; (repeat' split) <;> simp_all +contextual (maxDischargeDepth := 12)

@[simp] theorem attest_memWf (s : State) (hs : MemWf s) : MemWf (attest s) := by
  unfold attest
  have h := State.send_memWf _ (.hostWrite (s.dev.attaddr + 0x100) ((Config.falconSign (report s) ++ List.replicate 1280 0).take 1280))
    (State.send_memWf s (.hostWrite s.dev.attaddr (report s)) hs)
  exact ⟨h.1, h.2.1, h.2.2.1, h.2.2.2⟩

@[simp] theorem fatalError_memWf (s : State) (hs : MemWf s) :
    MemWf (fatalError s) := by
  unfold fatalError; dsimp only; (repeat' split) <;> simp_all +contextual (maxDischargeDepth := 12)

@[simp] theorem resizeBar2_memWf (s : State) (k : Nat) (hs : MemWf s) :
    MemWf (resizeBar2 s k) := by
  unfold resizeBar2; dsimp only; (repeat' split) <;> simp_all +contextual (maxDischargeDepth := 12)

@[simp] theorem bar2Read_memWf (s : State) (off len : Nat) (hs : MemWf s) :
    MemWf (bar2Read s off len) := by
  unfold bar2Read
  dsimp only
  repeat' split
  all_goals first
    | exact hs
    | exact State.send_memWf _ _ hs
    | exact State.send_memWf _ _ ((linesDrained_exWf _ _ hs).ok (by assumption))
    | exact (MemWf_upd _ ..).2 ((linesDrained_exWf _ _ hs).error (by assumption))

@[simp] theorem bar2Part_memWf (s : State) (x : Nat × List Byte) (hs : MemWf s) :
    MemWf (bar2Part s x) := by
  unfold bar2Part; dsimp only; (repeat' split) <;> simp_all +contextual (maxDischargeDepth := 12)

@[simp] theorem bar2Write_memWf (s : State) (off : Nat) (b : List Byte) (hs : MemWf s) :
    MemWf (bar2Write s off b) := by
  simp only [bar2Write]; (repeat' split) <;> simp_all +contextual (maxDischargeDepth := 12)

@[simp] theorem appendHost_memWf (s : State) (c : Nat) (launch : Bool) (n : Nat) (data : Option (List Byte)) (hs : MemWf s) :
    MemWf (appendHost s c launch n data) := by
  unfold appendHost
  dsimp only
  split
  · exact State.setCtx_memWf _ _ _ ((frontReady_exWf _ _ _ _ hs).error (by assumption))
  · have h := (frontReady_exWf _ _ _ _ hs).ok (by assumption)
    split
    · refine hostDone_memWf _ _ _ ?_
      split
      · exact appendRec_memWf _ _ _ _ _ _ _ h
      · exact serveAll_memWf _ _ _ _ (appendRec_memWf _ _ _ _ _ _ _ h)
    · exact hostDone_memWf _ _ _ (endWalk_memWf _ _ h)

@[simp] theorem hostAppend_memWf (s : State) (c : Nat) (launch : Bool) (rec : Option (List Byte)) (hs : MemWf s) :
    MemWf (hostAppend s c launch rec) := by
  unfold hostAppend
  dsimp only
  (repeat' split) <;> simp_all

@[simp] theorem appendOn_memWf (s : State) (c : Nat) (hs : MemWf s) : MemWf (appendOn s c) := by
  unfold appendOn; split <;> simp_all

@[simp] theorem resumeGroup_memWf (s : State) (g : Group) (pc : Word) (hs : MemWf s) :
    MemWf (resumeGroup s g pc) := by
  unfold resumeGroup; split <;> simp_all

@[simp] theorem hostResume_memWf (s : State) (c : Nat) (hs : MemWf s) :
    MemWf (hostResume s c) := by
  unfold hostResume; dsimp only; (repeat' split) <;> simp_all +contextual (maxDischargeDepth := 12)

@[simp] theorem hostKill_memWf (s : State) (c : Nat) (hs : MemWf s) :
    MemWf (hostKill s c) := by
  simp only [hostKill]; (repeat' split) <;> simp_all +contextual (maxDischargeDepth := 12)

@[simp] theorem firmwareRelease_memWf (s : State) (hs : MemWf s) :
    MemWf (firmwareRelease s).1 := by
  unfold firmwareRelease; dsimp only; (repeat' split) <;> simp_all +contextual (maxDischargeDepth := 12)

@[simp] theorem hostTlbinv_memWf (s : State) (c : Nat) (hs : MemWf s) :
    MemWf (hostTlbinv s c) := by
  unfold hostTlbinv; dsimp only; (repeat' split) <;> simp_all +contextual (maxDischargeDepth := 12)

@[simp] theorem skipHanding_memWf (s : State) (c : Nat) (hs : MemWf s) :
    MemWf (skipHanding s c) := by
  simp_all [skipHanding]

@[simp] theorem contextEnd_memWf (s : State) (c : Nat) (hs : MemWf s) :
    MemWf (contextEnd s c) := by
  unfold contextEnd; dsimp only; simp_all +contextual (maxDischargeDepth := 12)

@[simp] theorem endByWrite_memWf (s : State) (o w v : Nat) (hs : MemWf s) : MemWf (endByWrite s o w v) := by
  unfold endByWrite; split <;> simp_all

@[simp] theorem registerWrite_memWf (s : State) (o : Nat) (w : Nat) (v : Nat) (hs : MemWf s) :
    MemWf (registerWrite s o w v) := by
  simp only [registerWrite]; (repeat' split) <;> simp_all +contextual (maxDischargeDepth := 12)

@[simp] theorem portLock_memWf (s : State) (tai : Nat) (hs : MemWf s) :
    MemWf (portLock s tai) := by
  unfold portLock; dsimp only; (repeat' split) <;> simp_all +contextual (maxDischargeDepth := 12)

@[simp] theorem governor_memWf (s : State) (watts : Nat) (hs : MemWf s) :
    MemWf (governor s watts) := by
  simp_all [governor]

@[simp] theorem serveWait_memWf (s : State) (w : RowWait) (hs : MemWf s) : MemWf (serveWait s w) := by
  unfold serveWait
  dsimp only
  repeat' split
  all_goals first
    | exact hs
    | exact readEntry_memWf _ _ _ _ _ _ ((MemWf_upd _ ..).2 (serveRow_memWf _ _ hs _ (by assumption)))
    | exact keepLine_memWf _ _ _ ((MemWf_upd _ ..).2 (serveRow_memWf _ _ hs _ (by assumption)))

@[simp] theorem testReading_memWf (s : State) (hs : MemWf s) : MemWf (testReading s) := by
  simp_all [testReading]

@[simp] theorem serveLaters_memWf (s : State) (hs : MemWf s) : MemWf (serveLaters s) := by
  unfold serveLaters
  refine serveHomes_memWf _ (foldl_memWf _ _ _ ((MemWf_upd _ ..).2 hs) (fun s x h => ?_))
  split <;> simp_all

@[simp] theorem flushAll_memWf (s : State) (hs : MemWf s) : MemWf (flushAll s) := by
  unfold flushAll
  exact foldl_memWf _ _ _ (foldl_memWf _ _ _ hs (fun s g h => flushRecords_memWf _ _ h)) (fun s c h => flushPosts_memWf _ _ _ (flushPosts_memWf _ _ _ h))

@[simp] theorem dropWrites_memWf (s : State) (hs : MemWf s) : MemWf (dropWrites s) := by
  simp_all [dropWrites]

@[simp] theorem frontOn_memWf (s : State) (hs : MemWf s) : MemWf (frontOn s) := by
  unfold frontOn
  refine distribute_memWf _ (dropWrites_memWf _ (flushAll_memWf _ (foldl_memWf _ _ _ ?_ (fun s c h => appendOn_memWf _ _ h))))
  refine applyAll_memWf _ (serveLaters_memWf _ (foldl_memWf _ _ _ ?_ (fun s c h => serveRestored_memWf _ _ h)))
  exact testReading_memWf _ (raisesOn_memWf _ (foldl_memWf _ _ _ hs (fun s w h => serveWait_memWf _ _ h)))

@[simp] theorem frontTurn_memWf (s : State) (hs : MemWf s) : MemWf (frontTurn s) := by
  unfold frontTurn; split <;> simp_all

/-- A step keeps the form when it answers a next state. -/
def KeepsForm (o : Host.Outcome State Fault Refusal) : Prop := ∀ t, o = .next t → MemWf t

theorem mapNext_memWf (f : State → State) (o : Host.Outcome State Fault Refusal) (hf : ∀ s, MemWf s → MemWf (f s))
    (ho : KeepsForm o) : KeepsForm (mapNext f o) := by
  intro t h
  cases o <;> cases h
  exact hf _ (ho _ rfl)

@[simp] theorem tick_memWf (s : State) (hs : MemWf s) :
    MemWf (tick s) := by
  simp_all [tick]

@[simp] theorem ticks_memWf (n : Nat) (s : State) (hs : MemWf s) : MemWf (ticks n s) := by
  induction n generalizing s with
  | zero => exact hs
  | succ n ih => exact ih _ (tick_memWf _ hs)

@[simp] theorem withIssuer_memWf (s : State) (grp e : Nat) (w : Word) (hs : MemWf s) :
    MemWf (withIssuer s grp e w) := by
  simp_all [withIssuer]

@[simp] theorem afterIssue_memWf (before : State) (quad : Nat) (t : State) (hbefore : MemWf before) (ht : MemWf t) :
    MemWf (afterIssue before quad t) := by
  simp_all [afterIssue]

@[simp] theorem keepWord_memWf (s : State) (u : Nat) (e : Nat) (w : Word) (hs : MemWf s) :
    MemWf (keepWord s u e w) := by
  unfold keepWord; dsimp only; (repeat' split) <;> simp_all +contextual (maxDischargeDepth := 12)

@[simp] theorem fetchHeld_memWf (s : State) (u : Nat) (e : Nat) (pa : Nat) (hs : MemWf s) :
    MemWf (fetchHeld s u e pa) := by
  unfold fetchHeld; dsimp only; (repeat' split) <;> simp_all +contextual (maxDischargeDepth := 12)

@[simp] theorem fetchWalks_memWf (s : State) (t : Team) (u e va : Nat) (hs : MemWf s) : MemWf (fetchWalks s t u e va) := by
  simp_all [fetchWalks]

@[simp] theorem upset_memWf (s : State) (d : Damage) (hs : MemWf s) :
    MemWf (upset s d) := by
  simp only [upset]; (repeat' split) <;> simp_all +contextual (maxDischargeDepth := 12)

@[simp] theorem probeMem_memWf (s : State) (w : Nat) (hs : MemWf s) :
    MemWf (probeMem s w) := by
  simp only [probeMem]; (repeat' split) <;> simp_all +contextual (maxDischargeDepth := 12)

@[simp] theorem probeLane_memWf (s : State) (w : Nat) (hs : MemWf s) :
    MemWf (probeLane s w) := by
  simp_all [probeLane]

@[simp] theorem probeBank_memWf (s : State) (w : Nat) (hs : MemWf s) :
    MemWf (probeBank s w) := by
  simp_all [probeBank]

@[simp] theorem placeWord_memWf (s : State) (w : Nat) (hs : MemWf s) :
    MemWf (placeWord s w) := by
  unfold placeWord; split <;> simp_all

end Sys2Proof.Machine
end

