-- ==== Sys2Proof/Laws/MemFormExec.lean ====
section
/-! SUPPORT. Every meaning keeps the memories in canonical form: one lemma for each. -/

namespace Sys2Proof.Machine

open Sys2Proof

theorem execAdd_memWf (w : Width) (d : LaneOp) (a : LaneOp) (b : LaneOp) (s : State) (t : State) (hs : MemWf s)
    (h : execAdd w d a b s = .next t) : MemWf t := by
  unfold execAdd at h
  unfold intOp3 at h
  exact issueG_memWf _ _ _ _ hs h

theorem execSub_memWf (w : Width) (d : LaneOp) (a : LaneOp) (b : LaneOp) (s : State) (t : State) (hs : MemWf s)
    (h : execSub w d a b s = .next t) : MemWf t := by
  unfold execSub at h
  unfold intOp3 at h
  exact issueG_memWf _ _ _ _ hs h

theorem execRsub_memWf (w : Width) (d : LaneOp) (a : LaneOp) (b : LaneOp) (s : State) (t : State) (hs : MemWf s)
    (h : execRsub w d a b s = .next t) : MemWf t := by
  unfold execRsub at h
  unfold intOp3 at h
  exact issueG_memWf _ _ _ _ hs h

theorem execAbsd_memWf (w : Width) (d : LaneOp) (a : LaneOp) (b : LaneOp) (s : State) (t : State) (hs : MemWf s)
    (h : execAbsd w d a b s = .next t) : MemWf t := by
  unfold execAbsd at h
  unfold intOp3 at h
  exact issueG_memWf _ _ _ _ hs h

theorem execMul_memWf (w : Width) (d : LaneOp) (a : LaneOp) (b : LaneOp) (s : State) (t : State) (hs : MemWf s)
    (h : execMul w d a b s = .next t) : MemWf t := by
  unfold execMul at h
  unfold intOp3 at h
  exact issueG_memWf _ _ _ _ hs h

theorem execMulh_memWf (w : Width) (d : LaneOp) (a : LaneOp) (b : LaneOp) (s : State) (t : State) (hs : MemWf s)
    (h : execMulh w d a b s = .next t) : MemWf t := by
  unfold execMulh at h
  unfold intOp3 at h
  exact issueG_memWf _ _ _ _ hs h

theorem execMad_memWf (w : Width) (d : LaneOp) (a : LaneOp) (b : LaneOp) (s : State) (t : State) (hs : MemWf s)
    (h : execMad w d a b s = .next t) : MemWf t := by
  unfold execMad at h
  unfold intOp3 at h
  exact issueG_memWf _ _ _ _ hs h

theorem execMadh_memWf (w : Width) (d : LaneOp) (a : LaneOp) (b : LaneOp) (s : State) (t : State) (hs : MemWf s)
    (h : execMadh w d a b s = .next t) : MemWf t := by
  unfold execMadh at h
  unfold intOp3 at h
  exact issueG_memWf _ _ _ _ hs h

theorem execAnd_memWf (w : Width) (d : LaneOp) (a : LaneOp) (b : LaneOp) (s : State) (t : State) (hs : MemWf s)
    (h : execAnd w d a b s = .next t) : MemWf t := by
  unfold execAnd at h
  unfold regOp3 at h
  exact issueG_memWf _ _ _ _ hs h

theorem execOr_memWf (w : Width) (d : LaneOp) (a : LaneOp) (b : LaneOp) (s : State) (t : State) (hs : MemWf s)
    (h : execOr w d a b s = .next t) : MemWf t := by
  unfold execOr at h
  unfold regOp3 at h
  exact issueG_memWf _ _ _ _ hs h

theorem execXor_memWf (w : Width) (d : LaneOp) (a : LaneOp) (b : LaneOp) (s : State) (t : State) (hs : MemWf s)
    (h : execXor w d a b s = .next t) : MemWf t := by
  unfold execXor at h
  unfold regOp3 at h
  exact issueG_memWf _ _ _ _ hs h

theorem execAndn_memWf (w : Width) (d : LaneOp) (a : LaneOp) (b : LaneOp) (s : State) (t : State) (hs : MemWf s)
    (h : execAndn w d a b s = .next t) : MemWf t := by
  unfold execAndn at h
  unfold regOp3 at h
  exact issueG_memWf _ _ _ _ hs h

theorem execShl_memWf (w : Width) (d : LaneOp) (a : LaneOp) (b : LaneOp) (s : State) (t : State) (hs : MemWf s)
    (h : execShl w d a b s = .next t) : MemWf t := by
  unfold execShl at h
  unfold intOp3 at h
  exact issueG_memWf _ _ _ _ hs h

theorem execShr_memWf (w : Width) (d : LaneOp) (a : LaneOp) (b : LaneOp) (s : State) (t : State) (hs : MemWf s)
    (h : execShr w d a b s = .next t) : MemWf t := by
  unfold execShr at h
  unfold intOp3 at h
  exact issueG_memWf _ _ _ _ hs h

theorem execSha_memWf (w : Width) (d : LaneOp) (a : LaneOp) (b : LaneOp) (s : State) (t : State) (hs : MemWf s)
    (h : execSha w d a b s = .next t) : MemWf t := by
  unfold execSha at h
  unfold intOp3 at h
  exact issueG_memWf _ _ _ _ hs h

theorem execRot_memWf (w : Width) (d : LaneOp) (a : LaneOp) (b : LaneOp) (s : State) (t : State) (hs : MemWf s)
    (h : execRot w d a b s = .next t) : MemWf t := by
  unfold execRot at h
  unfold intOp3 at h
  exact issueG_memWf _ _ _ _ hs h

theorem execMin_memWf (w : Width) (d : LaneOp) (a : LaneOp) (b : LaneOp) (s : State) (t : State) (hs : MemWf s)
    (h : execMin w d a b s = .next t) : MemWf t := by
  unfold execMin at h
  unfold intOp3 at h
  exact issueG_memWf _ _ _ _ hs h

theorem execMax_memWf (w : Width) (d : LaneOp) (a : LaneOp) (b : LaneOp) (s : State) (t : State) (hs : MemWf s)
    (h : execMax w d a b s = .next t) : MemWf t := by
  unfold execMax at h
  unfold intOp3 at h
  exact issueG_memWf _ _ _ _ hs h

theorem execSel_memWf (w : Width) (d : LaneOp) (a : LaneOp) (b : LaneOp) (s : State) (t : State) (hs : MemWf s)
    (h : execSel w d a b s = .next t) : MemWf t := by
  unfold execSel at h
  try dsimp only at h
  exact issueG_memWf _ _ _ _ hs h

theorem execSelz_memWf (w : Width) (d : LaneOp) (a : LaneOp) (b : LaneOp) (s : State) (t : State) (hs : MemWf s)
    (h : execSelz w d a b s = .next t) : MemWf t := by
  unfold execSelz at h
  unfold regOp3 at h
  exact issueG_memWf _ _ _ _ hs h

theorem execBfx_memWf (w : Width) (d : LaneOp) (a : LaneOp) (b : LaneOp) (s : State) (t : State) (hs : MemWf s)
    (h : execBfx w d a b s = .next t) : MemWf t := by
  unfold execBfx at h
  unfold regOp3 at h
  exact issueG_memWf _ _ _ _ hs h

theorem execBfxs_memWf (w : Width) (d : LaneOp) (a : LaneOp) (b : LaneOp) (s : State) (t : State) (hs : MemWf s)
    (h : execBfxs w d a b s = .next t) : MemWf t := by
  unfold execBfxs at h
  unfold regOp3 at h
  exact issueG_memWf _ _ _ _ hs h

theorem execBfi_memWf (w : Width) (d : LaneOp) (a : LaneOp) (b : LaneOp) (s : State) (t : State) (hs : MemWf s)
    (h : execBfi w d a b s = .next t) : MemWf t := by
  unfold execBfi at h
  unfold regOp3 at h
  exact issueG_memWf _ _ _ _ hs h

theorem execPerm_memWf (w : Width) (d : LaneOp) (a : LaneOp) (b : LaneOp) (s : State) (t : State) (hs : MemWf s)
    (h : execPerm w d a b s = .next t) : MemWf t := by
  unfold execPerm at h
  unfold regOp3 at h
  exact issueG_memWf _ _ _ _ hs h

theorem execIcmp_memWf (wide : Bool) (any : Bool) (rel : Rel) (cb : Comb) (kd : Fin 8) (a : LaneOp) (b : LaneOp) (s : State) (t : State) (hs : MemWf s)
    (h : execIcmp wide any rel cb kd a b s = .next t) : MemWf t := by
  unfold execIcmp at h
  try dsimp only at h
  exact issueG_memWf _ _ _ _ hs h

theorem execCmpi_memWf (wide : Bool) (any : Bool) (rel : Rel) (kd : Fin 8) (a : LaneOp) (i9 : BitVec 9) (s : State) (t : State) (hs : MemWf s)
    (h : execCmpi wide any rel kd a i9 s = .next t) : MemWf t := by
  unfold execCmpi at h
  try dsimp only at h
  exact issueG_memWf _ _ _ _ hs h

theorem execMov_memWf (w : Width) (d : LaneOp) (a : LaneOp) (s : State) (t : State) (hs : MemWf s)
    (h : execMov w d a s = .next t) : MemWf t := by
  unfold execMov at h
  unfold regOp2 at h
  exact issueG_memWf _ _ _ _ hs h

theorem execNot_memWf (w : Width) (d : LaneOp) (a : LaneOp) (s : State) (t : State) (hs : MemWf s)
    (h : execNot w d a s = .next t) : MemWf t := by
  unfold execNot at h
  unfold regOp2 at h
  exact issueG_memWf _ _ _ _ hs h

theorem execNeg_memWf (w : Width) (d : LaneOp) (a : LaneOp) (s : State) (t : State) (hs : MemWf s)
    (h : execNeg w d a s = .next t) : MemWf t := by
  unfold execNeg at h
  unfold intOp2 at h
  exact issueG_memWf _ _ _ _ hs h

theorem execAbs_memWf (w : Width) (d : LaneOp) (a : LaneOp) (s : State) (t : State) (hs : MemWf s)
    (h : execAbs w d a s = .next t) : MemWf t := by
  unfold execAbs at h
  unfold intOp2 at h
  exact issueG_memWf _ _ _ _ hs h

theorem execClz_memWf (w : Width) (d : LaneOp) (a : LaneOp) (s : State) (t : State) (hs : MemWf s)
    (h : execClz w d a s = .next t) : MemWf t := by
  unfold execClz at h
  unfold regOp2 at h
  exact issueG_memWf _ _ _ _ hs h

theorem execPopc_memWf (w : Width) (d : LaneOp) (a : LaneOp) (s : State) (t : State) (hs : MemWf s)
    (h : execPopc w d a s = .next t) : MemWf t := by
  unfold execPopc at h
  unfold regOp2 at h
  exact issueG_memWf _ _ _ _ hs h

theorem execBrev_memWf (w : Width) (d : LaneOp) (a : LaneOp) (s : State) (t : State) (hs : MemWf s)
    (h : execBrev w d a s = .next t) : MemWf t := by
  unfold execBrev at h
  unfold regOp2 at h
  exact issueG_memWf _ _ _ _ hs h

theorem execBswap_memWf (w : Width) (d : LaneOp) (a : LaneOp) (s : State) (t : State) (hs : MemWf s)
    (h : execBswap w d a s = .next t) : MemWf t := by
  unfold execBswap at h
  unfold regOp2 at h
  exact issueG_memWf _ _ _ _ hs h

theorem execKtoi_memWf (d : LaneOp) (k : Fin 8) (s : State) (t : State) (hs : MemWf s)
    (h : execKtoi d k s = .next t) : MemWf t := by
  unfold execKtoi at h
  exact issueG_memWf _ _ _ _ hs h

theorem execItok_memWf (kd : Fin 8) (a : LaneOp) (s : State) (t : State) (hs : MemWf s)
    (h : execItok kd a s = .next t) : MemWf t := by
  unfold execItok at h
  exact issueG_memWf _ _ _ _ hs h

theorem execKget_memWf (d : LaneOp) (s : State) (t : State) (hs : MemWf s)
    (h : execKget d s = .next t) : MemWf t := by
  unfold execKget at h
  exact issueG_memWf _ _ _ _ hs h

theorem execKput_memWf (a : LaneOp) (s : State) (t : State) (hs : MemWf s)
    (h : execKput a s = .next t) : MemWf t := by
  unfold execKput at h
  exact issueG_memWf _ _ _ _ hs h

theorem execMovg_memWf (wide : Bool) (d : LaneOp) (g : UniOp) (s : State) (t : State) (hs : MemWf s)
    (h : execMovg wide d g s = .next t) : MemWf t := by
  unfold execMovg at h
  try dsimp only at h
  exact issueG_memWf _ _ _ _ hs h

theorem execSext_memWf (w : Width) (d : LaneOp) (a : LaneOp) (m : Fin 32) (s : State) (t : State) (hs : MemWf s)
    (h : execSext w d a m s = .next t) : MemWf t := by
  unfold execSext at h
  unfold regOp2 at h
  exact issueG_memWf _ _ _ _ hs h

theorem execZext_memWf (w : Width) (d : LaneOp) (a : LaneOp) (m : Fin 32) (s : State) (t : State) (hs : MemWf s)
    (h : execZext w d a m s = .next t) : MemWf t := by
  unfold execZext at h
  unfold regOp2 at h
  exact issueG_memWf _ _ _ _ hs h

theorem execAddi_memWf (w : Width) (d : LaneOp) (a : LaneOp) (i9 : BitVec 9) (s : State) (t : State) (hs : MemWf s)
    (h : execAddi w d a i9 s = .next t) : MemWf t := by
  unfold execAddi at h
  unfold intOp2 at h
  exact issueG_memWf _ _ _ _ hs h

theorem execShli_memWf (w : Width) (d : LaneOp) (a : LaneOp) (m : Fin 64) (s : State) (t : State) (hs : MemWf s)
    (h : execShli w d a m s = .next t) : MemWf t := by
  unfold execShli at h
  unfold intOp2 at h
  exact issueG_memWf _ _ _ _ hs h

theorem execShri_memWf (w : Width) (d : LaneOp) (a : LaneOp) (m : Fin 64) (s : State) (t : State) (hs : MemWf s)
    (h : execShri w d a m s = .next t) : MemWf t := by
  unfold execShri at h
  unfold intOp2 at h
  exact issueG_memWf _ _ _ _ hs h

theorem execShai_memWf (w : Width) (d : LaneOp) (a : LaneOp) (m : Fin 64) (s : State) (t : State) (hs : MemWf s)
    (h : execShai w d a m s = .next t) : MemWf t := by
  unfold execShai at h
  unfold intOp2 at h
  exact issueG_memWf _ _ _ _ hs h

theorem execRoti_memWf (w : Width) (d : LaneOp) (a : LaneOp) (m : Fin 64) (s : State) (t : State) (hs : MemWf s)
    (h : execRoti w d a m s = .next t) : MemWf t := by
  unfold execRoti at h
  unfold intOp2 at h
  exact issueG_memWf _ _ _ _ hs h

theorem execAndi_memWf (w : Width) (d : LaneOp) (a : LaneOp) (i7 : BitVec 7) (s : State) (t : State) (hs : MemWf s)
    (h : execAndi w d a i7 s = .next t) : MemWf t := by
  unfold execAndi at h
  unfold regOp2 at h
  exact issueG_memWf _ _ _ _ hs h

theorem execOri_memWf (w : Width) (d : LaneOp) (a : LaneOp) (i7 : BitVec 7) (s : State) (t : State) (hs : MemWf s)
    (h : execOri w d a i7 s = .next t) : MemWf t := by
  unfold execOri at h
  unfold regOp2 at h
  exact issueG_memWf _ _ _ _ hs h

theorem execXori_memWf (w : Width) (d : LaneOp) (a : LaneOp) (i7 : BitVec 7) (s : State) (t : State) (hs : MemWf s)
    (h : execXori w d a i7 s = .next t) : MemWf t := by
  unfold execXori at h
  unfold regOp2 at h
  exact issueG_memWf _ _ _ _ hs h

theorem execAndni_memWf (w : Width) (d : LaneOp) (a : LaneOp) (i7 : BitVec 7) (s : State) (t : State) (hs : MemWf s)
    (h : execAndni w d a i7 s = .next t) : MemWf t := by
  unfold execAndni at h
  unfold regOp2 at h
  exact issueG_memWf _ _ _ _ hs h

theorem execMovi_memWf (d : LaneOp) (i16 : BitVec 16) (s : State) (t : State) (hs : MemWf s)
    (h : execMovi d i16 s = .next t) : MemWf t := by
  unfold execMovi at h
  unfold moviOp at h
  exact issueG_memWf _ _ _ _ hs h

theorem execMoviZ_memWf (d : LaneOp) (i16 : BitVec 16) (s : State) (t : State) (hs : MemWf s)
    (h : execMoviZ d i16 s = .next t) : MemWf t := by
  unfold execMoviZ at h
  unfold moviOp at h
  exact issueG_memWf _ _ _ _ hs h

theorem execMoviH_memWf (d : LaneOp) (i16 : BitVec 16) (s : State) (t : State) (hs : MemWf s)
    (h : execMoviH d i16 s = .next t) : MemWf t := by
  unfold execMoviH at h
  unfold moviOp at h
  exact issueG_memWf _ _ _ _ hs h

theorem execMoviL_memWf (d : LaneOp) (i16 : BitVec 16) (s : State) (t : State) (hs : MemWf s)
    (h : execMoviL d i16 s = .next t) : MemWf t := by
  unfold execMoviL at h
  unfold moviOp at h
  exact issueG_memWf _ _ _ _ hs h

theorem execMode_memWf (q : Fin 4) (i16 : BitVec 16) (s : State) (t : State) (hs : MemWf s)
    (h : execMode q i16 s = .next t) : MemWf t := by
  unfold execMode at h
  exact issueG_memWf _ _ _ _ hs h

theorem execKand_memWf (kd : Fin 8) (na : Bool) (ka : Fin 8) (nb : Bool) (kb : Fin 8) (s : State) (t : State) (hs : MemWf s)
    (h : execKand kd na ka nb kb s = .next t) : MemWf t := by
  unfold execKand at h
  unfold kop at h
  exact issueG_memWf _ _ _ _ hs h

theorem execKor_memWf (kd : Fin 8) (na : Bool) (ka : Fin 8) (nb : Bool) (kb : Fin 8) (s : State) (t : State) (hs : MemWf s)
    (h : execKor kd na ka nb kb s = .next t) : MemWf t := by
  unfold execKor at h
  unfold kop at h
  exact issueG_memWf _ _ _ _ hs h

theorem execKxor_memWf (kd : Fin 8) (na : Bool) (ka : Fin 8) (nb : Bool) (kb : Fin 8) (s : State) (t : State) (hs : MemWf s)
    (h : execKxor kd na ka nb kb s = .next t) : MemWf t := by
  unfold execKxor at h
  unfold kop at h
  exact issueG_memWf _ _ _ _ hs h

theorem execKandn_memWf (kd : Fin 8) (na : Bool) (ka : Fin 8) (nb : Bool) (kb : Fin 8) (s : State) (t : State) (hs : MemWf s)
    (h : execKandn kd na ka nb kb s = .next t) : MemWf t := by
  unfold execKandn at h
  unfold kop at h
  exact issueG_memWf _ _ _ _ hs h

theorem execFadd_memWf (w : Width) (d : LaneOp) (a : LaneOp) (b : LaneOp) (s : State) (t : State) (hs : MemWf s)
    (h : execFadd w d a b s = .next t) : MemWf t := by
  unfold execFadd at h
  unfold floatOp3 at h
  exact issueG_memWf _ _ _ _ hs h

theorem execFsub_memWf (w : Width) (d : LaneOp) (a : LaneOp) (b : LaneOp) (s : State) (t : State) (hs : MemWf s)
    (h : execFsub w d a b s = .next t) : MemWf t := by
  unfold execFsub at h
  unfold floatOp3 at h
  exact issueG_memWf _ _ _ _ hs h

theorem execFmul_memWf (w : Width) (d : LaneOp) (a : LaneOp) (b : LaneOp) (s : State) (t : State) (hs : MemWf s)
    (h : execFmul w d a b s = .next t) : MemWf t := by
  unfold execFmul at h
  unfold floatOp3 at h
  exact issueG_memWf _ _ _ _ hs h

theorem execFrsub_memWf (w : Width) (d : LaneOp) (a : LaneOp) (b : LaneOp) (s : State) (t : State) (hs : MemWf s)
    (h : execFrsub w d a b s = .next t) : MemWf t := by
  unfold execFrsub at h
  unfold floatOp3 at h
  exact issueG_memWf _ _ _ _ hs h

theorem execFfma_memWf (w : Width) (d : LaneOp) (a : LaneOp) (b : LaneOp) (s : State) (t : State) (hs : MemWf s)
    (h : execFfma w d a b s = .next t) : MemWf t := by
  unfold execFfma at h
  unfold floatOp3 at h
  exact issueG_memWf _ _ _ _ hs h

theorem execFfms_memWf (w : Width) (d : LaneOp) (a : LaneOp) (b : LaneOp) (s : State) (t : State) (hs : MemWf s)
    (h : execFfms w d a b s = .next t) : MemWf t := by
  unfold execFfms at h
  unfold floatOp3 at h
  exact issueG_memWf _ _ _ _ hs h

theorem execFnma_memWf (w : Width) (d : LaneOp) (a : LaneOp) (b : LaneOp) (s : State) (t : State) (hs : MemWf s)
    (h : execFnma w d a b s = .next t) : MemWf t := by
  unfold execFnma at h
  unfold floatOp3 at h
  exact issueG_memWf _ _ _ _ hs h

theorem execFnms_memWf (w : Width) (d : LaneOp) (a : LaneOp) (b : LaneOp) (s : State) (t : State) (hs : MemWf s)
    (h : execFnms w d a b s = .next t) : MemWf t := by
  unfold execFnms at h
  unfold floatOp3 at h
  exact issueG_memWf _ _ _ _ hs h

theorem execFmin_memWf (w : Width) (d : LaneOp) (a : LaneOp) (b : LaneOp) (s : State) (t : State) (hs : MemWf s)
    (h : execFmin w d a b s = .next t) : MemWf t := by
  unfold execFmin at h
  unfold minMaxOp at h
  exact issueG_memWf _ _ _ _ hs h

theorem execFmax_memWf (w : Width) (d : LaneOp) (a : LaneOp) (b : LaneOp) (s : State) (t : State) (hs : MemWf s)
    (h : execFmax w d a b s = .next t) : MemWf t := by
  unfold execFmax at h
  unfold minMaxOp at h
  exact issueG_memWf _ _ _ _ hs h

theorem execFminm_memWf (w : Width) (d : LaneOp) (a : LaneOp) (b : LaneOp) (s : State) (t : State) (hs : MemWf s)
    (h : execFminm w d a b s = .next t) : MemWf t := by
  unfold execFminm at h
  unfold minMaxOp at h
  exact issueG_memWf _ _ _ _ hs h

theorem execFmaxm_memWf (w : Width) (d : LaneOp) (a : LaneOp) (b : LaneOp) (s : State) (t : State) (hs : MemWf s)
    (h : execFmaxm w d a b s = .next t) : MemWf t := by
  unfold execFmaxm at h
  unfold minMaxOp at h
  exact issueG_memWf _ _ _ _ hs h

theorem execFcmp_memWf (wide : Bool) (any : Bool) (rel : FRel) (cb : Comb) (kd : Fin 8) (a : LaneOp) (b : LaneOp) (s : State) (t : State) (hs : MemWf s)
    (h : execFcmp wide any rel cb kd a b s = .next t) : MemWf t := by
  unfold execFcmp at h
  try dsimp only at h
  exact issueG_memWf _ _ _ _ hs h

theorem execFabs_memWf (w : Width) (d : LaneOp) (a : LaneOp) (s : State) (t : State) (hs : MemWf s)
    (h : execFabs w d a s = .next t) : MemWf t := by
  unfold execFabs at h
  unfold funOp at h
  exact issueG_memWf _ _ _ _ hs h

theorem execFneg_memWf (w : Width) (d : LaneOp) (a : LaneOp) (s : State) (t : State) (hs : MemWf s)
    (h : execFneg w d a s = .next t) : MemWf t := by
  unfold execFneg at h
  unfold funOp at h
  exact issueG_memWf _ _ _ _ hs h

theorem execFrcp_memWf (w : Width) (d : LaneOp) (a : LaneOp) (s : State) (t : State) (hs : MemWf s)
    (h : execFrcp w d a s = .next t) : MemWf t := by
  unfold execFrcp at h
  unfold funOp at h
  exact issueG_memWf _ _ _ _ hs h

theorem execFrsq_memWf (w : Width) (d : LaneOp) (a : LaneOp) (s : State) (t : State) (hs : MemWf s)
    (h : execFrsq w d a s = .next t) : MemWf t := by
  unfold execFrsq at h
  unfold funOp at h
  exact issueG_memWf _ _ _ _ hs h

theorem execFsqrt_memWf (w : Width) (d : LaneOp) (a : LaneOp) (s : State) (t : State) (hs : MemWf s)
    (h : execFsqrt w d a s = .next t) : MemWf t := by
  unfold execFsqrt at h
  unfold funOp at h
  exact issueG_memWf _ _ _ _ hs h

theorem execFexp2_memWf (w : Width) (d : LaneOp) (a : LaneOp) (s : State) (t : State) (hs : MemWf s)
    (h : execFexp2 w d a s = .next t) : MemWf t := by
  unfold execFexp2 at h
  unfold funOp at h
  exact issueG_memWf _ _ _ _ hs h

theorem execFlog2_memWf (w : Width) (d : LaneOp) (a : LaneOp) (s : State) (t : State) (hs : MemWf s)
    (h : execFlog2 w d a s = .next t) : MemWf t := by
  unfold execFlog2 at h
  unfold funOp at h
  exact issueG_memWf _ _ _ _ hs h

theorem execFsin_memWf (w : Width) (d : LaneOp) (a : LaneOp) (s : State) (t : State) (hs : MemWf s)
    (h : execFsin w d a s = .next t) : MemWf t := by
  unfold execFsin at h
  unfold funOp at h
  exact issueG_memWf _ _ _ _ hs h

theorem execFcos_memWf (w : Width) (d : LaneOp) (a : LaneOp) (s : State) (t : State) (hs : MemWf s)
    (h : execFcos w d a s = .next t) : MemWf t := by
  unfold execFcos at h
  unfold funOp at h
  exact issueG_memWf _ _ _ _ hs h

theorem execFtanh_memWf (w : Width) (d : LaneOp) (a : LaneOp) (s : State) (t : State) (hs : MemWf s)
    (h : execFtanh w d a s = .next t) : MemWf t := by
  unfold execFtanh at h
  unfold funOp at h
  exact issueG_memWf _ _ _ _ hs h

theorem execFrnd_memWf (w : Width) (d : LaneOp) (a : LaneOp) (s : State) (t : State) (hs : MemWf s)
    (h : execFrnd w d a s = .next t) : MemWf t := by
  unfold execFrnd at h
  unfold funOp at h
  exact issueG_memWf _ _ _ _ hs h

theorem execFclass_memWf (w : Width) (d : LaneOp) (a : LaneOp) (s : State) (t : State) (hs : MemWf s)
    (h : execFclass w d a s = .next t) : MemWf t := by
  unfold execFclass at h
  unfold funOp at h
  exact issueG_memWf _ _ _ _ hs h

theorem execCvt_memWf (w : Width) (d : LaneOp) (a : LaneOp) (trunc : Bool) (part : Fin 8) (dt : ETy) (s : State) (t : State) (hs : MemWf s)
    (h : execCvt w d a trunc part dt s = .next t) : MemWf t := by
  unfold execCvt at h
  try dsimp only at h
  exact issueG_memWf _ _ _ _ hs h

theorem execPackfBf16_memWf (w : Width) (d : LaneOp) (a : LaneOp) (b : LaneOp) (s : State) (t : State) (hs : MemWf s)
    (h : execPackfBf16 w d a b s = .next t) : MemWf t := by
  unfold execPackfBf16 at h
  unfold packOp at h
  exact issueG_memWf _ _ _ _ hs h

theorem execPackfF16_memWf (w : Width) (d : LaneOp) (a : LaneOp) (b : LaneOp) (s : State) (t : State) (hs : MemWf s)
    (h : execPackfF16 w d a b s = .next t) : MemWf t := by
  unfold execPackfF16 at h
  unfold packOp at h
  exact issueG_memWf _ _ _ _ hs h

theorem execPackfE4m3_memWf (w : Width) (d : LaneOp) (a : LaneOp) (b : LaneOp) (s : State) (t : State) (hs : MemWf s)
    (h : execPackfE4m3 w d a b s = .next t) : MemWf t := by
  unfold execPackfE4m3 at h
  unfold packOp at h
  exact issueG_memWf _ _ _ _ hs h

theorem execPackfE5m2_memWf (w : Width) (d : LaneOp) (a : LaneOp) (b : LaneOp) (s : State) (t : State) (hs : MemWf s)
    (h : execPackfE5m2 w d a b s = .next t) : MemWf t := by
  unfold execPackfE5m2 at h
  unfold packOp at h
  exact issueG_memWf _ _ _ _ hs h

theorem execDot_memWf (w : Width) (d : LaneOp) (a : LaneOp) (b : LaneOp) (s : State) (t : State) (hs : MemWf s)
    (h : execDot w d a b s = .next t) : MemWf t := by
  unfold execDot at h
  unfold dotOp at h
  exact issueG_memWf _ _ _ _ hs h

theorem execDotz_memWf (w : Width) (d : LaneOp) (a : LaneOp) (b : LaneOp) (s : State) (t : State) (hs : MemWf s)
    (h : execDotz w d a b s = .next t) : MemWf t := by
  unfold execDotz at h
  unfold dotOp at h
  exact issueG_memWf _ _ _ _ hs h

theorem execLdg_memWf (w : Width) (d : LaneOp) (a : LaneOp) (off : BitVec 9) (s : State) (t : State) (hs : MemWf s)
    (h : execLdg w d a off s = .next t) : MemWf t := by
  unfold execLdg at h
  exact loadOp_memWf _ _ _ _ _ _ hs h

theorem execLds_memWf (w : Width) (d : LaneOp) (a : LaneOp) (off : BitVec 9) (s : State) (t : State) (hs : MemWf s)
    (h : execLds w d a off s = .next t) : MemWf t := by
  unfold execLds at h
  exact loadOp_memWf _ _ _ _ _ _ hs h

theorem execLdc_memWf (w : Width) (d : LaneOp) (a : LaneOp) (off : BitVec 9) (s : State) (t : State) (hs : MemWf s)
    (h : execLdc w d a off s = .next t) : MemWf t := by
  unfold execLdc at h
  exact loadOp_memWf _ _ _ _ _ _ hs h

theorem execLdd_memWf (w : Width) (d : LaneOp) (a : LaneOp) (off : BitVec 9) (s : State) (t : State) (hs : MemWf s)
    (h : execLdd w d a off s = .next t) : MemWf t := by
  unfold execLdd at h
  exact loadOp_memWf _ _ _ _ _ _ hs h

theorem execLdl_memWf (w : Width) (d : LaneOp) (a : LaneOp) (off : BitVec 9) (s : State) (t : State) (hs : MemWf s)
    (h : execLdl w d a off s = .next t) : MemWf t := by
  unfold execLdl at h
  exact loadOp_memWf _ _ _ _ _ _ hs h

theorem execLdx_memWf (d : LaneOp) (a : LaneOp) (sp : Space) (kind : SubKind) (s : State) (t : State) (hs : MemWf s)
    (h : execLdx d a sp kind s = .next t) : MemWf t := by
  unfold execLdx at h
  exact loadOp_memWf _ _ _ _ _ _ hs h

theorem execLdo_memWf (wide : Bool) (d : LaneOp) (a : LaneOp) (sp : Space) (acq : Bool) (sc : Scope) (s : State) (t : State) (hs : MemWf s)
    (h : execLdo wide d a sp acq sc s = .next t) : MemWf t := by
  unfold execLdo at h
  exact loadOp_memWf _ _ _ _ _ _ hs h

theorem execStg_memWf (w : Width) (d : LaneOp) (a : LaneOp) (off : BitVec 9) (s : State) (t : State) (hs : MemWf s)
    (h : execStg w d a off s = .next t) : MemWf t := by
  unfold execStg at h
  exact storeOp_memWf _ _ _ _ _ _ hs h

theorem execSts_memWf (w : Width) (d : LaneOp) (a : LaneOp) (off : BitVec 9) (s : State) (t : State) (hs : MemWf s)
    (h : execSts w d a off s = .next t) : MemWf t := by
  unfold execSts at h
  exact storeOp_memWf _ _ _ _ _ _ hs h

theorem execStc_memWf (w : Width) (d : LaneOp) (a : LaneOp) (off : BitVec 9) (s : State) (t : State) (hs : MemWf s)
    (h : execStc w d a off s = .next t) : MemWf t := by
  unfold execStc at h
  exact storeOp_memWf _ _ _ _ _ _ hs h

theorem execStd_memWf (w : Width) (d : LaneOp) (a : LaneOp) (off : BitVec 9) (s : State) (t : State) (hs : MemWf s)
    (h : execStd w d a off s = .next t) : MemWf t := by
  unfold execStd at h
  exact storeOp_memWf _ _ _ _ _ _ hs h

theorem execStl_memWf (w : Width) (d : LaneOp) (a : LaneOp) (off : BitVec 9) (s : State) (t : State) (hs : MemWf s)
    (h : execStl w d a off s = .next t) : MemWf t := by
  unfold execStl at h
  exact storeOp_memWf _ _ _ _ _ _ hs h

theorem execStx_memWf (d : LaneOp) (a : LaneOp) (sp : Space) (half : Bool) (s : State) (t : State) (hs : MemWf s)
    (h : execStx d a sp half s = .next t) : MemWf t := by
  unfold execStx at h
  exact storeOp_memWf _ _ _ _ _ _ hs h

theorem execSto_memWf (wide : Bool) (d : LaneOp) (a : LaneOp) (sp : Space) (rel : Bool) (sc : Scope) (s : State) (t : State) (hs : MemWf s)
    (h : execSto wide d a sp rel sc s = .next t) : MemWf t := by
  unfold execSto at h
  exact storeOp_memWf _ _ _ _ _ _ hs h

theorem execAtomgAdd_memWf (d : LaneOp) (a : LaneOp) (b : LaneOp) (s : State) (t : State) (hs : MemWf s)
    (h : execAtomgAdd d a b s = .next t) : MemWf t := by
  unfold execAtomgAdd at h
  exact atomOp_memWf _ _ _ _ _ _ _ hs h

theorem execAtomgMin_memWf (d : LaneOp) (a : LaneOp) (b : LaneOp) (s : State) (t : State) (hs : MemWf s)
    (h : execAtomgMin d a b s = .next t) : MemWf t := by
  unfold execAtomgMin at h
  exact atomOp_memWf _ _ _ _ _ _ _ hs h

theorem execAtomgMax_memWf (d : LaneOp) (a : LaneOp) (b : LaneOp) (s : State) (t : State) (hs : MemWf s)
    (h : execAtomgMax d a b s = .next t) : MemWf t := by
  unfold execAtomgMax at h
  exact atomOp_memWf _ _ _ _ _ _ _ hs h

theorem execAtomgAnd_memWf (d : LaneOp) (a : LaneOp) (b : LaneOp) (s : State) (t : State) (hs : MemWf s)
    (h : execAtomgAnd d a b s = .next t) : MemWf t := by
  unfold execAtomgAnd at h
  exact atomOp_memWf _ _ _ _ _ _ _ hs h

theorem execAtomgOr_memWf (d : LaneOp) (a : LaneOp) (b : LaneOp) (s : State) (t : State) (hs : MemWf s)
    (h : execAtomgOr d a b s = .next t) : MemWf t := by
  unfold execAtomgOr at h
  exact atomOp_memWf _ _ _ _ _ _ _ hs h

theorem execAtomgXor_memWf (d : LaneOp) (a : LaneOp) (b : LaneOp) (s : State) (t : State) (hs : MemWf s)
    (h : execAtomgXor d a b s = .next t) : MemWf t := by
  unfold execAtomgXor at h
  exact atomOp_memWf _ _ _ _ _ _ _ hs h

theorem execAtomgExch_memWf (d : LaneOp) (a : LaneOp) (b : LaneOp) (s : State) (t : State) (hs : MemWf s)
    (h : execAtomgExch d a b s = .next t) : MemWf t := by
  unfold execAtomgExch at h
  exact atomOp_memWf _ _ _ _ _ _ _ hs h

theorem execAtomgCas_memWf (d : LaneOp) (a : LaneOp) (b : LaneOp) (s : State) (t : State) (hs : MemWf s)
    (h : execAtomgCas d a b s = .next t) : MemWf t := by
  unfold execAtomgCas at h
  exact atomOp_memWf _ _ _ _ _ _ _ hs h

theorem execAtomgInc_memWf (d : LaneOp) (a : LaneOp) (b : LaneOp) (s : State) (t : State) (hs : MemWf s)
    (h : execAtomgInc d a b s = .next t) : MemWf t := by
  unfold execAtomgInc at h
  exact atomOp_memWf _ _ _ _ _ _ _ hs h

theorem execAtomgDec_memWf (d : LaneOp) (a : LaneOp) (b : LaneOp) (s : State) (t : State) (hs : MemWf s)
    (h : execAtomgDec d a b s = .next t) : MemWf t := by
  unfold execAtomgDec at h
  exact atomOp_memWf _ _ _ _ _ _ _ hs h

theorem execAtomsAdd_memWf (d : LaneOp) (a : LaneOp) (b : LaneOp) (s : State) (t : State) (hs : MemWf s)
    (h : execAtomsAdd d a b s = .next t) : MemWf t := by
  unfold execAtomsAdd at h
  exact atomOp_memWf _ _ _ _ _ _ _ hs h

theorem execAtomsMin_memWf (d : LaneOp) (a : LaneOp) (b : LaneOp) (s : State) (t : State) (hs : MemWf s)
    (h : execAtomsMin d a b s = .next t) : MemWf t := by
  unfold execAtomsMin at h
  exact atomOp_memWf _ _ _ _ _ _ _ hs h

theorem execAtomsMax_memWf (d : LaneOp) (a : LaneOp) (b : LaneOp) (s : State) (t : State) (hs : MemWf s)
    (h : execAtomsMax d a b s = .next t) : MemWf t := by
  unfold execAtomsMax at h
  exact atomOp_memWf _ _ _ _ _ _ _ hs h

theorem execAtomsAnd_memWf (d : LaneOp) (a : LaneOp) (b : LaneOp) (s : State) (t : State) (hs : MemWf s)
    (h : execAtomsAnd d a b s = .next t) : MemWf t := by
  unfold execAtomsAnd at h
  exact atomOp_memWf _ _ _ _ _ _ _ hs h

theorem execAtomsOr_memWf (d : LaneOp) (a : LaneOp) (b : LaneOp) (s : State) (t : State) (hs : MemWf s)
    (h : execAtomsOr d a b s = .next t) : MemWf t := by
  unfold execAtomsOr at h
  exact atomOp_memWf _ _ _ _ _ _ _ hs h

theorem execAtomsXor_memWf (d : LaneOp) (a : LaneOp) (b : LaneOp) (s : State) (t : State) (hs : MemWf s)
    (h : execAtomsXor d a b s = .next t) : MemWf t := by
  unfold execAtomsXor at h
  exact atomOp_memWf _ _ _ _ _ _ _ hs h

theorem execAtomsExch_memWf (d : LaneOp) (a : LaneOp) (b : LaneOp) (s : State) (t : State) (hs : MemWf s)
    (h : execAtomsExch d a b s = .next t) : MemWf t := by
  unfold execAtomsExch at h
  exact atomOp_memWf _ _ _ _ _ _ _ hs h

theorem execAtomsCas_memWf (d : LaneOp) (a : LaneOp) (b : LaneOp) (s : State) (t : State) (hs : MemWf s)
    (h : execAtomsCas d a b s = .next t) : MemWf t := by
  unfold execAtomsCas at h
  exact atomOp_memWf _ _ _ _ _ _ _ hs h

theorem execAtomsInc_memWf (d : LaneOp) (a : LaneOp) (b : LaneOp) (s : State) (t : State) (hs : MemWf s)
    (h : execAtomsInc d a b s = .next t) : MemWf t := by
  unfold execAtomsInc at h
  exact atomOp_memWf _ _ _ _ _ _ _ hs h

theorem execAtomsDec_memWf (d : LaneOp) (a : LaneOp) (b : LaneOp) (s : State) (t : State) (hs : MemWf s)
    (h : execAtomsDec d a b s = .next t) : MemWf t := by
  unfold execAtomsDec at h
  exact atomOp_memWf _ _ _ _ _ _ _ hs h

theorem execAtomcAdd_memWf (d : LaneOp) (a : LaneOp) (b : LaneOp) (s : State) (t : State) (hs : MemWf s)
    (h : execAtomcAdd d a b s = .next t) : MemWf t := by
  unfold execAtomcAdd at h
  exact atomOp_memWf _ _ _ _ _ _ _ hs h

theorem execAtomcMin_memWf (d : LaneOp) (a : LaneOp) (b : LaneOp) (s : State) (t : State) (hs : MemWf s)
    (h : execAtomcMin d a b s = .next t) : MemWf t := by
  unfold execAtomcMin at h
  exact atomOp_memWf _ _ _ _ _ _ _ hs h

theorem execAtomcMax_memWf (d : LaneOp) (a : LaneOp) (b : LaneOp) (s : State) (t : State) (hs : MemWf s)
    (h : execAtomcMax d a b s = .next t) : MemWf t := by
  unfold execAtomcMax at h
  exact atomOp_memWf _ _ _ _ _ _ _ hs h

theorem execAtomcAnd_memWf (d : LaneOp) (a : LaneOp) (b : LaneOp) (s : State) (t : State) (hs : MemWf s)
    (h : execAtomcAnd d a b s = .next t) : MemWf t := by
  unfold execAtomcAnd at h
  exact atomOp_memWf _ _ _ _ _ _ _ hs h

theorem execAtomcOr_memWf (d : LaneOp) (a : LaneOp) (b : LaneOp) (s : State) (t : State) (hs : MemWf s)
    (h : execAtomcOr d a b s = .next t) : MemWf t := by
  unfold execAtomcOr at h
  exact atomOp_memWf _ _ _ _ _ _ _ hs h

theorem execAtomcXor_memWf (d : LaneOp) (a : LaneOp) (b : LaneOp) (s : State) (t : State) (hs : MemWf s)
    (h : execAtomcXor d a b s = .next t) : MemWf t := by
  unfold execAtomcXor at h
  exact atomOp_memWf _ _ _ _ _ _ _ hs h

theorem execAtomcExch_memWf (d : LaneOp) (a : LaneOp) (b : LaneOp) (s : State) (t : State) (hs : MemWf s)
    (h : execAtomcExch d a b s = .next t) : MemWf t := by
  unfold execAtomcExch at h
  exact atomOp_memWf _ _ _ _ _ _ _ hs h

theorem execAtomcCas_memWf (d : LaneOp) (a : LaneOp) (b : LaneOp) (s : State) (t : State) (hs : MemWf s)
    (h : execAtomcCas d a b s = .next t) : MemWf t := by
  unfold execAtomcCas at h
  exact atomOp_memWf _ _ _ _ _ _ _ hs h

theorem execAtomcInc_memWf (d : LaneOp) (a : LaneOp) (b : LaneOp) (s : State) (t : State) (hs : MemWf s)
    (h : execAtomcInc d a b s = .next t) : MemWf t := by
  unfold execAtomcInc at h
  exact atomOp_memWf _ _ _ _ _ _ _ hs h

theorem execAtomcDec_memWf (d : LaneOp) (a : LaneOp) (b : LaneOp) (s : State) (t : State) (hs : MemWf s)
    (h : execAtomcDec d a b s = .next t) : MemWf t := by
  unfold execAtomcDec at h
  exact atomOp_memWf _ _ _ _ _ _ _ hs h

theorem execAtomdAdd_memWf (d : LaneOp) (a : LaneOp) (b : LaneOp) (s : State) (t : State) (hs : MemWf s)
    (h : execAtomdAdd d a b s = .next t) : MemWf t := by
  unfold execAtomdAdd at h
  exact atomOp_memWf _ _ _ _ _ _ _ hs h

theorem execAtomdMin_memWf (d : LaneOp) (a : LaneOp) (b : LaneOp) (s : State) (t : State) (hs : MemWf s)
    (h : execAtomdMin d a b s = .next t) : MemWf t := by
  unfold execAtomdMin at h
  exact atomOp_memWf _ _ _ _ _ _ _ hs h

theorem execAtomdMax_memWf (d : LaneOp) (a : LaneOp) (b : LaneOp) (s : State) (t : State) (hs : MemWf s)
    (h : execAtomdMax d a b s = .next t) : MemWf t := by
  unfold execAtomdMax at h
  exact atomOp_memWf _ _ _ _ _ _ _ hs h

theorem execAtomdAnd_memWf (d : LaneOp) (a : LaneOp) (b : LaneOp) (s : State) (t : State) (hs : MemWf s)
    (h : execAtomdAnd d a b s = .next t) : MemWf t := by
  unfold execAtomdAnd at h
  exact atomOp_memWf _ _ _ _ _ _ _ hs h

theorem execAtomdOr_memWf (d : LaneOp) (a : LaneOp) (b : LaneOp) (s : State) (t : State) (hs : MemWf s)
    (h : execAtomdOr d a b s = .next t) : MemWf t := by
  unfold execAtomdOr at h
  exact atomOp_memWf _ _ _ _ _ _ _ hs h

theorem execAtomdXor_memWf (d : LaneOp) (a : LaneOp) (b : LaneOp) (s : State) (t : State) (hs : MemWf s)
    (h : execAtomdXor d a b s = .next t) : MemWf t := by
  unfold execAtomdXor at h
  exact atomOp_memWf _ _ _ _ _ _ _ hs h

theorem execAtomdExch_memWf (d : LaneOp) (a : LaneOp) (b : LaneOp) (s : State) (t : State) (hs : MemWf s)
    (h : execAtomdExch d a b s = .next t) : MemWf t := by
  unfold execAtomdExch at h
  exact atomOp_memWf _ _ _ _ _ _ _ hs h

theorem execAtomdCas_memWf (d : LaneOp) (a : LaneOp) (b : LaneOp) (s : State) (t : State) (hs : MemWf s)
    (h : execAtomdCas d a b s = .next t) : MemWf t := by
  unfold execAtomdCas at h
  exact atomOp_memWf _ _ _ _ _ _ _ hs h

theorem execAtomdInc_memWf (d : LaneOp) (a : LaneOp) (b : LaneOp) (s : State) (t : State) (hs : MemWf s)
    (h : execAtomdInc d a b s = .next t) : MemWf t := by
  unfold execAtomdInc at h
  exact atomOp_memWf _ _ _ _ _ _ _ hs h

theorem execAtomdDec_memWf (d : LaneOp) (a : LaneOp) (b : LaneOp) (s : State) (t : State) (hs : MemWf s)
    (h : execAtomdDec d a b s = .next t) : MemWf t := by
  unfold execAtomdDec at h
  exact atomOp_memWf _ _ _ _ _ _ _ hs h

theorem execFenceAcq_memWf (sc : Scope) (s : State) (t : State) (hs : MemWf s)
    (h : execFenceAcq sc s = .next t) : MemWf t := by
  unfold execFenceAcq at h
  exact fenceOp_memWf _ _ _ _ hs h

theorem execFenceRel_memWf (sc : Scope) (s : State) (t : State) (hs : MemWf s)
    (h : execFenceRel sc s = .next t) : MemWf t := by
  unfold execFenceRel at h
  exact fenceOp_memWf _ _ _ _ hs h

theorem execFenceFull_memWf (sc : Scope) (s : State) (t : State) (hs : MemWf s)
    (h : execFenceFull sc s = .next t) : MemWf t := by
  unfold execFenceFull at h
  exact fenceOp_memWf _ _ _ _ hs h

theorem execSig_memWf (a_s : Fin 64) (n : BitVec 14) (s : State) (t : State) (hs : MemWf s)
    (h : execSig a_s n s = .next t) : MemWf t := by
  unfold execSig at h
  refine issue_memWf _ _ s t hs (fun x r hx hr => ?_) h
  try dsimp only at hr
  repeat' split at hr
  all_goals first | (cases hr; done) | (cases hr; simp_all +contextual (maxDischargeDepth := 12))

theorem execSwait_memWf (a_s : Fin 64) (n : BitVec 14) (s : State) (t : State) (hs : MemWf s)
    (h : execSwait a_s n s = .next t) : MemWf t := by
  unfold execSwait at h
  exact semWait_memWf _ _ _ _ _ hs h

theorem execYield_memWf (a_s : Fin 64) (n : BitVec 14) (s : State) (t : State) (hs : MemWf s)
    (h : execYield a_s n s = .next t) : MemWf t := by
  unfold execYield at h
  exact semWait_memWf _ _ _ _ _ hs h

theorem execSpoll_memWf (d : LaneOp) (a_s : Fin 64) (clr : Bool) (s : State) (t : State) (hs : MemWf s)
    (h : execSpoll d a_s clr s = .next t) : MemWf t := by
  unfold execSpoll at h
  refine issue_memWf _ _ s t hs (fun x r hx hr => ?_) h
  try dsimp only at hr
  repeat' split at hr
  all_goals first | (cases hr; done) | (cases hr; simp_all +contextual (maxDischargeDepth := 12))

theorem execBart_memWf (s : State) (t : State) (hs : MemWf s)
    (h : execBart s = .next t) : MemWf t := by
  unfold execBart at h
  refine issue_memWf _ _ s t hs (fun x r hx hr => ?_) h
  try dsimp only at hr
  repeat' split at hr
  all_goals first | (cases hr; done) | (cases hr; simp_all +contextual (maxDischargeDepth := 12))

theorem execBars_memWf (kd : Fin 8) (slot : Fin 4) (s : State) (t : State) (hs : MemWf s)
    (h : execBars kd slot s = .next t) : MemWf t := by
  unfold execBars at h
  refine issue_memWf _ _ s t hs (fun x r hx hr => ?_) h
  try dsimp only at hr
  repeat' split at hr
  all_goals first
    | (cases hr; done)
    | (cases hr
       refine released_memWf _ _ _ _ _ hx (fun y hy => ?_)
       repeat' split
       all_goals simp_all +contextual (maxDischargeDepth := 12))

theorem execArr_memWf (d : Fin 64) (slot : Fin 4) (s : State) (t : State) (hs : MemWf s)
    (h : execArr d slot s = .next t) : MemWf t := by
  unfold execArr at h
  refine issue_memWf _ _ s t hs (fun x r hx hr => ?_) h
  try dsimp only at hr
  repeat' split at hr
  all_goals first | (cases hr; done) | (cases hr; simp_all +contextual (maxDischargeDepth := 12))

theorem execAtry_memWf (kd : Fin 8) (a : UniOp) (slot : Fin 4) (s : State) (t : State) (hs : MemWf s)
    (h : execAtry kd a slot s = .next t) : MemWf t := by
  unfold execAtry at h
  refine issue_memWf _ _ s t hs (fun x r hx hr => ?_) h
  try dsimp only at hr
  repeat' split at hr
  all_goals first | (cases hr; done) | (cases hr; simp_all +contextual (maxDischargeDepth := 12))

theorem execPop_memWf (d : Fin 64) (a : Fin 64) (s : State) (t : State) (hs : MemWf s)
    (h : execPop d a s = .next t) : MemWf t := by
  unfold execPop at h
  refine issue_memWf _ _ s t hs (fun x r hx hr => ?_) h
  try dsimp only at hr
  repeat' split at hr
  all_goals first
    | (cases hr; done)
    | (cases hr
       first
         | exact (lineReady_exWf _ _ _ _ hx).error (by assumption)
         | (refine serveAll_memWf _ _ _ _ (popTake_memWf _ _ _ _ _ _ _ ?_)
            exact (lineReady_exWf _ _ _ _ hx).ok (by assumption))
         | simp_all +contextual (maxDischargeDepth := 12))

theorem execEnq_memWf (kd : Fin 8) (a : Fin 64) (s : State) (t : State) (hs : MemWf s)
    (h : execEnq kd a s = .next t) : MemWf t := by
  unfold execEnq at h
  refine enqOp_memWf _ _ _ _ s t hs (fun x s l n b h => ?_) (fun x s h => ?_) h
  all_goals
    unfold enqPred State.modGroup
    split <;> simp_all

theorem execEnqW_memWf (a : Fin 64) (s : State) (t : State) (hs : MemWf s)
    (h : execEnqW a s = .next t) : MemWf t := by
  unfold execEnqW at h
  refine enqOp_memWf _ _ _ _ s t hs (fun x s l n b h => ?_) (fun x s h => ?_) h
  all_goals simp_all +contextual (maxDischargeDepth := 12)

theorem execValid_memWf (a : Fin 64) (s : State) (t : State) (hs : MemWf s)
    (h : execValid a s = .next t) : MemWf t := by
  unfold execValid at h
  refine issue_memWf _ _ s t hs (fun x r hx hr => ?_) h
  try dsimp only at hr
  repeat' split at hr
  all_goals first
    | (cases hr; done)
    | (cases hr
       refine released_memWf _ _ _ _ _ hx (fun y hy => ?_)
       repeat' split
       all_goals simp_all +contextual (maxDischargeDepth := 12))

theorem execRdvalid_memWf (a : Fin 64) (s : State) (t : State) (hs : MemWf s)
    (h : execRdvalid a s = .next t) : MemWf t := by
  unfold execRdvalid at h
  refine issue_memWf _ _ s t hs (fun x r hx hr => ?_) h
  try dsimp only at hr
  repeat' split at hr
  all_goals first | (cases hr; done) | (cases hr; simp_all +contextual (maxDischargeDepth := 12))

theorem execRdslk_memWf (a : Fin 64) (s : State) (t : State) (hs : MemWf s)
    (h : execRdslk a s = .next t) : MemWf t := by
  unfold execRdslk at h
  exact issueG_memWf _ _ _ _ hs h

theorem execCpyGs_memWf (sz : CpySize) (d : LaneOp) (a : LaneOp) (s : State) (t : State) (hs : MemWf s)
    (h : execCpyGs sz d a s = .next t) : MemWf t := by
  unfold execCpyGs at h
  exact cpyOp_memWf _ _ _ _ _ _ _ hs h

theorem execCpySg_memWf (sz : CpySize) (d : LaneOp) (a : LaneOp) (s : State) (t : State) (hs : MemWf s)
    (h : execCpySg sz d a s = .next t) : MemWf t := by
  unfold execCpySg at h
  exact cpyOp_memWf _ _ _ _ _ _ _ hs h

theorem execCpyGc_memWf (sz : CpySize) (d : LaneOp) (a : LaneOp) (s : State) (t : State) (hs : MemWf s)
    (h : execCpyGc sz d a s = .next t) : MemWf t := by
  unfold execCpyGc at h
  exact cpyOp_memWf _ _ _ _ _ _ _ hs h

theorem execCpySs_memWf (sz : CpySize) (d : LaneOp) (a : LaneOp) (s : State) (t : State) (hs : MemWf s)
    (h : execCpySs sz d a s = .next t) : MemWf t := by
  unfold execCpySs at h
  exact cpyOp_memWf _ _ _ _ _ _ _ hs h

theorem execLouver_memWf (a : LaneOp) (s : State) (t : State) (hs : MemWf s)
    (h : execLouver a s = .next t) : MemWf t := by
  unfold execLouver at h
  exact ecmdOp_memWf _ _ _ _ hs h

theorem execCpym_memWf (a : LaneOp) (s : State) (t : State) (hs : MemWf s)
    (h : execCpym a s = .next t) : MemWf t := by
  unfold execCpym at h
  exact ecmdOp_memWf _ _ _ _ hs h

theorem execBrun_memWf (a : LaneOp) (s : State) (t : State) (hs : MemWf s)
    (h : execBrun a s = .next t) : MemWf t := by
  unfold execBrun at h
  exact ecmdOp_memWf _ _ _ _ hs h

theorem execShut_memWf (a : LaneOp) (s : State) (t : State) (hs : MemWf s)
    (h : execShut a s = .next t) : MemWf t := by
  unfold execShut at h
  exact ecmdOp_memWf _ _ _ _ hs h

theorem execEngineCommandComplete_memWf (s : State) (t : State) (hs : MemWf s)
    (h : execEngineCommandComplete s = .next t) : MemWf t := by
  unfold execEngineCommandComplete at h
  refine onNum_memWf _ _ _ (fun n => ?_) h
  simp_all +contextual (maxDischargeDepth := 12)

theorem execCpymExecute_memWf (s : State) (t : State) (hs : MemWf s)
    (h : execCpymExecute s = .next t) : MemWf t := by
  unfold execCpymExecute at h
  refine onNum_memWf _ _ _ (fun n => ?_) h
  simp_all +contextual (maxDischargeDepth := 12)

theorem execLouverExecute_memWf (s : State) (t : State) (hs : MemWf s)
    (h : execLouverExecute s = .next t) : MemWf t := by
  unfold execLouverExecute at h
  refine onNum_memWf _ _ _ (fun n => ?_) h
  simp_all +contextual (maxDischargeDepth := 12)

theorem execMma_memWf (a_t : UniOp) (a : Fin 64) (b : Fin 64) (s : State) (t : State) (hs : MemWf s)
    (h : execMma a_t a b s = .next t) : MemWf t := by
  unfold execMma at h
  exact mxOp_memWf _ _ _ _ _ _ _ _ hs h

theorem execMzero_memWf (a_t : UniOp) (b : Fin 64) (s : State) (t : State) (hs : MemWf s)
    (h : execMzero a_t b s = .next t) : MemWf t := by
  unfold execMzero at h
  exact mxOp_memWf _ _ _ _ _ _ _ _ hs h

theorem execMdrain_memWf (a_t : UniOp) (a : Fin 64) (b : Fin 64) (s : State) (t : State) (hs : MemWf s)
    (h : execMdrain a_t a b s = .next t) : MemWf t := by
  unfold execMdrain at h
  exact mxOp_memWf _ _ _ _ _ _ _ _ hs h

theorem execMstat_memWf (clr : Bool) (d : Fin 64) (s : State) (t : State) (hs : MemWf s)
    (h : execMstat clr d s = .next t) : MemWf t := by
  unfold execMstat at h
  refine issue_memWf _ _ s t hs (fun x r hx hr => ?_) h
  try dsimp only at hr
  repeat' split at hr
  all_goals first | (cases hr; done) | (cases hr; simp_all +contextual (maxDischargeDepth := 12))

theorem execMatrixCommandStart_memWf (s : State) (t : State) (hs : MemWf s)
    (h : execMatrixCommandStart s = .next t) : MemWf t := by
  unfold execMatrixCommandStart at h
  refine onNum_memWf _ _ _ (fun n => ?_) h
  simp_all +contextual (maxDischargeDepth := 12)

theorem execMmaKStep_memWf (s : State) (t : State) (hs : MemWf s)
    (h : execMmaKStep s = .next t) : MemWf t := by
  unfold execMmaKStep at h
  refine onNum_memWf _ _ _ (fun n => ?_) h
  simp_all +contextual (maxDischargeDepth := 12)

theorem execHandingDone_memWf (s : State) (t : State) (hs : MemWf s)
    (h : execHandingDone s = .next t) : MemWf t := by
  unfold execHandingDone at h
  refine onNum_memWf _ _ _ (fun n => ?_) h
  simp_all +contextual (maxDischargeDepth := 12)

theorem execToDieFrame_memWf (s : State) (t : State) (hs : MemWf s)
    (h : execToDieFrame s = .next t) : MemWf t := by
  unfold execToDieFrame at h
  refine onNum_memWf _ _ _ (fun n => ?_) h
  simp_all +contextual (maxDischargeDepth := 12)

theorem execBankQueueNextCheck_memWf (s : State) (t : State) (hs : MemWf s)
    (h : execBankQueueNextCheck s = .next t) : MemWf t := by
  unfold execBankQueueNextCheck at h
  refine onNum_memWf _ _ _ (fun n => ?_) h
  simp_all +contextual (maxDischargeDepth := 12)

theorem execBankRunGrant_memWf (s : State) (t : State) (hs : MemWf s)
    (h : execBankRunGrant s = .next t) : MemWf t := by
  unfold execBankRunGrant at h
  refine onNum_memWf _ _ _ (fun n => ?_) h
  simp_all +contextual (maxDischargeDepth := 12)

theorem execWindowEnd_memWf (s : State) (t : State) (hs : MemWf s)
    (h : execWindowEnd s = .next t) : MemWf t := by
  unfold execWindowEnd at h
  refine onNum_memWf _ _ _ (fun n => ?_) h
  simp_all +contextual (maxDischargeDepth := 12)

theorem execRefreshDue_memWf (s : State) (t : State) (hs : MemWf s)
    (h : execRefreshDue s = .next t) : MemWf t := by
  unfold execRefreshDue at h
  exact onPair_memWf _ _ _ (fun a b => refreshDue_memWf _ _ _ hs) h

theorem execBankNop_memWf (s : State) (t : State) (hs : MemWf s)
    (h : execBankNop s = .next t) : MemWf t := by
  unfold execBankNop at h
  exact bankReg_memWf _ _ _ hs h

theorem execBankOpen_memWf (fs : Fin 8) (s : State) (t : State) (hs : MemWf s)
    (h : execBankOpen fs s = .next t) : MemWf t := by
  unfold execBankOpen at h
  refine bankCmd_memWf _ s t (fun r => ?_) h
  try dsimp only
  (repeat' split) <;> first | exact hs | simp_all [BankNx.Wf]

theorem execBankClose_memWf (s : State) (t : State) (hs : MemWf s)
    (h : execBankClose s = .next t) : MemWf t := by
  unfold execBankClose at h
  refine bankCmd_memWf _ s t (fun r => ?_) h
  try dsimp only
  (repeat' split) <;> first | exact hs | simp_all [BankNx.Wf]

theorem execBankRdc_memWf (d : Fin 16) (ca : Col) (s : State) (t : State) (hs : MemWf s)
    (h : execBankRdc d ca s = .next t) : MemWf t := by
  unfold execBankRdc at h
  refine colCmd_memWf _ _ _ _ s t hs (fun r a b => ?_) h
  try dsimp only
  (repeat' split) <;> simp_all

theorem execBankWrc_memWf (c : Fin 16) (ca : Col) (s : State) (t : State) (hs : MemWf s)
    (h : execBankWrc c ca s = .next t) : MemWf t := by
  unfold execBankWrc at h
  refine colCmd_memWf _ _ _ _ s t hs (fun r a b => ?_) h
  try dsimp only
  (repeat' split) <;> simp_all

theorem execBankMacx_memWf (q : Fin 8) (n : Fin 8) (slot : Fin 8) (xr : Fin 8) (ca : Col) (s : State) (t : State) (hs : MemWf s)
    (h : execBankMacx q n slot xr ca s = .next t) : MemWf t := by
  unfold execBankMacx at h
  refine colCmd_memWf _ _ _ _ s t hs (fun r a b => ?_) h
  try dsimp only
  (repeat' split) <;> simp_all

theorem execBankMacc_memWf (q : Fin 8) (c : Fin 16) (ca : Col) (s : State) (t : State) (hs : MemWf s)
    (h : execBankMacc q c ca s = .next t) : MemWf t := by
  unfold execBankMacc at h
  refine colCmd_memWf _ _ _ _ s t hs (fun r a b => ?_) h
  try dsimp only
  (repeat' split) <;> simp_all

theorem execBankAxpy_memWf (f : Fin 4) (d : Fin 16) (ca : Col) (s : State) (t : State) (hs : MemWf s)
    (h : execBankAxpy f d ca s = .next t) : MemWf t := by
  unfold execBankAxpy at h
  refine colCmd_memWf _ _ _ _ s t hs (fun r a b => ?_) h
  try dsimp only
  (repeat' split) <;> simp_all

theorem execBankScl_memWf (f : Fin 4) (d : Fin 16) (c : Fin 16) (s : State) (t : State) (hs : MemWf s)
    (h : execBankScl f d c s = .next t) : MemWf t := by
  unfold execBankScl at h
  exact bankReg_memWf _ _ _ hs h

theorem execBankQzero_memWf (q : Fin 8) (n : Fin 8) (s : State) (t : State) (hs : MemWf s)
    (h : execBankQzero q n s = .next t) : MemWf t := by
  unfold execBankQzero at h
  exact bankReg_memWf _ _ _ hs h

theorem execBankHsum_memWf (q : Fin 8) (s : State) (t : State) (hs : MemWf s)
    (h : execBankHsum q s = .next t) : MemWf t := by
  unfold execBankHsum at h
  exact bankReg_memWf _ _ _ hs h

theorem execBankQst_memWf (q : Fin 8) (d : Fin 16) (s : State) (t : State) (hs : MemWf s)
    (h : execBankQst q d s = .next t) : MemWf t := by
  unfold execBankQst at h
  exact bankReg_memWf _ _ _ hs h

theorem execBankQout_memWf (q : Fin 8) (n : Fin 8) (s : State) (t : State) (hs : MemWf s)
    (h : execBankQout q n s = .next t) : MemWf t := by
  unfold execBankQout at h
  refine bankCmd_memWf _ s t (fun r => ?_) h
  try dsimp only
  (repeat' split) <;> first | exact hs | simp_all [BankNx.Wf]

theorem execBankSetb_memWf (b : Fin 8) (i : BitVec 16) (s : State) (t : State) (hs : MemWf s)
    (h : execBankSetb b i s = .next t) : MemWf t := by
  unfold execBankSetb at h
  exact bankReg_memWf _ _ _ hs h

theorem execBankAddb_memWf (b : Fin 8) (i : BitVec 16) (s : State) (t : State) (hs : MemWf s)
    (h : execBankAddb b i s = .next t) : MemWf t := by
  unfold execBankAddb at h
  exact bankReg_memWf _ _ _ hs h

theorem execBankSetf_memWf (f : Fin 4) (i : BitVec 16) (s : State) (t : State) (hs : MemWf s)
    (h : execBankSetf f i s = .next t) : MemWf t := by
  unfold execBankSetf at h
  exact bankReg_memWf _ _ _ hs h

theorem execBankLoop_memWf (b : Fin 8) (tgt : Fin 64) (s : State) (t : State) (hs : MemWf s)
    (h : execBankLoop b tgt s = .next t) : MemWf t := by
  unfold execBankLoop at h
  refine bankCmd_memWf _ s t (fun r => ?_) h
  try dsimp only
  (repeat' split) <;> first | exact hs | simp_all [BankNx.Wf]

theorem execBankFmt_memWf (sat : Bool) (wf : Bool) (s : State) (t : State) (hs : MemWf s)
    (h : execBankFmt sat wf s = .next t) : MemWf t := by
  unfold execBankFmt at h
  exact bankReg_memWf _ _ _ hs h

theorem execBankSig_memWf (s : State) (t : State) (hs : MemWf s)
    (h : execBankSig s = .next t) : MemWf t := by
  unfold execBankSig at h
  refine bankCmd_memWf _ s t (fun r => ?_) h
  try dsimp only
  (repeat' split) <;> first | exact hs | simp_all [BankNx.Wf]

theorem execBankEnd_memWf (s : State) (t : State) (hs : MemWf s)
    (h : execBankEnd s = .next t) : MemWf t := by
  unfold execBankEnd at h
  refine bankCmd_memWf _ s t (fun r => ?_) h
  try dsimp only
  (repeat' split) <;> first | exact hs | simp_all [BankNx.Wf]

theorem execBra_memWf (k : Fin 8) (n : Bool) (off : BitVec 21) (s : State) (t : State) (hs : MemWf s)
    (h : execBra k n off s = .next t) : MemWf t := by
  unfold execBra at h
  exact issueG_memWf _ _ _ _ hs h

theorem execBraAlways_memWf (off : BitVec 21) (s : State) (t : State) (hs : MemWf s)
    (h : execBraAlways off s = .next t) : MemWf t := by
  unfold execBraAlways at h
  exact issueG_memWf _ _ _ _ hs h

theorem execBany_memWf (k : Fin 8) (n : Bool) (off : BitVec 21) (s : State) (t : State) (hs : MemWf s)
    (h : execBany k n off s = .next t) : MemWf t := by
  unfold execBany at h
  unfold branchIf at h
  exact issueG_memWf _ _ _ _ hs h

theorem execBall_memWf (k : Fin 8) (n : Bool) (off : BitVec 21) (s : State) (t : State) (hs : MemWf s)
    (h : execBall k n off s = .next t) : MemWf t := by
  unfold execBall at h
  unfold branchIf at h
  exact issueG_memWf _ _ _ _ hs h

theorem execBnone_memWf (k : Fin 8) (n : Bool) (off : BitVec 21) (s : State) (t : State) (hs : MemWf s)
    (h : execBnone k n off s = .next t) : MemWf t := by
  unfold execBnone at h
  unfold branchIf at h
  exact issueG_memWf _ _ _ _ hs h

theorem execBrk_memWf (k : Fin 8) (n : Bool) (off : BitVec 21) (s : State) (t : State) (hs : MemWf s)
    (h : execBrk k n off s = .next t) : MemWf t := by
  unfold execBrk at h
  exact issueG_memWf _ _ _ _ hs h

theorem execJpt_memWf (off : BitVec 21) (s : State) (t : State) (hs : MemWf s)
    (h : execJpt off s = .next t) : MemWf t := by
  unfold execJpt at h
  exact issueG_memWf _ _ _ _ hs h

theorem execCall_memWf (off : BitVec 21) (s : State) (t : State) (hs : MemWf s)
    (h : execCall off s = .next t) : MemWf t := by
  unfold execCall at h
  exact issueG_memWf _ _ _ _ hs h

theorem execRet_memWf (s : State) (t : State) (hs : MemWf s)
    (h : execRet s = .next t) : MemWf t := by
  unfold execRet at h
  unfold jind at h
  refine issue_memWf _ _ s t hs (fun x r hx hr => ?_) h
  try dsimp only at hr
  repeat' split at hr
  all_goals first | (cases hr; done) | (cases hr; simp_all +contextual (maxDischargeDepth := 12))

theorem execJmpr_memWf (a : LaneOp) (s : State) (t : State) (hs : MemWf s)
    (h : execJmpr a s = .next t) : MemWf t := by
  unfold execJmpr at h
  unfold jind at h
  refine issue_memWf _ _ s t hs (fun x r hx hr => ?_) h
  try dsimp only at hr
  repeat' split at hr
  all_goals first | (cases hr; done) | (cases hr; simp_all +contextual (maxDischargeDepth := 12))

theorem execCallr_memWf (a : LaneOp) (s : State) (t : State) (hs : MemWf s)
    (h : execCallr a s = .next t) : MemWf t := by
  unfold execCallr at h
  unfold jind at h
  refine issue_memWf _ _ s t hs (fun x r hx hr => ?_) h
  try dsimp only at hr
  repeat' split at hr
  all_goals first | (cases hr; done) | (cases hr; simp_all +contextual (maxDischargeDepth := 12))

theorem execDiversion_memWf (s : State) (t : State) (hs : MemWf s)
    (h : execDiversion s = .next t) : MemWf t := by
  unfold execDiversion at h
  refine onNum_memWf _ _ _ (fun n => ?_) h
  simp_all +contextual (maxDischargeDepth := 12)

theorem execLaunchAccept_memWf (s : State) (t : State) (hs : MemWf s)
    (h : execLaunchAccept s = .next t) : MemWf t := by
  unfold execLaunchAccept at h
  refine onPair_memWf _ _ _ (fun a b => ?_) h
  simp_all +contextual (maxDischargeDepth := 12)

theorem execTeamRetire_memWf (s : State) (t : State) (hs : MemWf s)
    (h : execTeamRetire s = .next t) : MemWf t := by
  unfold execTeamRetire at h
  refine onNum_memWf _ _ _ (fun n => ?_) h
  simp_all +contextual (maxDischargeDepth := 12)

theorem execTeamKill_memWf (s : State) (t : State) (hs : MemWf s)
    (h : execTeamKill s = .next t) : MemWf t := by
  unfold execTeamKill at h
  refine onNum_memWf _ _ _ (fun n => ?_) h
  simp_all +contextual (maxDischargeDepth := 12)

theorem execTWrapReached_memWf (s : State) (t : State) (hs : MemWf s)
    (h : execTWrapReached s = .next t) : MemWf t := by
  unfold execTWrapReached at h
  refine onNum_memWf _ _ _ (fun n => ?_) h
  simp_all +contextual (maxDischargeDepth := 12)

theorem execDeadlineReached_memWf (s : State) (t : State) (hs : MemWf s)
    (h : execDeadlineReached s = .next t) : MemWf t := by
  unfold execDeadlineReached at h
  refine onNum_memWf _ _ _ (fun n => ?_) h
  simp_all +contextual (maxDischargeDepth := 12)

theorem execPreemptionSave_memWf (s : State) (t : State) (hs : MemWf s)
    (h : execPreemptionSave s = .next t) : MemWf t := by
  unfold execPreemptionSave at h
  refine onNum_memWf _ _ _ (fun n => ?_) h
  simp_all +contextual (maxDischargeDepth := 12)

theorem execNop_memWf (s : State) (t : State) (hs : MemWf s)
    (h : execNop s = .next t) : MemWf t := by
  unfold execNop at h
  exact issueG_memWf _ _ _ _ hs h

theorem execExit_memWf (s : State) (t : State) (hs : MemWf s)
    (h : execExit s = .next t) : MemWf t := by
  unfold execExit at h
  exact issueG_memWf _ _ _ _ hs h

theorem execTrap_memWf (code : BitVec 14) (s : State) (t : State) (hs : MemWf s)
    (h : execTrap code s = .next t) : MemWf t := by
  unfold execTrap at h
  refine issue_memWf _ _ s t hs (fun x r hx hr => ?_) h
  try dsimp only at hr
  repeat' split at hr
  all_goals first | (cases hr; done) | (cases hr; simp_all +contextual (maxDischargeDepth := 12))

theorem execBrkpt_memWf (s : State) (t : State) (hs : MemWf s)
    (h : execBrkpt s = .next t) : MemWf t := by
  unfold execBrkpt at h
  refine issue_memWf _ _ s t hs (fun x r hx hr => ?_) h
  try dsimp only at hr
  repeat' split at hr
  all_goals first | (cases hr; done) | (cases hr; simp_all +contextual (maxDischargeDepth := 12))

theorem execRdsr_memWf (wide : Bool) (d : LaneOp) (sr : BitVec 7) (s : State) (t : State) (hs : MemWf s)
    (h : execRdsr wide d sr s = .next t) : MemWf t := by
  unfold execRdsr at h
  try dsimp only at h
  refine issue_memWf _ _ s t hs (fun x r hx hr => ?_) h
  try dsimp only at hr
  repeat' split at hr
  all_goals first | (cases hr; done) | (cases hr; simp_all +contextual (maxDischargeDepth := 12))

theorem execWrsr_memWf (wide : Bool) (sr : BitVec 7) (a : LaneOp) (s : State) (t : State) (hs : MemWf s)
    (h : execWrsr wide sr a s = .next t) : MemWf t := by
  unfold execWrsr at h
  try dsimp only at h
  refine issue_memWf _ _ s t hs (fun x r hx hr => ?_) h
  try dsimp only at hr
  repeat' split at hr
  all_goals first | (cases hr; done) | (cases hr; simp_all +contextual (maxDischargeDepth := 12))

theorem execSegld_memWf (sr : BitVec 7) (a : LaneOp) (s : State) (t : State) (hs : MemWf s)
    (h : execSegld sr a s = .next t) : MemWf t := by
  unfold execSegld at h
  try dsimp only at h
  refine issue_memWf _ _ s t hs (fun x r hx hr => ?_) h
  try dsimp only at hr
  repeat' split at hr
  all_goals first | (cases hr; done) | (cases hr; simp_all +contextual (maxDischargeDepth := 12))

theorem execIcinv_memWf (s : State) (t : State) (hs : MemWf s)
    (h : execIcinv s = .next t) : MemWf t := by
  unfold execIcinv at h
  refine issue_memWf _ _ s t hs (fun x r hx hr => ?_) h
  try dsimp only at hr
  repeat' split at hr
  all_goals first | (cases hr; done) | (cases hr; simp_all +contextual (maxDischargeDepth := 12))

theorem execTret_memWf (s : State) (t : State) (hs : MemWf s)
    (h : execTret s = .next t) : MemWf t := by
  unfold execTret at h
  exact issueG_memWf _ _ _ _ hs h

theorem execTfail_memWf (s : State) (t : State) (hs : MemWf s)
    (h : execTfail s = .next t) : MemWf t := by
  unfold execTfail at h
  refine issue_memWf _ _ s t hs (fun x r hx hr => ?_) h
  try dsimp only at hr
  repeat' split at hr
  all_goals first | (cases hr; done) | (cases hr; simp_all +contextual (maxDischargeDepth := 12))

theorem execTlbinv_memWf (d : LaneOp) (a : LaneOp) (s : State) (t : State) (hs : MemWf s)
    (h : execTlbinv d a s = .next t) : MemWf t := by
  unfold execTlbinv at h
  refine issue_memWf _ _ s t hs (fun x r hx hr => ?_) h
  cases hr
  exact splitInval_memWf _ _ _ _ hx

theorem execTlbinvAll_memWf (s : State) (t : State) (hs : MemWf s)
    (h : execTlbinvAll s = .next t) : MemWf t := by
  unfold execTlbinvAll at h
  refine issue_memWf _ _ s t hs (fun x r hx hr => ?_) h
  cases hr
  exact splitInval_memWf _ _ _ _ hx

theorem execOwnacq_memWf (a : LaneOp) (s : State) (t : State) (hs : MemWf s)
    (h : execOwnacq a s = .next t) : MemWf t := by
  unfold execOwnacq at h
  refine issue_memWf _ _ s t hs (fun x r hx hr => ?_) h
  try dsimp only at hr
  repeat' split at hr
  all_goals first | (cases hr; done) | (cases hr; simp_all +contextual (maxDischargeDepth := 12))

theorem execOwnrel_memWf (a : LaneOp) (s : State) (t : State) (hs : MemWf s)
    (h : execOwnrel a s = .next t) : MemWf t := by
  unfold execOwnrel at h
  refine issue_memWf _ _ s t hs (fun x r hx hr => ?_) h
  try dsimp only at hr
  repeat' split at hr
  all_goals first
    | (cases hr; done)
    | (cases hr
       refine released_memWf _ _ _ _ _ hx (fun y hy => ?_)
       repeat' split
       all_goals simp_all +contextual (maxDischargeDepth := 12))

theorem execInstructionFetchFault_memWf (s : State) (t : State) (hs : MemWf s)
    (h : execInstructionFetchFault s = .next t) : MemWf t := by
  unfold execInstructionFetchFault at h
  repeat' split at h
  all_goals first | (cases h; done) | (cases h; simp_all +contextual (maxDischargeDepth := 12))

theorem execIllegalEncoding_memWf (s : State) (t : State) (hs : MemWf s)
    (h : execIllegalEncoding s = .next t) : MemWf t := by
  unfold execIllegalEncoding at h
  refine issue_memWf _ _ s t hs (fun x r hx hr => ?_) h
  try dsimp only at hr
  repeat' split at hr
  all_goals first | (cases hr; done) | (cases hr; simp_all +contextual (maxDischargeDepth := 12))

theorem execLoadReturn_memWf (s : State) (t : State) (hs : MemWf s)
    (h : execLoadReturn s = .next t) : MemWf t := by
  unfold execLoadReturn at h
  refine onPair_memWf _ _ _ (fun a b => ?_) h
  simp_all +contextual (maxDischargeDepth := 12)

theorem execSplitJoin_memWf (s : State) (t : State) (hs : MemWf s)
    (h : execSplitJoin s = .next t) : MemWf t := by
  unfold execSplitJoin at h
  refine onPair_memWf _ _ _ (fun a b => ?_) h
  simp_all +contextual (maxDischargeDepth := 12)

theorem execSerialTurnEnd_memWf (s : State) (t : State) (hs : MemWf s)
    (h : execSerialTurnEnd s = .next t) : MemWf t := by
  unfold execSerialTurnEnd at h
  refine onPair_memWf _ _ _ (fun a b => ?_) h
  simp_all +contextual (maxDischargeDepth := 12)

theorem execTrapEntry_memWf (s : State) (t : State) (hs : MemWf s)
    (h : execTrapEntry s = .next t) : MemWf t := by
  unfold execTrapEntry at h
  refine onNum_memWf _ _ _ (fun n => ?_) h
  simp_all +contextual (maxDischargeDepth := 12)

theorem execTrapRecordDeferredWrite_memWf (s : State) (t : State) (hs : MemWf s)
    (h : execTrapRecordDeferredWrite s = .next t) : MemWf t := by
  unfold execTrapRecordDeferredWrite at h
  repeat' split at h
  all_goals first | (cases h; done) | (cases h; simp_all +contextual (maxDischargeDepth := 12))

theorem execWriteBack_memWf (s : State) (t : State) (hs : MemWf s)
    (h : execWriteBack s = .next t) : MemWf t := by
  unfold execWriteBack at h
  refine onPair_memWf _ _ _ (fun a b => ?_) h
  simp_all +contextual (maxDischargeDepth := 12)

theorem execDrainRequest_memWf (s : State) (t : State) (hs : MemWf s)
    (h : execDrainRequest s = .next t) : MemWf t := by
  unfold execDrainRequest at h
  refine onPair_memWf _ _ _ (fun a b => ?_) h
  simp_all +contextual (maxDischargeDepth := 12)

theorem execInvalidationPoint_memWf (s : State) (t : State) (hs : MemWf s)
    (h : execInvalidationPoint s = .next t) : MemWf t := by
  unfold execInvalidationPoint at h
  refine onPair_memWf _ _ _ (fun a b => ?_) h
  simp_all +contextual (maxDischargeDepth := 12)

theorem execInvalidationAck_memWf (s : State) (t : State) (hs : MemWf s)
    (h : execInvalidationAck s = .next t) : MemWf t := by
  unfold execInvalidationAck at h
  refine onPair_memWf _ _ _ (fun a b => ?_) h
  simp_all +contextual (maxDischargeDepth := 12)

theorem execUalinkRequest_memWf (s : State) (t : State) (hs : MemWf s)
    (h : execUalinkRequest s = .next t) : MemWf t := by
  unfold execUalinkRequest at h
  repeat' split at h
  all_goals first | (cases h; done) | (cases h; simp_all +contextual (maxDischargeDepth := 12))

theorem execRemoteResponse_memWf (s : State) (t : State) (hs : MemWf s)
    (h : execRemoteResponse s = .next t) : MemWf t := by
  unfold execRemoteResponse at h
  repeat' split at h
  all_goals first | (cases h; done) | (cases h; simp_all +contextual (maxDischargeDepth := 12))

theorem execRemoteRequestTimeout_memWf (s : State) (t : State) (hs : MemWf s)
    (h : execRemoteRequestTimeout s = .next t) : MemWf t := by
  unfold execRemoteRequestTimeout at h
  refine onNum_memWf _ _ _ (fun n => ?_) h
  simp_all +contextual (maxDischargeDepth := 12)

theorem execLinkStateChange_memWf (s : State) (t : State) (hs : MemWf s)
    (h : execLinkStateChange s = .next t) : MemWf t := by
  unfold execLinkStateChange at h
  repeat' split at h
  all_goals first | (cases h; done) | (cases h; simp_all +contextual (maxDischargeDepth := 12))

theorem execTokenRequest_memWf (s : State) (t : State) (hs : MemWf s)
    (h : execTokenRequest s = .next t) : MemWf t := by
  unfold execTokenRequest at h
  refine onPair_memWf _ _ _ (fun a b => ?_) h
  simp_all +contextual (maxDischargeDepth := 12)

theorem execRecallDone_memWf (s : State) (t : State) (hs : MemWf s)
    (h : execRecallDone s = .next t) : MemWf t := by
  unfold execRecallDone at h
  refine onPair_memWf _ _ _ (fun a b => ?_) h
  simp_all +contextual (maxDischargeDepth := 12)

theorem execTokenGiveBack_memWf (s : State) (t : State) (hs : MemWf s)
    (h : execTokenGiveBack s = .next t) : MemWf t := by
  unfold execTokenGiveBack at h
  refine onPair_memWf _ _ _ (fun a b => ?_) h
  simp_all +contextual (maxDischargeDepth := 12)

theorem execTokenRecall_memWf (s : State) (t : State) (hs : MemWf s)
    (h : execTokenRecall s = .next t) : MemWf t := by
  unfold execTokenRecall at h
  refine onNum_memWf _ _ _ (fun n => ?_) h
  simp_all +contextual (maxDischargeDepth := 12)

theorem execTokenGrant_memWf (s : State) (t : State) (hs : MemWf s)
    (h : execTokenGrant s = .next t) : MemWf t := by
  unfold execTokenGrant at h
  refine onNum_memWf _ _ _ (fun n => ?_) h
  simp_all +contextual (maxDischargeDepth := 12)

theorem execTokenArrival_memWf (s : State) (t : State) (hs : MemWf s)
    (h : execTokenArrival s = .next t) : MemWf t := by
  unfold execTokenArrival at h
  split at h
  · cases h; exact bump_memWf _ (tokenArrival_memWf _ _ _ _ hs)
  · cases h

theorem execGuardElapsed_memWf (s : State) (t : State) (hs : MemWf s)
    (h : execGuardElapsed s = .next t) : MemWf t := by
  unfold execGuardElapsed at h
  refine onNone_memWf _ _ _ ?_ h
  simp_all +contextual (maxDischargeDepth := 12)

theorem execLintelFrameReceive_memWf (s : State) (t : State) (hs : MemWf s)
    (h : execLintelFrameReceive s = .next t) : MemWf t := by
  unfold execLintelFrameReceive at h
  repeat' split at h
  all_goals first | (cases h; done) | (cases h; simp_all +contextual (maxDischargeDepth := 12))

theorem execScheduleTimeout_memWf (s : State) (t : State) (hs : MemWf s)
    (h : execScheduleTimeout s = .next t) : MemWf t := by
  unfold execScheduleTimeout at h
  refine onNone_memWf _ _ _ ?_ h
  simp_all +contextual (maxDischargeDepth := 12)

theorem execRollCall_memWf (s : State) (t : State) (hs : MemWf s)
    (h : execRollCall s = .next t) : MemWf t := by
  unfold execRollCall at h
  refine onNone_memWf _ _ _ ?_ h
  simp_all +contextual (maxDischargeDepth := 12)

theorem execRollCallEnd_memWf (s : State) (t : State) (hs : MemWf s)
    (h : execRollCallEnd s = .next t) : MemWf t := by
  unfold execRollCallEnd at h
  repeat' split at h
  all_goals first | (cases h; done) | (cases h; simp_all +contextual (maxDischargeDepth := 12))

theorem execLintelEnable_memWf (s : State) (t : State) (hs : MemWf s)
    (h : execLintelEnable s = .next t) : MemWf t := by
  unfold execLintelEnable at h
  repeat' split at h
  all_goals first | (cases h; done) | (cases h; simp_all +contextual (maxDischargeDepth := 12))

theorem execLintelDisable_memWf (s : State) (t : State) (hs : MemWf s)
    (h : execLintelDisable s = .next t) : MemWf t := by
  unfold execLintelDisable at h
  repeat' split at h
  all_goals first | (cases h; done) | (cases h; simp_all +contextual (maxDischargeDepth := 12))

theorem execTimePortLockLoss_memWf (s : State) (t : State) (hs : MemWf s)
    (h : execTimePortLockLoss s = .next t) : MemWf t := by
  unfold execTimePortLockLoss at h
  refine onNone_memWf _ _ _ ?_ h
  simp_all +contextual (maxDischargeDepth := 12)

theorem execPowerOnReset_memWf (s : State) (t : State) (hs : MemWf s)
    (h : execPowerOnReset s = .next t) : MemWf t := by
  unfold execPowerOnReset at h
  refine onNone_memWf _ _ _ ?_ h
  simp_all +contextual (maxDischargeDepth := 12)

theorem execMbcmdLoadVerify_memWf (s : State) (t : State) (hs : MemWf s)
    (h : execMbcmdLoadVerify s = .next t) : MemWf t := by
  unfold execMbcmdLoadVerify at h
  refine onNone_memWf _ _ _ ?_ h
  simp_all +contextual (maxDischargeDepth := 12)

theorem execImageVerificationEnd_memWf (s : State) (t : State) (hs : MemWf s)
    (h : execImageVerificationEnd s = .next t) : MemWf t := by
  unfold execImageVerificationEnd at h
  repeat' split at h
  all_goals first | (cases h; done) | (cases h; simp_all +contextual (maxDischargeDepth := 12))

theorem execAttestationSign_memWf (s : State) (t : State) (hs : MemWf s)
    (h : execAttestationSign s = .next t) : MemWf t := by
  unfold execAttestationSign at h
  refine onNone_memWf _ _ _ ?_ h
  simp_all +contextual (maxDischargeDepth := 12)

theorem execFatalError_memWf (s : State) (t : State) (hs : MemWf s)
    (h : execFatalError s = .next t) : MemWf t := by
  unfold execFatalError at h
  refine onNone_memWf _ _ _ ?_ h
  simp_all +contextual (maxDischargeDepth := 12)

theorem execRegisterWrite_memWf (s : State) (t : State) (hs : MemWf s)
    (h : execRegisterWrite s = .next t) : MemWf t := by
  unfold execRegisterWrite at h
  repeat' split at h
  all_goals first | (cases h; done) | (cases h; simp_all +contextual (maxDischargeDepth := 12))

theorem execBar2Read_memWf (s : State) (t : State) (hs : MemWf s)
    (h : execBar2Read s = .next t) : MemWf t := by
  unfold execBar2Read at h
  refine onPair_memWf _ _ _ (fun a b => ?_) h
  simp_all +contextual (maxDischargeDepth := 12)

theorem execBar2Write_memWf (s : State) (t : State) (hs : MemWf s)
    (h : execBar2Write s = .next t) : MemWf t := by
  unfold execBar2Write at h
  repeat' split at h
  all_goals first | (cases h; done) | (cases h; simp_all +contextual (maxDischargeDepth := 12))

theorem execSubmit_memWf (s : State) (t : State) (hs : MemWf s)
    (h : execSubmit s = .next t) : MemWf t := by
  unfold execSubmit at h
  repeat' split at h
  all_goals first | (cases h; done) | (cases h; simp_all +contextual (maxDischargeDepth := 12))

theorem execFeed_memWf (s : State) (t : State) (hs : MemWf s)
    (h : execFeed s = .next t) : MemWf t := by
  unfold execFeed at h
  repeat' split at h
  all_goals first | (cases h; done) | (cases h; simp_all +contextual (maxDischargeDepth := 12))

theorem execResume_memWf (s : State) (t : State) (hs : MemWf s)
    (h : execResume s = .next t) : MemWf t := by
  unfold execResume at h
  repeat' split at h
  all_goals first | (cases h; done) | (cases h; simp_all +contextual (maxDischargeDepth := 12))

theorem execKill_memWf (s : State) (t : State) (hs : MemWf s)
    (h : execKill s = .next t) : MemWf t := by
  unfold execKill at h
  repeat' split at h
  all_goals first | (cases h; done) | (cases h; simp_all +contextual (maxDischargeDepth := 12))

theorem execHostTlbinv_memWf (s : State) (t : State) (hs : MemWf s)
    (h : execHostTlbinv s = .next t) : MemWf t := by
  unfold execHostTlbinv at h
  refine onNum_memWf _ _ _ (fun n => ?_) h
  simp_all +contextual (maxDischargeDepth := 12)

theorem execContextEnd_memWf (s : State) (t : State) (hs : MemWf s)
    (h : execContextEnd s = .next t) : MemWf t := by
  unfold execContextEnd at h
  split at h
  all_goals first | (cases h; done) | (cases h; simp_all +contextual (maxDischargeDepth := 12))

theorem execTimePortLock_memWf (s : State) (t : State) (hs : MemWf s)
    (h : execTimePortLock s = .next t) : MemWf t := by
  unfold execTimePortLock at h
  refine onNum_memWf _ _ _ (fun n => ?_) h
  simp_all +contextual (maxDischargeDepth := 12)

theorem execGovernorTick_memWf (s : State) (t : State) (hs : MemWf s)
    (h : execGovernorTick s = .next t) : MemWf t := by
  unfold execGovernorTick at h
  refine onNum_memWf _ _ _ (fun n => ?_) h
  simp_all +contextual (maxDischargeDepth := 12)

theorem execCoolantOver45c_memWf (s : State) (t : State) (hs : MemWf s)
    (h : execCoolantOver45c s = .next t) : MemWf t := by
  unfold execCoolantOver45c at h
  refine onNone_memWf _ _ _ ?_ h
  simp_all +contextual (maxDischargeDepth := 12)

theorem execCoolantBelow40c_memWf (s : State) (t : State) (hs : MemWf s)
    (h : execCoolantBelow40c s = .next t) : MemWf t := by
  unfold execCoolantBelow40c at h
  refine onNone_memWf _ _ _ ?_ h
  simp_all +contextual (maxDischargeDepth := 12)

theorem execUadd_memWf (wide : Bool) (d : Fin 64) (a : UniOp) (b : UniOp) (s : State) (t : State) (hs : MemWf s)
    (h : execUadd wide d a b s = .next t) : MemWf t := by
  unfold execUadd at h
  unfold uniOp at h
  exact issueG_memWf _ _ _ _ hs h

theorem execUsub_memWf (wide : Bool) (d : Fin 64) (a : UniOp) (b : UniOp) (s : State) (t : State) (hs : MemWf s)
    (h : execUsub wide d a b s = .next t) : MemWf t := by
  unfold execUsub at h
  unfold uniOp at h
  exact issueG_memWf _ _ _ _ hs h

theorem execUmul_memWf (wide : Bool) (d : Fin 64) (a : UniOp) (b : UniOp) (s : State) (t : State) (hs : MemWf s)
    (h : execUmul wide d a b s = .next t) : MemWf t := by
  unfold execUmul at h
  unfold uniOp at h
  exact issueG_memWf _ _ _ _ hs h

theorem execUmad_memWf (wide : Bool) (d : Fin 64) (a : UniOp) (b : UniOp) (s : State) (t : State) (hs : MemWf s)
    (h : execUmad wide d a b s = .next t) : MemWf t := by
  unfold execUmad at h
  unfold uniOp at h
  exact issueG_memWf _ _ _ _ hs h

theorem execUand_memWf (wide : Bool) (d : Fin 64) (a : UniOp) (b : UniOp) (s : State) (t : State) (hs : MemWf s)
    (h : execUand wide d a b s = .next t) : MemWf t := by
  unfold execUand at h
  unfold uniOp at h
  exact issueG_memWf _ _ _ _ hs h

theorem execUor_memWf (wide : Bool) (d : Fin 64) (a : UniOp) (b : UniOp) (s : State) (t : State) (hs : MemWf s)
    (h : execUor wide d a b s = .next t) : MemWf t := by
  unfold execUor at h
  unfold uniOp at h
  exact issueG_memWf _ _ _ _ hs h

theorem execUxor_memWf (wide : Bool) (d : Fin 64) (a : UniOp) (b : UniOp) (s : State) (t : State) (hs : MemWf s)
    (h : execUxor wide d a b s = .next t) : MemWf t := by
  unfold execUxor at h
  unfold uniOp at h
  exact issueG_memWf _ _ _ _ hs h

theorem execUandn_memWf (wide : Bool) (d : Fin 64) (a : UniOp) (b : UniOp) (s : State) (t : State) (hs : MemWf s)
    (h : execUandn wide d a b s = .next t) : MemWf t := by
  unfold execUandn at h
  unfold uniOp at h
  exact issueG_memWf _ _ _ _ hs h

theorem execUshl_memWf (wide : Bool) (d : Fin 64) (a : UniOp) (b : UniOp) (s : State) (t : State) (hs : MemWf s)
    (h : execUshl wide d a b s = .next t) : MemWf t := by
  unfold execUshl at h
  unfold uniOp at h
  exact issueG_memWf _ _ _ _ hs h

theorem execUshr_memWf (wide : Bool) (d : Fin 64) (a : UniOp) (b : UniOp) (s : State) (t : State) (hs : MemWf s)
    (h : execUshr wide d a b s = .next t) : MemWf t := by
  unfold execUshr at h
  unfold uniOp at h
  exact issueG_memWf _ _ _ _ hs h

theorem execUsha_memWf (wide : Bool) (d : Fin 64) (a : UniOp) (b : UniOp) (s : State) (t : State) (hs : MemWf s)
    (h : execUsha wide d a b s = .next t) : MemWf t := by
  unfold execUsha at h
  unfold uniOp at h
  exact issueG_memWf _ _ _ _ hs h

theorem execUrot_memWf (wide : Bool) (d : Fin 64) (a : UniOp) (b : UniOp) (s : State) (t : State) (hs : MemWf s)
    (h : execUrot wide d a b s = .next t) : MemWf t := by
  unfold execUrot at h
  unfold uniOp at h
  exact issueG_memWf _ _ _ _ hs h

theorem execUmin_memWf (wide : Bool) (d : Fin 64) (a : UniOp) (b : UniOp) (s : State) (t : State) (hs : MemWf s)
    (h : execUmin wide d a b s = .next t) : MemWf t := by
  unfold execUmin at h
  unfold uniOp at h
  exact issueG_memWf _ _ _ _ hs h

theorem execUmax_memWf (wide : Bool) (d : Fin 64) (a : UniOp) (b : UniOp) (s : State) (t : State) (hs : MemWf s)
    (h : execUmax wide d a b s = .next t) : MemWf t := by
  unfold execUmax at h
  unfold uniOp at h
  exact issueG_memWf _ _ _ _ hs h

theorem execUminn_memWf (wide : Bool) (d : Fin 64) (a : UniOp) (b : UniOp) (s : State) (t : State) (hs : MemWf s)
    (h : execUminn wide d a b s = .next t) : MemWf t := by
  unfold execUminn at h
  unfold uniOp at h
  exact issueG_memWf _ _ _ _ hs h

theorem execUmaxn_memWf (wide : Bool) (d : Fin 64) (a : UniOp) (b : UniOp) (s : State) (t : State) (hs : MemWf s)
    (h : execUmaxn wide d a b s = .next t) : MemWf t := by
  unfold execUmaxn at h
  unfold uniOp at h
  exact issueG_memWf _ _ _ _ hs h

theorem execUaddi_memWf (wide : Bool) (d : Fin 64) (a : UniOp) (i9 : BitVec 9) (s : State) (t : State) (hs : MemWf s)
    (h : execUaddi wide d a i9 s = .next t) : MemWf t := by
  unfold execUaddi at h
  unfold uniOp at h
  exact issueG_memWf _ _ _ _ hs h

theorem execUmovi_memWf (d : Fin 64) (i16 : BitVec 16) (s : State) (t : State) (hs : MemWf s)
    (h : execUmovi d i16 s = .next t) : MemWf t := by
  unfold execUmovi at h
  unfold umoviOp at h
  exact issueG_memWf _ _ _ _ hs h

theorem execUmoviZ_memWf (d : Fin 64) (i16 : BitVec 16) (s : State) (t : State) (hs : MemWf s)
    (h : execUmoviZ d i16 s = .next t) : MemWf t := by
  unfold execUmoviZ at h
  unfold umoviOp at h
  exact issueG_memWf _ _ _ _ hs h

theorem execUmoviH_memWf (d : Fin 64) (i16 : BitVec 16) (s : State) (t : State) (hs : MemWf s)
    (h : execUmoviH d i16 s = .next t) : MemWf t := by
  unfold execUmoviH at h
  unfold umoviOp at h
  exact issueG_memWf _ _ _ _ hs h

theorem execUmoviL_memWf (d : Fin 64) (i16 : BitVec 16) (s : State) (t : State) (hs : MemWf s)
    (h : execUmoviL d i16 s = .next t) : MemWf t := by
  unfold execUmoviL at h
  unfold umoviOp at h
  exact issueG_memWf _ _ _ _ hs h

theorem execUcmp_memWf (wide : Bool) (uns : Bool) (rel : Rel) (cb : Comb) (kd : Fin 8) (a : UniOp) (b : UniOp) (s : State) (t : State) (hs : MemWf s)
    (h : execUcmp wide uns rel cb kd a b s = .next t) : MemWf t := by
  unfold execUcmp at h
  exact issueG_memWf _ _ _ _ hs h

theorem execShfli_memWf (w : Width) (d : LaneOp) (a : LaneOp) (s : State) (t : State) (hs : MemWf s)
    (h : execShfli w d a s = .next t) : MemWf t := by
  unfold execShfli at h
  unfold shuffle at h
  exact issueG_memWf _ _ _ _ hs h

theorem execShflu_memWf (w : Width) (d : LaneOp) (a : LaneOp) (n : Fin 32) (s : State) (t : State) (hs : MemWf s)
    (h : execShflu w d a n s = .next t) : MemWf t := by
  unfold execShflu at h
  unfold shuffle at h
  exact issueG_memWf _ _ _ _ hs h

theorem execShfld_memWf (w : Width) (d : LaneOp) (a : LaneOp) (n : Fin 32) (s : State) (t : State) (hs : MemWf s)
    (h : execShfld w d a n s = .next t) : MemWf t := by
  unfold execShfld at h
  unfold shuffle at h
  exact issueG_memWf _ _ _ _ hs h

theorem execShflx_memWf (w : Width) (d : LaneOp) (a : LaneOp) (n : Fin 32) (s : State) (t : State) (hs : MemWf s)
    (h : execShflx w d a n s = .next t) : MemWf t := by
  unfold execShflx at h
  unfold shuffle at h
  exact issueG_memWf _ _ _ _ hs h

theorem execBallot_memWf (d : LaneOp) (neg : Bool) (k : Fin 8) (s : State) (t : State) (hs : MemWf s)
    (h : execBallot d neg k s = .next t) : MemWf t := by
  unfold execBallot at h
  exact issueG_memWf _ _ _ _ hs h

theorem execRdlane_memWf (w : Width) (d : LaneOp) (a : LaneOp) (n : Fin 32) (s : State) (t : State) (hs : MemWf s)
    (h : execRdlane w d a n s = .next t) : MemWf t := by
  unfold execRdlane at h
  try dsimp only at h
  exact issueG_memWf _ _ _ _ hs h

theorem execBcast_memWf (w : Width) (d : LaneOp) (a : LaneOp) (s : State) (t : State) (hs : MemWf s)
    (h : execBcast w d a s = .next t) : MemWf t := by
  unfold execBcast at h
  try dsimp only at h
  exact issueG_memWf _ _ _ _ hs h

theorem execFirstLane_memWf (d : LaneOp) (s : State) (t : State) (hs : MemWf s)
    (h : execFirstLane d s = .next t) : MemWf t := by
  unfold execFirstLane at h
  exact issueG_memWf _ _ _ _ hs h

theorem execMatchLanes_memWf (d : LaneOp) (a : LaneOp) (s : State) (t : State) (hs : MemWf s)
    (h : execMatchLanes d a s = .next t) : MemWf t := by
  unfold execMatchLanes at h
  exact issueG_memWf _ _ _ _ hs h

theorem execScanadd_memWf (ex : Bool) (d : LaneOp) (a : LaneOp) (s : State) (t : State) (hs : MemWf s)
    (h : execScanadd ex d a s = .next t) : MemWf t := by
  unfold execScanadd at h
  exact issueG_memWf _ _ _ _ hs h

theorem execRedadd_memWf (d : LaneOp) (a : LaneOp) (s : State) (t : State) (hs : MemWf s)
    (h : execRedadd d a s = .next t) : MemWf t := by
  unfold execRedadd at h
  unfold reduceOp at h
  exact issueG_memWf _ _ _ _ hs h

theorem execRedmin_memWf (d : LaneOp) (a : LaneOp) (s : State) (t : State) (hs : MemWf s)
    (h : execRedmin d a s = .next t) : MemWf t := by
  unfold execRedmin at h
  unfold reduceOp at h
  exact issueG_memWf _ _ _ _ hs h

theorem execRedmax_memWf (d : LaneOp) (a : LaneOp) (s : State) (t : State) (hs : MemWf s)
    (h : execRedmax d a s = .next t) : MemWf t := by
  unfold execRedmax at h
  unfold reduceOp at h
  exact issueG_memWf _ _ _ _ hs h

end Sys2Proof.Machine
end

