-- ==== Sys2Proof/Tests/Slice0.lean ====
section
/-! SUPPORT. The tests: what WellFormed refuses, words written out from the encoding tables, single steps with results worked out from the
spec, and for each statement with hypotheses a state and operands that meet them, in each clause. -/

namespace Sys2Proof.Tests

open Sys2Proof Sys2Proof.Machine

set_option Elab.async false

/-! ### What WellFormed refuses -/

/-- A pair at an odd main register. -/
theorem test_wf_refuses_odd_pair : (Instr.add .x2 (.v 1) (.v 4) (.v 8)).wf = false := by decide
/-- A run of four that starts at no multiple of four. -/
theorem test_wf_refuses_run_of_four : (Instr.ldg .x4 (.v 6) (.v 2) 0).wf = false := by decide
/-- A run of eight that starts at no multiple of eight. -/
theorem test_wf_refuses_run_of_eight : (Instr.mov .x8 (.v 4) (.v 8)).wf = false := by decide
/-- A pair of operand registers at an odd one. -/
theorem test_wf_refuses_operand_file : (Instr.sub .x2 (.o 1) (.v 4) (.v 8)).wf = false := by decide
/-- A history entry as a destination. -/
theorem test_wf_refuses_history_destination : (Instr.add .x1 .lx (.v 4) (.v 8)).wf = false := by decide
/-- The lane number as a destination. -/
theorem test_wf_refuses_lane_number_destination : (Instr.movi .li 7).wf = false := by decide
/-- A history entry at width 2. -/
theorem test_wf_refuses_wide_history : (Instr.add .x2 (.v 2) .lx (.v 8)).wf = false := by decide
/-- An odd uniform pair. -/
theorem test_wf_refuses_odd_uniform_pair : (Instr.uadd true 3 (.g 4) (.g 6)).wf = false := by decide
/-- A named uniform value at width 2. -/
theorem test_wf_refuses_wide_named_uniform : (Instr.uadd true 4 .tix (.g 6)).wf = false := by decide
/-- A pair of slack at an odd uniform register. -/
theorem test_wf_refuses_odd_slack_pair : (Instr.rdslk 5).wf = false := by decide
/-- A base in G that is no pair. -/
theorem test_wf_refuses_single_base_in_g : (Instr.ldg .x1 (.v 0) (.v 3) 0).wf = false := by decide
/-- The words of `BRA k7, negated` stand for the branch that is always taken. -/
theorem test_wf_refuses_bra_not_k7 : (Instr.bra 7 true 0).wf = false := by decide
/-- SIG of 0. -/
theorem test_wf_refuses_sig_zero : (Instr.sig 3 0).wf = false := by decide
/-- SWAIT of 0. -/
theorem test_wf_refuses_swait_zero : (Instr.swait 3 0).wf = false := by decide
/-- An operand block of MMA that starts at no multiple of eight. -/
theorem test_wf_refuses_mma_block : (Instr.mma .gz 4 16).wf = false := by decide
/-- A shape block of MMA that starts at no multiple of four. -/
theorem test_wf_refuses_mma_shape : (Instr.mma .gz 8 18).wf = false := by decide
/-- A queue pair of POP at an odd register. -/
theorem test_wf_refuses_odd_queue_pair : (Instr.pop 0 7).wf = false := by decide
/-- MACX past the last accumulator. -/
theorem test_wf_refuses_macx_past_q7 : (Instr.bankMacx 7 1 0 0 ⟨none, 0⟩).wf = false := by decide
/-- MACX past the last x-slot. -/
theorem test_wf_refuses_macx_past_slot : (Instr.bankMacx 0 1 7 0 ⟨none, 0⟩).wf = false := by decide
/-- QZERO past the last accumulator. -/
theorem test_wf_refuses_qzero_past_q7 : (Instr.bankQzero 4 4).wf = false := by decide
/-- QOUT past the last accumulator. -/
theorem test_wf_refuses_qout_past_q7 : (Instr.bankQout 1 7).wf = false := by decide

/-! ### Words written out from the encoding tables (03, 04 to 08, 11 to 14, 17, 18, 20) -/

/-- SYS: D [22:16], A [15:9], SUB [8:0]. -/
theorem test_decode_sys :
    decodeWord 0x00546A02 = some (.trap 0x2A35)
      ∧ decodeWord 0x00860204 = some (.rdsr true (.v 6) 0x1)
      ∧ decodeWord 0x0081C805 = some (.wrsr true 0x1 (.o 4))
      ∧ decodeWord 0x0081C806 = some (.segld 0x1 (.o 4))
      ∧ decodeWord 0x0086C820 = some (.tlbinv (.v 6) (.o 4))
      ∧ decodeWord 0x0080C828 = some (.ownacq (.o 4))
      ∧ decodeWord 0x0080C829 = some (.ownrel (.o 4))
      ∧ decodeWord 0x00000000 = some .nop
      ∧ decodeWord 0x00000001 = some .exit
      ∧ decodeWord 0x00000003 = some .brkpt
      ∧ decodeWord 0x00000007 = some .icinv
      ∧ decodeWord 0x00000010 = some .tret
      ∧ decodeWord 0x00000011 = some .tfail
      ∧ decodeWord 0x00000021 = some .tlbinvAll := by
  decide +kernel

/-- Format A of the integer majors: W [24:23] = 1, D v6 = 0x06, A o4 = 0x64, B v10 = 0x0A, FN [1:0]. -/
theorem test_decode_integer :
    decodeWord 0x0286C828 = some (.add .x2 (.v 6) (.o 4) (.v 10))
      ∧ decodeWord 0x0286C829 = some (.sub .x2 (.v 6) (.o 4) (.v 10))
      ∧ decodeWord 0x0286C82A = some (.rsub .x2 (.v 6) (.o 4) (.v 10))
      ∧ decodeWord 0x0286C82B = some (.absd .x2 (.v 6) (.o 4) (.v 10))
      ∧ decodeWord 0x0486C828 = some (.mul .x2 (.v 6) (.o 4) (.v 10))
      ∧ decodeWord 0x0486C829 = some (.mulh .x2 (.v 6) (.o 4) (.v 10))
      ∧ decodeWord 0x0486C82A = some (.mad .x2 (.v 6) (.o 4) (.v 10))
      ∧ decodeWord 0x0486C82B = some (.madh .x2 (.v 6) (.o 4) (.v 10))
      ∧ decodeWord 0x0686C828 = some (.and .x2 (.v 6) (.o 4) (.v 10))
      ∧ decodeWord 0x0686C829 = some (.or .x2 (.v 6) (.o 4) (.v 10))
      ∧ decodeWord 0x0686C82A = some (.xor .x2 (.v 6) (.o 4) (.v 10))
      ∧ decodeWord 0x0686C82B = some (.andn .x2 (.v 6) (.o 4) (.v 10))
      ∧ decodeWord 0x0886C828 = some (.shl .x2 (.v 6) (.o 4) (.v 10))
      ∧ decodeWord 0x0886C829 = some (.shr .x2 (.v 6) (.o 4) (.v 10))
      ∧ decodeWord 0x0886C82A = some (.sha .x2 (.v 6) (.o 4) (.v 10))
      ∧ decodeWord 0x0886C82B = some (.rot .x2 (.v 6) (.o 4) (.v 10))
      ∧ decodeWord 0x0A86C828 = some (.min .x2 (.v 6) (.o 4) (.v 10))
      ∧ decodeWord 0x0A86C829 = some (.max .x2 (.v 6) (.o 4) (.v 10))
      ∧ decodeWord 0x0A86C82A = some (.sel .x2 (.v 6) (.o 4) (.v 10))
      ∧ decodeWord 0x0A86C82B = some (.selz .x2 (.v 6) (.o 4) (.v 10)) := by
  decide +kernel

/-- ICMP, IBITF and CMPI: W, D or cond [22:19] with kd [18:16], A, B or I9. -/
theorem test_decode_compares_and_bits :
    decodeWord 0x0CEDC82A = some (.icmp true true .ge .or 5 (.o 4) (.v 10))
      ∧ decodeWord 0x0E86C828 = some (.bfx .x2 (.v 6) (.o 4) (.v 10))
      ∧ decodeWord 0x0E86C829 = some (.bfxs .x2 (.v 6) (.o 4) (.v 10))
      ∧ decodeWord 0x0E86C82A = some (.bfi .x2 (.v 6) (.o 4) (.v 10))
      ∧ decodeWord 0x0E86C82B = some (.perm .x2 (.v 6) (.o 4) (.v 10))
      ∧ decodeWord 0x1AEDC955 = some (.cmpi true true .ge 5 (.o 4) 0x155) := by
  decide +kernel

/-- IUN: W, D, A, SUB [8:0]. -/
theorem test_decode_iun :
    decodeWord 0x1086C800 = some (.mov .x2 (.v 6) (.o 4))
      ∧ decodeWord 0x1086C801 = some (.not .x2 (.v 6) (.o 4))
      ∧ decodeWord 0x1086C802 = some (.neg .x2 (.v 6) (.o 4))
      ∧ decodeWord 0x1086C803 = some (.abs .x2 (.v 6) (.o 4))
      ∧ decodeWord 0x1086C804 = some (.clz .x2 (.v 6) (.o 4))
      ∧ decodeWord 0x1086C805 = some (.popc .x2 (.v 6) (.o 4))
      ∧ decodeWord 0x1086C806 = some (.brev .x2 (.v 6) (.o 4))
      ∧ decodeWord 0x1086C807 = some (.bswap .x2 (.v 6) (.o 4))
      ∧ decodeWord 0x105F0C08 = some (.ktoi (.v 95) 6)
      ∧ decodeWord 0x1005E609 = some (.itok 5 (.h 2))
      ∧ decodeWord 0x105F000A = some (.kget (.v 95))
      ∧ decodeWord 0x1000E60B = some (.kput (.h 2))
      ∧ decodeWord 0x1086140C = some (.movg true (.v 6) (.g 10))
      ∧ decodeWord 0x1086C835 = some (.sext .x2 (.v 6) (.o 4) 21)
      ∧ decodeWord 0x1086C855 = some (.zext .x2 (.v 6) (.o 4) 21) := by
  decide +kernel

/-- ADDI, SHIFTI, LOGICI, MOVI, MODE and KOP. -/
theorem test_decode_integer_immediates :
    decodeWord 0x1286C955 = some (.addi .x2 (.v 6) (.o 4) 0x155)
      ∧ decodeWord 0x1486C825 = some (.shli .x2 (.v 6) (.o 4) 37)
      ∧ decodeWord 0x1486C8A5 = some (.shri .x2 (.v 6) (.o 4) 37)
      ∧ decodeWord 0x1486C925 = some (.shai .x2 (.v 6) (.o 4) 37)
      ∧ decodeWord 0x1486C9A5 = some (.roti .x2 (.v 6) (.o 4) 37)
      ∧ decodeWord 0x1686C84A = some (.andi .x2 (.v 6) (.o 4) 0x4A)
      ∧ decodeWord 0x1686C8CA = some (.ori .x2 (.v 6) (.o 4) 0x4A)
      ∧ decodeWord 0x1686C94A = some (.xori .x2 (.v 6) (.o 4) 0x4A)
      ∧ decodeWord 0x1686C9CA = some (.andni .x2 (.v 6) (.o 4) 0x4A)
      ∧ decodeWord 0x185F8A53 = some (.movi (.v 95) 0x8A53)
      ∧ decodeWord 0x18DF8A53 = some (.moviZ (.v 95) 0x8A53)
      ∧ decodeWord 0x195F8A53 = some (.moviH (.v 95) 0x8A53)
      ∧ decodeWord 0x19DF8A53 = some (.moviL (.v 95) 0x8A53)
      ∧ decodeWord 0x1D000112 = some (.mode 2 0x112)
      ∧ decodeWord 0x1E051638 = some (.kand 5 true 3 true 6)
      ∧ decodeWord 0x1E051639 = some (.kor 5 true 3 true 6)
      ∧ decodeWord 0x1E05163A = some (.kxor 5 true 3 true 6)
      ∧ decodeWord 0x1E05163B = some (.kandn 5 true 3 true 6) := by
  decide +kernel

/-- FADD, FFMA, FMINMAX and FCMP. -/
theorem test_decode_floating :
    decodeWord 0x2086C828 = some (.fadd .x2 (.v 6) (.o 4) (.v 10))
      ∧ decodeWord 0x2086C829 = some (.fsub .x2 (.v 6) (.o 4) (.v 10))
      ∧ decodeWord 0x2086C82A = some (.fmul .x2 (.v 6) (.o 4) (.v 10))
      ∧ decodeWord 0x2086C82B = some (.frsub .x2 (.v 6) (.o 4) (.v 10))
      ∧ decodeWord 0x2286C828 = some (.ffma .x2 (.v 6) (.o 4) (.v 10))
      ∧ decodeWord 0x2286C829 = some (.ffms .x2 (.v 6) (.o 4) (.v 10))
      ∧ decodeWord 0x2286C82A = some (.fnma .x2 (.v 6) (.o 4) (.v 10))
      ∧ decodeWord 0x2286C82B = some (.fnms .x2 (.v 6) (.o 4) (.v 10))
      ∧ decodeWord 0x2486C828 = some (.fmin .x2 (.v 6) (.o 4) (.v 10))
      ∧ decodeWord 0x2486C829 = some (.fmax .x2 (.v 6) (.o 4) (.v 10))
      ∧ decodeWord 0x2486C82A = some (.fminm .x2 (.v 6) (.o 4) (.v 10))
      ∧ decodeWord 0x2486C82B = some (.fmaxm .x2 (.v 6) (.o 4) (.v 10))
      ∧ decodeWord 0x26F5C82A = some (.fcmp true true .num .or 5 (.o 4) (.v 10)) := by
  decide +kernel

/-- FUN: SUB 0 to 11. -/
theorem test_decode_fun :
    decodeWord 0x2886C800 = some (.fabs .x2 (.v 6) (.o 4))
      ∧ decodeWord 0x2886C801 = some (.fneg .x2 (.v 6) (.o 4))
      ∧ decodeWord 0x2886C802 = some (.frcp .x2 (.v 6) (.o 4))
      ∧ decodeWord 0x2886C803 = some (.frsq .x2 (.v 6) (.o 4))
      ∧ decodeWord 0x2886C804 = some (.fsqrt .x2 (.v 6) (.o 4))
      ∧ decodeWord 0x2886C805 = some (.fexp2 .x2 (.v 6) (.o 4))
      ∧ decodeWord 0x2886C806 = some (.flog2 .x2 (.v 6) (.o 4))
      ∧ decodeWord 0x2886C807 = some (.fsin .x2 (.v 6) (.o 4))
      ∧ decodeWord 0x2886C808 = some (.fcos .x2 (.v 6) (.o 4))
      ∧ decodeWord 0x2886C809 = some (.ftanh .x2 (.v 6) (.o 4))
      ∧ decodeWord 0x2886C80A = some (.frnd .x2 (.v 6) (.o 4))
      ∧ decodeWord 0x2886C80B = some (.fclass .x2 (.v 6) (.o 4)) := by
  decide +kernel

/-- CVT (SUB: TRUNC [8], PART [7:5], DT [4:0]), PACKF and DOT. -/
theorem test_decode_conversion :
    decodeWord 0x2A86C923 = some (.cvt .x2 (.v 6) (.o 4) true 1 .n16x2)
      ∧ decodeWord 0x2C86C828 = some (.packfBf16 .x2 (.v 6) (.o 4) (.v 10))
      ∧ decodeWord 0x2C86C829 = some (.packfF16 .x2 (.v 6) (.o 4) (.v 10))
      ∧ decodeWord 0x2C86C82A = some (.packfE4m3 .x2 (.v 6) (.o 4) (.v 10))
      ∧ decodeWord 0x2C86C82B = some (.packfE5m2 .x2 (.v 6) (.o 4) (.v 10))
      ∧ decodeWord 0x2EDFC828 = some (.dot .x2 (.v 95) (.o 4) (.v 10))
      ∧ decodeWord 0x2EDFC829 = some (.dotz .x2 (.v 95) (.o 4) (.v 10)) := by
  decide +kernel

/-- The uniform majors: W, D g4, A g10 = 0x0A, B g12 = 0x0C, FN. -/
theorem test_decode_uniform :
    decodeWord 0x30841430 = some (.uadd true 4 (.g 10) (.g 12))
      ∧ decodeWord 0x30841431 = some (.usub true 4 (.g 10) (.g 12))
      ∧ decodeWord 0x30841432 = some (.umul true 4 (.g 10) (.g 12))
      ∧ decodeWord 0x30841433 = some (.umad true 4 (.g 10) (.g 12))
      ∧ decodeWord 0x32841430 = some (.uand true 4 (.g 10) (.g 12))
      ∧ decodeWord 0x32841431 = some (.uor true 4 (.g 10) (.g 12))
      ∧ decodeWord 0x32841432 = some (.uxor true 4 (.g 10) (.g 12))
      ∧ decodeWord 0x32841433 = some (.uandn true 4 (.g 10) (.g 12))
      ∧ decodeWord 0x34841430 = some (.ushl true 4 (.g 10) (.g 12))
      ∧ decodeWord 0x34841431 = some (.ushr true 4 (.g 10) (.g 12))
      ∧ decodeWord 0x34841432 = some (.usha true 4 (.g 10) (.g 12))
      ∧ decodeWord 0x34841433 = some (.urot true 4 (.g 10) (.g 12))
      ∧ decodeWord 0x36841430 = some (.umin true 4 (.g 10) (.g 12))
      ∧ decodeWord 0x36841431 = some (.umax true 4 (.g 10) (.g 12))
      ∧ decodeWord 0x36841432 = some (.uminn true 4 (.g 10) (.g 12))
      ∧ decodeWord 0x36841433 = some (.umaxn true 4 (.g 10) (.g 12))
      ∧ decodeWord 0x38841555 = some (.uaddi true 4 (.g 10) 0x155)
      ∧ decodeWord 0x3A048A53 = some (.umovi 4 0x8A53)
      ∧ decodeWord 0x3A848A53 = some (.umoviZ 4 0x8A53)
      ∧ decodeWord 0x3B048A53 = some (.umoviH 4 0x8A53)
      ∧ decodeWord 0x3B848A53 = some (.umoviL 4 0x8A53)
      ∧ decodeWord 0x3CED1432 = some (.ucmp true true .ge .or 5 (.g 10) (.g 12)) := by
  decide +kernel

/-- XFER: SUB by Table 07.5. -/
theorem test_decode_xfer :
    decodeWord 0x3E86C800 = some (.shfli .x2 (.v 6) (.o 4))
      ∧ decodeWord 0x3E86C835 = some (.shflu .x2 (.v 6) (.o 4) 21)
      ∧ decodeWord 0x3E86C855 = some (.shfld .x2 (.v 6) (.o 4) 21)
      ∧ decodeWord 0x3E86C875 = some (.shflx .x2 (.v 6) (.o 4) 21)
      ∧ decodeWord 0x3E5F008E = some (.ballot (.v 95) true 6)
      ∧ decodeWord 0x3E5FE6A1 = some (.scanadd true (.v 95) (.h 2))
      ∧ decodeWord 0x3E5FE6C0 = some (.redadd (.v 95) (.h 2))
      ∧ decodeWord 0x3E5FE6E0 = some (.redmin (.v 95) (.h 2))
      ∧ decodeWord 0x3E5FE700 = some (.redmax (.v 95) (.h 2))
      ∧ decodeWord 0x3E86C935 = some (.rdlane .x2 (.v 6) (.o 4) 21)
      ∧ decodeWord 0x3E86C940 = some (.bcast .x2 (.v 6) (.o 4))
      ∧ decodeWord 0x3E5F0160 = some (.firstLane (.v 95))
      ∧ decodeWord 0x3E5FE780 = some (.matchLanes (.v 95) (.h 2)) := by
  decide +kernel

/-- Format D: K [24:22], N [21], OFF21; JIND. -/
theorem test_decode_branches :
    decodeWord 0x41B55AA3 = some (.bra 6 true 0x155AA3)
      ∧ decodeWord 0x41F55AA3 = some (.braAlways 0x155AA3)
      ∧ decodeWord 0x43B55AA3 = some (.bany 6 true 0x155AA3)
      ∧ decodeWord 0x45B55AA3 = some (.ball 6 true 0x155AA3)
      ∧ decodeWord 0x47B55AA3 = some (.bnone 6 true 0x155AA3)
      ∧ decodeWord 0x49B55AA3 = some (.brk 6 true 0x155AA3)
      ∧ decodeWord 0x4A155AA3 = some (.jpt 0x155AA3)
      ∧ decodeWord 0x4C155AA3 = some (.call 0x155AA3)
      ∧ decodeWord 0x4E00E601 = some (.jmpr (.h 2))
      ∧ decodeWord 0x4E00E602 = some (.callr (.h 2))
      ∧ decodeWord 0x4E000000 = some .ret := by
  decide +kernel

/-- The memory majors: W, D, A, I9; LDX, STX and MORD by their SUB fields. -/
theorem test_decode_memory :
    decodeWord 0x5086C955 = some (.ldg .x2 (.v 6) (.o 4) 0x155)
      ∧ decodeWord 0x5286C955 = some (.stg .x2 (.v 6) (.o 4) 0x155)
      ∧ decodeWord 0x5486C955 = some (.lds .x2 (.v 6) (.o 4) 0x155)
      ∧ decodeWord 0x5686C955 = some (.sts .x2 (.v 6) (.o 4) 0x155)
      ∧ decodeWord 0x5886C955 = some (.ldc .x2 (.v 6) (.o 4) 0x155)
      ∧ decodeWord 0x5A86C955 = some (.stc .x2 (.v 6) (.o 4) 0x155)
      ∧ decodeWord 0x5C86C955 = some (.ldd .x2 (.v 6) (.o 4) 0x155)
      ∧ decodeWord 0x5E86C955 = some (.std .x2 (.v 6) (.o 4) 0x155)
      ∧ decodeWord 0x6086C955 = some (.ldl .x2 (.v 6) (.o 4) 0x155)
      ∧ decodeWord 0x6286C955 = some (.stl .x2 (.v 6) (.o 4) 0x155)
      ∧ decodeWord 0x645FC8B0 = some (.ldx (.v 95) (.o 4) .c .s16)
      ∧ decodeWord 0x665FC8A0 = some (.stx (.v 95) (.o 4) .c true)
      ∧ decodeWord 0x6886C84D = some (.ldo true (.v 6) (.o 4) .c true .pod)
      ∧ decodeWord 0x6886C955 = some (.sto true (.v 6) (.o 4) .c true .pod) := by
  decide +kernel

/-- W:FN the operation of Table 03.7. -/
theorem test_decode_atomg_atoms :
    decodeWord 0x6A78C9E0 = some (.atomgAdd .z (.o 4) .z)
      ∧ decodeWord 0x6A78C9E1 = some (.atomgMin .z (.o 4) .z)
      ∧ decodeWord 0x6A78C9E2 = some (.atomgMax .z (.o 4) .z)
      ∧ decodeWord 0x6A78C9E3 = some (.atomgAnd .z (.o 4) .z)
      ∧ decodeWord 0x6AF8C9E0 = some (.atomgOr .z (.o 4) .z)
      ∧ decodeWord 0x6AF8C9E1 = some (.atomgXor .z (.o 4) .z)
      ∧ decodeWord 0x6AF8C9E2 = some (.atomgExch .z (.o 4) .z)
      ∧ decodeWord 0x6AF8C9E3 = some (.atomgCas .z (.o 4) .z)
      ∧ decodeWord 0x6B78C9E0 = some (.atomgInc .z (.o 4) .z)
      ∧ decodeWord 0x6B78C9E1 = some (.atomgDec .z (.o 4) .z)
      ∧ decodeWord 0x6C5FF3E0 = some (.atomsAdd (.v 95) .li .z)
      ∧ decodeWord 0x6C5FF3E1 = some (.atomsMin (.v 95) .li .z)
      ∧ decodeWord 0x6C5FF3E2 = some (.atomsMax (.v 95) .li .z)
      ∧ decodeWord 0x6C5FF3E3 = some (.atomsAnd (.v 95) .li .z)
      ∧ decodeWord 0x6CDFF3E0 = some (.atomsOr (.v 95) .li .z)
      ∧ decodeWord 0x6CDFF3E1 = some (.atomsXor (.v 95) .li .z)
      ∧ decodeWord 0x6CDFF3E2 = some (.atomsExch (.v 95) .li .z)
      ∧ decodeWord 0x6CDFF3E3 = some (.atomsCas (.v 95) .li .z)
      ∧ decodeWord 0x6D5FF3E0 = some (.atomsInc (.v 95) .li .z)
      ∧ decodeWord 0x6D5FF3E1 = some (.atomsDec (.v 95) .li .z) := by
  decide +kernel

/-- W:FN the operation of Table 03.7. -/
theorem test_decode_atomc_atomd :
    decodeWord 0x6E5FF3E0 = some (.atomcAdd (.v 95) .li .z)
      ∧ decodeWord 0x6E5FF3E1 = some (.atomcMin (.v 95) .li .z)
      ∧ decodeWord 0x6E5FF3E2 = some (.atomcMax (.v 95) .li .z)
      ∧ decodeWord 0x6E5FF3E3 = some (.atomcAnd (.v 95) .li .z)
      ∧ decodeWord 0x6EDFF3E0 = some (.atomcOr (.v 95) .li .z)
      ∧ decodeWord 0x6EDFF3E1 = some (.atomcXor (.v 95) .li .z)
      ∧ decodeWord 0x6EDFF3E2 = some (.atomcExch (.v 95) .li .z)
      ∧ decodeWord 0x6EDFF3E3 = some (.atomcCas (.v 95) .li .z)
      ∧ decodeWord 0x6F5FF3E0 = some (.atomcInc (.v 95) .li .z)
      ∧ decodeWord 0x6F5FF3E1 = some (.atomcDec (.v 95) .li .z)
      ∧ decodeWord 0x705FF3E0 = some (.atomdAdd (.v 95) .li .z)
      ∧ decodeWord 0x705FF3E1 = some (.atomdMin (.v 95) .li .z)
      ∧ decodeWord 0x705FF3E2 = some (.atomdMax (.v 95) .li .z)
      ∧ decodeWord 0x705FF3E3 = some (.atomdAnd (.v 95) .li .z)
      ∧ decodeWord 0x70DFF3E0 = some (.atomdOr (.v 95) .li .z)
      ∧ decodeWord 0x70DFF3E1 = some (.atomdXor (.v 95) .li .z)
      ∧ decodeWord 0x70DFF3E2 = some (.atomdExch (.v 95) .li .z)
      ∧ decodeWord 0x70DFF3E3 = some (.atomdCas (.v 95) .li .z)
      ∧ decodeWord 0x715FF3E0 = some (.atomdInc (.v 95) .li .z)
      ∧ decodeWord 0x715FF3E1 = some (.atomdDec (.v 95) .li .z) := by
  decide +kernel

/-- FENCE and SEM. -/
theorem test_decode_fence_and_semaphores :
    decodeWord 0x7200000D = some (.fenceAcq .pod)
      ∧ decodeWord 0x72000015 = some (.fenceRel .pod)
      ∧ decodeWord 0x7200001D = some (.fenceFull .pod)
      ∧ decodeWord 0x7425A8D4 = some (.sig 37 0x2A35)
      ∧ decodeWord 0x7425A8D5 = some (.swait 37 0x2A35)
      ∧ decodeWord 0x745F4B02 = some (.spoll (.v 95) 37 true)
      ∧ decodeWord 0x7425A8D7 = some (.yield 37 0x2A35) := by
  decide +kernel

/-- CPY, ECMD and MMA. -/
theorem test_decode_engines :
    decodeWord 0x7706C800 = some (.cpyGs .b16 (.v 6) (.o 4))
      ∧ decodeWord 0x7706C801 = some (.cpySg .b16 (.v 6) (.o 4))
      ∧ decodeWord 0x7706C802 = some (.cpyGc .b16 (.v 6) (.o 4))
      ∧ decodeWord 0x7706C803 = some (.cpySs .b16 (.v 6) (.o 4))
      ∧ decodeWord 0x7800E600 = some (.louver (.h 2))
      ∧ decodeWord 0x7800E601 = some (.cpym (.h 2))
      ∧ decodeWord 0x7800E602 = some (.brun (.h 2))
      ∧ decodeWord 0x7800E603 = some (.shut (.h 2))
      ∧ decodeWord 0x7A4E1030 = some (.mma (.sid 2) 8 12)
      ∧ decodeWord 0x7A4E0031 = some (.mzero (.sid 2) 12)
      ∧ decodeWord 0x7A4E1032 = some (.mdrain (.sid 2) 8 12)
      ∧ decodeWord 0x7A150203 = some (.mstat true 21) := by
  decide +kernel

/-- TEAM: D, A, SUB. -/
theorem test_decode_team :
    decodeWord 0x7C050006 = some (.bars 5 2)
      ∧ decodeWord 0x7C04000A = some (.arr 4 2)
      ∧ decodeWord 0x7C059C0E = some (.atry 5 (.sid 2) 2)
      ∧ decodeWord 0x7C041010 = some (.pop 4 8)
      ∧ decodeWord 0x7C051011 = some (.enq 5 8)
      ∧ decodeWord 0x7C001012 = some (.enqW 8)
      ∧ decodeWord 0x7C001020 = some (.valid 8)
      ∧ decodeWord 0x7C080021 = some (.rdvalid 8)
      ∧ decodeWord 0x7C080022 = some (.rdslk 8)
      ∧ decodeWord 0x7C000000 = some .bart := by
  decide +kernel

/-- Bank commands: OP [31:27] and the fields of Table 14.10. -/
theorem test_decode_bank :
    decodeBank 0x00000000 = some .bankNop
      ∧ decodeBank 0x0E000000 = some (.bankOpen 6)
      ∧ decodeBank 0x10000000 = some .bankClose
      ∧ decodeBank 0x1890D029 = some (.bankRdc 9 ⟨some 5, 41⟩)
      ∧ decodeBank 0x2009D029 = some (.bankWrc 9 ⟨some 5, 41⟩)
      ∧ decodeBank 0x2968DC29 = some (.bankMacx 1 3 2 6 ⟨some 5, 41⟩)
      ∧ decodeBank 0x3509D029 = some (.bankMacc 5 9 ⟨some 5, 41⟩)
      ∧ decodeBank 0x3A900029 = some (.bankAxpy 2 9 ⟨none, 41⟩)
      ∧ decodeBank 0x42940000 = some (.bankScl 2 9 4)
      ∧ decodeBank 0x4B800000 = some (.bankQzero 3 4)
      ∧ decodeBank 0x55000000 = some (.bankHsum 5)
      ∧ decodeBank 0x5D900000 = some (.bankQst 5 9)
      ∧ decodeBank 0x63800000 = some (.bankQout 3 4)
      ∧ decodeBank 0x6D008A53 = some (.bankSetb 5 0x8A53)
      ∧ decodeBank 0x75008A53 = some (.bankAddb 5 0x8A53)
      ∧ decodeBank 0x7A003F80 = some (.bankSetf 2 0x3F80)
      ∧ decodeBank 0x85000029 = some (.bankLoop 5 41)
      ∧ decodeBank 0x88000002 = some (.bankFmt true false)
      ∧ decodeBank 0x90000000 = some .bankSig
      ∧ decodeBank 0x98000000 = some .bankEnd := by
  decide +kernel

/-- Words that R74 refuses: MAJ 0x3F, an unassigned SUB of SYS, a field that NOP does not use, the register code 0x7A, W = 2 in ICMP and in a
uniform major, a non-zero D of MODE, a history entry as a destination, and the bank operation 0x14. -/
theorem test_decode_refuses :
    decodeWord 0xFFFFFFFF = none ∧ decodeWord 0x00000030 = none ∧ decodeWord 0x00010000 = none ∧ decodeWord 0x0206F400 = none
      ∧ decodeWord 0x0D000000 = none ∧ decodeWord 0x31000000 = none ∧ decodeWord 0x1C010000 = none ∧ decodeWord 0x02700000 = none
      ∧ decodeBank 0xA0000000 = none := by
  decide +kernel

/-! ### Small states -/

/-- The split that the tests run: lanes 0 and 31 at PC 0x100, with a full history. -/
def demoSplit (ty : Nat) : Split := { st := .ready, pc := 0x100, am := 0x80000001, mr := BitVec.ofNat 64 (32 * ty), hv := 7, since := 0 }

/-- Its group, privileged, with the lane-private segment of Table 10.3. -/
def demoGroup (ty : Nat) : Group :=
  { uid := 2, team := 1, priv := true, slBase := 0x40000, slLimit := 0x1000, splits := [demoSplit ty, {}, {}, {}] }

/-- Its team on core 0. -/
def demoTeam : Team := { uid := 1, lch := 0, sgLimit := 2 ^ 32, ssLimit := 0x10000, sdLimit := 0x1000, accLen := 1024 }

/-- Its launch: a CORES set of one team in slot 1, and a trap handler. -/
def demoLaunch : Launch :=
  { lch := 0, ctx := 0, st := .running, nextTix := 1
    lr := { code := 0x20000, regs := 96, traph := 0x400, scr := 0x10000, acc := 1024, dscr := 0x1000 }
    sets := [{ first := 0, count := 1, stride := 1, list := none, slot := 1, cores := true, irq := false, vector := 0, event := 0xFF, counter := 0 }] }

/-- A part that runs, with the tables that map virtual addresses 0 to 4 GiB to the same physical addresses, and the split of a group. -/
def demoOf (g : Group) : State :=
  { State.reset with
    dev := { boot := .running }
    ctxs := [(0, { en := true, pgroot := 0x8001 })]
    launches := [demoLaunch], teams := [demoTeam], groups := [g]
    mem := [(0x8000, 1), (0x8002, 1), (0x10000, 0x1F)]
    links := [0], issuer := some ⟨2, 0, false⟩, uid := 10 }

/-- The split under MR.TY `ty`, with a change to its group and one to the part. -/
def demo (ty : Nat) (f : Group → Group := id) (k : State → State := id) : State := k (demoOf (f (demoGroup ty)))

/-- A change to the split of a group. -/
def withSplit (f : Split → Split) (g : Group) : Group := g.setSplit 0 (f (g.split 0))

/-- Whether the split named by a state passes everything before its own check 5, and has a property. -/
def meetsIf (s : State) (n : Needs) (P : Ix → Bool) : Bool :=
  match ixOf s with
  | some x => (askTrap x.sp).isNone && !askWaits x.sp && !n.blocked x && (preCheck n x).isNone && P x
  | none => false

/-- A state whose split meets the hypothesis `Issues`, and more. -/
theorem meets {s : State} {n : Needs} (P : Ix → Prop) [DecidablePred P] (h : meetsIf s n (fun x => decide (P x)) = true) :
    ∃ x, Issues s x n ∧ P x := by
  unfold meetsIf at h
  split at h
  · rename_i x hx
    simp only [Bool.and_eq_true, Option.isNone_iff_eq_none, decide_eq_true_eq, Bool.not_eq_eq_eq_not, Bool.not_true] at h
    exact ⟨x, ⟨hx, h.1.1.1.1, h.1.1.1.2, h.1.1.2, h.1.2⟩, h.2⟩
  · cases h

/-- A state whose split meets the hypothesis `Issues`. -/
theorem issues {s : State} {n : Needs} (h : meetsIf s n (fun _ => true) = true) : ∃ x, Issues s x n := by
  obtain ⟨x, hx, _⟩ := meets (P := fun _ => True) (s := s) (n := n) (by simpa using h)
  exact ⟨x, hx⟩

/-! ### Witnesses: 04 and 05 -/

theorem witness_IntegerArithmeticCompletes :
    (∃ x, Issues (demo 6) x (intNeeds .x2 (.v 94) (.o 14) (.v 0) false)) ∧ (∃ x, Issues (demo 4) x (intNeeds .x1 (.v 95) .li (.h 6) true)) :=
  ⟨issues (by decide +kernel), issues (by decide +kernel)⟩

theorem witness_MinimaAndMaximaComplete : ∃ x, Issues (demo 7) x (intNeeds .x8 (.v 88) (.v 80) (.v 0) false) := issues (by decide +kernel)

theorem witness_ShiftsComplete :
    (∃ x, Issues (demo 0) x (intNeeds .x1 (.v 95) .lx (.v 0) false)) ∧ (∃ x, Issues (demo 6) x (intNeeds2 .x2 (.v 94) (.v 0))) :=
  ⟨issues (by decide +kernel), issues (by decide +kernel)⟩

theorem witness_LogicIsOnRegisters : ∃ x, Issues (demo 13) x (needs3 (Width.x4).regs (.v 92) (.v 0) (.o 12) false (fun _ => none)) :=
  issues (by decide +kernel)

theorem witness_SelectionsComplete :
    (∃ x, Issues (demo 0 (withSplit fun sp => { sp with mr := 0x19 })) x
      { srcs := [(.v 0, 1), (.v 95, 1)], dsts := [(.z, 1)], lanes := Ix.am, guarded := false, preds := fun x => [mrGK x.sp.mr] })
    ∧ (∃ x, Issues (demo 0) x (needs3 (Width.x8).regs (.v 88) (.v 0) (.v 8) false (fun _ => none))) :=
  ⟨issues (by decide +kernel), issues (by decide +kernel)⟩

/-- BFX and BFI, and the selectors of a length of 0, of a field that ends at bit 31, and of the last byte. -/
theorem witness_BitFieldsComplete :
    (∃ x, Issues (demo 0) x (needs3 (Width.x1).regs (.v 95) (.v 0) .li false (fun _ => none)))
    ∧ (∃ x, Issues (demo 0) x (needs3 (Width.x2).regs (.v 94) (.v 0) (.v 2) true (fun _ => none)))
    ∧ bitsOf (0x1F : Word).toNat 13 8 = 0 ∧ bitsOf (0x3F1F : Word).toNat 13 8 ≠ 0 ∧ 3 < 4 :=
  ⟨issues (by decide +kernel), issues (by decide +kernel), by decide, by decide, by decide⟩

theorem witness_UnaryAndImmediateFormsComplete :
    (∃ x, Issues (demo 12) x (regNeeds2 .x8 (.v 88) (.v 0))) ∧ (∃ x, Issues (demo 6) x (intNeeds2 .x2 (.v 94) (.v 92))) :=
  ⟨issues (by decide +kernel), issues (by decide +kernel)⟩

theorem witness_MovesOfPredicatesAndImmediatesComplete :
    (∃ x, Issues (demo 0) x { dsts := [(.v 95, 1)] }) ∧ (∃ x, Issues (demo 0) x { srcs := [(.o 15, 1)], dsts := [(.o 15, 1)] })
    ∧ (∃ x, Issues (demo 0) x { dsts := [(.v 94, if true then 2 else 1)], unis := uniNums true (.g 62) })
    ∧ (∃ x, Issues (demo 0) x { dsts := [(.v 95, 1)], preds := fun _ => [(7 : Fin 8).val] })
    ∧ (∃ x, Issues (demo 0) x { dsts := [(.z, 1)], preds := fun _ => List.range 8 }) ∧ (∃ x, Issues (demo 0) x { srcs := [(.lx, 1)] }) :=
  ⟨issues (by decide +kernel), issues (by decide +kernel), issues (by decide +kernel), issues (by decide +kernel), issues (by decide +kernel),
    issues (by decide +kernel)⟩

theorem witness_ComparesAndPredicatesComplete :
    (∃ x, Issues (demo 6) x { srcs := [(.v 94, if true then 2 else 1), (.v 0, if true then 2 else 1)], preds := fun _ => combReads .xor (7 : Fin 8).val, bad := cmpBad true [.v 94, .v 0] })
    ∧ (∃ x, Issues (demo 4) x { srcs := [(.h 6, if false then 2 else 1)], bad := cmpBad false [.h 6] })
    ∧ (∃ x, Issues (demo 10) x { srcs := [(.v 95, 1), (.lx, 1)], preds := fun _ => combReads .and (0 : Fin 8).val, bad := fun x => illegalIf (floatBad x).isSome })
    ∧ (∃ x, Issues (demo 0) x { preds := fun _ => [(7 : Fin 8).val, (0 : Fin 8).val] })
    ∧ (∃ x, Issues (demo 0) x { guarded := false, bad := fun _ => illegalIf (modeBad (3 : Fin 4).val 56) }) :=
  ⟨issues (by decide +kernel), issues (by decide +kernel), issues (by decide +kernel), issues (by decide +kernel), issues (by decide +kernel)⟩

theorem witness_FloatArithmeticCompletes :
    (∃ x, Issues (demo 8) x (needs3 (Width.x1).regs (.v 95) .lx (.v 0) false floatBad))
    ∧ (∃ x, Issues (demo 10) x (needs3 (Width.x8).regs (.v 88) (.v 0) (.v 8) true floatBad)) :=
  ⟨issues (by decide +kernel), issues (by decide +kernel)⟩

theorem witness_FunctionsComplete : ∃ x, Issues (demo 9) x (funNeeds .x4 (.v 92) (.o 12)) := issues (by decide +kernel)

/-- CVT of the last eighth of a register of e2m1 elements to one FP32 value, PACKF, and DOT at both ends of its types. -/
theorem witness_ConversionPackingAndDotComplete :
    (∃ x, Issues (demo 13) x { srcsBy := fun x => [(.o 15, cvtWs x.ty (cvtE 1 (.v 95) (etyCode .f32)))], dsts := [(.v 95, 1)], bad := cvtBad 1 (.v 95) (.o 15) 7 (etyCode .f32) })
    ∧ (∃ x, Issues (demo 0) x (needs3 (Width.x8).regs (.v 88) (.v 0) (.v 8) false (fun _ => none)))
    ∧ (∃ x, Issues (demo 0) x (needs3 (Width.x1).regs (.v 95) .li .z true (fun _ => none)))
    ∧ (∃ x, Issues (demo 2) x { srcs := [(.v 88, 8), (.v 0, 8)] ++ [(.v 95, 1)], dsts := [(.v 95, 1)], bad := fun x => illegalIf (!(decide (2 ≤ x.ty ∧ x.ty ≤ 5) || decide (8 ≤ x.ty ∧ x.ty ≤ 13))) })
    ∧ (∃ x, Issues (demo 13) x { srcs := [(.o 12, 4), (.v 0, 4)], dsts := [(.z, 1)], bad := fun x => illegalIf (!(decide (2 ≤ x.ty ∧ x.ty ≤ 5) || decide (8 ≤ x.ty ∧ x.ty ≤ 13))) }) :=
  ⟨issues (by decide +kernel), issues (by decide +kernel), issues (by decide +kernel), issues (by decide +kernel), issues (by decide +kernel)⟩

theorem witness_UniformInstructionsComplete :
    (∃ x, Issues (demo 0) x (uniNeeds true 62 (.g 0) (.g 62) false)) ∧ (∃ x, Issues (demo 0) x (uniNeeds false 63 .ams (.sid 3) true))
    ∧ (∃ x, Issues (demo 0) x { guarded := false, unis := [] }) ∧ (∃ x, Issues (demo 0) x { guarded := false, unis := [(63 : Fin 64).val] })
    ∧ (∃ x, Issues (demo 0) x { preds := fun _ => combReads .or (7 : Fin 8).val, unis := uniNums true (.g 62) ++ uniNums true (.g 0) }) :=
  ⟨issues (by decide +kernel), issues (by decide +kernel), issues (by decide +kernel), issues (by decide +kernel), issues (by decide +kernel)⟩

/-- Whether nothing holds back a release of the issuing split. -/
def unheldIf (x : Ix) (sc : Option Nat) (eager : Bool) (mirror : Bool := false) : Bool :=
  x.s.runs.all (fun r => r.st == .waiting) && !anyLate x.g && (match sc with
    | none => true
    | some n => (if mirror then outRequests (afterRelease x sc eager).s x.g.uid x.core n else outstanding (afterRelease x sc eager).s x.g.uid x.core n).isEmpty)

theorem unheld_of {x : Ix} {sc : Option Nat} {eager mirror : Bool} (h : unheldIf x sc eager mirror = true) : Unheld x sc eager mirror := by
  simp only [unheldIf, Bool.and_eq_true, List.all_eq_true, beq_iff_eq, Bool.not_eq_eq_eq_not, Bool.not_true] at h
  refine ⟨h.1.1, h.1.2, fun n hn => ?_⟩
  have h2 := h.2
  rw [hn] at h2 ⊢
  exact List.isEmpty_iff.mp h2

/-- A state whose split meets the hypotheses `Issues` and `Unheld`, and more. -/
theorem meetsU {s : State} {n : Needs} (sc : Ix → Option Nat) (eager : Ix → Bool) (P : Ix → Prop) [DecidablePred P] (mirror : Ix → Bool := fun _ => false)
    (h : meetsIf s n (fun x => unheldIf x (sc x) (eager x) (mirror x) && decide (P x)) = true) : ∃ x, Issues s x n ∧ Unheld x (sc x) (eager x) (mirror x) ∧ P x := by
  obtain ⟨x, hx, h1⟩ := meets (fun x => (unheldIf x (sc x) (eager x) (mirror x) && decide (P x)) = true) (s := s) (n := n) (by simpa using h)
  simp only [Bool.and_eq_true, decide_eq_true_eq] at h1
  exact ⟨x, hx, unheld_of h1.1, h1.2⟩

/-- A state whose split meets the hypotheses `Issues` and `Reaches`. -/
theorem meetsR {s : State} {n : Needs} (sd : Ix → Side)
    (h : meetsIf s n (fun x => (check5 x [sd x]).isNone && !((sidePlaces x (sd x)).flatMap (fun l => l.2)).any (placeBusy x.s x.core)) = true) :
    ∃ x, Issues s x n ∧ Reaches x (sd x) := by
  obtain ⟨x, hx, h1⟩ := meets (fun x => ((check5 x [sd x]).isNone && !((sidePlaces x (sd x)).flatMap (fun l => l.2)).any (placeBusy x.s x.core)) = true)
    (s := s) (n := n) (by simpa using h)
  rw [Bool.and_eq_true, Option.isNone_iff_eq_none] at h1
  exact ⟨x, hx, h1.1, by simpa using h1.2⟩

/-! ### Witnesses: 06 and 07 -/

/-- A group with one predicate. -/
def withPred (k : Nat) (m : Lanes) (g : Group) : Group := { g with preds := setAt g.preds k m }

theorem witness_CrossLaneTransfersComplete :
    (∃ x, Issues (demo 0) x { srcs := [(.v 0, (Width.x8).regs), (.o 8, 1)], dsts := [(.v 88, (Width.x8).regs)] })
    ∧ (∃ x, Issues (demo 0) x { srcs := [(.lx, (Width.x1).regs)], dsts := [(.v 95, (Width.x1).regs)] })
    ∧ (∃ x, Issues (demo 0) x { srcs := [(.v 0, (Width.x2).regs)], dsts := [(.v 94, (Width.x2).regs)], lanes := fun _ => laneBit (31 : Fin 32).val, bad := fun x => illegalIf (!x.am.getLsbD (31 : Fin 32).val) })
    ∧ (∃ x, Issues (demo 0) x { srcs := [(.v 0, (Width.x4).regs)], dsts := [(.z, (Width.x1).regs)], lanes := fun x => laneBit (lowestLane x.act) &&& x.act })
    ∧ (∃ x, Issues (demo 0) x { dsts := [(.v 95, 1)], preds := fun _ => [(7 : Fin 8).val] })
    ∧ (∃ x, Issues (demo 0) x { dsts := [(.z, 1)] }) ∧ (∃ x, Issues (demo 0) x { srcs := [(.li, 1)], dsts := [(.o 15, 1)] }) :=
  ⟨issues (by decide +kernel), issues (by decide +kernel), issues (by decide +kernel), issues (by decide +kernel), issues (by decide +kernel),
    issues (by decide +kernel), issues (by decide +kernel)⟩

theorem witness_ScansAndReductionsComplete :
    (∃ x, Issues (demo 1) x { srcs := [(.v 0, 1)], dsts := [(.v 95, 1)], bad := chainBad } ∧ x.ty ≠ 8)
    ∧ (∃ x, Issues (demo 8) x { srcs := [(.li, 1)], dsts := [(.z, 1)], bad := chainBad }) :=
  ⟨meets _ (by decide +kernel), issues (by decide +kernel)⟩

/-- No lane, some lane and every lane of AM; and the last entry of a table of four. -/
theorem witness_WholeSplitBranchesComplete :
    (∃ x, Issues (demo 0) x (branchNeeds (7 : Fin 8).val) ∧ ¬∃ i, i < 32 ∧ x.am.getLsbD i = true ∧ ((x.g.pred 7).getLsbD i != false) = true)
    ∧ (∃ x, Issues (demo 0 (withPred 7 1)) x (branchNeeds (7 : Fin 8).val) ∧ (∃ i, i < 32 ∧ x.am.getLsbD i = true ∧ ((x.g.pred 7).getLsbD i != false) = true)
        ∧ ¬∀ i, i < 32 → x.am.getLsbD i = true → ((x.g.pred 7).getLsbD i != false) = true)
    ∧ (∃ x, Issues (demo 0 (withPred 0 0x80000001)) x (branchNeeds (0 : Fin 8).val) ∧ ∀ i, i < 32 → x.am.getLsbD i = true → ((x.g.pred 0).getLsbD i != false) = true)
    ∧ (demoGroup 0).splits.length = 4 ∧ 3 < 4 :=
  ⟨meets _ (by decide +kernel), meets _ (by decide +kernel), meets _ (by decide +kernel), by decide, by decide⟩

/-- The lanes of act whose target is no multiple of 4. -/
def wrongLanes (x : Ix) (op : LaneOp) : Lanes := maskOf (fun i => x.act.getLsbD i && (readWord x 0 op i 0).toNat % 4 != 0)

/-- A branch always, one with every lane and one with none; returns to an aligned address, jumps to one, a jump to an odd one in
lane 31, and a return to one in lane 0. -/
theorem witness_BranchesAndCallsComplete :
    (∃ x, Issues (demo 0) x { guarded := false })
    ∧ (∃ x, Issues (demo 0 (withPred 3 0x80000001)) x { guarded := false, preds := fun _ => [(3 : Fin 8).val], bad := fun x => illegalIf (taken x (3 : Fin 8).val false != 0 && taken x (3 : Fin 8).val false != x.am) }
        ∧ x.am &&& x.g.pred 3 = x.am)
    ∧ (∃ x, Issues (demo 0) x { guarded := false, preds := fun _ => [(3 : Fin 8).val], bad := fun x => illegalIf (taken x (3 : Fin 8).val false != 0 && taken x (3 : Fin 8).val false != x.am) }
        ∧ x.am &&& x.g.pred 3 ≠ x.am)
    ∧ (∃ x, Issues (demo 0) x { srcs := [(.o 15, 1)] } ∧ ∀ i, i < 32 → x.act.getLsbD i = true → (readWord x 0 (.o 15) i 0).toNat % 4 = 0)
    ∧ (∃ x, Issues (demo 0) x { srcs := [(.v 95, 1)] } ∧ ∀ i, i < 32 → x.act.getLsbD i = true → (readWord x 0 (.v 95) i 0).toNat % 4 = 0)
    ∧ (∃ x, Issues (demo 0) x { srcs := [(.li, 1)] } ∧ (wrongLanes x .li).getLsbD 31 = true ∧ ∀ k, k < 31 → (wrongLanes x .li).getLsbD k = false)
    ∧ (∃ x, Issues (demo 0 (fun g => { g with regs := [(111, 2)] })) x { srcs := [(.o 15, 1)] } ∧ (wrongLanes x (.o 15)).getLsbD 0 = true ∧ ∀ k, k < 0 → (wrongLanes x (.o 15)).getLsbD k = false) :=
  ⟨issues (by decide +kernel), meets _ (by decide +kernel), meets _ (by decide +kernel), meets _ (by decide +kernel), meets _ (by decide +kernel),
    meets _ (by decide +kernel), meets _ (by decide +kernel)⟩

/-- Every entry, and every frame, in use. -/
def crowded (g : Group) : Group :=
  { g with
    splits := g.splits.map (fun sp => if sp.st = .free then { sp with st := .joined, am := 2 } else sp)
    frames := List.replicate 16 { use := true } }

/-- BRK in a serial turn, with no lane, every lane, and some lanes with and without a FREE entry; JPT in a serial turn, with a FREE frame
and without one; EXIT. -/
theorem witness_DivergenceCompletes :
    (∃ x, Issues (demo 0 (withSplit fun sp => { sp with ser := true })) x (branchNeeds (7 : Fin 8).val) ∧ x.sp.ser = true)
    ∧ (∃ x, Issues (demo 0) x (branchNeeds (7 : Fin 8).val) ∧ x.sp.ser = false ∧ x.am &&& x.g.pred 7 = 0)
    ∧ (∃ x, Issues (demo 0 (withPred 7 0x80000001)) x (branchNeeds (7 : Fin 8).val) ∧ x.sp.ser = false ∧ x.am &&& x.g.pred 7 ≠ 0 ∧ x.am &&& x.g.pred 7 = x.am)
    ∧ (∃ x, Issues (demo 0 (withPred 7 1)) x (branchNeeds (7 : Fin 8).val) ∧ x.sp.ser = false ∧ x.am &&& x.g.pred 7 ≠ 0 ∧ x.am &&& x.g.pred 7 ≠ x.am ∧ freeEntry? x.g = some 1)
    ∧ (∃ x, Issues (demo 0 (fun g => crowded (withPred 7 1 g))) x (branchNeeds (7 : Fin 8).val) ∧ x.sp.ser = false ∧ x.am &&& x.g.pred 7 ≠ 0 ∧ x.am &&& x.g.pred 7 ≠ x.am ∧ freeEntry? x.g = none)
    ∧ (∃ x, Issues (demo 0 (withSplit fun sp => { sp with ser := true })) x { guarded := false } ∧ x.sp.ser = true)
    ∧ (∃ x, Issues (demo 0) x { guarded := false } ∧ x.sp.ser = false ∧ freeFrame? x.g = some 0)
    ∧ (∃ x, Issues (demo 0 crowded) x { guarded := false } ∧ x.sp.ser = false ∧ freeFrame? x.g = none) ∧ (∃ x, Issues (demo 0) x sysNeeds) :=
  ⟨meets _ (by decide +kernel), meets _ (by decide +kernel), meets _ (by decide +kernel), meets _ (by decide +kernel), meets _ (by decide +kernel),
    meets _ (by decide +kernel), meets _ (by decide +kernel), meets _ (by decide +kernel), issues (by decide +kernel)⟩

/-- In a handler, with a saved block. -/
def inHandler (g : Group) : Group := { g with inHandler := true, saved := some ⟨0, g.splits, g.frames⟩, tam := 0x80000001 }

/-- RDSR of `exm` and of `ces`, a pair of `cea`; WRSR of `fx`, the generators, `tpc`, `ces` and `mcb`; SEGLD of a base; TRET. -/
theorem witness_SystemInstructionsComplete :
    (∃ x, Issues (demo 0) x sysNeeds)
    ∧ (∃ x, Issues (demo 0) x { sysNeeds with dsts := [(.v 95, srRun false)], bad := fun _ => illegalIf (srWords (0 : BitVec 7).toNat != some (srRun false)) } ∧ srEngine (0 : BitVec 7).toNat = false)
    ∧ (∃ x, Issues (demo 0) x { sysNeeds with dsts := [(.v 94, srRun true)], bad := fun _ => illegalIf (srWords (0x26 : BitVec 7).toNat != some (srRun true)) } ∧ srEngine (0x26 : BitVec 7).toNat = true)
    ∧ (∀ sr, sr ∈ ([0, 1, 3, 0x24, 0x28] : List (BitVec 7)) → ∃ x, Issues (demo 0) x { sysNeeds with
          priv := srSegment sr.toNat, srcs := [(.v 95, srRun false)], lanes := fun x => if sr.toNat = 1 then x.am else laneBit x.low
          bad := fun _ => illegalIf (srWords sr.toNat != some (srRun false) || !srWritable sr.toNat) })
    ∧ (∃ x, Issues (demo 0) x { sysNeeds with
          priv := true, srcs := [(.v 94, 2)], lanes := fun x => laneBit x.low
          bad := fun x => illegalIf (!srSegment (0x10 : BitVec 7).toNat || !segldFits x (0x10 : BitVec 7).toNat (readRun x 0 (.v 94) 2 x.low)) })
    ∧ (∃ x, Issues (demo 0 inHandler) x handlerNeeds ∧ x.g.inFlight x.sp.lanes = false ∧ x.g.pends = [] ∧ x.g.saved = some ⟨0, [demoSplit 0, {}, {}, {}], List.replicate 16 {}⟩) := by
  refine ⟨issues (by decide +kernel), meets _ (by decide +kernel), meets _ (by decide +kernel), ?_, issues (by decide +kernel), meets _ (by decide +kernel)⟩
  intro sr h
  fin_cases h
  all_goals exact issues (by decide +kernel)

/-- The region of a peer that the tables map at 4 GiB, and a token entry of it. -/
def peerRegion : Nat := regionKey (2 ^ 51 + 2 ^ 41)

/-- The tables with a peer's memory at 4 to 8 GiB, the pair v0 = 4 GiB in lane 0, and a token entry. -/
def demoPeer (ts : List (Nat × TokEntry)) : State :=
  demo 0 (fun g => { g with regs := [(1, 1)] }) (fun s => { s with
    mem := [(0x8000, 1), (0x8002, 1), (0x10000, 0x1F), (0x10008, 0x0F), (0x10009, 0x03), (0x1000E, 0x10)], tokens := ts })

/-- TLBINV.ALL, TLBINV up to the top of the address space; OWNACQ of a held, a pending and a free token; OWNREL with a count of 2, of 1, of a
pending token and of none. -/
theorem witness_InvalidationsAndTokensComplete :
    (∃ x, Issues (demo 0) x { sysNeeds with priv := true } ∧ Unheld x (some 6) true ∧ True)
    ∧ (∃ x, Issues (demo 0 (fun g => { g with regs := [(1, 0x1000000)] })) x { sysNeeds with
            priv := true, srcs := [(.v 0, 2), (.v 2, 2)], lanes := fun x => laneBit x.low
            bad := fun x => illegalIf (decide (2 ^ 56 < readRun x 0 (.v 0) 2 x.low + readRun x 1 (.v 2) 2 x.low)) } ∧ Unheld x (some 6) true ∧ True)
    ∧ (∃ x, Issues (demoPeer [(255, ⟨peerRegion, .held, 65534, [0]⟩)]) x (ownNeeds (.v 0)) ∧ ownCheck x (readRun x 0 (.v 0) 2 x.low) = .ok peerRegion
        ∧ tokenOf x.s peerRegion = some (255, ⟨peerRegion, .held, 65534, [0]⟩))
    ∧ (∃ x, Issues (demoPeer [(0, ⟨peerRegion, .pending, 0, []⟩)]) x (ownNeeds (.v 0)) ∧ ownCheck x (readRun x 0 (.v 0) 2 x.low) = .ok peerRegion
        ∧ tokenOf x.s peerRegion = some (0, ⟨peerRegion, .pending, 0, []⟩))
    ∧ (∃ x, Issues (demoPeer []) x (ownNeeds (.v 0)) ∧ ownCheck x (readRun x 0 (.v 0) 2 x.low) = .ok peerRegion
        ∧ tokenOf x.s peerRegion = none ∧ freeToken? x.s = some 0)
    ∧ (∀ ts, ts ∈ ([[(0, ⟨peerRegion, .held, 2, [0, 0]⟩)], [(0, ⟨peerRegion, .held, 1, [0]⟩)], [(0, ⟨peerRegion, .pending, 0, []⟩)], []] : List (List (Nat × TokEntry))) →
        ∃ x, Issues (demoPeer ts) x (ownNeeds (.v 0)) ∧ Unheld x (some 5) true ∧ ownCheck x (readRun x 0 (.v 0) 2 x.low) = .ok peerRegion
          ∧ tokenOf (afterRelease x (some 5) true).s peerRegion = ts[0]?) := by
  refine ⟨meetsU (fun _ => some 6) (fun _ => true) (fun _ => True) (h := by decide +kernel), meetsU (fun _ => some 6) (fun _ => true) (fun _ => True) (h := by decide +kernel),
    meets _ (by decide +kernel), meets _ (by decide +kernel), meets _ (by decide +kernel), ?_⟩
  intro ts h
  fin_cases h
  all_goals exact meetsU (fun _ => some 5) (fun _ => true) _ (h := by decide +kernel)

/-! ### Witnesses: 10 and 11 -/

/-- A load of each space, at the last offset of its field and of an ordered form: the hypotheses of a form that runs; one outside the tables, and one
whose walk awaits an entry that a bank run holds back. -/
theorem witness_LoadsComplete :
    (∃ x, Issues (demo 0) x { srcs := [(.v 0, baseWords .g)], dsts := [(.v 88, 8)] } ∧ Reaches x (sideOf x { sp := .g, size := 32, add := 4 * (248 : BitVec 9).toInt } .load (.v 0)))
    ∧ (∃ x, Issues (demo 0) x { srcs := [(.v 0, baseWords .s)], dsts := [(.v 95, 1)] } ∧ Reaches x (sideOf x { sp := .s, size := 4, add := 4 * (255 : BitVec 9).toInt } .load (.v 0)))
    ∧ (∃ x, Issues (demo 0) x { srcs := [(.v 0, baseWords .c)], dsts := [(.o 15, 1)] } ∧ Reaches x (sideOf x { sp := .c, size := 4 } .load (.v 0)))
    ∧ (∃ x, Issues (demo 0) x { srcs := [(.v 0, baseWords .d)], dsts := [(.z, 1)] } ∧ Reaches x (sideOf x { sp := .d, size := 1, sgn := true } .load (.v 0)))
    ∧ (∃ x, Issues (demo 0) x { srcs := [(.v 0, baseWords .l)], dsts := [(.v 94, 2)] } ∧ Reaches x (sideOf x { sp := .l, size := 8, ord := some (scopeCode .pod, true) } .load (.v 0)))
    ∧ (∃ x, Issues (demo 0 id (fun s => { s with ctxs := [] })) x { srcs := [(.v 0, baseWords .g)], dsts := [(.v 88, 8)] }
        ∧ (check5 x [sideOf x { sp := .g, size := 32 } .load (.v 0)]).any (fun t => t.cause == cPAGE_NOT_PRESENT) = true)
    ∧ (∃ x, Issues (demo 0 id (fun s => { s with runs := [{ probeRun 9 0 with scope := 2 }] })) x { srcs := [(.v 0, baseWords .g)], dsts := [(.v 88, 8)] }
        ∧ (check5 x [sideOf x { sp := .g, size := 32 } .load (.v 0)]).any (fun t => t.cause == cAWAITED) = true) :=
  ⟨meetsR _ (by decide +kernel), meetsR _ (by decide +kernel), meetsR _ (by decide +kernel), meetsR _ (by decide +kernel), meetsR _ (by decide +kernel),
    meets _ (by decide +kernel), meets _ (by decide +kernel)⟩

/-- Every place of a side lies on a mirror page. -/
def mirrors (x : Ix) (sd : Side) : Bool := ((sidePlaces x sd).flatMap (fun l => l.2)).all Place.mirror

/-- A split whose instruction has resolved a place of scratch in lane 0 and one of memory in lane 31, and whose homes have answered. -/
def keeping (g : Group) : Group :=
  withSplit (fun sp => { sp with ask := some { ok := [(5, 1)], kept := some ⟨[(0, [.scr 0 0x1000 0x1000]), (31, [.phys 0x100000 ⟨0x100000, 0x1F, 2⟩])], [(0, 7, 0), (31, 8, 0)], 0⟩ } }) g

/-- A state whose split goes on with what it has resolved, and nothing holds it back. -/
theorem keeping_holds : ∃ x k, keptOf x = some k ∧ ixOf (demo 0 keeping) = some x ∧ askTrap x.sp = none ∧ askWaits x.sp = false ∧ Unheld x none false
    ∧ k.all.any (placeBusy x.s x.core) = false ∧ ∀ l, l ∈ atomLines true k.all → reachLeft (reachAll x.s x.core (atomLines true k.all)) x.core l = false := by
  obtain ⟨x, hx, hu, hk, hl⟩ := meetsU (s := demo 0 keeping) (n := sysNeeds) (fun _ => none) (fun _ => false)
    (fun x => (keptOf x).any (fun k => !k.all.any (placeBusy x.s x.core)) = true
      ∧ ∀ k, keptOf x = some k → ∀ l, l ∈ atomLines true k.all → reachLeft (reachAll x.s x.core (atomLines true k.all)) x.core l = false) (h := by decide +kernel)
  obtain ⟨k, h, hb⟩ := Option.any_eq_true _ _ |>.mp hk
  exact ⟨x, k, h, hx.names, hx.clear, hx.asked, hu, by simpa using hb, hl k h⟩

/-- A store of a run, of a half word, and an ordered one at homes of this part, which is no eager release; nothing holds them back; and one that goes
on once its homes have answered (`keeping_holds`). -/
theorem witness_StoresComplete :
    (∃ x, Issues (demo 0) x { srcs := [(.v 0, baseWords .g), (.v 88, 8)] } ∧ Unheld x none false (mirrors x (sideOf x { sp := .g, size := 32, add := 4 * (248 : BitVec 9).toInt } .store (.v 0)))
        ∧ check5 x [sideOf x { sp := .g, size := 32, add := 4 * (248 : BitVec 9).toInt } .store (.v 0)] = none
        ∧ ((sidePlaces x (sideOf x { sp := .g, size := 32, add := 4 * (248 : BitVec 9).toInt } .store (.v 0))).flatMap (fun l => l.2)).any (placeBusy x.s x.core) = false ∧ keptOf x = none)
    ∧ (∃ x, Issues (demo 0) x { srcs := [(.v 0, baseWords .d), (.li, 1)] } ∧ Unheld x none false (mirrors x (sideOf x { sp := .d, size := 2 } .store (.v 0)))
        ∧ check5 x [sideOf x { sp := .d, size := 2 } .store (.v 0)] = none
        ∧ ((sidePlaces x (sideOf x { sp := .d, size := 2 } .store (.v 0))).flatMap (fun l => l.2)).any (placeBusy x.s x.core) = false ∧ keptOf x = none)
    ∧ (∃ x, Issues (demo 0) x { srcs := [(.v 0, baseWords .g), (.v 94, 2)] } ∧ Unheld x (some 6) false (mirrors x (sideOf x { sp := .g, size := 8, ord := some (scopeCode .system, true) } .store (.v 0)))
        ∧ check5 x [sideOf x { sp := .g, size := 8, ord := some (scopeCode .system, true) } .store (.v 0)] = none
        ∧ ((sidePlaces x (sideOf x { sp := .g, size := 8, ord := some (scopeCode .system, true) } .store (.v 0))).flatMap (fun l => l.2)).all atHome = true
        ∧ ((sidePlaces x (sideOf x { sp := .g, size := 8, ord := some (scopeCode .system, true) } .store (.v 0))).flatMap (fun l => l.2)).any (placeBusy x.s x.core) = false ∧ keptOf x = none) :=
  ⟨meetsU (fun _ => none) (fun _ => false) _ (fun x => mirrors x (sideOf x { sp := .g, size := 32, add := 4 * (248 : BitVec 9).toInt } .store (.v 0))) (by decide +kernel),
    meetsU (fun _ => none) (fun _ => false) _ (fun x => mirrors x (sideOf x { sp := .d, size := 2 } .store (.v 0))) (by decide +kernel),
    meetsU (fun _ => some 6) (fun _ => false) _ (fun x => mirrors x (sideOf x { sp := .g, size := 8, ord := some (scopeCode .system, true) } .store (.v 0))) (by decide +kernel)⟩

/-- The side of an atomic. -/
def atomSide (x : Ix) (op : Nat) (sp : Space) : Side := sideOf x { sp := sp, size := atomBytes x.ty, ord := some (6, false) } (.atomic op x.ty) (.v 0)

/-- The home lines that the atomics of a side reach, and the state once they are reached. -/
def atomsReach (y x : Ix) (sd : Side) : Bool :=
  let ps := (sidePlaces x sd).flatMap (fun l => l.2)
  !(atomLines true ps).any (reachLeft (reachAll y.s y.core (atomLines true ps)) y.core)

/-- The first and the last operation in each space, under a 32-bit and a 64-bit type, one of them as an acquire and release of SYSTEM scope,
and a word of scratch without an error. -/
theorem witness_AtomicsComplete :
    (∃ x, Issues (demo 0) x (atomNeeds 0 .g (.v 95) (.v 0) (.v 4)) ∧ Unheld x none false (mirrors x (atomSide x 0 .g)) ∧ check5 x [atomSide x 0 .g] = none
        ∧ atomsReach x x (atomSide x 0 .g) = true ∧ ((sidePlaces x (atomSide x 0 .g)).flatMap (fun l => l.2)).any (placeBusy x.s x.core) = false ∧ keptOf x = none)
    ∧ (∃ x, Issues (demo 0 (withSplit fun sp => { sp with mr := 0x1B0000 })) x (atomNeeds 0 .g (.v 95) (.v 0) (.v 4)) ∧ Unheld x (some 6) true (mirrors x (atomSide x 0 .g)) ∧ atomsReach { x with s := drained x } x (atomSide x 0 .g) = true
        ∧ mrORD x.sp.mr = 3 ∧ mrSCOPE x.sp.mr = 6 ∧ check5 x [atomSide x 0 .g] = none
        ∧ ((sidePlaces x (atomSide x 0 .g)).flatMap (fun l => l.2)).any (placeBusy (drained x) x.core) = false ∧ keptOf x = none)
    ∧ (∃ x, Issues (demo 7) x (atomNeeds 7 .s .z (.v 0) (.v 4)) ∧ Unheld x none false (mirrors x (atomSide x 7 .s)) ∧ check5 x [atomSide x 7 .s] = none
        ∧ ((sidePlaces x (atomSide x 7 .s)).flatMap (fun l => l.2)).any (placeBusy x.s x.core) = false ∧ keptOf x = none)
    ∧ (∃ x, Issues (demo 1) x (atomNeeds 9 .c (.v 95) (.v 0) (.v 4)) ∧ Unheld x none false (mirrors x (atomSide x 9 .c)) ∧ check5 x [atomSide x 9 .c] = none ∧ keptOf x = none)
    ∧ (∃ x, Issues (demo 0) x (atomNeeds 6 .d (.v 95) (.v 0) (.v 4)) ∧ Unheld x none false (mirrors x (atomSide x 6 .d)) ∧ check5 x [atomSide x 6 .d] = none ∧ keptOf x = none)
    ∧ badScr State.reset 0 0 (atomBytes 7) = false :=
  ⟨meetsU (fun _ => none) (fun _ => false) _ (fun x => mirrors x (atomSide x 0 .g)) (by decide +kernel),
    meetsU (fun _ => some 6) (fun _ => true) _ (fun x => mirrors x (atomSide x 0 .g)) (by decide +kernel),
    meetsU (fun _ => none) (fun _ => false) _ (fun x => mirrors x (atomSide x 7 .s)) (by decide +kernel),
    meetsU (fun _ => none) (fun _ => false) _ (fun x => mirrors x (atomSide x 9 .c)) (by decide +kernel),
    meetsU (fun _ => none) (fun _ => false) _ (fun x => mirrors x (atomSide x 6 .d)) (by decide +kernel), by decide +kernel⟩

/-! ### Witnesses: 08, 12, 13 and 17 -/

/-- The part with one semaphore of the team. -/
def withSem (n : Nat) (q : Sem) (s : State) : State := { s with teams := [demoTeam.setSem n q] }

/-- A read of a peer by group 2, of which there is no response yet. -/
def peerRead : Remote := { uid := 5, core := 0, grp := 2, kind := .read, addr := 2 ^ 51 + 2 ^ 41, len := 128, data := [], mask := [], since := 0 }

/-- A fence with nothing outstanding, and with a read of a peer; SIG; SWAIT of exactly the value and of one more; YIELD; a semaphore with a
waiter; SPOLL. -/
theorem witness_FencesAndSemaphoresComplete :
    (∃ x, Issues (demo 0) x { guarded := false } ∧ (∀ r ∈ x.s.runs, r.st = .waiting) ∧ anyLate x.g = false
        ∧ outstanding (drained x) x.g.uid x.core (Nat.max 2 6) = [] ∧ outstanding x.s x.g.uid x.core (Nat.max 2 0) = [])
    ∧ (∃ x, Issues (demo 0 id (fun s => { s with remotes := [peerRead] })) x { guarded := false } ∧ (∀ r ∈ x.s.runs, r.st = .waiting) ∧ anyLate x.g = false
        ∧ outstanding (drained x) x.g.uid x.core (Nat.max 2 6) ≠ [] ∧ outstanding x.s x.g.uid x.core (Nat.max 2 0) ≠ [])
    ∧ (∃ x, Issues (demo 0 id (withSem 63 { val := 9 })) x onceNeeds ∧ Unheld x (some 1) false ∧ (x.t.sem 63).waiters = [] ∧ (9 : BitVec 14).toNat ≤ (x.t.sem 63).val
        ∧ 1 ≤ (x.t.sem 63).val ∧ (x.t.sem 63).val < (10 : BitVec 14).toNat)
    ∧ (∃ x, Issues (demo 0 id (withSem 0 { val := 9, waiters := [(3, 10)] })) x onceNeeds ∧ (x.t.sem 0).waiters ≠ [])
    ∧ (∃ x, Issues (demo 0 id (withSem 0 { val := 0 })) x onceNeeds ∧ (x.t.sem 0).val < 1)
    ∧ (∃ x, Issues (demo 0) x { dsts := [(.v 95, 1)] }) :=
  ⟨meets _ (by decide +kernel), meets _ (by decide +kernel), meetsU (fun _ => some 1) (fun _ => false) _ (h := by decide +kernel), meets _ (by decide +kernel),
    meets _ (by decide +kernel), issues (by decide +kernel)⟩

/-- The set of the demo launch, changed. -/
def demoSet (q : SetSt → SetSt) (l : Launch) : Launch := { l with sets := l.sets.map q }

/-- The part whose launch has a set in a phase, or a broken one. -/
def withSet (q : SetSt → SetSt) (s : State) : State := { s with launches := [demoSet q demoLaunch] }

/-- The set of the demo launch. -/
def theSet : SetSt :=
  { first := 0, count := 1, stride := 1, list := none, slot := 1, cores := true, irq := false, vector := 0, event := 0xFF, counter := 0 }

/-- BART; BARS of a whole set and of a broken one; ARR; ATRY one phase and 2^31 phases behind, and at its own phase. -/
theorem witness_BarriersAndPhasesComplete :
    (∃ x, Issues (demo 0) x { onceNeeds with bad := barrierBad } ∧ Unheld x (some 1) false ∧ barrierClash x none = false)
    ∧ (∃ x, Issues (demo 0) x { onceNeeds with bad := barsBad (1 : Fin 4).val } ∧ Unheld x (some 4) false ∧ barrierClash x (some (1 : Fin 4).val) = false
        ∧ slotSet x (1 : Fin 4).val = some (demoLaunch, 0, theSet) ∧ theSet.broken = false)
    ∧ (∃ x, Issues (demo 0 id (withSet fun q => { q with broken := true })) x { onceNeeds with bad := barsBad (1 : Fin 4).val } ∧ Unheld x (some 4) true
        ∧ barrierClash x (some (1 : Fin 4).val) = false
        ∧ slotSet x (1 : Fin 4).val = some (demoSet (fun q => { q with broken := true }) demoLaunch, 0, { theSet with broken := true }))
    ∧ (∃ x, Issues (demo 0) x { onceNeeds with bad := fun x => illegalIf (slotSet x (1 : Fin 4).val).isNone } ∧ Unheld x (some 4) false
        ∧ slotSet x (1 : Fin 4).val = some (demoLaunch, 0, theSet))
    ∧ (∃ x, Issues (demo 0 id (withSet fun q => { q with phase := 1 })) x { onceNeeds with unis := uniNums false .gz, bad := fun x => illegalIf (slotSet x (1 : Fin 4).val).isNone }
        ∧ slotSet x (1 : Fin 4).val = some (demoSet (fun q => { q with phase := 1 }) demoLaunch, 0, { theSet with phase := 1 })
        ∧ 1 ≤ ((1 : Word) - readUni1 x .gz).toNat ∧ ((1 : Word) - readUni1 x .gz).toNat ≤ 2 ^ 31 ∧ setDrained (drainSet x.s 0 0) 0 0 = true)
    ∧ (∃ x, Issues (demo 0 id (fun s => { withSet (fun q => { q with phase := 1, recs := [(7, 1)] }) s with
            cores := [(7, { l1 := [{ line := 0x2000, data := List.replicate 128 9, valid := 1, dirty := 1, epoch := 1, ctx := 0 }] })], runs := [{ probeRun 9 0 with scope := 2 }] })) x
          { onceNeeds with unis := uniNums false .gz, bad := fun x => illegalIf (slotSet x (1 : Fin 4).val).isNone }
        ∧ setDrained (drainSet x.s 0 0) 0 0 = false)
    ∧ (∃ x, Issues (demo 0 id (withSet fun q => { q with phase := 0x80000001 })) x { onceNeeds with unis := uniNums false .gz, bad := fun x => illegalIf (slotSet x (1 : Fin 4).val).isNone }
        ∧ ¬(1 ≤ ((0x80000001 : Word) - readUni1 x .gz).toNat ∧ ((0x80000001 : Word) - readUni1 x .gz).toNat ≤ 2 ^ 31)) :=
  ⟨meetsU (fun _ => some 1) (fun _ => false) _ (h := by decide +kernel), meetsU (fun _ => some 4) (fun _ => false) _ (h := by decide +kernel),
    meetsU (fun _ => some 4) (fun _ => true) _ (h := by decide +kernel), meetsU (fun _ => some 4) (fun _ => false) _ (h := by decide +kernel),
    meets _ (by decide +kernel), meets _ (by decide +kernel), meets _ (by decide +kernel)⟩

/-- A context with work queue 63 and launch queue 15 of 16 records at 0x50000 and 0x60000, with PI and CI. -/
def withQueues (pi ci : Word) (s : State) : State :=
  { s with ctxs := [(0, { en := true, pgroot := 0x8001, wq := [(63, ⟨0x50000, 4, pi, ci⟩)], lq := [(15, ⟨0x60000, 4, pi, ci⟩)] })] }

/-- The pair g62 = 0x100, g63 = a queue selector. -/
def withPair (n : Word) (g : Group) : Group := { g with gs := [(62, 0x100), (63, n)] }

/-- POP of an empty queue and of one with a record at the last index, sound and damaged, with the slot's page absent, its walk held back by a bank run,
and its line held back; ENQ and ENQ.W of work queue 63 and launch queue 15, with room and full. -/
theorem witness_QueueInstructionsComplete :
    (∃ x, Issues (demo 0 (withPair 63) (withQueues 16 16)) x { onceNeeds with
          unis := [(62 : Fin 64).val, (62 : Fin 64).val + 1]
          bad := fun x => illegalIf (x.g.inHandler || decide (64 ≤ (queuePair x 62).2) || !(queueOf x.cx false (queuePair x 62).2).ok) }
        ∧ scratchCheck x (x.g.ureg 62).toNat 64 false = none ∧ (queueOf x.cx false (x.g.ureg 63).toNat).pi = (queueOf x.cx false (x.g.ureg 63).toNat).ci
        ∧ ringXlate x.s x.t.ctx false (queueOf x.cx false 63) (queueOf x.cx false 63).ci .load = .ok ⟨0x50000, 0x1F, 2⟩)
    ∧ (∃ x, Issues (demo 0 (withPair 63) (withQueues 16 15)) x { onceNeeds with
          unis := [(62 : Fin 64).val, (62 : Fin 64).val + 1]
          bad := fun x => illegalIf (x.g.inHandler || decide (64 ≤ (queuePair x 62).2) || !(queueOf x.cx false (queuePair x 62).2).ok) }
        ∧ scratchCheck x (x.g.ureg 62).toNat 64 false = none ∧ (queueOf x.cx false (x.g.ureg 63).toNat).pi ≠ (queueOf x.cx false (x.g.ureg 63).toNat).ci
        ∧ ringXlate x.s x.t.ctx false (queueOf x.cx false 63) (queueOf x.cx false 63).ci .load = .ok ⟨0x503C0, 0x1F, 2⟩
        ∧ (match lineReady x.s (.pop x.t.ctx 63) 0x503C0 (ringVa (queueOf x.cx false 63) false 15) with
          | .ok s1 => !frontBad s1 (.pop x.t.ctx 63) 0x503C0 64
          | .error _ => false) = true)
    ∧ (∀ k, k ∈ [(cPAGE_NOT_PRESENT, fun s : State => { s with mem := [] }), (cAWAITED, fun s : State => { s with runs := [{ probeRun 9 0 with scope := 2 }] })] →
        ∃ x, Issues (demo 0 (withPair 63) (fun s => k.2 (withQueues 16 15 s))) x { onceNeeds with
          unis := [(62 : Fin 64).val, (62 : Fin 64).val + 1]
          bad := fun x => illegalIf (x.g.inHandler || decide (64 ≤ (queuePair x 62).2) || !(queueOf x.cx false (queuePair x 62).2).ok) }
        ∧ scratchCheck x (x.g.ureg 62).toNat 64 false = none
        ∧ ringXlate x.s x.t.ctx false (queueOf x.cx false 63) (queueOf x.cx false 63).ci .load = .error k.1)
    ∧ (∃ x, Issues (demo 0 (withPair 63) (fun s => { withQueues 16 15 s with runs := [{ probeRun 9 0 with chn := 5 }] })) x { onceNeeds with
          unis := [(62 : Fin 64).val, (62 : Fin 64).val + 1]
          bad := fun x => illegalIf (x.g.inHandler || decide (64 ≤ (queuePair x 62).2) || !(queueOf x.cx false (queuePair x 62).2).ok) }
        ∧ scratchCheck x (x.g.ureg 62).toNat 64 false = none ∧ (queueOf x.cx false (x.g.ureg 63).toNat).pi ≠ (queueOf x.cx false (x.g.ureg 63).toNat).ci
        ∧ ringXlate x.s x.t.ctx false (queueOf x.cx false 63) (queueOf x.cx false 63).ci .load = .ok ⟨0x503C0, 0x1F, 2⟩
        ∧ (match lineReady x.s (.pop x.t.ctx 63) 0x503C0 (ringVa (queueOf x.cx false 63) false 15) with
          | .ok _ => false
          | .error _ => true) = true)
    ∧ (∃ x, Issues (demo 0 (withPair 63) (fun s => { withQueues 16 15 s with damage := [.mem (0x503FC / 4)] })) x { onceNeeds with
          unis := [(62 : Fin 64).val, (62 : Fin 64).val + 1]
          bad := fun x => illegalIf (x.g.inHandler || decide (64 ≤ (queuePair x 62).2) || !(queueOf x.cx false (queuePair x 62).2).ok) }
        ∧ scratchCheck x (x.g.ureg 62).toNat 64 false = none ∧ (queueOf x.cx false (x.g.ureg 63).toNat).pi ≠ (queueOf x.cx false (x.g.ureg 63).toNat).ci
        ∧ ringXlate x.s x.t.ctx false (queueOf x.cx false 63) (queueOf x.cx false 63).ci .load = .ok ⟨0x503C0, 0x1F, 2⟩
        ∧ (match lineReady x.s (.pop x.t.ctx 63) 0x503C0 (ringVa (queueOf x.cx false 63) false 15) with
          | .ok s1 => frontBad s1 (.pop x.t.ctx 63) 0x503C0 64
          | .error _ => false) = true)
    ∧ (∃ x, Issues (demo 0 (withPair 63) (withQueues 15 0)) x { onceNeeds with unis := [(62 : Fin 64).val, (62 : Fin 64).val + 1], bad := fun x => illegalIf ((false && x.g.inHandler) || (enqSel x 62).isNone) }
        ∧ Unheld x (some 4) true ∧ enqSel x 62 = some (false, 63) ∧ scratchCheck x (x.g.ureg 62).toNat (recBytes false) true = none ∧ (queueOf x.cx false 63).full = false
        ∧ ringXlate x.s x.t.ctx false (queueOf x.cx false 63) (queueOf x.cx false 63).pi .store = .ok ⟨0x503C0, 0x1F, 2⟩)
    ∧ (∃ x, Issues (demo 0 (withPair 0x8000000F) (withQueues 16 0)) x { onceNeeds with unis := [(62 : Fin 64).val, (62 : Fin 64).val + 1], bad := fun x => illegalIf ((true && x.g.inHandler) || (enqSel x 62).isNone) }
        ∧ Unheld x (some 4) true ∧ enqSel x 62 = some (true, 15) ∧ scratchCheck x (x.g.ureg 62).toNat (recBytes true) true = none ∧ (queueOf x.cx true 15).full = true
        ∧ ringXlate x.s x.t.ctx true (queueOf x.cx true 15) (queueOf x.cx true 15).pi .store = .ok ⟨0x60000, 0x1F, 2⟩) :=
by
  refine ⟨meets _ (by decide +kernel), meets _ (by decide +kernel), ?_, meets _ (by decide +kernel), meets _ (by decide +kernel),
    meetsU (fun _ => some 4) (fun _ => true) _ (h := by decide +kernel), meetsU (fun _ => some 4) (fun _ => true) _ (h := by decide +kernel)⟩
  intro k h
  simp only [List.mem_cons, List.not_mem_nil, or_false] at h
  rcases h with rfl | rfl
  all_goals exact meets _ (by decide +kernel)

/-- A team of a launch, and a firmware team, which has none. -/
theorem witness_ValidityAndMatrixStatusComplete :
    (∃ x, Issues (demo 0) x { onceNeeds with unis := [(62 : Fin 64).val, (62 : Fin 64).val + 1] } ∧ Unheld x (some 4) true
        ∧ (afterRelease x (some 4) true).s.launch? x.t.lch = some demoLaunch)
    ∧ (∃ x, Issues (demo 0) x onceNeeds ∧ x.s.launch? x.t.lch = some demoLaunch)
    ∧ (∃ x, Issues (demo 0 id fun s => { s with launches := [] }) x { onceNeeds with unis := [(0 : Fin 64).val, (0 : Fin 64).val + 1] } ∧ Unheld x (some 4) true
        ∧ (afterRelease x (some 4) true).s.launch? x.t.lch = none)
    ∧ (∃ x, Issues (demo 0) x { major := some 0x3D, guarded := false }) :=
  ⟨meetsU (fun _ => some 4) (fun _ => true) _ (h := by decide +kernel), meets _ (by decide +kernel),
    meetsU (fun _ => some 4) (fun _ => true) _ (h := by decide +kernel), issues (by decide +kernel)⟩

theorem witness_SlackIsSampled : ∃ x, Issues (demo 0) x onceNeeds ∧ x.s.launch? x.t.lch = some demoLaunch := meets _ (by decide +kernel)

/-- The shape and descriptor blocks of a 1 × 1 × 8 product of BF16 rows at scratch offsets 0 and 16, with the tile at offset 0. -/
def withBlocks (g : Group) : Group := { g with gs := [(8, 0), (9, 16), (12, 16), (13, 16), (16, 1), (17, 1), (18, 8)] }

/-- The part with matrix queues one short of full, or a full one of the other class. -/
def withQueued (n : Nat) (s : State) : State :=
  { s with cores := [(0, { mq0 := List.replicate n { uid := 3, team := 1, grp := 2, kind := .mma, mr := 0 } })] }

/-- A lane copy, commands with descriptors in scratch, and an MMA, MZERO and MDRAIN of a class-0 and a class-1 launch; every queue has an
entry, and one command makes a release of SYSTEM scope. -/
theorem witness_EngineCommandsAreQueued :
    (∃ x, Issues (demo 0) x { major := some 0x3B, srcs := [(.v 0, baseWords .g), (.v 94, baseWords .s)], blocked := noEntry (.cpy 0 []) } ∧ Unheld x none true
        ∧ check5 x [sideOf x { sp := .g, size := cpyBytes .b16 } .cmdRead (.v 0), sideOf x { sp := .s, size := cpyBytes .b16 } .cmdWrite (.v 94)] = none)
    ∧ (∀ k, k ∈ ([.louver, .cpym, .brun, .shut] : List CmdKind) → ∃ x, Issues (demo 0 (withSplit fun sp => { sp with mr := 0x8180000 }) ) x
          { major := some 0x3C, guarded := false, srcs := [(.v 95, 1)], lanes := fun x => laneBit x.low, blocked := noEntry k }
        ∧ Unheld x (if mrAREL x.sp.mr then some (mrSCOPE x.sp.mr) else none) true ∧ mrAREL x.sp.mr = true ∧ mrSCOPE x.sp.mr = 6
        ∧ ecmdCheck x (readWord x 0 (.v 95) x.low 0).toNat (x.s.scrBytes x.core (x.t.ssBase + (readWord x 0 (.v 95) x.low 0).toNat) 64) = none)
    ∧ (∃ x, Issues (demo 0 withBlocks (withQueued 15)) x { major := some 0x3D, guarded := false, unisBy := mxUnis .mma .gz (some 8) 16, blocked := noEntry .mma, bad := fun x => illegalIf ((fun y => shapeBad y true 1 || !Machine.pairOk (mrAFMT y.mr) (mrBFMT y.mr) (mrSCK y.mr) || y.f 11 != 0) (mxOf x .gz (some 8) 16)) }
        ∧ Unheld x none true ∧ (mxCheck5 x.am x.t.ssLimit x.t.accLen (mxOf x .gz (some 8) 16) (mmaChks (mxOf x .gz (some 8) 16))).isNone = true ∧ x.s.clsOf x.t = 0)
    ∧ (∃ x, Issues (demo 0 withBlocks (fun s => withQueued 16 { s with launches := [{ demoLaunch with lr := { demoLaunch.lr with cls := 1 } }] })) x
          { major := some 0x3D, guarded := false, unisBy := mxUnis .mzero .gz none 16, blocked := noEntry .mzero, bad := fun x => illegalIf ((fun y => shapeBad y false 0) (mxOf x .gz none 16)) }
        ∧ Unheld x none true ∧ (mxCheck5 x.am x.t.ssLimit x.t.accLen (mxOf x .gz none 16) []).isNone = true ∧ x.s.clsOf x.t ≠ 0)
    ∧ (∃ x, Issues (demo 0 withBlocks) x { major := some 0x3D, guarded := false, unisBy := mxUnis .mdrain .gz (some 8) 16, blocked := noEntry .mdrain, bad := fun x => illegalIf ((fun y => shapeBad y false 2 || dctlBad y || y.f 11 != 0) (mxOf x .gz (some 8) 16)) }
        ∧ Unheld x none true ∧ (mxCheck5 x.am x.t.ssLimit x.t.accLen (mxOf x .gz (some 8) 16) (drainChks (mxOf x .gz (some 8) 16))).isNone = true ∧ x.s.clsOf x.t = 0) := by
  refine ⟨meetsU (fun _ => none) (fun _ => true) _ (h := by decide +kernel), ?_, meetsU (fun _ => none) (fun _ => true) _ (h := by decide +kernel),
    meetsU (fun _ => none) (fun _ => true) _ (h := by decide +kernel), meetsU (fun _ => none) (fun _ => true) _ (h := by decide +kernel)⟩
  intro k h
  fin_cases h
  all_goals exact meetsU (fun x => if mrAREL x.sp.mr then some (mrSCOPE x.sp.mr) else none) (fun _ => true) _ (h := by decide +kernel)

/-! ### Witnesses: the steps -/

/-- A fetch gives a word. -/
def gives (w : Word) : Fetched → Bool
  | .got _ v => v == w
  | _ => false

/-- A fetch traps. -/
def fails : Fetched → Bool
  | .trap _ _ => true
  | _ => false

/-- A fetch waits for a channel. -/
def waits : Fetched → Bool
  | .held _ => true
  | _ => false

/-- A fetch whose walk awaits an entry. -/
def walksOn : Fetched → Bool
  | .walks _ => true
  | _ => false

/-- A fetch reads from the host. -/
def asks : Fetched → Bool
  | .ask _ _ => true
  | _ => false

theorem got_word {f : Fetched} {w : Word} (h : gives w f = true) : ∃ s1, f = .got s1 w := by
  cases f with
  | got s v => exact ⟨s, by rw [eq_of_beq h]⟩
  | trap _ _ => cases h
  | held _ => cases h
  | ask _ _ => cases h
  | walks _ => cases h

theorem is_trap {f : Fetched} (h : fails f = true) : ∃ c va, f = .trap c va := by
  cases f with
  | trap c va => exact ⟨c, va, rfl⟩
  | got _ _ => cases h
  | held _ => cases h
  | ask _ _ => cases h
  | walks _ => cases h

theorem is_held {f : Fetched} (h : waits f = true) : ∃ pa, f = .held pa := by
  cases f with
  | held pa => exact ⟨pa, rfl⟩
  | got _ _ => cases h
  | trap _ _ => cases h
  | ask _ _ => cases h
  | walks _ => cases h

theorem is_ask {f : Fetched} (h : asks f = true) : ∃ pa va, f = .ask pa va := by
  cases f with
  | ask pa va => exact ⟨pa, va, rfl⟩
  | got _ _ => cases h
  | trap _ _ => cases h
  | held _ => cases h
  | walks _ => cases h

theorem is_walk {f : Fetched} (h : walksOn f = true) : ∃ va, f = .walks va := by
  cases f with
  | walks va => exact ⟨va, rfl⟩
  | got _ _ => cases h
  | trap _ _ => cases h
  | held _ => cases h
  | ask _ _ => cases h

/-- The state after the turn of a probe has been taken off. -/
def probed (w : Nat) : State := { placeWord State.reset w with agenda := [] }

/-- The split of a probe. -/
def probedGroup (w : Nat) : Group := ((probed w).group? 1).getD (demoGroup 0)

/-- The team of a probe. -/
def probedTeam (w : Nat) : Team := ((probed w).team? 0).getD demoTeam

/-- The hypotheses about the turn, for a state and an entry of a group. -/
def turnOf (s : State) (g : Group) (t : Team) : Prop :=
  s.group? g.uid = some g ∧ s.team? g.team = some t
    ∧ (readySplits s).any (fun r => r.grp == g.uid && r.e == 0 && chosen (readySplits s) r) = true ∧ atJoin g (g.split 0) = false

/-- Tables that map the code of the tests to host memory. -/
def hostCode (s : State) : State :=
  { s with mem := [(0x8000, 1), (0x8002, 1), (0x10000, 0x1F), (0x10001, 0x0A), (0x10005, 2)] }

/-- A word that decodes and one that does not, fetched; one that the entry has kept; a PC outside the tables; a fetch whose channel a bank run
holds, and one whose walk it holds; one from host memory, the wait for its line, and its failure. -/
theorem witness_StepIssuesTheFetchedWord :
    (∀ w, w ∈ [0x80000000, 0xFFFFFFFF] →
      (placeWord State.reset w).agenda = [.issue (probedGroup w).uid 0] ∧ turnOf (probed w) (probedGroup w) (probedTeam w)
      ∧ ((probedGroup w).split 0).word = none
      ∧ ∃ s1, fetchWord (probed w) (probedGroup w) (probedTeam w) ((probedGroup w).split 0).pc = .got s1 (BitVec.ofNat 32 w))
    ∧ decodeWord 0x80000000 = some .nop ∧ decodeWord 0xFFFFFFFF = none
    ∧ (∃ s g t, turnOf s g t ∧ (g.split 0).word = some 0x80000000)
    ∧ (∃ s g t c va, turnOf s g t ∧ (g.split 0).word = none ∧ fetchWord s g t (g.split 0).pc = .trap c va)
    ∧ (∃ s g t pa, turnOf s g t ∧ (g.split 0).word = none ∧ fetchWord s g t (g.split 0).pc = .held pa)
    ∧ (∃ s g t va, turnOf s g t ∧ (g.split 0).word = none ∧ askWaits (g.split 0) = false ∧ codeFail (g.split 0) = none ∧ fetchWord s g t (g.split 0).pc = .walks va)
    ∧ (∃ s g t pa va, turnOf s g t ∧ (g.split 0).word = none ∧ askWaits (g.split 0) = false ∧ codeFail (g.split 0) = none ∧ fetchWord s g t (g.split 0).pc = .ask pa va)
    ∧ (∃ s g t, turnOf s g t ∧ (g.split 0).word = none ∧ askWaits (g.split 0) = true)
    ∧ (∃ s g t, turnOf s g t ∧ (g.split 0).word = none ∧ askWaits (g.split 0) = false ∧ (codeFail (g.split 0)).isSome = true) := by
  refine ⟨?_, by decide +kernel, by decide +kernel, ?_, ?_, ?_, ?_, ?_, ?_, ?_⟩
  · intro w h
    simp only [List.mem_cons, List.not_mem_nil, or_false] at h
    rcases h with rfl | rfl
    all_goals exact ⟨by decide +kernel, ⟨by decide +kernel, by decide +kernel, by decide +kernel, by decide +kernel⟩, by decide +kernel,
      got_word (by decide +kernel)⟩
  · exact ⟨keepWord (probed 0) 1 0 0x80000000, (probedGroup 0).setSplit 0 { (probedGroup 0).split 0 with word := some 0x80000000 }, probedTeam 0,
      ⟨by decide +kernel, by decide +kernel, by decide +kernel, by decide +kernel⟩, by decide +kernel⟩
  · obtain ⟨c, va, hc⟩ := is_trap (f := fetchWord { probed 0 with ctxs := [] } (probedGroup 0) (probedTeam 0) ((probedGroup 0).split 0).pc) (by decide +kernel)
    exact ⟨{ probed 0 with ctxs := [] }, probedGroup 0, probedTeam 0, c, va,
      ⟨by decide +kernel, by decide +kernel, by decide +kernel, by decide +kernel⟩, by decide +kernel, hc⟩
  · obtain ⟨pa, hc⟩ := is_held (f := fetchWord { probed 0 with runs := [{ probeRun 9 0 with chn := 2 }] } (probedGroup 0) (probedTeam 0) ((probedGroup 0).split 0).pc)
      (by decide +kernel)
    exact ⟨{ probed 0 with runs := [{ probeRun 9 0 with chn := 2 }] }, probedGroup 0, probedTeam 0, pa,
      ⟨by decide +kernel, by decide +kernel, by decide +kernel, by decide +kernel⟩, by decide +kernel, hc⟩
  · obtain ⟨va, hc⟩ := is_walk (f := fetchWord { probed 0 with runs := [{ probeRun 9 0 with scope := 2 }] } (probedGroup 0) (probedTeam 0) ((probedGroup 0).split 0).pc)
      (by decide +kernel)
    exact ⟨{ probed 0 with runs := [{ probeRun 9 0 with scope := 2 }] }, probedGroup 0, probedTeam 0, va,
      ⟨by decide +kernel, by decide +kernel, by decide +kernel, by decide +kernel⟩, by decide +kernel, by decide +kernel, by decide +kernel, hc⟩
  · obtain ⟨pa, va, hc⟩ := is_ask (f := fetchWord (demo 0 id hostCode) (demoGroup 0) demoTeam 0x100) (by decide +kernel)
    exact ⟨demo 0 id hostCode, demoGroup 0, demoTeam, pa, va, ⟨by decide +kernel, by decide +kernel, by decide +kernel, by decide +kernel⟩, rfl, rfl, rfl, hc⟩
  · exact ⟨demo 0 (withSplit fun sp => { sp with ask := some { reqs := [5] } }), withSplit (fun sp => { sp with ask := some { reqs := [5] } }) (demoGroup 0), demoTeam,
      ⟨by decide +kernel, by decide +kernel, by decide +kernel, by decide +kernel⟩, by decide +kernel⟩
  · exact ⟨demo 0 (withSplit fun sp => { sp with ask := some { fail := some (9, 1, 0x100) } }), withSplit (fun sp => { sp with ask := some { fail := some (9, 1, 0x100) } }) (demoGroup 0), demoTeam,
      ⟨by decide +kernel, by decide +kernel, by decide +kernel, by decide +kernel⟩, by decide +kernel⟩

/-- A run whose last word is a command, and one at a boundary where a refresh is due; an event of a part after a fatal error, and one of a part
that runs. -/
theorem witness_StepRunsBankCommandsAndEvents :
    (∃ (s : State) (u : Nat) (r : Run) (w : Word) (i : Instr), s.agenda = [.bank u] ∧ s.run? u = some r ∧ r.st = .running ∧ s.dev.boot ≠ .fatal
        ∧ atBoundary s r = none ∧ r.prog[r.upc]? = some w ∧ decodeBank w.toNat = some i)
    ∧ (∃ (s : State) (r : Run) (s1 : State), s.run? 0 = some r ∧ r.st = .running ∧ s.dev.boot ≠ .fatal ∧ atBoundary s r = some s1)
    ∧ (Instr.bar2Read.isEvent = true ∧ serves { State.reset with dev := { boot := .fatal } } .bar2Read = true)
    ∧ (Instr.feed.isEvent = true ∧ serves State.reset .feed = true)
    ∧ (∃ s : State, s.agenda = [.front] ∧ s.dev.boot ≠ .fatal) ∧ (∃ s : State, s.agenda = [.front] ∧ s.dev.boot = .fatal) := by
  refine ⟨⟨{ State.reset with dev := { boot := .running }, runs := [probeRun 0 0x80000005], agenda := [.bank 0] }, 0, probeRun 0 0x80000005, 0x80000005, .bankLoop 0 5,
    by decide +kernel⟩, ?_, by decide +kernel, by decide +kernel, ⟨{ State.reset with agenda := [.front] }, rfl, by decide⟩,
    ⟨{ State.reset with agenda := [.front], dev := { boot := .fatal } }, rfl, rfl⟩⟩
  obtain ⟨s1, h⟩ := Option.isSome_iff_exists.mp (by decide +kernel : (atBoundary { State.reset with dev := { boot := .running }, runs := [{ probeRun 0 0 with served := false, scope := 2 }], refresh := [(3, false)] }
    { probeRun 0 0 with served := false, scope := 2 }).isSome = true)
  exact ⟨_, { probeRun 0 0 with served := false, scope := 2 }, s1, by decide +kernel, by decide, by decide, h⟩

/-! ### Witnesses: 14 and 15 -/

/-- The run of the tests: the STACK run of stack 3, with a program of two commands. -/
def demoRun : Run :=
  { uid := 4, cmd := 3, core := 0, team := 1, ctx := 0, st := .running, scope := 1, stk := 3, frames := [7], vas := [0], prog := [0, 0xA8000000] }

/-- The state of a run. -/
def demoBank (r : Run) : State := { demoOf (demoGroup 0) with runs := [r], curRun := some r.uid, uid := 10 }

/-- A run with no open row, one with a row that is cut, and one with a row that is not. -/
theorem witness_BankRegisterCommandsComplete :
    (Running (demoBank demoRun) demoRun ∧ demoRun.openSlot = none ∧ openDelayed (demoBank demoRun) demoRun.cls = false)
    ∧ Running (demoBank { demoRun with openSlot := some 0, cut := true }) { demoRun with openSlot := some 0, cut := true }
    ∧ Running (demoBank { demoRun with openSlot := some 7, cut := false }) { demoRun with openSlot := some 7, cut := false } :=
  ⟨⟨⟨by decide +kernel, by decide⟩, by decide, by decide +kernel⟩, ⟨by decide +kernel, by decide⟩, ⟨by decide +kernel, by decide⟩⟩

/-- The 64th column command of a row, the 65th, and one without a row; a scale block and a column below 60. -/
theorem witness_BankColumnCommandsComplete :
    (∃ r slot, Running (demoBank r) r ∧ r.openSlot = some slot ∧ r.segc = 63 ∧ r.wf = true
        ∧ (∀ b, b ∈ r.banks → badMem (demoBank r) (colPa r slot 59 b) 32 = false) ∧ (r.wf && decide (60 ≤ (59 : Nat))) = false)
    ∧ (∃ r, Running (demoBank r) r ∧ r.segc = 64 ∧ r.openSlot = some 0) ∧ (∃ r, Running (demoBank r) r ∧ r.segc = 0 ∧ r.openSlot = none) :=
  ⟨⟨{ demoRun with openSlot := some 0, segc := 63, wf := true }, 0, ⟨by decide +kernel, by decide⟩, by decide, by decide, by decide, by decide +kernel, by decide⟩,
    ⟨{ demoRun with openSlot := some 0, segc := 64 }, ⟨by decide +kernel, by decide⟩, by decide⟩,
    ⟨demoRun, ⟨by decide +kernel, by decide⟩, by decide⟩⟩

/-! ### Witnesses: events -/

/-- An event's subject. -/
def about (y : Subject) (s : State) : State := { s with subject := y }

/-- A register of an 8-byte ordered load, whose words have arrived. -/
def wholePend : Pend := { load := 5, reg := 94, vals := [(0, .known 7), (31, .known 8)], whole := true }

/-- A register in flight whose words have arrived. -/
def demoPend : Pend := { load := 5, reg := 94, vals := [(0, .known 7), (31, .known 8)], acq := true }

theorem witness_FetchFaultsAndReturnsComplete :
    (∃ s x c va, ixOf s = some x ∧ codeFail x.sp = none ∧ fetchWord s x.g x.t x.sp.pc = .trap c va)
    ∧ (∃ s x, ixOf s = some x ∧ codeFail x.sp = some (9, 0x100)) ∧ (∃ x, Issues (demo 0) x sysNeeds)
    ∧ (∃ s g t, s.subject = .pair 5 94 ∧ pendOf s 5 94 = some (g, demoPend) ∧ s.group? g.uid = some g ∧ s.team? g.team = some t
        ∧ (∀ v, v ∈ demoPend.vals → arrived v.2 = true) ∧ demoPend.whole = false)
    ∧ (∃ s g, s.subject = .pair 5 94 ∧ pendOf s 5 94 = some (g, wholePend) ∧ (∀ q v, q ∈ g.pends → q.load = 5 → v ∈ q.vals → arrived v.2 = true)) := by
  refine ⟨?_, ?_, issues (by decide +kernel), ⟨demo 0 (fun g => { g with pends := [demoPend] }) (about (.pair 5 94)),
    { demoGroup 0 with pends := [demoPend] }, demoTeam, by decide +kernel⟩, demo 0 (fun g => { g with pends := [wholePend, { wholePend with reg := 95 }] }) (about (.pair 5 94)),
    { demoGroup 0 with pends := [wholePend, { wholePend with reg := 95 }] }, rfl, by decide +kernel, ?_⟩
  · obtain ⟨x, hx, e, h0, h⟩ := meets (s := demo 0 id (fun s => { s with ctxs := [] })) (n := sysNeeds)
      (fun x => x.s = demo 0 id (fun s => { s with ctxs := [] }) ∧ codeFail x.sp = none ∧ fails (fetchWord x.s x.g x.t x.sp.pc) = true) (by decide +kernel)
    obtain ⟨c, va, hc⟩ := is_trap h
    exact ⟨_, x, c, va, hx.names, h0, e ▸ hc⟩
  · have h : (ixOf (demo 0 (withSplit fun sp => { sp with ask := some { fail := some (9, 1, 0x100) } }))).any (fun x => codeFail x.sp == some (9, 0x100)) = true := by decide +kernel
    obtain ⟨x, hx, hc⟩ := Option.any_eq_true _ _ |>.mp h
    exact ⟨_, x, hx, eq_of_beq hc⟩
  · intro q v hq _ hv
    have all : ∀ q, q ∈ [wholePend, { wholePend with reg := 95 }] → ∀ v, v ∈ q.vals → arrived v.2 = true := by decide +kernel
    exact all q hq v hv

/-- A register that awaits words of the scratch of core 0 in lanes 0 and 31, one of which is a signed byte, or one word of memory in lane 31. -/
def latePend (vals : List (Nat × PVal)) : Pend := { load := 5, reg := 94, vals := vals }

/-- The line 0x2000 of the L1 of core 0, whole and clean. -/
def cleanL1 (s : State) : State := { s with cores := [(0, { l1 := [{ line := 0x2000, data := List.replicate 128 9, valid := BitVec.allOnes 128, dirty := 0, epoch := 1, ctx := 0 }] })] }

/-- A place of memory. -/
def demoPlace : Place := .phys 0x100000 ⟨0x100000, 0x1F, 2⟩

/-- A load at a place of scratch and one of memory; a register that awaits scratch, and one that awaits memory that the L1 holds, that it does
not hold, and past it. -/
theorem witness_LoadsDeliver :
    (∃ x : Ix, x.g.uid = 2 ∧ ((.v 94 : LaneOp) ≠ .z) ∧ (AccForm.strong { sp := .g, size := 4 }) = false
        ∧ (∃ c o n, Place.scr 0 0x1000 0x1000 = .scr c o n) ∧ (∃ va y, demoPlace = .phys va y ∧ isMem y.pa = true ∧ demoPlace.mirror = false))
    ∧ (∀ vals, vals ∈ [[(0, PVal.late (.scr 0 0x1000 0x1000) 4 false false []), (31, .late (.scr 0 0x1004 0x1004) 1 true false [])],
          [(31, .late demoPlace 4 false false [])], [(31, .late demoPlace 4 false true [])]] →
        ∃ s g t, s.subject = .pair 5 94 ∧ pendOf s 5 94 = some (g, latePend vals) ∧ s.group? g.uid = some g ∧ s.team? g.team = some t
          ∧ (latePend vals).whole = false ∧ (latePend vals).dirty = 0 ∧ (∀ q v, q ∈ g.pends → v ∈ q.vals → q.load < 5 → v.2.place? = none)
          ∧ (vals.map (fun v => v.1)).Nodup)
    ∧ badScr (demo 0) 0 0x1000 4 = false ∧ badScr (demo 0) 0 0x1004 1 = false
    ∧ (hitL1 (demo 0 id cleanL1) 0 0x100000 4 = true ∧ badL1 (demo 0 id cleanL1) 0 0x100000 4 = false)
    ∧ (hitL1 (demo 0) 0 0x100000 4 = false ∧ Settled (demo 0) ∧ (demo 0).guests = [] ∧ badMem (demo 0) 0x100000 128 = false ∧ runOn (demo 0) (chanOf 0x100000) = none) := by
  refine ⟨?_, ?_, by decide +kernel, by decide +kernel, by decide +kernel, by decide +kernel, ⟨?_, rfl⟩, rfl, by decide +kernel, by decide +kernel⟩
  · obtain ⟨x, hx, h⟩ := meets (s := demo 0) (n := sysNeeds) (fun x => x.g.uid = 2) (by decide +kernel)
    exact ⟨x, h, by decide, by decide, ⟨_, _, _, rfl⟩, ⟨_, _, rfl, by decide +kernel, by decide +kernel⟩⟩
  · intro vals h
    refine ⟨demo 0 (fun g => { g with pends := [latePend vals] }) (about (.pair 5 94)), { demoGroup 0 with pends := [latePend vals] }, demoTeam, rfl, ?_⟩
    simp only [List.mem_cons, List.not_mem_nil, or_false] at h
    rcases h with rfl | rfl | rfl
    all_goals
      refine ⟨by decide +kernel, by decide +kernel, by decide +kernel, rfl, rfl, ?_, by decide +kernel⟩
      intro q v hq _ hl
      rw [show q = latePend _ from List.mem_singleton.mp hq] at hl
      exact absurd hl (by decide)
  · intro c l h
    exact absurd h (by simp [demo, demoOf, State.core, State.reset])

/-- A group at the join of its frame, in a turn and in none. -/
def joining (ser : Bool) (g : Group) : Group :=
  (withSplit (fun sp => { sp with frame := 15, ser := ser }) { g with frames := setAt g.frames 15 { use := true, join := 0x100, fm := 0x80000001 } })

/-- The context of the tests with a ring of 64 records, whose last place is free. -/
def withRing (k : Ctx → Ctx) (s : State) : State :=
  { s with ctxs := [(0, k { s.ctx 0 with trbase := 0x100000, trctl := 6, trpi := 63, trci := 0 })] }

/-- The record of a trap that a stopped group owes. -/
def owing (g : Group) : Group := { g with stop := some ⟨false, false⟩, records := [⟨5, List.replicate 64 1, false⟩] }

/-- A record that a die has posted or holds. -/
def posted (grp : Option Nat) : AsyncRec := { ord := 6, grp := grp, core := some 0, die := 1, ctx := 0, bytes := List.replicate 64 2 }

/-- Whether a result is an error. -/
def failed {ε α : Type} : Except ε α → Bool
  | .ok _ => false
  | .error _ => true

/-- A result that is an error is some error. -/
theorem is_error {ε α : Type} {e : Except ε α} (h : failed e = true) : ∃ r, e = .error r := by
  cases e with
  | ok _ => cases h
  | error r => exact ⟨r, rfl⟩

/-- A result that is no error is some value. -/
theorem is_ok {ε α : Type} {e : Except ε α} (h : failed e = false) : ∃ r, e = .ok r := by
  cases e with
  | ok r => exact ⟨r, rfl⟩
  | error _ => cases h

/-- A ring that may be written, and is. -/
theorem writes {s : State} {core : Nat} {k : State → State} {b : List Byte}
    (h : (match ringReady (recRelease s (some core)).1 0 with
      | .ok s2 => (ringWrite (k s2) 0 b).isSome
      | .error _ => false) = true) :
    ∃ s2 s1, ringReady (recRelease s (some core)).1 0 = .ok s2 ∧ ringWrite (k s2) 0 b = some s1 := by
  split at h
  · rename_i s2 e
    obtain ⟨s1, hs⟩ := Option.isSome_iff_exists.mp h
    exact ⟨s2, s1, e, hs⟩
  · cases h

theorem witness_SplitAndTrapEventsComplete :
    (∀ ser, ∃ g, (demo 0 (joining ser) (about (.pair 2 0))).subject = .pair 2 0 ∧ aboutToIssue (demo 0 (joining ser)) 2 0 = some g
        ∧ atJoin g (g.split 0) = true ∧ (g.split 0).ser = ser)
    ∧ (∃ g, (demo 0 (fun g => { g with raised := some ⟨0, 0x100, 1, ⟨7, 1, 0, false, false, false⟩⟩ })).group? 2 = some g ∧ g.raised.isSome = true ∧ g.quiet = true)
    ∧ (∃ s g t r s1 s2, s = demo 0 owing (withRing id) ∧ s.group? 2 = some g
        ∧ g.records = r :: [] ∧ s.team? g.team = some t ∧ earlierRec s t.ctx (some 2) r.ord = false ∧ ringLog (s.ctx t.ctx) ≠ 0 ∧ (recRelease s (some t.core)).2 = true
        ∧ outstanding (recRelease s (some t.core)).1 2 t.core 6 = [] ∧ ringFull ((recRelease s (some t.core)).1.ctx t.ctx) = false
        ∧ ringReady (recRelease s (some t.core)).1 t.ctx = .ok s2 ∧ ringWrite s2 t.ctx r.bytes = some s1)
    ∧ (∃ s s1, s = demo 0 owing (fun s => { withRing id s with runs := [{ probeRun 9 0 with scope := 2 }] }) ∧ (recRelease s (some 0)).2 = true
        ∧ outstanding (recRelease s (some 0)).1 2 0 6 = [] ∧ ringFull ((recRelease s (some 0)).1.ctx 0) = false ∧ ringReady (recRelease s (some 0)).1 0 = .error s1)
    ∧ (∃ s g t r, s = demo 0 owing (withRing (fun c => { c with trpi := 64 })) ∧ s.group? 2 = some g ∧ g.records = r :: [] ∧ s.team? g.team = some t
        ∧ earlierRec s t.ctx (some 2) r.ord = false ∧ ringLog (s.ctx t.ctx) ≠ 0 ∧ (recRelease s (some t.core)).2 = true
        ∧ outstanding (recRelease s (some t.core)).1 2 t.core 6 = [] ∧ ringFull ((recRelease s (some t.core)).1.ctx t.ctx) = true ∧ r.ready = false)
    ∧ (∃ s g r, s = demo 0 owing ∧ s.group? 2 = some g ∧ g.records = r :: [] ∧ earlierRec s 0 (some 2) r.ord = false ∧ ringLog (s.ctx 0) = 0)
    ∧ (∃ g, (demo 0 (fun g => { g with hold := .divert })).group? 2 = some g ∧ g.hold = .divert ∧ settled g = true ∧ diverts g = true)
    ∧ (∃ s x s1 s2, s = demo 0 id (withRing (fun c => { c with hold1 := [posted none, posted none] })) ∧ x = recRelease s (posted none).core ∧ x.2 = true
        ∧ ringLog (s.ctx 0) ≠ 0 ∧ ringFull (s.ctx 0) = false ∧ holdOf (s.ctx 0) 1 = posted none :: [posted none]
        ∧ ringReady x.1 0 = .ok s2 ∧ ringWrite (s2.setCtx 0 (setHold (s2.ctx 0) 1 [posted none])) 0 (posted none).bytes = some s1)
    ∧ (∃ s x s1 s2, s = demo 0 id (fun s => { withRing id s with posts := [posted (some 2)] }) ∧ x = recRelease s (posted (some 2)).core ∧ x.2 = true
        ∧ ringLog (s.ctx 0) ≠ 0 ∧ ringFull (s.ctx 0) = false ∧ holdOf (s.ctx 0) 1 = [] ∧ s.posts.filter (fun r => r.ctx == 0 && r.die == 1) = [posted (some 2)]
        ∧ earlierRec s 0 (posted (some 2)).grp (posted (some 2)).ord = false
        ∧ ringReady x.1 0 = .ok s2 ∧ ringWrite { s2 with posts := s2.posts.filter (fun q => q.ord != (posted (some 2)).ord) } 0 (posted (some 2)).bytes = some s1) := by
  refine ⟨?_, ⟨{ demoGroup 0 with raised := some ⟨0, 0x100, 1, ⟨7, 1, 0, false, false, false⟩⟩ }, by decide +kernel⟩, ?_, ?_,
    ⟨_, owing (demoGroup 0), demoTeam, ⟨5, List.replicate 64 1, false⟩, rfl, by decide +kernel⟩, ⟨_, owing (demoGroup 0), ⟨5, List.replicate 64 1, false⟩, rfl, by decide +kernel⟩,
    ⟨{ demoGroup 0 with hold := .divert }, by decide +kernel⟩, ?_, ?_⟩
  · intro ser
    refine ⟨joining ser (demoGroup 0), rfl, ?_⟩
    cases ser <;> decide +kernel
  · obtain ⟨s2, s1, hr, h⟩ := writes (s := demo 0 owing (withRing id)) (core := 0) (k := id) (b := List.replicate 64 1) (by decide +kernel)
    exact ⟨_, owing (demoGroup 0), demoTeam, ⟨5, List.replicate 64 1, false⟩, s1, s2, rfl, by decide +kernel, rfl, by decide +kernel, by decide +kernel, by decide +kernel,
      by decide +kernel, by decide +kernel, by decide +kernel, hr, h⟩
  · obtain ⟨s1, h⟩ := is_error (e := ringReady (recRelease (demo 0 owing (fun s => { withRing id s with runs := [{ probeRun 9 0 with scope := 2 }] })) (some 0)).1 0) (by decide +kernel)
    exact ⟨_, s1, rfl, by decide +kernel, by decide +kernel, by decide +kernel, h⟩
  · obtain ⟨s2, s1, hr, h⟩ := writes (s := demo 0 id (withRing (fun c => { c with hold1 := [posted none, posted none] }))) (core := 0)
      (k := fun s => s.setCtx 0 (setHold (s.ctx 0) 1 [posted none])) (b := (posted none).bytes) (by decide +kernel)
    exact ⟨_, _, s1, s2, rfl, rfl, by decide +kernel, by decide +kernel, by decide +kernel, by decide +kernel, hr, h⟩
  · obtain ⟨s2, s1, hr, h⟩ := writes (s := demo 0 id (fun s => { withRing id s with posts := [posted (some 2)] })) (core := 0)
      (k := fun s => { s with posts := s.posts.filter (fun q => q.ord != (posted (some 2)).ord) }) (b := (posted (some 2)).bytes) (by decide +kernel)
    exact ⟨_, _, s1, s2, rfl, rfl, by decide +kernel, by decide +kernel, by decide +kernel, by decide +kernel, by decide +kernel, by decide +kernel, hr, h⟩

/-- A line of the L1 of core 0, dirty in one byte or none. -/
def demoLine (dirty : BitVec 128) : L1Line := { line := 0x2000, data := List.replicate 128 9, valid := BitVec.allOnes 128, dirty := dirty, epoch := 1, ctx := 0 }

/-- An invalidation of everything that core 159 and agent 160 have to reach, and that core 0 and the engines owe. -/
def demoInval (ctx : Option Nat) : Inval := ⟨9, ctx, 0, 2 ^ 56, [159, 160], [(0, 8), (161, 8), (160, 8)], none⟩

/-- A clean and a dirty line; a record of a release; a point of a core whose filter is empty, of one that everything concerns, and of an engine;
the acknowledgement of an engine and of a core. -/
theorem witness_CacheEventsComplete :
    (∃ s, s = demo 0 id (fun s => { about (.pair 0 0x2000) s with cores := [(0, { l1 := [demoLine 0] })] }) ∧ l1Line? s 0 0x2000 = some (demoLine 0) ∧ (demoLine 0).dirty = 0)
    ∧ (∃ s, s = demo 0 id (fun s => { about (.pair 0 0x2000) s with cores := [(0, { l1 := [demoLine 1] })] }) ∧ l1Line? s 0 0x2000 = some (demoLine 1) ∧ (demoLine 1).dirty ≠ 0
        ∧ runOn s (chanOf (128 * 0x2000)) = none)
    ∧ (demo 0 id (about (.pair 0x2000 159))).subject = .pair 0x2000 159
    ∧ (∃ s i, s = demo 0 id (fun s => { s with invals := [demoInval (some 0)] }) ∧ inval? s 9 = some i ∧ (159 : Nat) ∈ i.toPoint ∧ i.ctx.isSome = true
        ∧ keysHit (s.core 159).filter i.lo i.hi = false ∧ (160 : Nat) ∈ i.toPoint)
    ∧ (∃ s i, s = demo 0 id (fun s => { s with invals := [demoInval none] }) ∧ inval? s 9 = some i ∧ (159 : Nat) ∈ i.toPoint ∧ i.ctx = none)
    ∧ (∃ s i, s = demo 0 id (fun s => { s with invals := [demoInval (some 0)] }) ∧ inval? s 9 = some i
        ∧ i.toAck.find? (fun a => a.1 == 161) = some (161, 8) ∧ cmdsDone s i 161 = true
        ∧ i.toAck.find? (fun a => a.1 == 160) = some (160, 8) ∧ cmdsDone s i 160 = true ∧ frontDone s 8 = true
        ∧ i.toAck.find? (fun a => a.1 == 0) = some (0, 8) ∧ cmdsDone s i 0 = true ∧ performedBefore (withdrawIdle s 0) 0 8 = true
        ∧ dirtyLeft (drainWait (withdrawIdle s 0) 0 (fun _ => true)) 0 (fun _ => true) = false
        ∧ (drainWait (withdrawIdle s 0) 0 (fun _ => true)).remotes.any (fun r => r.core == 0 && r.wb) = false)
    ∧ (∃ s, s = demo 0 id (fun s => { s with homeRecs := [⟨0x2000, 0, 1⟩], cores := [(0, { l1 := [demoLine 1] })], runs := [{ probeRun 9 0 with scope := 2 }] }) ∧ s.homeRecs = [⟨0x2000, 0, 1⟩]
        ∧ dirtyLeft (drainWait s 0 (fun l => decide (l.epoch.toNat ≤ 1))) 0 (fun l => decide (l.epoch.toNat ≤ 1)) = true)
    ∧ (∃ s, s = demo 0 id (fun s => { s with homeRecs := [⟨0x2000, 0, 1⟩], cores := [(0, { l1 := [demoLine 1] })] }) ∧ s.homeRecs = [⟨0x2000, 0, 1⟩]
        ∧ dirtyLeft (drainWait s 0 (fun l => decide (l.epoch.toNat ≤ 1))) 0 (fun l => decide (l.epoch.toNat ≤ 1)) = false) :=
  ⟨⟨_, rfl, by decide +kernel⟩, ⟨_, rfl, by decide +kernel⟩, rfl, ⟨_, demoInval (some 0), rfl, by decide +kernel⟩,
    ⟨_, demoInval none, rfl, by decide +kernel⟩, ⟨_, demoInval (some 0), rfl, by decide +kernel⟩, ⟨_, rfl, by decide +kernel⟩, ⟨_, rfl, by decide +kernel⟩⟩

/-- An acknowledgement of a core whose dirty line a channel holds back. -/
theorem witness_CacheEventsComplete_held :
    ∃ s i, s = demo 0 id (fun s => { s with invals := [demoInval (some 0)], cores := [(0, { l1 := [demoLine 1] })], runs := [{ probeRun 9 0 with scope := 2 }] })
      ∧ inval? s 9 = some i ∧ i.toAck.find? (fun a => a.1 == 0) = some (0, 8) ∧ cmdsDone s i 0 = true ∧ performedBefore (withdrawIdle s 0) 0 8 = true
      ∧ dirtyLeft (drainWait (withdrawIdle s 0) 0 (fun _ => true)) 0 (fun _ => true) = true :=
  ⟨_, demoInval (some 0), rfl, by decide +kernel⟩

/-! ### Witnesses: events of launches, engines and banks -/

/-- A descriptor with values at offsets. -/
def desc (fs : List (Nat × Nat)) : List Byte := bytesOf 64 (fs.foldl (fun n f => n + f.2 * 256 ^ f.1) 0)

/-- A launch of class 0 with one team on each core, which takes the whole scratch of the core, and one of class 1 that fits on none. -/
def fullPart (s : State) : State :=
  { s with
    dev := { boot := .running }, groups := []
    ctxs := [(0, { s.ctx 0 with savelen := 2 ^ 20, pthr := 2 ^ 40 })]
    launches := [{ demoLaunch with sets := [], nextTix := 158, lr := { demoLaunch.lr with teams := 158, scr := 2 ^ 19, acc := 0, dscr := 0 } },
      { lch := 1, ctx := 0, st := .eligible, lr := { cls := 1, scr := 4096, deadline := 2 ^ 30 } }]
    teams := launchCores.map (fun c => { uid := c, lch := 0, tix := c, core := c, order := c, ssLimit := 2 ^ 19 }) }

/-- A team that a kill has stopped. -/
def killedTeam (placed : Bool) : Team := { demoTeam with killed := true, placed := placed }

/-- A part with a record at the head of launch queue 15. -/
def launching (l : List (Nat × Nat)) (k : State → State) : State :=
  demo 0 id (fun s => k (l.foldl (fun s x => s.setHome x.1 [BitVec.ofNat 8 x.2]) { about (.pair 0 15) s with ctxs := [(0, { s.ctx 0 with lq := [(15, ⟨0x200000, 4, 2, 1⟩)] })] }))

theorem witness_LaunchEventsComplete :
    (∃ s b, s = demo 0 id (fun s => { about (.pair 0 15) s with ctxs := [(0, { s.ctx 0 with lq := [(15, ⟨0x200000, 4, 1, 0⟩)] })] }) ∧ s.dev.boot = .running
        ∧ (queueOf (s.ctx 0) true 15).ok = true ∧ (queueOf (s.ctx 0) true 15).pi ≠ (queueOf (s.ctx 0) true 15).ci
        ∧ (match readReady s (.accept 0 15) 0 (ringVa (queueOf (s.ctx 0) true 15) true (queueOf (s.ctx 0) true 15).ci) 256 with
          | .ok s1 => (readBad s1 (.accept 0 15) 0 (ringVa (queueOf (s.ctx 0) true 15) true (queueOf (s.ctx 0) true 15).ci) 256).isNone
              && readCtx s1 (.accept 0 15) 0 (ringVa (queueOf (s.ctx 0) true 15) true (queueOf (s.ctx 0) true 15).ci) 256 == some b && (checkReads s1 (.accept 0 15) 0 0 b).toOption.isSome
          | .error _ => false) = true)
    ∧ (∃ s, s = launching [(0x210000, 4), (0x10000, 0x1F)] (fun s => { s with runs := [{ probeRun 9 0 with scope := 2 }] }) ∧ failed (readReady s (.accept 0 15) 0 0x200100 256) = true)
    ∧ (∃ s, s = launching [] (fun s => { s with damage := [.mem (0x200100 / 4)] }) ∧ failed (readReady s (.accept 0 15) 0 0x200100 256) = false
        ∧ (readBad s (.accept 0 15) 0 0x200100 256).isSome = true)
    ∧ (∃ s, s = launching [] (fun s => { s with mem := [] }) ∧ failed (readReady s (.accept 0 15) 0 0x200100 256) = false
        ∧ (readBad s (.accept 0 15) 0 0x200100 256).isNone = true ∧ (readCtx s (.accept 0 15) 0 0x200100 256).isNone = true)
    ∧ (∃ s t l s1, s = demo 0 (fun g => { g with retired := true }) ∧ s.team? 1 = some t ∧ t.placed = true ∧ t.killed = false
        ∧ (∀ g, g ∈ groupsOf s 1 → g.retired = true) ∧ teamCmds s 1 = [] ∧ t.waitq = [] ∧ unbound s t = some s1 ∧ (freeTeam s1 1).launch? t.lch = some l)
    ∧ (∃ s, s = demo 0 id (fun s => { s with teams := [killedTeam false] }) ∧ s.team? 1 = some (killedTeam false) ∧ teamCmds s 1 = [])
    ∧ (∃ s s1, s = demo 0 id (fun s => { s with teams := [killedTeam true] }) ∧ s.team? 1 = some (killedTeam true) ∧ teamCmds s 1 = []
        ∧ (killedTeam true).waitq = [] ∧ unbound s (killedTeam true) = some s1)
    ∧ (∃ s t, s = demo 0 (fun g => { g with hold := .preempt }) ∧ s.team? 1 = some t ∧ saving s t = true ∧ quiet s t = true
        ∧ dirtyLeft (drainWait s t.core (fun _ => true)) t.core (fun _ => true) = false)
    ∧ (∃ s t, s = demo 0 (fun g => { g with hold := .preempt }) (fun s => { s with cores := [(0, { l1 := [demoLine 1] })], runs := [{ probeRun 9 0 with scope := 2 }] }) ∧ s.team? 1 = some t
        ∧ saving s t = true ∧ quiet s t = true ∧ dirtyLeft (drainWait s t.core (fun _ => true)) t.core (fun _ => true) = true)
    ∧ (∃ s s1, s = demo 0 id fullPart ∧ s.dev.boot = .running ∧ (chosenSet (distGo maxTeams s)).map (fun t => t.uid) = [158]
        ∧ reserveImages (distGo maxTeams s) (chosenSet (distGo maxTeams s)) = some s1)
    ∧ (∃ s l, s = demo 0 id (fun s => { s with launches := [{ demoLaunch with st := .blocked, lr := { demoLaunch.lr with deadline := 7, budget := 9 } }] })
        ∧ s.launch? 0 = some l ∧ (l.lr.deadline : Int) - l.lr.budget ≤ s.dtime ∧ l.st = .blocked)
    ∧ (∃ s l, s = demo 0 id (fun s => { s with launches := [{ demoLaunch with lr := { demoLaunch.lr with deadline := 7, budget := 0 } }], dtime := 7 })
        ∧ s.launch? 0 = some l ∧ (l.lr.deadline : Int) - l.lr.budget ≤ s.dtime ∧ l.lr.deadline ≤ s.dtime ∧ l.st = .running) := by
  refine ⟨?_, ⟨_, rfl, by decide +kernel⟩, ⟨_, rfl, by decide +kernel⟩, ⟨_, rfl, by decide +kernel⟩, ?_, ⟨_, rfl, by decide +kernel⟩, ?_, ⟨_, demoTeam, rfl, by decide +kernel⟩, ⟨_, demoTeam, rfl, by decide +kernel⟩, ?_, ⟨_, _, rfl, rfl, by decide +kernel⟩, ⟨_, _, rfl, rfl, by decide +kernel⟩⟩
  · exact ⟨_, List.replicate 256 0, rfl, by decide +kernel, by decide +kernel, by decide +kernel, by decide +kernel⟩
  · exact ⟨_, demoTeam, demoLaunch, _, rfl, rfl, rfl, rfl, by decide +kernel, by decide +kernel, rfl, rfl, by decide +kernel⟩
  · exact ⟨_, _, rfl, rfl, by decide +kernel, rfl, rfl⟩
  · obtain ⟨s1, h⟩ := Option.isSome_iff_exists.mp (by decide +kernel :
      (reserveImages (distGo maxTeams (demo 0 id fullPart)) (chosenSet (distGo maxTeams (demo 0 id fullPart)))).isSome = true)
    exact ⟨_, s1, rfl, rfl, by decide +kernel, h⟩

/-- A record whose set table lies in the host's memory: the front end has read the record and waits for the table. -/
theorem witness_LaunchEventsComplete_sets :
    ∃ s : State, s = launching [(0x20011C, 1), (0x200120, 1), (0x200121, 16), (0x20013C, 1), (0x200140, 1), (0x10008, 0x07), (0x10009, 0x0A), (0x1000D, 2)] id
      ∧ (match readReady s (.accept 0 15) 0 0x200100 256 with
        | .ok s1 => (readBad s1 (.accept 0 15) 0 0x200100 256).isNone
            && (readCtx s1 (.accept 0 15) 0 0x200100 256).any (fun b => failed (checkReads s1 (.accept 0 15) 0 0 b))
        | .error _ => false) = true :=
  ⟨_, rfl, by decide +kernel⟩

/-- A command of the team of the tests. -/
def demoCmd (kind : CmdKind) (st : CmdSt) (d : List Byte) : Cmd := { uid := 3, team := 1, grp := 2, kind := kind, st := st, mr := 0, desc := d }

/-- The part with a command in the command queue of core 0. -/
def withCmd (m : Cmd) : State := demo 0 id (fun s => { about (.num 3) s with cores := [(0, { cmdq := [m] })] })

/-- The part with a matrix command in the queue of class 0, and the command that runs. -/
def withMatrix (m : Cmd) (r : Option Nat) : State := demo 0 id (fun s => { about (.num 0) s with cores := [(0, { mq0 := [m], mrun := r })] })

/-- An MMA of one element over K = 64, without metadata, or with indices that are all 0. -/
def demoMma (st : CmdSt) (mr : DWord) : Cmd := { demoCmd .mma st [] with mr := mr, blk := [1, 1, 64, 0, 0, 0, 0, 0, 0, 0, 0, 0, 0] }

/-- A copy of one row of 16 bytes of memory to the core of slot 0; one with no receiver. -/
def cpymDescs : List Byte × List Byte := (desc [(0, 0x100000), (0x14, 1), (0x16, 16), (0x18, 1), (0x19, 0xFF), (0x1A, 0xFF)], desc [])

/-- Eight elements of 32 bits moved in order; one with no element. -/
def lvDescs : List Byte × List Byte := (desc [(8, 0x1000), (0x17, 0x10), (0x18, 8), (0x30, 0x10003)], desc [])

/-- A copy of 4 bytes from memory to scratch, whose source its check has found at a physical address. -/
def demoCpy (pa : Nat) : Cmd := { demoCmd (.cpy 4 [(⟨true, 0x100000, 0x100000⟩, ⟨false, 0, 0⟩)]) .started [] with maps := [(0x100000, 4, pa)] }

/-- The ranges of G that it reads and writes. -/
def cpyAsks (pa : Nat) : List (Nat × Nat) × List (Nat × Nat) := cpyRanges (demoCpy pa) [(⟨true, 0x100000, 0x100000⟩, ⟨false, 0, 0⟩)] 4

/-- A copy from host memory, which asks, and one from memory; a command that has ended; a CPYM and a Louver command that have started, that a check
refuses and that pass; matrix commands; an MMA with bad metadata, with an error in its tile, and with none. -/
theorem witness_EngineEventsComplete :
    (∃ s t, s = withCmd (demoCpy (2 ^ 41)) ∧ s.subject = .num 3 ∧ s.cmd? 3 = some (0, demoCpy (2 ^ 41)) ∧ (demoCpy (2 ^ 41)).rowsLeft s ((cpyAsks (2 ^ 41)).1 ++ (cpyAsks (2 ^ 41)).2) = []
        ∧ gather (serveCmd s 0 (demoCpy (2 ^ 41)) ((cpyAsks (2 ^ 41)).1 ++ (cpyAsks (2 ^ 41)).2)).1 0 (serveCmd s 0 (demoCpy (2 ^ 41)) ((cpyAsks (2 ^ 41)).1 ++ (cpyAsks (2 ^ 41)).2)).2.1
            (cpyAsks (2 ^ 41)).1 (cpyAsks (2 ^ 41)).2 = some t)
    ∧ (∃ s, s = withCmd (demoCpy 0x100000) ∧ s.cmd? 3 = some (0, demoCpy 0x100000) ∧ gather (serveCmd s 0 (demoCpy 0x100000) ((cpyAsks 0x100000).1 ++ (cpyAsks 0x100000).2)).1 0 (serveCmd s 0 (demoCpy 0x100000) ((cpyAsks 0x100000).1 ++ (cpyAsks 0x100000).2)).2.1
            (cpyAsks 0x100000).1 (cpyAsks 0x100000).2 = none
        ∧ (serveCmd s 0 (demoCpy 0x100000) ((cpyAsks 0x100000).1 ++ (cpyAsks 0x100000).2)).2.2 = true)
    ∧ (∃ s m, s = withCmd (demoCmd .louver .ended []) ∧ s.cmd? 3 = some (0, m) ∧ m.st = .ended ∧ canComplete (s.core 0) m = true)
    ∧ (∃ s m, s = withCmd (demoCmd .cpym .started cpymDescs.1) ∧ s.cmd? 3 = some (0, m) ∧ s.team? m.team = some demoTeam ∧ m.kind = .cpym ∧ firstQueued s 0 3 = true ∧ m.st = .started)
    ∧ (∃ s m e, s = withCmd (demoCmd .cpym .queued cpymDescs.2) ∧ s.cmd? 3 = some (0, m) ∧ s.team? m.team = some demoTeam ∧ m.kind = .cpym ∧ firstQueued s 0 3 = true
        ∧ m.st = .queued ∧ cpymCheck s demoTeam m = .error e)
    ∧ (∃ s m l, s = withCmd (demoCmd .cpym .queued cpymDescs.1) ∧ s.cmd? 3 = some (0, m) ∧ s.team? m.team = some demoTeam ∧ m.kind = .cpym ∧ firstQueued s 0 3 = true
        ∧ m.st = .queued ∧ cpymCheck s demoTeam m = .ok l)
    ∧ (∃ s m, s = { withCmd (demoCmd .louver .started lvDescs.1) with subject := .num 0 } ∧ s.subject = .num 0 ∧ lvNext s 0 = some m ∧ s.cmd? m.uid = some (0, m)
        ∧ s.team? m.team = some demoTeam ∧ m.st = .started)
    ∧ (∃ s m e, s = withCmd (demoCmd .louver .queued lvDescs.2) ∧ lvNext s 0 = some m ∧ s.cmd? m.uid = some (0, m) ∧ s.team? m.team = some demoTeam ∧ m.st ≠ .started
        ∧ lvCheck s demoTeam m = .error e)
    ∧ (∃ s m l, s = withCmd (demoCmd .louver .queued lvDescs.1) ∧ lvNext s 0 = some m ∧ s.cmd? m.uid = some (0, m) ∧ s.team? m.team = some demoTeam ∧ m.st ≠ .started
        ∧ lvCheck s demoTeam m = .ok l)
    ∧ (∀ k, k ∈ [CmdKind.mzero, CmdKind.mdrain, CmdKind.mma] → ∀ st, st ∈ [CmdSt.queued, CmdSt.started] → ∃ s m t, s = withMatrix (demoCmd k st []) none
        ∧ s.subject = .num 0 ∧ (s.core 0).mrun = none ∧ mxNext (s.core 0) = some m ∧ s.team? m.team = some t ∧ m.st ≠ .ended ∧ m.kind = k ∧ m.st = st)
    ∧ (∃ s m t fl, s = withMatrix (demoMma .started (BitVec.ofNat 64 (16 * 2 ^ 48))) (some 3) ∧ (s.core 0).mrun = some m.uid ∧ (s.core 0).cmds.find? (fun k => k.uid == m.uid) = some m
        ∧ s.team? m.team = some t ∧ m.kind = .mma ∧ m.st = .started ∧ stepMeta s t m ⟨m.mr, m.blk⟩ (groupSize (mrAFMT m.mr) (mrBFMT m.mr)) = .error fl)
    ∧ (∀ bad, ∃ s m t md, s = { withMatrix (demoMma .started 0) (some 3) with damage := if bad then [.acc 0 0] else [] } ∧ (s.core 0).mrun = some m.uid
        ∧ (s.core 0).cmds.find? (fun k => k.uid == m.uid) = some m ∧ s.team? m.team = some t ∧ m.kind = .mma ∧ m.st = .started
        ∧ stepMeta s t m ⟨m.mr, m.blk⟩ (groupSize (mrAFMT m.mr) (mrBFMT m.mr)) = .ok md
        ∧ stepBad s t ⟨m.mr, m.blk⟩ ((List.range 1).map (takePart ⟨m.mr, m.blk⟩ md (groupSize (mrAFMT m.mr) (mrBFMT m.mr)) 0)) = bad) := by
  refine ⟨?_, ⟨_, rfl, rfl, by decide +kernel, by decide +kernel⟩, ⟨_, _, rfl, rfl, rfl, by decide +kernel⟩, ⟨_, _, rfl, rfl, rfl, rfl, by decide +kernel, rfl⟩, ?_, ?_,
    ⟨_, demoCmd .louver .started lvDescs.1, rfl, rfl, by decide +kernel, rfl, rfl, rfl⟩, ?_, ?_, ?_, ?_, ?_⟩
  · obtain ⟨t, h⟩ := Option.isSome_iff_exists.mp (by decide +kernel :
      (gather (serveCmd (withCmd (demoCpy (2 ^ 41))) 0 (demoCpy (2 ^ 41)) ((cpyAsks (2 ^ 41)).1 ++ (cpyAsks (2 ^ 41)).2)).1 0
        (serveCmd (withCmd (demoCpy (2 ^ 41))) 0 (demoCpy (2 ^ 41)) ((cpyAsks (2 ^ 41)).1 ++ (cpyAsks (2 ^ 41)).2)).2.1 (cpyAsks (2 ^ 41)).1 (cpyAsks (2 ^ 41)).2).isSome = true)
    exact ⟨_, t, rfl, rfl, rfl, by decide +kernel, h⟩
  · obtain ⟨e, h⟩ := is_error (e := cpymCheck (withCmd (demoCmd .cpym .queued cpymDescs.2)) demoTeam (demoCmd .cpym .queued cpymDescs.2)) (by decide +kernel)
    exact ⟨_, _, e, rfl, rfl, rfl, rfl, by decide +kernel, rfl, h⟩
  · obtain ⟨e, h⟩ := is_ok (e := cpymCheck (withCmd (demoCmd .cpym .queued cpymDescs.1)) demoTeam (demoCmd .cpym .queued cpymDescs.1)) (by decide +kernel)
    exact ⟨_, _, e, rfl, rfl, rfl, rfl, by decide +kernel, rfl, h⟩
  · obtain ⟨e, h⟩ := is_error (e := lvCheck (withCmd (demoCmd .louver .queued lvDescs.2)) demoTeam (demoCmd .louver .queued lvDescs.2)) (by decide +kernel)
    exact ⟨_, demoCmd .louver .queued lvDescs.2, e, rfl, by decide +kernel, rfl, rfl, by decide +kernel, h⟩
  · obtain ⟨e, h⟩ := is_ok (e := lvCheck (withCmd (demoCmd .louver .queued lvDescs.1)) demoTeam (demoCmd .louver .queued lvDescs.1)) (by decide +kernel)
    exact ⟨_, demoCmd .louver .queued lvDescs.1, e, rfl, by decide +kernel, rfl, rfl, by decide +kernel, h⟩
  · intro k _ st h
    refine ⟨_, demoCmd k st [], demoTeam, rfl, rfl, rfl, rfl, rfl, ?_, rfl, rfl⟩
    intro e
    have e : st = .ended := e
    subst e
    simp at h
  · obtain ⟨e, h⟩ := is_error (e := stepMeta (withMatrix (demoMma .started (BitVec.ofNat 64 (16 * 2 ^ 48))) (some 3)) demoTeam (demoMma .started (BitVec.ofNat 64 (16 * 2 ^ 48)))
      ⟨BitVec.ofNat 64 (16 * 2 ^ 48), (demoMma .started 0).blk⟩ (groupSize 0 0)) (by decide +kernel)
    exact ⟨_, demoMma .started (BitVec.ofNat 64 (16 * 2 ^ 48)), demoTeam, e, rfl, rfl, rfl, rfl, rfl, rfl, h⟩
  · intro bad
    refine ⟨_, demoMma .started 0, demoTeam, [], rfl, rfl, rfl, rfl, rfl, rfl, ?_⟩
    cases bad <;> decide +kernel

/-- Tables that map the second 2 MiB by a leaf with R, W, C and P to frame 1, a list in scratch that names it, and a bank queue. -/
def withFrames (f : Frame) (q : List Cmd) : State :=
  demo 0 id (fun s => { about (.num 0) s with
    mem := [(0x8000, 1), (0x8002, 1), (0x10000, 1), (0x10002, 2), (0x20000, 0x1F), (0x20008, 0x6F), (0x2000A, 0x20)]
    scr := [(2, 0x20), (8, 1)], frames := [(1, f)], teams := [{ demoTeam with sdLimit := 0x10000 }], cores := [(0, { bankq := q })] })

/-- The same team. -/
def frameTeam : Team := { demoTeam with sdLimit := 0x10000 }

/-- Descriptors of a shutter operation to BANK, and of a run of one NOP in the channel of the frame. -/
def bankDescs : List Byte × List Byte := (desc [(4, 1), (5, 1)], desc [(0, 0x1000), (0x18, 1), (0x19, 1), (0x1B, 1), (0x1D, 0xFF)])

/-- A shutter operation that has started on frame 1. -/
def demoShut (wait : Bool) (d : List Byte) : Cmd := { demoCmd .shut .started d with blk := [1], wait := wait }

/-- A bank run that reads its program, of one word of zeros, at the start of the second 2 MiB, for one entry whose frame is `f`. -/
def reading (f : Nat) : Cmd := { demoCmd .brun .started (desc [(0x0, 0x1000), (0x18, 1), (0x19, 1)]) with maps := [(0x1000, 4, 0x1000)], blk := [f, 0] }

/-- The run of the tests with windows. -/
def windowed (ws : List Win) : Run := { demoRun with st := .suspended, wins := ws }

/-- A run that waits for its BGEs, with words of die scratch to load. -/
def waitingRun : Run := { demoRun with st := .waiting, xlen := 32 }

theorem witness_BankEventsComplete :
    (∃ s m e, s = withFrames {} [demoCmd .shut .queued (desc [])] ∧ s.subject = .num 0 ∧ bankReading (s.core 0) = none ∧ bankNext (s.core 0) = some m
        ∧ s.team? m.team = some frameTeam ∧ m.kind = .shut ∧ shutCheck s frameTeam m = .error e)
    ∧ (∃ s m ys, s = withFrames {} [demoCmd .shut .queued bankDescs.1] ∧ bankReading (s.core 0) = none ∧ bankNext (s.core 0) = some m
        ∧ s.team? m.team = some frameTeam ∧ m.kind = .shut ∧ shutCheck s frameTeam m = .ok ys)
    ∧ (∃ s m e, s = withFrames { st := .bank } [demoCmd .brun .queued (desc [])] ∧ bankReading (s.core 0) = none ∧ bankNext (s.core 0) = some m
        ∧ s.team? m.team = some frameTeam ∧ m.kind ≠ .shut ∧ brunCheck s frameTeam m = .error e)
    ∧ (∃ s m r, s = withFrames { st := .bank } [demoCmd .brun .queued bankDescs.2] ∧ bankReading (s.core 0) = none ∧ bankNext (s.core 0) = some m
        ∧ s.team? m.team = some frameTeam ∧ m.kind ≠ .shut ∧ brunCheck s frameTeam m = .ok r)
    ∧ (∃ s m, s = withFrames { st := .bank } [reading 1] ∧ bankReading (s.core 0) = some m ∧ s.team? m.team = some frameTeam
        ∧ (let d := brunOf m.desc
           let y := serveCmd s 0 m [(d.progVa frameTeam, 4 * d.plen)]
           let prog := (List.range d.plen).map (fun k => BitVec.ofNat 32 (fieldAt (readG y.1 m (d.progVa frameTeam) (4 * d.plen)) (4 * k) 4))
           d.plen = 1 ∧ gather y.1 0 y.2.1 [(d.progVa frameTeam, 4 * d.plen)] [] = none ∧ y.2.2 = true ∧ tokenFail m [(d.progVa frameTeam, 4 * d.plen)] = none
           ∧ badG y.1 m (d.progVa frameTeam) (4 * d.plen) = none ∧ prog.all (wordOk d) = true ∧ (∀ f, f ∈ m.blk.take d.entries → (y.1.frame f).st = .bank)))
    ∧ (∃ s r, s = { demoBank waitingRun with subject := .num 4, runs := [waitingRun, { demoRun with uid := 5, stk := 4 }] } ∧ s.subject = .num 4
        ∧ s.run? 4 = some r ∧ r.st = .waiting ∧ (∀ y, y ∈ s.runs → y.uid ≠ 4 → runsMeet y r = true → y.st = .waiting ∧ runBefore y r = false)
        ∧ (∀ k, k < r.xlen / 4 → badDscr s r.die (r.xsrc + 4 * k) 4 = false))
    ∧ (∃ s r, s = demoBank (windowed [⟨3, 1, some 5, 0, 1⟩, ⟨4, 0, none, 0, 1⟩]) ∧ s.run? 4 = some r ∧ r.st = .suspended ∧ (∀ w, w ∈ r.wins → w.over s.dtime (chanReqs s w.chan) = true))
    ∧ (∃ s m, s = withFrames { st := .handing } [demoShut true bankDescs.1] ∧ s.cmd? 3 = some (0, m) ∧ m.blk[m.step]? = some 1 ∧ m.wait = true
        ∧ (s.frame 1).st = .handing ∧ frameTouched s 1 = false ∧ frameAwaits s 1 = false ∧ (∀ g p v, g ∈ s.groups → p ∈ g.pends → v ∈ p.vals → v.2.place? = none))
    ∧ (∀ first, ∃ s m, s = withFrames { st := .bank, lostw := true } [{ demoShut false (desc [(4, 1)]) with reach := some 7 },
          { demoShut false bankDescs.1 with uid := 5, reach := some (if first then 8 else 6) }] ∧ s.cmd? 3 = some (0, m) ∧ m.blk[m.step]? = some 1 ∧ m.kind = .shut ∧ m.st = .started
        ∧ toBank m = false ∧ (s.frame 1).st = .bank ∧ (s.frame 1).hold = 0 ∧ firstAt s 1 m = first)
    ∧ (∃ s m, s = withFrames {} [demoShut false bankDescs.1] ∧ toBank m = true ∧ dirtyLeft (drainWait s 0 (fun _ => true)) 0 (fun _ => true) = false)
    ∧ (∃ s m, s = { withFrames {} [] with cores := [(0, { l1 := [demoLine 1], bankq := [demoShut false bankDescs.1] })], runs := [{ probeRun 9 0 with scope := 2 }] } ∧ toBank m = true
        ∧ dirtyLeft (drainWait s 0 (fun _ => true)) 0 (fun _ => true) = true)
    ∧ ((about (.pair 255 1) State.reset).subject = .pair 255 1 ∧ runOn (about (.pair 255 1) State.reset) 255 = none)
    ∧ (∃ s r, s = { demoBank demoRun with subject := .pair 96 1 } ∧ s.subject = .pair 96 1 ∧ runOn s 96 = some r) := by
  refine ⟨?_, ?_, ?_, ?_, ⟨_, reading 1, rfl, rfl, rfl, by decide +kernel⟩, ⟨_, waitingRun, rfl, by decide +kernel⟩,
    ⟨_, windowed [⟨3, 1, some 5, 0, 1⟩, ⟨4, 0, none, 0, 1⟩], rfl, by decide +kernel⟩, ⟨_, demoShut true bankDescs.1, rfl, rfl, rfl, rfl, rfl, by decide +kernel, by decide +kernel, ?_⟩,
    fun first => ⟨_, { demoShut false (desc [(4, 1)]) with reach := some 7 }, rfl, by cases first <;> decide +kernel⟩, ⟨_, demoShut false bankDescs.1, rfl, by decide +kernel⟩, ⟨_, demoShut false bankDescs.1, rfl, by decide +kernel⟩, ⟨rfl, rfl⟩, ⟨_, demoRun, rfl, rfl, by decide +kernel⟩⟩
  · obtain ⟨e, h⟩ := is_error (e := shutCheck (withFrames {} [demoCmd .shut .queued (desc [])]) frameTeam (demoCmd .shut .queued (desc []))) (by decide +kernel)
    exact ⟨_, _, e, rfl, rfl, rfl, rfl, rfl, rfl, h⟩
  · obtain ⟨e, h⟩ := is_ok (e := shutCheck (withFrames {} [demoCmd .shut .queued bankDescs.1]) frameTeam (demoCmd .shut .queued bankDescs.1)) (by decide +kernel)
    exact ⟨_, _, e, rfl, rfl, rfl, rfl, rfl, h⟩
  · obtain ⟨e, h⟩ := is_error (e := brunCheck (withFrames { st := .bank } [demoCmd .brun .queued (desc [])]) frameTeam (demoCmd .brun .queued (desc []))) (by decide +kernel)
    exact ⟨_, _, e, rfl, rfl, rfl, rfl, by simp [demoCmd], h⟩
  · obtain ⟨e, h⟩ := is_ok (e := brunCheck (withFrames { st := .bank } [demoCmd .brun .queued bankDescs.2]) frameTeam (demoCmd .brun .queued bankDescs.2)) (by decide +kernel)
    exact ⟨_, _, e, rfl, rfl, rfl, rfl, by simp [demoCmd], h⟩
  · intro g p v hg hp _
    rw [show g = demoGroup 0 from List.mem_singleton.mp hg] at hp
    cases hp

/-! ### Witnesses: 18, 20 and 22 -/

/-- A read of 64 bytes by peer 5 at the last place of the first tier where one fits, and one of a wrong length. -/
def demoReads : PeerReq × PeerReq := (⟨5, .read, 2 ^ 39 - 64, 64, [], [], none⟩, ⟨5, .read, 0, 32, [], [], none⟩)

/-- A write of a line by peer 5 that is to be held, and what tells of it. -/
def demoHeld : PeerReq := ⟨5, .write, 128, 128, List.replicate 128 1, List.replicate 128 true, some 40⟩
/-- (see `demoHeld`) -/
def demoTold (keep : Bool) : PeerReq := ⟨5, if keep then .perform 40 else .withdraw 40, 128, 0, [], [], none⟩

/-- A reduction of peer 5 that is to be held. -/
def demoReduce : PeerReq := ⟨5, .atomic 0 0, 128, 4, [1, 0, 0, 0], [], some 41⟩

/-- A request to peer 3 that awaits its response. -/
def demoRemote : Remote := { uid := 7, core := 0, grp := 2, kind := .read, addr := 2 ^ 51 + 3 * 2 ^ 41, len := 64, data := [], mask := [], since := 0 }

theorem witness_FabricEventsComplete :
    (∃ s r, s = demo 0 id (about (.request demoReads.2)) ∧ s.subject = .request r ∧ (servedShape r && servedTarget r && !frameBusy s r.addr) = false)
    ∧ (∃ s r, s = demo 0 id (fun s => { about (.request demoReads.1) s with homeToks := [(2 ^ 18 - 1, { holder := some 6 })] }) ∧ s.subject = .request r
        ∧ (servedShape r && servedTarget r && !frameBusy s r.addr) = true ∧ tokenRefuses s r.peer r.addr = true)
    ∧ (∃ s r, s = demo 0 id (about (.request demoReads.1)) ∧ s.subject = .request r ∧ (servedShape r && servedTarget r && !frameBusy s r.addr) = true
        ∧ tokenRefuses s r.peer r.addr = false ∧ r.hold = none)
    ∧ (∃ s r, s = demo 0 id (about (.request demoHeld)) ∧ s.subject = .request r ∧ (servedShape r && servedTarget r && !frameBusy s r.addr) = true
        ∧ tokenRefuses s r.peer r.addr = false ∧ r.hold.isSome = true ∧ r.kind ≠ .read ∧ r.kind = .write)
    ∧ (∀ bad, ∃ s r, s = demo 0 id (fun s => { about (.request demoReduce) s with damage := if bad then [.mem 32] else [] }) ∧ s.subject = .request r
        ∧ (servedShape r && servedTarget r && !frameBusy s r.addr) = true
        ∧ tokenRefuses s r.peer r.addr = false ∧ r.hold.isSome = true ∧ r.kind ≠ .read ∧ r.kind ≠ .write ∧ badMem s r.addr r.len = bad)
    ∧ (∃ s, s = demo 0 id (fun s => { s with cores := [(0, { l1 := [demoLine 1] })], homeRecs := [⟨0x2000, 0, 1⟩] }) ∧ s.laters.any (Later.ofPeer 5) = false ∧ failed (linesDrained s [0x2000]) = false)
    ∧ (∃ s, s = demo 0 id (fun s => { s with cores := [(0, { l1 := [demoLine 1] })], homeRecs := [⟨0x2000, 0, 1⟩], runs := [{ probeRun 9 0 with scope := 2 }] }) ∧ s.laters.any (Later.ofPeer 5) = false
        ∧ failed (linesDrained s [0x2000]) = true)
    ∧ (∀ keep, ∃ s r, s = demo 0 id (fun s => { about (.request (demoTold keep)) s with heldReqs := [demoHeld] }) ∧ s.subject = .request r
        ∧ s.heldReqs.find? (fun q => q.peer == r.peer && q.hold == some 40) = some demoHeld ∧ r.kind = if keep then .perform 40 else .withdraw 40)
    ∧ (∃ s r, s = demo 0 id (fun s => { about (.response 7 true .refused) s with remotes := [demoRemote] }) ∧ s.subject = .response 7 true .refused
        ∧ s.remotes.find? (fun r => r.uid == 7 && r.sent) = some r)
    ∧ (∃ s r, s = demo 0 id (fun s => { about (.num 7) s with remotes := [demoRemote], dtime := 50000 }) ∧ s.remotes.find? (fun r => r.uid == 7 && !r.host && r.sent) = some r
        ∧ r.since + 50000 ≤ s.dtime ∧ s.links ≠ [])
    ∧ (demo 0 id (about (.flag 11 true))).subject = .flag 11 true
    ∧ (∃ s, s = demo 0 id (fun s => { about (.pair 4 9) s with homeToks := [(4, ⟨some 9, true, false, []⟩)] }) ∧ s.subject = .pair 4 9
        ∧ isMem (4 * 2 ^ 21) = true ∧ (s.homeTok 4).holder = some 9 ∧ (s.homeTok 4).recalling = true)
    ∧ (∀ st, st ∈ [TokSt.held, TokSt.pending] → ∃ s t, s = about (.num peerRegion) (demoPeer [(255, ⟨peerRegion, st, 1, [0]⟩)]) ∧ s.subject = .num peerRegion
        ∧ tokenOf s peerRegion = some (255, t) ∧ t.st = st) := by
  refine ⟨⟨_, demoReads.2, rfl, rfl, by decide +kernel⟩, ⟨_, demoReads.1, rfl, rfl, by decide +kernel⟩, ⟨_, demoReads.1, rfl, rfl, by decide +kernel⟩,
    ⟨_, demoHeld, rfl, rfl, by decide +kernel⟩, fun bad => ⟨_, demoReduce, rfl, rfl, by cases bad <;> decide +kernel⟩, ⟨_, rfl, by decide +kernel⟩, ⟨_, rfl, by decide +kernel⟩, fun keep => ⟨_, demoTold keep, rfl, rfl, rfl, by cases keep <;> rfl⟩, ⟨_, demoRemote, rfl, rfl, by decide +kernel⟩, ⟨_, demoRemote, rfl, by decide +kernel⟩, rfl, ⟨_, rfl, by decide +kernel⟩, ?_⟩
  intro st h
  refine ⟨_, ⟨peerRegion, st, 1, [0]⟩, rfl, rfl, ?_, rfl⟩
  simp only [List.mem_cons, List.not_mem_nil, or_false] at h
  rcases h with rfl | rfl
  · decide +kernel
  · decide +kernel

/-- The part with a member of the plane. -/
def withMember (l : Lintel) (y : Subject) : State := demo 0 id (fun s => { about y s with lintel := l })

/-- A frame of station 3 without a record, numbered n. -/
def demoFrame (n : Nat) : List Byte :=
  let h := bytesOf 16 (3 + n * 2 ^ 32 + 20 * 2 ^ 64)
  h ++ bytesOf 4 (crc32 h)

theorem witness_LintelEventsComplete :
    (∀ st, ∃ s, s = withMember { st := .up, station := st } (.schedule 12 1000 2) ∧ s.subject = .schedule 12 1000 2 ∧ s.lintel.st = .up ∧ s.lintel.station = st)
    ∧ (∃ s, s = withMember { st := .up, station := .pass } .none ∧ s.lintel.st = .up ∧ s.lintel.station = .pass)
    ∧ (∃ s b, s = withMember { st := .up, seq := 0xFFFFFFFF } (.bytes 0 b) ∧ s.lintel.st = .up ∧ s.subject = .bytes 0 b
        ∧ (frameWhole b && BitVec.ofNat 32 (fieldAt b 4 4) == s.lintel.seq + BitVec.ofNat 32 (s.lintel.frames.length + 1)) = true)
    ∧ (∃ s t q qs, s = withMember { st := .up, frames := [⟨true, [q]⟩] } .none ∧ s.lintel.frames = ⟨true, q :: qs⟩ :: [] ∧ applyRec true s ⟨q.1, q.2⟩ = .ok t)
    ∧ (∃ s t q qs, s = { withMember { st := .up, frames := [⟨true, [q]⟩] } .none with runs := [{ probeRun 9 0 with scope := 2 }] } ∧ s.lintel.frames = ⟨true, q :: qs⟩ :: []
        ∧ applyRec true s ⟨q.1, q.2⟩ = .error t)
    ∧ (∃ s b, s = withMember { st := .up, seq := 4 } (.bytes 0 b) ∧ s.lintel.st = .up ∧ s.subject = .bytes 0 b
        ∧ (frameWhole b && BitVec.ofNat 32 (fieldAt b 4 4) == s.lintel.seq + BitVec.ofNat 32 (s.lintel.frames.length + 1)) = false)
    ∧ (∃ s others, s = withMember { st := .forming, stn := 31, seq := 4 } (.reports others) ∧ s.subject = .reports others ∧ s.lintel.st = .forming
        ∧ kept ((s.lintel.stn, s.lintel.seq.toNat, s.lintel.fromDown) :: others) (s.lintel.stn, s.lintel.seq.toNat, s.lintel.fromDown) = true
        ∧ keptMask ((s.lintel.stn, s.lintel.seq.toNat, s.lintel.fromDown) :: others) ≠ s.lintel.memb)
    ∧ (∃ s others, s = withMember { st := .forming, stn := 31, seq := 4 } (.reports others) ∧ s.subject = .reports others ∧ s.lintel.st = .forming
        ∧ kept ((s.lintel.stn, s.lintel.seq.toNat, s.lintel.fromDown) :: others) (s.lintel.stn, s.lintel.seq.toNat, s.lintel.fromDown) = false)
    ∧ (∀ st, ∃ s, s = withMember { st := st } (.reg 0x300 8 1) ∧ s.subject = .reg 0x300 8 1 ∧ s.lintel.st = st) :=
by
  refine ⟨fun st => ⟨_, rfl, rfl, rfl, rfl⟩, ⟨_, rfl, by decide +kernel⟩, ⟨_, demoFrame 0, rfl, by decide +kernel⟩, ?_, ?_, ⟨_, demoFrame 4, rfl, by decide +kernel⟩,
    ⟨_, [(0, 3, false)], rfl, by decide +kernel⟩, ⟨_, [(31, 4, false)], rfl, by decide +kernel⟩, fun st => ⟨_, rfl, rfl, rfl⟩⟩
  · obtain ⟨t, h⟩ := is_ok (e := applyRec true (withMember { st := .up, frames := [⟨true, [(0, List.replicate 16 1)]⟩] } .none) ⟨0, List.replicate 16 1⟩) (by decide +kernel)
    exact ⟨_, t, (0, List.replicate 16 1), [], rfl, rfl, h⟩
  · obtain ⟨t, h⟩ := is_error (e := applyRec true { withMember { st := .up, frames := [⟨true, [(0, List.replicate 16 1)]⟩] } .none with runs := [{ probeRun 9 0 with scope := 2 }] } ⟨0, List.replicate 16 1⟩)
      (by decide +kernel)
    exact ⟨_, t, (0, List.replicate 16 1), [], rfl, rfl, h⟩

/-- A part that waits for an image whose length has been written. -/
def withLength (n : Nat) : State := { State.reset with dev := { mblen := n }, subject := .reg 0x1C 4 1 }

/-- The context of the tests with a latched host command, and a queue of each kind with room. -/
def withHost (b : List Byte) (y : Subject) (k : State → State := id) : State :=
  demo 0 id (fun s => k { about y s with ctxs := [(0, { s.ctx 0 with hsts := 0, latched := b, wq := [(63, ⟨0x200000, 4, 0, 1⟩)], lq := [(15, ⟨0x200000, 16, 0, 0⟩)] })] })

/-- A group that its first trap has stopped. -/
def stopped : Group := { demoGroup 0 with saved := some ⟨0, (demoGroup 0).splits, (demoGroup 0).frames⟩, stop := some ⟨false, false⟩ }

/-- A ring that the front end may write. -/
theorem ringOk {s : State} {launch : Bool} {q : Queue}
    (h : (match frontReady s 0 .store (ringVa q launch q.pi) with
      | .ok s0 => !failed (ringXlate s0 0 launch q q.pi .store)
      | .error _ => false) = true) :
    ∃ s0 y, frontReady s 0 .store (ringVa q launch q.pi) = .ok s0 ∧ ringXlate s0 0 launch q q.pi .store = .ok y := by
  split at h
  · rename_i s0 e
    obtain ⟨y, hy⟩ := is_ok (by simpa using h)
    exact ⟨s0, y, e, hy⟩
  · cases h

theorem witness_HostEventsComplete :
    ((about (.reg 0x50 4 5000) State.reset).subject = .reg 0x50 4 5000 ∧ (writeEvent 0x50 4 5000).1 = .registerWrite)
    ∧ (∃ s, s = withLength 3073 ∧ s.subject = .reg 0x1C 4 1 ∧ (bar0Write s 0x1C 4 1).dev.boot = .waitImage ∧ 3073 ≤ (bar0Write s 0x1C 4 1).dev.mblen
        ∧ (bar0Write s 0x1C 4 1).dev.mblen ≤ 2 ^ 25)
    ∧ (∃ s, s = withLength 3072 ∧ (bar0Write s 0x1C 4 1).dev.boot = .waitImage ∧ (bar0Write s 0x1C 4 1).dev.mblen < 3073)
    ∧ (∃ s, s = withLength (2 ^ 25 + 1) ∧ (bar0Write s 0x1C 4 1).dev.boot = .waitImage ∧ 2 ^ 25 < (bar0Write s 0x1C 4 1).dev.mblen)
    ∧ (∃ s, s = { State.reset with dev := { boot := .verify, latLen := 3073 }, subject := .image [1] } ∧ s.subject = .image [1] ∧ s.dev.boot = .verify
        ∧ (imageReason (([1] ++ List.replicate s.dev.latLen 0).take s.dev.latLen) ≠ 0 ∨ imageReason (([1] ++ List.replicate s.dev.latLen 0).take s.dev.latLen) = 0))
    ∧ State.reset.dev.boot ≠ .fatal
    ∧ (∃ s, s = demo 0 id (fun s => { about (.pair (2 ^ 30 - 8) 8) s with dev := { boot := .running, b2base := 2 ^ 39 - 24 } }) ∧ s.subject = .pair (2 ^ 30 - 8) 8
        ∧ 2 ^ 30 - 8 + 8 ≤ 2 ^ s.dev.b2log ∧ (∀ pa, pa ∈ bar2Addrs s (2 ^ 30 - 8) 8 → isMem pa = true ∧ frameBusy s pa = false)
        ∧ failed (linesDrained s (((bar2Addrs s (2 ^ 30 - 8) 8).map (fun pa => pa / 128)).eraseDups)) = false)
    ∧ (∃ s, s = demo 0 id (fun s => { about (.pair 0x100000 8) s with cores := [(0, { l1 := [demoLine 1] })], homeRecs := [⟨0x2000, 0, 1⟩], runs := [{ probeRun 9 0 with scope := 2 }] })
        ∧ 0x100000 + 8 ≤ 2 ^ s.dev.b2log ∧ (∀ pa, pa ∈ bar2Addrs s 0x100000 8 → isMem pa = true ∧ frameBusy s pa = false)
        ∧ failed (linesDrained s (((bar2Addrs s 0x100000 8).map (fun pa => pa / 128)).eraseDups)) = true)
    ∧ (∃ s, s = about (.bytes (2 ^ 30 - 1) [1]) State.reset ∧ s.subject = .bytes (2 ^ 30 - 1) [1] ∧ 2 ^ 30 - 1 + ([1] : List Byte).length ≤ 2 ^ s.dev.b2log)
    ∧ (∀ launch b, b = desc (if launch then [(0, 1), (8, 15), (16, 0x300)] else [(0, 2), (8, 63), (16, 0x40)]) →
        ∃ s s0 y, s = withHost b (.record 0 (some [])) ∧ (s.ctx 0).hrec = none ∧ latched? s 0 (if launch then 1 else 2) = some b
          ∧ (onlyNamed b [(8, 4), (16, 8)] && decide (fieldAt b 8 4 < (if launch then 16 else 64)) && fieldAt b 16 8 % recBytes launch == 0
              && (queueOf (s.ctx 0) launch (fieldAt b 8 4)).ok) = true
          ∧ (queueOf (s.ctx 0) launch (fieldAt b 8 4)).full = false
          ∧ frontReady s 0 .store (ringVa (queueOf (s.ctx 0) launch (fieldAt b 8 4)) launch (queueOf (s.ctx 0) launch (fieldAt b 8 4)).pi) = .ok s0
          ∧ ringXlate s0 0 launch (queueOf (s.ctx 0) launch (fieldAt b 8 4)) (queueOf (s.ctx 0) launch (fieldAt b 8 4)).pi .store = .ok y)
    ∧ failed (frontReady (withHost (desc [(0, 2), (8, 63), (16, 0x40)]) (.record 0 (some [])) (fun s => { s with runs := [{ probeRun 9 0 with scope := 2 }] })) 0 .store 0x200000) = true
    ∧ (∃ s b g, s = withHost b (.num 0) (fun s => { s with groups := [stopped] }) ∧ s.subject = .num 0 ∧ (s.dev.boot = .running ∧ (s.ctx 0).hsts = 0 ∧ (s.ctx 0).latched = b)
        ∧ byteAt b 0 = 3 ∧ onlyNamed b [(8, 4), (0xC, 4), (0x10, 1), (0x14, 4)] = true ∧ fieldAt b 0x10 1 ≤ 31 ∧ fieldAt b 0x14 4 % 4 = 0
        ∧ namedGroup s (fieldAt b 8 4) (fieldAt b 0xC 4) (fieldAt b 0x10 1) = some g ∧ resumable s g = true ∧ g.quiet = true ∧ g.records = [])
    ∧ (∃ s b l, s = withHost b (.num 0) ∧ byteAt b 0 = 4 ∧ onlyNamed b [(8, 4)] = true ∧ s.launch? (fieldAt b 8 4) = some l ∧ l.st ≠ .ended)
    ∧ (∃ s b, s = withHost b (.num 0) ∧ byteAt b 0 = 5 ∧ onlyNamed b [(8, 8), (16, 8)] = true ∧ fieldAt b 8 8 + fieldAt b 16 8 = 2 ^ 56 ∧ (firmwareRelease s).2 = true) := by
  refine ⟨⟨rfl, by decide +kernel⟩, ⟨_, rfl, by decide +kernel⟩, ⟨_, rfl, by decide +kernel⟩, ⟨_, rfl, by decide +kernel⟩, ⟨_, rfl, rfl, rfl, (Decidable.em _).symm⟩, by decide,
    ⟨_, rfl, rfl, by decide, by decide +kernel, by decide +kernel⟩, ⟨_, rfl, by decide, by decide +kernel, by decide +kernel⟩, ⟨_, rfl, rfl, by decide⟩, ?_, by decide +kernel, ⟨_, desc [(0, 3), (0x14, 0x1FC)], stopped, rfl, by decide +kernel⟩,
    ⟨_, desc [(0, 4)], demoLaunch, rfl, by decide +kernel⟩, ⟨_, desc [(0, 5), (14, 0x80), (22, 0x80)], rfl, by decide +kernel⟩⟩
  intro launch b h
  subst h
  cases launch
  · obtain ⟨s0, y, h0, h⟩ := ringOk (s := withHost (desc [(0, 2), (8, 63), (16, 0x40)]) (.record 0 (some []))) (launch := false) (q := ⟨0x200000, 4, 0, 1⟩) (by decide +kernel)
    exact ⟨_, s0, y, rfl, rfl, by decide +kernel, by decide +kernel, by decide +kernel, h0, h⟩
  · obtain ⟨s0, y, h0, h⟩ := ringOk (s := withHost (desc [(0, 1), (8, 15), (16, 0x300)]) (.record 0 (some []))) (launch := true) (q := ⟨0x200000, 16, 0, 0⟩) (by decide +kernel)
    exact ⟨_, s0, y, rfl, rfl, by decide +kernel, by decide +kernel, by decide +kernel, h0, h⟩

/-- A write to the registers of a context that clears EN. -/
theorem witness_DeviceEventsComplete_mmio :
    ∃ (s : State) (o w v n : Nat), s.subject = .reg o w v ∧ endedBy o w v = some n :=
  ⟨{ State.reset with subject := .reg 0x1F0000 8 0 }, 0x1F0000, 8, 0, 15, rfl, by decide +kernel⟩

/-- A part that has never locked, one that has, and one that has accepted a launch; a reading of power above the cap, and one at it. -/
theorem witness_DeviceEventsComplete :
    (∃ s : State, s.subject = .num 3601 ∧ s.dev.timeLocked = false ∧ s.dev.anyAccepted = false ∧ capOf s.dev < 3601)
    ∧ (∃ s : State, s.subject = .num 1000 ∧ s.dev.timeLocked = true ∧ s.dev.hot = true ∧ 1000 ≤ capOf s.dev)
    ∧ (∃ s : State, s.subject = .num 0 ∧ s.dev.timeLocked = false ∧ s.dev.anyAccepted = true) :=
  ⟨⟨about (.num 3601) State.reset, by decide +kernel⟩, ⟨{ State.reset with dev := { hot := true, timeLocked := true }, subject := .num 1000 }, by decide +kernel⟩,
    ⟨{ State.reset with dev := { anyAccepted := true }, subject := .num 0 }, rfl, rfl, rfl⟩⟩

/-! ### Witnesses: the machine as a whole -/

/-- Operands of an instruction at width 8, and no destination register. -/
theorem witness_LaneResultsLand :
    ∃ (x : Ix) (d : LaneOp), dstOk d (Width.x8).regs = true ∧ x.g.split x.e = x.sp ∧ x.e < x.g.splits.length ∧ x.act = 0x80000001 := by
  obtain ⟨x, _, h⟩ := meets (s := demo 0) (n := sysNeeds) (fun x => x.g.split x.e = x.sp ∧ x.e < x.g.splits.length ∧ x.act = 0x80000001) (by decide +kernel)
  exact ⟨x, .v 88, by decide, h⟩

/-- The first and the last fields of an encoding at their greatest values. -/
theorem witness_LaneEncodingsDecode :
    (Instr.mma (.g 63) 56 60).isLane = true ∧ (Instr.mma (.g 63) 56 60).wf = true ∧ (Instr.ldg .x8 (.v 88) (.o 14) 0x1FF).isLane = true
      ∧ (Instr.ldg .x8 (.v 88) (.o 14) 0x1FF).wf = true := by
  decide +kernel

theorem witness_BankEncodingsDecode : (Instr.bankMacx 7 0 7 7 ⟨some 7, 63⟩).isBank = true ∧ (Instr.bankMacx 7 0 7 7 ⟨some 7, 63⟩).wf = true := by decide +kernel

theorem witness_DecodedWordsAreWellFormed :
    (0xFA401040 < 2 ^ 32 ∧ decodeWord 0xFA401040 = some (.mma .gz 8 16)) ∧ (0x80000005 < 2 ^ 32 ∧ decodeBank 0x80000005 = some (.bankLoop 0 5)) := by decide +kernel

theorem witness_StepsNeverRefuse :
    ∃ s : State, (s.groups.map (fun g => g.uid)).Nodup ∧ step s = .fault .noSubject :=
  ⟨{ demo 0 with agenda := [.event .coolantOver45c .none, .event .handingDone .none].drop 1 }, by decide +kernel, rfl⟩

/-- An outcome is a next state. -/
def isNext : Host.Outcome State Fault Refusal → Bool
  | .next _ => true
  | _ => false

/-- An outcome that is a next state is some next state. -/
theorem is_next {o : Host.Outcome State Fault Refusal} (h : isNext o = true) : ∃ t, o = .next t := by
  cases o with
  | next t => exact ⟨t, rfl⟩
  | fault _ => cases h
  | refused _ => cases h

theorem witness_StepsKeepTheMemoriesCanonical : ∃ s t, MemWf s ∧ s.mem ≠ [] ∧ step s = .next t := by
  obtain ⟨t, h⟩ := is_next (o := step (demo 0)) (by decide +kernel)
  exact ⟨demo 0, t, ⟨by decide +kernel, by decide +kernel, by decide +kernel, by decide +kernel⟩, by decide +kernel, h⟩

/-- The split of the tests is of a quiet group whose launch has a handler. -/
theorem demo_issues : ∃ x, ixOf (demo 0) = some x ∧ askWaits x.sp = false ∧ Quiet x.g ∧ HasHandler x ∧ (x.sp.ask.getD {}).held = [] ∧ (x.sp.ask.getD {}).ok = [] := by
  obtain ⟨x, hx, h⟩ := meets (s := demo 0) (n := sysNeeds)
    (fun x => x.g.failed = [] ∧ x.g.inHandler = false ∧ x.g.exm ≠ BitVec.allOnes 32 ∧ x.lr.traph ≠ 0xFFFFFFFF ∧ (x.sp.ask.getD {}).held = [] ∧ (x.sp.ask.getD {}).ok = [])
    (by decide +kernel)
  exact ⟨x, hx.names, hx.asked, ⟨h.1, h.2.1, h.2.2.1⟩, h.2.2.2.1, h.2.2.2.2⟩

/-- No L1 of the part of the tests holds a line. -/
theorem demo_settled : Settled (demo 0) := by
  refine ⟨fun c l h => ?_, rfl⟩
  have e : (demo 0).core c = {} := by simp [State.core, demo, demoOf, State.reset]
  rw [e] at h
  cases h

theorem witness_OwnGroupInstructionsKeepTheRest : ∃ i s t x, ownGroup i = true ∧ ixOf s = some x ∧ askWaits x.sp = false ∧ (x.sp.ask.getD {}).held = [] ∧ Quiet x.g ∧ HasHandler x ∧ exec i s = .next t := by
  obtain ⟨x, h⟩ := demo_issues
  obtain ⟨t, ht⟩ := is_next (o := exec (.firstLane (.v 0)) (demo 0)) (by decide +kernel)
  exact ⟨_, _, t, x, rfl, h.1, h.2.1, h.2.2.2.2.1, h.2.2.1, h.2.2.2.1, ht⟩

theorem witness_LoadsLeaveTheMemories :
    ∀ i, i ∈ ([.ldg .x8 (.v 88) (.v 0) 0, .lds .x1 (.v 95) (.v 0) 0x0FF, .ldc .x1 (.v 1) (.v 0) 0, .ldd .x2 (.v 2) (.v 0) 0, .ldl .x4 (.v 4) (.v 0) 0,
        .ldx (.v 1) (.v 0) .g .u8, .ldo true (.v 2) (.v 0) .s true .lintel] : List Instr) →
      ∃ t x, ixOf (demo 0) = some x ∧ Quiet x.g ∧ HasHandler x ∧ Settled (demo 0) ∧ exec i (demo 0) = .next t := by
  intro i h
  obtain ⟨x, hx⟩ := demo_issues
  have ht : isNext (exec i (demo 0)) = true := by
    revert i
    decide +kernel
  obtain ⟨t, ht⟩ := is_next ht
  exact ⟨t, x, hx.1, hx.2.2.1, hx.2.2.2.1, demo_settled, ht⟩

theorem witness_StoresWriteOnlyTheirBytes :
    ∀ i, i ∈ ([.stg .x8 (.v 88) (.v 0) 0, .sts .x1 (.v 95) (.v 0) 0x0FF, .stc .x1 (.v 1) (.v 0) 0, .std .x2 (.v 2) (.v 0) 0, .stl .x4 (.v 4) (.v 0) 0,
        .stx (.v 1) (.v 0) .g true, .stx (.v 1) (.v 0) .l false] : List Instr) →
      ∃ t x, ixOf (demo 0) = some x ∧ Quiet x.g ∧ HasHandler x ∧ Settled (demo 0) ∧ exec i (demo 0) = .next t := by
  intro i h
  obtain ⟨x, hx⟩ := demo_issues
  have ht : isNext (exec i (demo 0)) = true := by
    revert i
    decide +kernel
  obtain ⟨t, ht⟩ := is_next ht
  exact ⟨t, x, hx.1, hx.2.2.1, hx.2.2.2.1, demo_settled, ht⟩

/-- The places of a store in G of the tests, all reached through the L1. -/
theorem witness_StoresReachALineOneWay :
    ∃ x, ixOf (demo 0) = some x ∧ (let ps := (sidePlaces x (sideOf x (plainForm .g .x8 0) .store (.v 0))).flatMap (fun l => l.2)
      ps ≠ [] ∧ ∀ va y vb z, Place.phys va y ∈ ps → Place.phys vb z ∈ ps → y.pa / 128 = z.pa / 128 → (Place.phys va y).past = (Place.phys vb z).past) := by
  obtain ⟨x, hx, h⟩ := meets (s := demo 0) (n := sysNeeds) (fun x => (sidePlaces x (sideOf x (plainForm .g .x8 0) .store (.v 0))).flatMap (fun l => l.2) ≠ []
    ∧ ((sidePlaces x (sideOf x (plainForm .g .x8 0) .store (.v 0))).flatMap (fun l => l.2)).all (fun p => !p.past) = true) (by decide +kernel)
  refine ⟨x, hx.names, h.1, fun va y vb z hy hz _ => ?_⟩
  have e := List.all_eq_true.mp h.2
  have ey := e _ hy
  have ez := e _ hz
  simp only [Bool.not_eq_eq_eq_not, Bool.not_true] at ey ez
  rw [ey, ez]

/-- Words of three lanes at a place of scratch, of die scratch and of memory. -/
def threePlaces : List (Nat × List Place) := [(0, [.scr 0 0x100 0x100]), (1, [.dscr 0 0x100 0x100]), (31, [demoPlace])]

theorem witness_StoresWriteTheirPlaces :
    ∃ x, ixOf (demo 0) = some x ∧ (plainForm .g .x1 0).strong = false ∧ (x.sp.ask.getD {}).held = [] ∧ (x.sp.ask.getD {}).ok = [] ∧ (keptNow x threePlaces (fun i => i) (fun _ => 0)).places = threePlaces
      ∧ (∀ l p, l ∈ threePlaces → p ∈ l.2 → (∃ c o n, p = .scr c o n) ∨ (∃ c o n, p = .dscr c o n) ∨ (∃ va y, p = .phys va y ∧ isMem y.pa = true ∧ p.mirror = false))
      ∧ (writesOf 4 threePlaces (fun i => i)).length = 3
      ∧ (let ws := winners x.s.draws (joinPieces false (writesOf 4 threePlaces (fun i => i)))
         ∀ u w, u ∈ ws → w ∈ ws → u = w ∨ u.2.1.meets u.2.2.length w.2.1 w.2.2.length = false) := by
  obtain ⟨x, hx, h⟩ := demo_issues
  refine ⟨x, hx, rfl, h.2.2.2.1, h.2.2.2.2, rfl, ?_, by decide +kernel, fun u w hu hw => ?_⟩
  · intro l p hl hp
    simp only [threePlaces, List.mem_cons, List.not_mem_nil, or_false] at hl
    rcases hl with rfl | rfl | rfl
    · rw [List.mem_singleton.mp hp]
      exact .inl ⟨_, _, _, rfl⟩
    · rw [List.mem_singleton.mp hp]
      exact .inr (.inl ⟨_, _, _, rfl⟩)
    · rw [List.mem_singleton.mp hp]
      exact .inr (.inr ⟨_, _, rfl, by decide, by decide⟩)
  · have far : ∀ u, u ∈ joinPieces false (writesOf 4 threePlaces (fun i => i)) → ∀ w, w ∈ joinPieces false (writesOf 4 threePlaces (fun i => i)) →
        u = w ∨ u.2.1.meets u.2.2.length w.2.1 w.2.2.length = false := by decide +kernel
    exact far u (List.mem_filter.mp hu).1 w (List.mem_filter.mp hw).1

/-- The last byte of a line, of a core whose L1 holds nothing, or a line that its epoch has left dirty. -/
theorem witness_WritesReadBack :
    255 % 128 + ([7] : List Byte).length ≤ 128 ∧ (∀ l, l1Line? (demo 0) 0 1 = some l → l.dirty = 0 ∨ l.epoch = ((demo 0).core 0).epoch)
      ∧ (∃ s l, s = demo 0 id (fun s => { s with cores := [(0, { epoch := 1, l1 := [demoLine 1] })] }) ∧ l1Line? s 0 0x2000 = some l ∧ l.dirty ≠ 0 ∧ l.epoch = (s.core 0).epoch) :=
  ⟨by decide, (fun _ h => nomatch h), _, demoLine 1, rfl, by decide +kernel⟩

/-- A group with a load in flight, one without, one in its handler, and one whose launch has no handler. -/
theorem witness_TrapsEnterTheHandler :
    (∃ g t, (demo 0 (fun g => { g with pends := [demoPend] })).group? g.uid = some g ∧ (demo 0).team? g.team = some t ∧ g.quiet = false ∧ cFRAME_BUSY < 256)
    ∧ (∃ g t, (demo 0).group? g.uid = some g ∧ (demo 0).team? g.team = some t ∧ g.quiet = true ∧ g.inHandler = false ∧ ((demo 0).lrOf t).traph ≠ 0xFFFFFFFF)
    ∧ (∃ g t, (demo 0 inHandler).group? g.uid = some g ∧ (demo 0 inHandler).team? g.team = some t ∧ g.quiet = true ∧ g.inHandler = true)
    ∧ (∃ s g t, s = demo 0 id (fun s => { s with launches := [{ demoLaunch with lr := {} }] }) ∧ s.group? g.uid = some g ∧ s.team? g.team = some t ∧ g.quiet = true
        ∧ (s.lrOf t).traph = 0xFFFFFFFF) :=
  ⟨⟨{ demoGroup 0 with pends := [demoPend] }, demoTeam, by decide +kernel⟩, ⟨demoGroup 0, demoTeam, by decide +kernel⟩, ⟨inHandler (demoGroup 0), demoTeam, by decide +kernel⟩,
    ⟨_, demoGroup 0, demoTeam, rfl, by decide +kernel⟩⟩

/-- A launch whose group has a role. -/
def withRole (n : Nat) (s : State) : State := { s with launches := [{ demoLaunch with lr := { demoLaunch.lr with roles := n } }] }

/-- A group that is not privileged, with `sg`'s code and another; each role. -/
theorem witness_PrivilegesAndRolesTrap :
    (∃ s x, ixOf s = some x ∧ askTrap x.sp = none ∧ askWaits x.sp = false ∧ keptOf x = none ∧ x.g.priv = false ∧ srSegment (0x10 : BitVec 7).toNat = true)
    ∧ (∀ n, n ∈ [1, 2, 3] → ∃ s x, ixOf s = some x ∧ askTrap x.sp = none ∧ askWaits x.sp = false ∧ keptOf x = none ∧ roleOf x.lr x.g.gix = n
        ∧ noEntry .louver x = false ∧ noEntry .brun x = false ∧ noEntry .mma x = false) := by
  constructor
  · obtain ⟨x, hx, h⟩ := meets (s := demo 0 (fun g => { g with priv := false })) (n := sysNeeds) (fun x => keptOf x = none ∧ x.g.priv = false) (by decide +kernel)
    exact ⟨_, x, hx.names, hx.clear, hx.asked, h.1, h.2, by decide⟩
  · intro n hn
    have hm : meetsIf (demo 0 id (withRole n)) sysNeeds (fun x => decide (keptOf x = none ∧ roleOf x.lr x.g.gix = n ∧ noEntry .louver x = false ∧ noEntry .brun x = false
        ∧ noEntry .mma x = false)) = true := by
      revert n
      decide +kernel
    obtain ⟨x, hx, h⟩ := meets (P := fun x => keptOf x = none ∧ roleOf x.lr x.g.gix = n ∧ noEntry .louver x = false ∧ noEntry .brun x = false ∧ noEntry .mma x = false) hm
    exact ⟨_, x, hx.names, hx.clear, hx.asked, h⟩

theorem witness_ScalesAreEightExponentBits : (0 : BitVec 8) ≠ 255 ∧ (254 : BitVec 8) ≠ 255 := by decide

/-! ### Single steps: results worked out from the spec -/

/-- The state after an instruction. -/
def after (i : Instr) (s : State) : State := match exec i s with
  | .next t => t
  | _ => State.reset

/-- The first group after an instruction. -/
def groupAfter (i : Instr) (s : State) : Group := ((after i s).group? 2).getD (demoGroup 0)

/-- The split of the tests under an MR, with the same words in v4, v5 and on in lanes 0 and 31. -/
def withWords (mr : Nat) (ws : List Word) (g : Group) : Group :=
  { g.setSplit 0 { g.split 0 with mr := BitVec.ofNat 64 mr } with
    regs := ((List.range ws.length).zip ws).map (fun p => (4 + p.1, p.2)) ++ ((List.range ws.length).zip ws).map (fun p => (31 * 112 + 4 + p.1, p.2)) }

/-- v1 of lane 31 after an instruction on words in v4, v5 and v6. -/
def v1 (mr : Nat) (ws : List Word) (i : Instr) : Word := (groupAfter i (demo 0 (withWords mr ws))).reg 31 1

/-- `fx` after the same. -/
def fxOf (mr : Nat) (ws : List Word) (i : Instr) : Word := (groupAfter i (demo 0 (withWords mr ws))).fx

/-- s8x4 elements −128, 127, −1 and 1 less 1, 255, 255 and 1, clamped (R90, R93). -/
theorem test_sub_clamps_bytes : v1 (32 * 4 + 0x2000) [0x8001FF7F, 0x01FFFF80] (.sub .x1 (.v 1) (.v 4) (.v 5)) = 0x8002007F := by decide +kernel
/-- ADD of n32 wraps (R90). -/
theorem test_add_wraps : v1 32 [0xFFFFFFFF, 2] (.add .x1 (.v 1) (.v 4) (.v 5)) = 1 := by decide +kernel
/-- RSUB is b − a (Table 04.1). -/
theorem test_rsub : v1 0 [3, 10] (.rsub .x1 (.v 1) (.v 4) (.v 5)) = 7 := by decide +kernel
/-- The example of 04: ABSD of the s8x4 elements 127 and −128 stores 0xFF. -/
theorem test_absd_of_bytes : v1 (32 * 4) [0x7F, 0x80] (.absd .x1 (.v 1) (.v 4) (.v 5)) = 0xFF := by decide +kernel
/-- MULH of n32: (2^32 − 1)^2 = 2^64 − 2^33 + 1. -/
theorem test_mulh_unsigned : v1 32 [0xFFFFFFFF, 0xFFFFFFFF] (.mulh .x1 (.v 1) (.v 4) (.v 5)) = 0xFFFFFFFE := by decide +kernel
/-- MULH of s32: −1 × 1 = −1, whose high half is all ones. -/
theorem test_mulh_signed : v1 0 [0xFFFFFFFF, 1] (.mulh .x1 (.v 1) (.v 4) (.v 5)) = 0xFFFFFFFF := by decide +kernel
/-- MAD adds the old destination, here v6. -/
theorem test_mad : (groupAfter (.mad .x1 (.v 6) (.v 4) (.v 5)) (demo 0 (withWords 0 [3, 5, 7]))).reg 0 6 = 22 := by decide +kernel
/-- A SHL by the width gives 0, a SHA beyond it copies of the sign (R95). -/
theorem test_shl_full : v1 0 [0xFFFFFFFF, 32] (.shl .x1 (.v 1) (.v 4) (.v 5)) = 0 := by decide +kernel
theorem test_sha_full : v1 0 [0x80000000, 40] (.sha .x1 (.v 1) (.v 4) (.v 5)) = 0xFFFFFFFF := by decide +kernel
/-- ROT takes the count modulo the width (R95). -/
theorem test_rot : v1 0 [0x80000001, 33] (.rot .x1 (.v 1) (.v 4) (.v 5)) = 3 := by decide +kernel
/-- MIN under s16x2 is signed. -/
theorem test_min_signed_halves : v1 (32 * 2) [0xFFFF0001, 0x00010002] (.min .x1 (.v 1) (.v 4) (.v 5)) = 0xFFFF0001 := by decide +kernel
/-- The examples of PERM in 04. -/
theorem test_perm : v1 0 [0x88442211, 0x00007C01] (.perm .x1 (.v 1) (.v 4) (.v 5)) = 0xFF001122 := by decide +kernel
theorem test_perm_ignores_high_half : v1 0 [0x88442211, 0x0C320456] (.perm .x1 (.v 1) (.v 4) (.v 5)) = 0x11000000 := by decide +kernel
/-- BFXS of a field of 8 at 28 stops at bit 31 and takes its sign. -/
theorem test_bfxs_at_top : v1 0 [0x90000000, 0x0000081C] (.bfxs .x1 (.v 1) (.v 4) (.v 5)) = 0xFFFFFFF9 := by decide +kernel
/-- BFI of 8 bits at 4 into the old destination. -/
theorem test_bfi : (groupAfter (.bfi .x1 (.v 6) (.v 4) (.v 5)) (demo 0 (withWords 0 [0x1AB, 0x0804, 0xFFFFFFFF]))).reg 0 6 = 0xFFFFFABF := by decide +kernel
/-- CLZ, POPC, BREV and BSWAP (Table 04.3). -/
theorem test_clz_zero : v1 0 [0] (.clz .x1 (.v 1) (.v 4)) = 32 := by decide +kernel
theorem test_popc : v1 0 [0xF0000001] (.popc .x1 (.v 1) (.v 4)) = 5 := by decide +kernel
theorem test_brev : v1 0 [0x00000003] (.brev .x1 (.v 1) (.v 4)) = 0xC0000000 := by decide +kernel
theorem test_bswap : v1 0 [0x11223344] (.bswap .x1 (.v 1) (.v 4)) = 0x44332211 := by decide +kernel
/-- NEG of an unsigned value clamps to 0 and raises OF (R100). -/
theorem test_neg_unsigned_clamps : v1 (32 + 0x2000) [5] (.neg .x1 (.v 1) (.v 4)) = 0 ∧ fxOf (32 + 0x2000) [5] (.neg .x1 (.v 1) (.v 4)) ≠ 0 := by decide +kernel
/-- SEXT from 8 bits. -/
theorem test_sext : v1 0 [0x180] (.sext .x1 (.v 1) (.v 4) 7) = 0xFFFFFF80 := by decide +kernel
/-- ANDI sign-extends its 7-bit immediate. -/
theorem test_andi : v1 0 [0x12345678] (.andi .x1 (.v 1) (.v 4) 0x7F) = 0x12345678 := by decide +kernel
/-- Under n8x4, `cmpi.eq k1, v4, -1` compares each byte with 0xFF (R105). -/
theorem test_cmpi_wraps : (groupAfter (.cmpi false false .eq 1 (.v 4) 0x1FF) (demo 0 (withWords (32 * 5) [0xFFFFFFFF]))).pred 1 = 0x80000001
    ∧ (groupAfter (.cmpi false false .eq 1 (.v 4) 0x1FF) (demo 0 (withWords (32 * 5) [0xFFFFFF7F]))).pred 1 = 0 := by decide +kernel
/-- 1.5 + 2.25 = 3.75; ∞ − ∞ is the canonical NaN (R42). -/
theorem test_fadd : v1 (32 * 8) [0x3FC00000, 0x40100000] (.fadd .x1 (.v 1) (.v 4) (.v 5)) = 0x40700000 := by decide +kernel
theorem test_fsub_infinities : v1 (32 * 8) [0x7F800000, 0x7F800000] (.fsub .x1 (.v 1) (.v 4) (.v 5)) = 0x7FC00000 := by decide +kernel
/-- 2^127 × 2 overflows to infinity under RNE (R51). -/
theorem test_fmul_overflows : v1 (32 * 8) [0x7F000000, 0x40000000] (.fmul .x1 (.v 1) (.v 4) (.v 5)) = 0x7F800000 := by decide +kernel
/-- (1 + 2^−23)^2 − 1 − 2^−22 = 2^−46, rounded once. -/
theorem test_ffms_rounds_once :
    (groupAfter (.ffms .x1 (.v 6) (.v 4) (.v 5)) (demo 0 (withWords (32 * 8) [0x3F800001, 0x3F800001, 0x3F800002]))).reg 31 6 = 0x28800000 := by decide +kernel
/-- FMIN with a NaN gives the other operand (Table 05.2). -/
theorem test_fmin_of_nan : v1 (32 * 8) [0x7FC00000, 0x3F800000] (.fmin .x1 (.v 1) (.v 4) (.v 5)) = 0x3F800000 := by decide +kernel
/-- Table 05.5: FRCP of −0, FSQRT of 4; R123: FRND of −0.25 gives −0; Table 05.6: −0 is bit 3. -/
theorem test_frcp_of_negative_zero : v1 (32 * 8) [0x80000000] (.frcp .x1 (.v 1) (.v 4)) = 0xFF800000 := by decide +kernel
theorem test_fsqrt : v1 (32 * 8) [0x40800000] (.fsqrt .x1 (.v 1) (.v 4)) = 0x40000000 := by decide +kernel
theorem test_frnd_keeps_sign : v1 (32 * 8) [0xBE800000] (.frnd .x1 (.v 1) (.v 4)) = 0x80000000 := by decide +kernel
theorem test_fclass : v1 (32 * 8) [0x80000000] (.fclass .x1 (.v 1) (.v 4)) = 8 := by decide +kernel
/-- FP32 −2.5 to s32 with TRUNC is −2; to BF16 it is 0xC020 (03). -/
theorem test_cvt_truncates : v1 (32 * 8) [0xC0200000] (.cvt .x1 (.v 1) (.v 4) true 0 .s32) = 0xFFFFFFFE := by decide +kernel
/-- The example of 02: 0x3F808000 rounds to the BF16 1 + 2^−7 under RSR with the generator at 1. -/
theorem test_packf_rounds_with_generator : v1 (32 * 8 + 0x1400) [0x3F808000, 0] (.packfBf16 .x1 (.v 1) (.v 4) (.v 5)) = 0x3F81 := by decide +kernel
/-- DOTZ of the n8x4 elements 1, 2, 3 and 4 with themselves is 30. -/
theorem test_dotz : v1 (32 * 5) [0x04030201, 0x04030201] (.dotz .x1 (.v 1) (.v 4) (.v 5)) = 30 := by decide +kernel
/-- USUB of a pair wraps; UMOVI sign-extends. -/
theorem test_usub_wide : (groupAfter (.usub true 4 .gz (.g 2)) (demo 0 (fun g => { g with gs := [(2, 1)] }))).ureg 5 = 0xFFFFFFFF := by decide +kernel
theorem test_umovi : (groupAfter (.umovi 7 0x8000) (demo 0)).ureg 7 = 0xFFFF8000 := by decide +kernel
/-- BALLOT gives every lane the mask; lane 31 of SHFLX by 31 reads lane 0. -/
theorem test_ballot : (groupAfter (.ballot (.v 1) false 3) (demo 0 (withPred 3 0x80000000))).reg 0 1 = 0x80000000 := by decide +kernel
theorem test_shflx : (groupAfter (.shflx .x1 (.v 1) (.li) 31) (demo 0)).reg 31 1 = 0 ∧ (groupAfter (.shflx .x1 (.v 1) (.li) 31) (demo 0)).reg 0 1 = 31 := by
  decide +kernel
/-- An exclusive SCANADD gives 0 to the first lane and its value to the next; REDADD gives the sum (R175). -/
theorem test_scanadd_exclusive : (groupAfter (.scanadd true (.v 1) (.v 4)) (demo 0 (withWords 0 [9]))).reg 0 1 = 0
    ∧ (groupAfter (.scanadd true (.v 1) (.v 4)) (demo 0 (withWords 0 [9]))).reg 31 1 = 9 := by decide +kernel
theorem test_redadd : v1 0 [9] (.redadd (.v 1) (.v 4)) = 18 := by decide +kernel
/-- A branch of −1 word goes to its own word; a CALL leaves PC + 4 in o15 (111). -/
theorem test_bra_to_itself : ((groupAfter (.braAlways 0x1FFFFF) (demo 0)).split 0).pc = 0x100 := by decide +kernel
theorem test_call_links : (groupAfter (.call 3) (demo 0)).reg 31 111 = 0x104 ∧ ((groupAfter (.call 3) (demo 0)).split 0).pc = 0x110 := by decide +kernel
/-- JMPR to an odd address traps ALIGN, and `tfm` names the lane. -/
theorem test_jmpr_align : (groupAfter (.jmpr .li) (demo 0)).tca = 0x08 ∧ (groupAfter (.jmpr .li) (demo 0)).tfm = 0x80000000 := by decide +kernel
/-- TRAP leaves the next PC in `tpc`, AM in `tam` and its code in `tva`, and enters the handler (R138, R362). -/
theorem test_trap : (groupAfter (.trap 5) (demo 0)).tpc = 0x104 ∧ (groupAfter (.trap 5) (demo 0)).tca = 0x0E ∧ (groupAfter (.trap 5) (demo 0)).tva = 5
    ∧ ((groupAfter (.trap 5) (demo 0)).split 0).pc = 0x400 := by decide +kernel
/-- A word in scratch has its lowest byte first (R8, R143). R242: INC wraps to 0 at its limit, DEC of 0 gives its limit, and MIN of s32 is signed. -/
theorem test_scratch_byte_order : (State.reset.setScr 0 8 (bytesOf 4 0x44332211)).scrBytes 0 8 4 = [0x11, 0x22, 0x33, 0x44] := by decide +kernel
theorem test_atomics : atomNew 8 1 7 7 0 = 0 ∧ atomNew 9 1 0 9 0 = 9 ∧ atomNew 1 0 1 0xFFFFFFFF 0 = 0xFFFFFFFF := by decide +kernel
/-- LDS takes its word into flight; an offset beyond the segment traps SEG_LIMIT. -/
theorem test_lds_in_flight : ((groupAfter (.lds .x1 (.v 1) (.v 0) 0) (demo 0)).pends.map (fun p => p.reg)) = [1] := by decide +kernel
theorem test_lds_limit : (groupAfter (.lds .x1 (.v 1) (.v 4) 0) (demo 0 (withWords 0 [0x10000]))).tca = 0x05 := by decide +kernel
/-- SIG adds its count to the semaphore. -/
theorem test_sig : ((after (.sig 63 9) (demo 0)).teams.map (fun t => (t.sem 63).val)) = [9] := by decide +kernel
/-- LOOP counts b0 from 0 to 65,535 and goes to its target. -/
theorem test_bank_loop : ((after (.bankLoop 0 1) (demoBank demoRun)).runs.map (fun r => (r.upc, r.b.headD 0))) = [(1, 65535)] := by decide +kernel

end Sys2Proof.Tests
end

section
/-! PROOF. Where the result of an instruction with a lane destination lands: its run in the lanes of act, the history of the lanes of AM
(R20), and what the writes of a run leave alone (R24, R27). -/

namespace Sys2Proof.Machine

open Sys2Proof

/-! ### The registers of a run -/

/-- The registers of the words of a run are among the 112 of a lane. -/
def RunInLane (d : LaneOp) (w : Nat) : Prop := ∀ k n, k < w → opReg d k = some n → n < 112

/-- A run that may be a destination stays within a lane. -/
theorem runInLane_of_dstOk {d : LaneOp} {w : Width} (hd : dstOk d w.regs = true) : RunInLane d w.regs := by
  intro k n hk hn
  cases d with
  | v m => cases w <;> simp [dstOk, runOk, opReg, Width.regs] at hd hk hn <;> omega
  | o m => cases w <;> simp [dstOk, runOk, opReg, Width.regs] at hd hk hn <;> omega
  | lx | h _ | z | li => simp [opReg] at hn

/-- Two words of a run have two registers. -/
theorem opReg_inj {d : LaneOp} {j k n : Nat} (hj : opReg d j = some n) (hk : opReg d k = some n) : j = k := by
  cases d <;> simp [opReg] at hj hk <;> omega

/-- Two lane registers have two keys. -/
theorem regKey_inj {i j n m : Nat} (hn : n < 112) (hm : m < 112) : regKey j n = regKey i m ↔ j = i ∧ n = m := by
  unfold regKey
  omega

/-- A lane register as it stands after a lane register is written. -/
theorem writeReg_reg (g : Group) (i m : Nat) (v : Word) (j n : Nat) (hn : n < 112) (hm : m < 112) :
    (writeReg g i m v).reg j n = if j = i ∧ n = m then v else g.reg j n := by
  simp only [Group.reg, writeReg, mget_mset, regKey_inj hn hm]

/-- A lane register as it stands after a word of a run is written. -/
theorem writeWord_reg {d : LaneOp} {k : Nat} (hd : ∀ m, opReg d k = some m → m < 112) (g : Group) (i : Nat) (v : Word) (j n : Nat)
    (hn : n < 112) : (writeWord g d i k v).reg j n = if j = i ∧ opReg d k = some n then v else g.reg j n := by
  unfold writeWord
  cases hm : opReg d k with
  | none => simp
  | some m => simp only [writeReg_reg g i m v j n hn (hd m hm), Option.some.injEq, eq_comm (a := m)]

theorem writeRun_succ (g : Group) (d : LaneOp) (w i v : Nat) :
    writeRun g d (w + 1) i v = writeWord (writeRun g d w i v) d i w (BitVec.ofNat 32 (v / 2 ^ (32 * w))) := by
  simp only [writeRun, List.range_succ, List.foldl_append, List.foldl_cons, List.foldl_nil]

/-- A register of the run holds its word of the value written. -/
theorem writeRun_reg_of_mem {d : LaneOp} (g : Group) {w : Nat} (i v : Nat) (hd : RunInLane d w)
    {k n : Nat} (hk : k < w) (hn : opReg d k = some n) : (writeRun g d w i v).reg i n = BitVec.ofNat 32 (v / 2 ^ (32 * k)) := by
  induction w with
  | zero => omega
  | succ w ih =>
    rw [writeRun_succ, writeWord_reg (fun m => hd w m (by omega)) _ _ _ _ _ (hd k n hk hn)]
    split
    · next h => rw [opReg_inj hn h.2]
    · next h =>
      have hkw : k ≠ w := by rintro rfl; exact h ⟨rfl, hn⟩
      exact ih (fun k m hk => hd k m (by omega)) (by omega)

/-- The other lanes and the registers outside the run keep their words. -/
theorem writeRun_reg_of_not_mem {d : LaneOp} (g : Group) {w : Nat} (i v : Nat) (hd : RunInLane d w)
    {j n : Nat} (hlt : n < 112) (hn : j ≠ i ∨ ∀ k, k < w → opReg d k ≠ some n) : (writeRun g d w i v).reg j n = g.reg j n := by
  induction w with
  | zero => rfl
  | succ w ih =>
    rw [writeRun_succ, writeWord_reg (fun m => hd w m (by omega)) _ _ _ _ _ hlt, if_neg]
    · exact ih (fun k m hk => hd k m (by omega)) (hn.imp_right (fun h k hk => h k (by omega)))
    · rintro ⟨hj, hw⟩
      exact hn.elim (· hj) (fun h => h w (by omega) hw)

/-! ### What the results of lanes leave of the group -/

/-- A group whose lane registers are written and flags raised keeps its history, predicates, uniform registers, splits and flags. -/
structure LaneWrites (g h : Group) : Prop where
  hist : h.hist = g.hist
  preds : h.preds = g.preds
  gs : h.gs = g.gs
  splits : h.splits = g.splits
  fx : h.fx &&& g.fx = g.fx

theorem LaneWrites.refl (g : Group) : LaneWrites g g := ⟨rfl, rfl, rfl, rfl, BitVec.and_self⟩

theorem LaneWrites.trans {g h k : Group} (a : LaneWrites g h) (b : LaneWrites h k) : LaneWrites g k where
  hist := b.hist.trans a.hist
  preds := b.preds.trans a.preds
  gs := b.gs.trans a.gs
  splits := b.splits.trans a.splits
  fx := by
    calc k.fx &&& g.fx = k.fx &&& (h.fx &&& g.fx) := by rw [a.fx]
      _ = (k.fx &&& h.fx) &&& g.fx := (BitVec.and_assoc ..).symm
      _ = g.fx := by rw [b.fx, a.fx]

/-- A fold of lane writes is one. -/
theorem foldl_laneWrites {α : Type} (f : Group → α → Group) (hf : ∀ g a, LaneWrites g (f g a)) (l : List α) (g : Group) :
    LaneWrites g (l.foldl f g) := by
  induction l generalizing g with
  | nil => exact .refl g
  | cons a t ih => exact (hf g a).trans (ih _)

theorem writeReg_laneWrites (g : Group) (i r : Nat) (v : Word) : LaneWrites g (writeReg g i r v) := ⟨rfl, rfl, rfl, rfl, BitVec.and_self⟩

theorem writeWord_laneWrites (g : Group) (d : LaneOp) (i k : Nat) (v : Word) : LaneWrites g (writeWord g d i k v) := by
  unfold writeWord
  split
  · exact writeReg_laneWrites g i _ v
  · exact .refl g

theorem writeRun_laneWrites (g : Group) (d : LaneOp) (w i v : Nat) : LaneWrites g (writeRun g d w i v) :=
  foldl_laneWrites _ (fun g k => writeWord_laneWrites g d i k _) _ g

theorem orFx_laneWrites (g : Group) (fl : Nat) : LaneWrites g (orFx g fl) where
  hist := rfl
  preds := rfl
  gs := rfl
  splits := rfl
  fx := by
    refine BitVec.eq_of_getLsbD_eq (fun i _ => ?_)
    simp only [orFx, BitVec.getLsbD_and, BitVec.getLsbD_or]
    cases g.fx.getLsbD i <;> simp

theorem putResult_laneWrites (d : LaneOp) (w : Nat) (g : Group) (q : Nat × LaneRes) : LaneWrites g (putResult d w g q) := by
  have h := (writeRun_laneWrites g d w q.1 q.2.val).trans (orFx_laneWrites _ q.2.flags)
  unfold putResult
  dsimp only
  split
  · exact ⟨h.hist, h.preds, h.gs, h.splits, h.fx⟩
  · exact h

/-- The flags and the generator of a lane's result are no registers. -/
theorem putResult_reg (d : LaneOp) (w : Nat) (g : Group) (q : Nat × LaneRes) (j n : Nat) :
    (putResult d w g q).reg j n = (writeRun g d w q.1 q.2.val).reg j n := by
  unfold putResult
  dsimp only
  split <;> rfl

/-! ### The results of the lanes of act -/

/-- A lane without a result and a register outside the run keep their words. -/
theorem foldl_putResult_reg_of_not_mem {d : LaneOp} {w : Nat} (hd : RunInLane d w) {j n : Nat} (hlt : n < 112)
    (rs : List (Nat × LaneRes)) (hn : (∀ q ∈ rs, j ≠ q.1) ∨ ∀ k, k < w → opReg d k ≠ some n) (g : Group) :
    (rs.foldl (putResult d w) g).reg j n = g.reg j n := by
  induction rs generalizing g with
  | nil => rfl
  | cons q t ih =>
    rw [List.foldl_cons, ih (hn.imp_left (fun h p hp => h p (List.mem_cons_of_mem _ hp))), putResult_reg]
    exact writeRun_reg_of_not_mem g q.1 q.2.val hd hlt (hn.imp_left (fun h => h q List.mem_cons_self))

/-- A lane with a result holds word k of it in register k of the run. -/
theorem foldl_putResult_reg_of_mem {d : LaneOp} {w : Nat} (hd : RunInLane d w) {k n : Nat} (hk : k < w)
    (hn : opReg d k = some n) (r : Nat → LaneRes) {i : Nat} {l : List Nat} (hi : i ∈ l) (g : Group) :
    ((l.map (fun i => (i, r i))).foldl (putResult d w) g).reg i n = BitVec.ofNat 32 ((r i).val / 2 ^ (32 * k)) := by
  induction l generalizing g with
  | nil => cases hi
  | cons j t ih =>
    rw [List.map_cons, List.foldl_cons]
    by_cases ht : i ∈ t
    · exact ih ht _
    · obtain rfl : i = j := (List.mem_cons.mp hi).resolve_right ht
      rw [foldl_putResult_reg_of_not_mem hd (hd k n hk hn), putResult_reg, writeRun_reg_of_mem g i (r i).val hd hk hn]
      refine .inl (fun q hq => ?_)
      obtain ⟨j, hj, rfl⟩ := List.mem_map.mp hq
      exact fun h => ht (h ▸ hj)

/-- The result of a lane of act is found under its lane. -/
theorem find?_resultsOf (x : Ix) (r : Nat → LaneRes) {i : Nat} (hi : i < 32) (ha : x.act.getLsbD i = true) :
    (resultsOf x r).find? (fun q => q.1 == i) = some (i, r i) := by
  have hmem : i ∈ lanesOf x.act := (mem_lanesOf _ _).mpr ⟨hi, ha⟩
  cases hf : (resultsOf x r).find? (fun q => q.1 == i) with
  | none => exact absurd (List.find?_eq_none.mp hf (i, r i) (List.mem_map.mpr ⟨i, hmem, rfl⟩)) (by simp)
  | some q =>
    obtain ⟨j, -, rfl⟩ := List.mem_map.mp (List.mem_of_find?_eq_some hf)
    obtain rfl : j = i := by simpa using List.find?_some hf
    rfl

/-! ### The history -/

/-- The history after the first m of the moves that take the entries of one lane up by one, the last entry first (R20). -/
def movedEntries (h : List (Nat × Word)) (i m : Nat) : List (Nat × Word) :=
  (List.range m).foldl (fun h' j => mset 0 h' (histKey i (7 - j)) (mget 0 h (histKey i (6 - j)))) h

/-- The history with the entries of one lane moved up by one, under a new first entry (R20). -/
def shiftLane (h : List (Nat × Word)) (i : Nat) (v : Word) : List (Nat × Word) := mset 0 (movedEntries h i 6) (histKey i 1) v

theorem enterHist_hist (g : Group) (e : Nat) (act : Lanes) (res : Nat → Nat) :
    (enterHist g e act res).hist =
      (lanesOf (g.split e).am).foldl (fun h i => shiftLane h i (if act.getLsbD i then BitVec.ofNat 32 (res i) else 0)) g.hist := rfl

/-- A history entry after an entry is written. -/
theorem mget_mset_histKey (h : List (Nat × Word)) (i m : Nat) (v : Word) (j n : Nat) (hn : n ≤ 7) (hm : m ≤ 7) :
    mget 0 (mset 0 h (histKey i m) v) (histKey j n) = if j = i ∧ n = m then v else mget 0 h (histKey j n) := by
  rw [mget_mset]
  exact if_congr (by unfold histKey; omega) rfl rfl

theorem movedEntries_succ (h : List (Nat × Word)) (i m : Nat) :
    movedEntries h i (m + 1) = mset 0 (movedEntries h i m) (histKey i (7 - m)) (mget 0 h (histKey i (6 - m))) := by
  simp only [movedEntries, List.range_succ, List.foldl_append, List.foldl_cons, List.foldl_nil]

/-- The entries above 7 − m have moved up after m of the moves, and the others have not. -/
theorem mget_movedEntries (h : List (Nat × Word)) (i j : Nat) {n : Nat} (hn : n ≤ 7) {m : Nat} (hm : m ≤ 6) :
    mget 0 (movedEntries h i m) (histKey j n) = if j = i ∧ 7 - m < n then mget 0 h (histKey j (n - 1)) else mget 0 h (histKey j n) := by
  induction m with
  | zero => rw [if_neg (by omega)]; rfl
  | succ m ih =>
    rw [movedEntries_succ, mget_mset_histKey _ _ _ _ _ _ hn (by omega), ih (by omega)]
    by_cases hk : j = i ∧ n = 7 - m
    · obtain ⟨rfl, rfl⟩ := hk
      rw [if_pos ⟨rfl, rfl⟩, if_pos (by omega), show 7 - m - 1 = 6 - m by omega]
    · rw [if_neg hk]
      exact if_congr (by omega) rfl rfl

/-- One lane's history after its shift; the other lanes keep theirs. -/
theorem mget_shiftLane (h : List (Nat × Word)) (i : Nat) (v : Word) (j : Nat) {n : Nat} (h1 : 1 ≤ n) (h7 : n ≤ 7) :
    mget 0 (shiftLane h i v) (histKey j n) =
      if j = i then (if n = 1 then v else mget 0 h (histKey j (n - 1))) else mget 0 h (histKey j n) := by
  rw [shiftLane, mget_mset_histKey _ _ _ _ _ _ h7 (by omega), mget_movedEntries h i j h7 le_rfl]
  by_cases hj : j = i
  · by_cases hn : n = 1
    · simp [hj, hn]
    · simp [hj, hn, show 1 < n by omega]
  · simp [hj]

/-- Every lane of a list has its history shifted once, and the other lanes keep theirs. -/
theorem mget_foldl_shiftLane (v : Nat → Word) (j : Nat) {n : Nat} (h1 : 1 ≤ n) (h7 : n ≤ 7) {l : List Nat} (hl : l.Nodup)
    (h : List (Nat × Word)) :
    mget 0 (l.foldl (fun h i => shiftLane h i (v i)) h) (histKey j n) =
      if j ∈ l then (if n = 1 then v j else mget 0 h (histKey j (n - 1))) else mget 0 h (histKey j n) := by
  induction l generalizing h with
  | nil => simp
  | cons i t ih =>
    obtain ⟨hi, ht⟩ := List.nodup_cons.mp hl
    rw [List.foldl_cons, ih ht, mget_shiftLane h i (v i) j h1 h7]
    by_cases hji : j = i
    · subst hji
      simp [hi]
    · by_cases hn : n = 1
      · simp [hji, hn]
      · rw [mget_shiftLane h i (v i) j (by omega) (by omega)]
        simp [hji, hn]

theorem lanesOf_nodup (m : Lanes) : (lanesOf m).Nodup := List.nodup_range.filter _

/-- A lane's history after an instruction enters it. -/
theorem mget_enterHist (g : Group) (e : Nat) (act : Lanes) (res : Nat → Nat) {i n : Nat} (hi : i < 32) (h1 : 1 ≤ n) (h7 : n ≤ 7) :
    mget 0 (enterHist g e act res).hist (histKey i n) =
      if (g.split e).am.getLsbD i then
        (if n = 1 then (if act.getLsbD i then BitVec.ofNat 32 (res i) else 0) else mget 0 g.hist (histKey i (n - 1)))
      else mget 0 g.hist (histKey i n) := by
  rw [enterHist_hist, mget_foldl_shiftLane (fun i => if act.getLsbD i then BitVec.ofNat 32 (res i) else 0) i h1 h7 (lanesOf_nodup _)]
  simp only [mem_lanesOf, hi, true_and]

theorem getD_setAt_same {α : Type} (l : List α) {e : Nat} (y d : α) (he : e < l.length) : (setAt l e y).getD e d = y := by
  induction l generalizing e with
  | nil => simp at he
  | cons a t ih =>
    cases e with
    | zero => rfl
    | succ e => exact ih (by simpa using he)

theorem enterHist_hv (g : Group) (e : Nat) (act : Lanes) (res : Nat → Nat) (he : e < g.splits.length) :
    ((enterHist g e act res).split e).hv = min 7 ((g.split e).hv + 1) := by
  have hs : (enterHist g e act res).split e = { g.split e with hv := min 7 ((g.split e).hv + 1) } := getD_setAt_same g.splits _ {} he
  rw [hs]

/-! ### The result of an instruction -/

/-- The group after the results of the lanes of act are written, before the instruction enters the history. -/
def wroteResults (x : Ix) (d : LaneOp) (w : Nat) (r : Nat → LaneRes) : Group := (resultsOf x r).foldl (putResult d w) x.g

theorem wroteResults_laneWrites (x : Ix) (d : LaneOp) (w : Nat) (r : Nat → LaneRes) : LaneWrites x.g (wroteResults x d w r) :=
  foldl_laneWrites _ (putResult_laneWrites d w) _ x.g

/-- The entry into the history writes no lane register. -/
theorem putResults_reg (x : Ix) (d : LaneOp) (w : Nat) (r : Nat → LaneRes) (i n : Nat) :
    (putResults x d w r).reg i n = (wroteResults x d w r).reg i n := rfl

/-- The predicates and the uniform registers are as before, and no flag is taken away (R24, R27). -/
theorem putResults_frame (x : Ix) (d : LaneOp) (w : Nat) (r : Nat → LaneRes) :
    (putResults x d w r).preds = x.g.preds ∧ (putResults x d w r).gs = x.g.gs ∧ (putResults x d w r).fx &&& x.g.fx = x.g.fx :=
  have h := wroteResults_laneWrites x d w r
  ⟨h.preds, h.gs, h.fx⟩

/-- Each lane of act holds word k of its result in register k of the run. -/
theorem putResults_reg_of_mem (x : Ix) {d : LaneOp} {w : Width} (r : Nat → LaneRes) (hd : dstOk d w.regs = true) {i k n : Nat} (hi : i < 32)
    (ha : x.act.getLsbD i = true) (hk : k < w.regs) (hn : opReg d k = some n) :
    (putResults x d w.regs r).reg i n = BitVec.ofNat 32 ((r i).val / 2 ^ (32 * k)) :=
  (putResults_reg x d w.regs r i n).trans
    (foldl_putResult_reg_of_mem (runInLane_of_dstOk hd) hk hn r ((mem_lanesOf _ _).mpr ⟨hi, ha⟩) x.g)

/-- The lanes outside act and the registers outside the run keep their words. -/
theorem putResults_reg_of_not_mem (x : Ix) {d : LaneOp} {w : Width} (r : Nat → LaneRes) (hd : dstOk d w.regs = true) {i n : Nat}
    (hlt : n < 112) (h : x.act.getLsbD i = false ∨ ∀ k, k < w.regs → opReg d k ≠ some n) :
    (putResults x d w.regs r).reg i n = x.g.reg i n := by
  refine (putResults_reg x d w.regs r i n).trans
    (foldl_putResult_reg_of_not_mem (runInLane_of_dstOk hd) hlt _ (h.imp_left (fun ha q hq => ?_)) x.g)
  obtain ⟨j, hj, rfl⟩ := List.mem_map.mp hq
  rintro rfl
  exact absurd ((mem_lanesOf _ _).mp hj).2 (by simp [ha])

/-- The first entry of a lane of act is its result, and of the other lanes of AM 0. -/
theorem putResults_hist (x : Ix) (d : LaneOp) (w : Nat) (r : Nat → LaneRes) (hsp : x.g.split x.e = x.sp) {i n : Nat} (hi : i < 32)
    (h1 : 1 ≤ n) (h7 : n ≤ 7) :
    mget 0 (putResults x d w r).hist (histKey i n) =
      if x.am.getLsbD i then
        (if n = 1 then (if x.act.getLsbD i then BitVec.ofNat 32 (r i).val else 0) else mget 0 x.g.hist (histKey i (n - 1)))
      else mget 0 x.g.hist (histKey i n) := by
  have hw := wroteResults_laneWrites x d w r
  have ham : ((wroteResults x d w r).split x.e).am = x.am := by rw [Group.split, hw.splits]; exact congrArg Split.am hsp
  refine (mget_enterHist (wroteResults x d w r) x.e x.act _ hi h1 h7).trans ?_
  rw [ham, hw.hist]
  cases ha : x.act.getLsbD i with
  | false => rfl
  | true => simp only [find?_resultsOf x r hi ha]

/-- HV goes up to at most 7. -/
theorem putResults_hv (x : Ix) (d : LaneOp) (w : Nat) (r : Nat → LaneRes) (hsp : x.g.split x.e = x.sp) (he : x.e < x.g.splits.length) :
    ((putResults x d w r).split x.e).hv = min 7 (x.sp.hv + 1) := by
  have hw := wroteResults_laneWrites x d w r
  have hspl : (wroteResults x d w r).split x.e = x.sp := by rw [Group.split, hw.splits]; exact hsp
  refine (enterHist_hv (wroteResults x d w r) x.e x.act _ (by rw [hw.splits]; exact he)).trans ?_
  rw [hspl]

/-- Settles O47: the writes of the lanes of act touch distinct registers, and the history takes one shift in each lane of AM. -/
theorem laneResultsLand : Obligations.LaneResultsLand := by
  intro x d w r hd hsp he
  obtain ⟨hpreds, hgs, hfx⟩ := putResults_frame x d w.regs r
  refine ⟨⟨?_, ?_, ?_, ?_, hfx, ?_, putResults_hv x d w.regs r hsp he⟩, fun _ _ _ => rfl⟩
  · exact fun i k n hi ha hk hn => putResults_reg_of_mem x r hd hi ha hk hn
  · exact fun i n _ hn h => putResults_reg_of_not_mem x r hd hn h
  · exact fun k => congrArg (fun ps => ps.getD k 0) hpreds
  · exact fun n => congrArg (fun m => mget 0 m n) hgs
  · exact fun i n hi h1 h7 => putResults_hist x d w.regs r hsp hi h1 h7

end Sys2Proof.Machine
end

section
/-! PROOF. The value of an E8M0 scale (R43): the pair that `scale2` forms stands for num/den × 2^k whatever the sign of k, so an
encoding below 255 is an exact power of two. -/

namespace Sys2Proof.Machine

open Sys2Proof

/-- Scaling up multiplies the numerator. -/
@[simp] theorem scale2_natCast (num den d : Nat) : scale2 num den (d : Int) = (num * 2 ^ d, den) := by
  simp [scale2]

/-- Scaling down multiplies the denominator. -/
@[simp] theorem scale2_neg_natCast (num den d : Nat) : scale2 num den (-(d : Int)) = (num, den * 2 ^ d) := by
  cases d with
  | zero => simp [scale2]
  | succ d => rw [scale2, if_neg (by omega), neg_neg, Int.toNat_natCast]

/-- Scaling a fraction by 2^(p − q), cross-multiplied. -/
theorem scale2_sub_cross (num den p q : Nat) :
    (scale2 num den ((p : Int) - q)).1 * (den * 2 ^ q) = num * 2 ^ p * (scale2 num den ((p : Int) - q)).2 := by
  rcases Nat.le_total q p with h | h <;> obtain ⟨d, rfl⟩ := Nat.exists_eq_add_of_le h
  · have hk : ((q + d : Nat) : Int) - q = d := by omega
    rw [hk, scale2_natCast]
    ring
  · have hk : (p : Int) - (p + d : Nat) = -(d : Int) := by omega
    rw [hk, scale2_neg_natCast]
    ring

theorem scale2_num_pos {num : Nat} (den : Nat) (k : Int) (h : 0 < num) : 0 < (scale2 num den k).1 := by
  unfold scale2
  split
  · exact Nat.mul_pos h (Nat.two_pow_pos _)
  · exact h

theorem scale2_den_pos (num : Nat) {den : Nat} (k : Int) (h : 0 < den) : 0 < (scale2 num den k).2 := by
  unfold scale2
  split
  · exact h
  · exact Nat.mul_pos h (Nat.two_pow_pos _)

/-- Encoding 255 is the NaN of E8M0. -/
theorem e8m0Val_nan : e8m0Val 255 = .nan := rfl

/-- Every other encoding is one times a power of two. -/
theorem e8m0Val_of_ne {x : Nat} (h : x ≠ 255) : e8m0Val x = dyadic false 1 ((x : Int) - (127 : Nat)) := if_neg h

/-- Settles O46: an encoding other than 255 has the exact value 1 × 2^(E − 127). -/
theorem scalesAreEightExponentBits : Obligations.ScalesAreEightExponentBits := by
  refine ⟨fun e he => ?_, e8m0Val_nan⟩
  have hne : e.toNat ≠ 255 := fun h => he (BitVec.eq_of_toNat_eq h)
  refine ⟨_, _, e8m0Val_of_ne hne, scale2_num_pos 1 _ one_pos, scale2_den_pos 1 _ one_pos, ?_⟩
  simpa only [one_mul] using scale2_sub_cross 1 1 e.toNat 127

end Sys2Proof.Machine
end

section
/-! PROOF. The integer, logic, shift, selection and bit-field instructions of the lanes (04 R94 to R98): what an element operation and a
register operation answer when they pass checks 1 to 4, and what the selections and the bit fields compute. -/

namespace Sys2Proof.Machine

open Sys2Proof

/-! ### What an operation of a format answers -/

section
variable {s : State} {x : Ix} {w : Width} {d a b : LaneOp}

/-- A format A element operation applies its element function under the issuing split's MR.TY and MR.SAT. -/
theorem intOp3_of_issues {readsD : Bool} (f : ElOp) (h : Issues s x (intNeeds w d a b readsD)) :
    intOp3 w d a b readsD f s = onGroup x (intResult x w d a b readsD (f (intSigned x.ty) x.sat (intBits x.ty))) := issueG_does h

/-- A format N element operation applies its element function to the element of A. -/
theorem intOp2_of_issues (f : Bool → Bool → Nat → Int → Nat × Nat) (h : Issues s x (intNeeds2 w d a)) :
    intOp2 w d a (fun sg sat n p _ _ => f sg sat n p) s = onGroup x (intResult2 x w d a (f (intSigned x.ty) x.sat (intBits x.ty))) :=
  issueG_does h

/-- A format A register operation applies its function to each register, whatever MR.TY holds. -/
theorem regOp3_of_issues {readsD : Bool} (f : Word → Word → Word → Word) (h : Issues s x (needs3 w.regs d a b readsD (fun _ => none))) :
    regOp3 w d a b readsD f s = onGroup x (regResult x w d a b readsD f) := issueG_does h

end

/-! ### Minima, maxima, shifts and logic -/

/-- Settles O5: MIN and MAX are element operations, and so work on elements read with the signedness of MR.TY. -/
theorem minimaAndMaximaComplete : Obligations.MinimaAndMaximaComplete :=
  fun _ _ _ _ _ _ h => ⟨intOp3_of_issues elMin h, intOp3_of_issues elMax h⟩

/-- Settles O6: the shifts work on the patterns of the elements, and the immediate forms take the count from the instruction. -/
theorem shiftsComplete : Obligations.ShiftsComplete := by
  intro s x w d a b
  refine ⟨fun h => ⟨?shl, ?shr, ?sha, ?rot⟩, fun m h => ⟨?shli, ?shri, ?shai, ?roti⟩, fun _ _ _ => rfl, fun _ _ _ => rfl⟩
  case shl => exact intOp3_of_issues (elShift shlBits) h
  case shr => exact intOp3_of_issues (elShift shrBits) h
  case sha => exact intOp3_of_issues (elShift shaBits) h
  case rot => exact intOp3_of_issues (elShift rotBits) h
  case shli => exact intOp2_of_issues (fun _ _ n p => (shlBits n (pat p n) m.val, 0)) h
  case shri => exact intOp2_of_issues (fun _ _ n p => (shrBits n (pat p n) m.val, 0)) h
  case shai => exact intOp2_of_issues (fun _ _ n p => (shaBits n (pat p n) m.val, 0)) h
  case roti => exact intOp2_of_issues (fun _ _ n p => (rotBits n (pat p n) m.val, 0)) h

/-- Settles O7: the four are register operations, whose needs and results do not name MR.TY. -/
theorem logicIsOnRegisters : Obligations.LogicIsOnRegisters :=
  fun _ _ _ _ _ _ h => ⟨regOp3_of_issues _ h, regOp3_of_issues _ h, regOp3_of_issues _ h, regOp3_of_issues _ h⟩

/-! ### Selections (R97) -/

theorem bitOf_toNat {n : Nat} (v : BitVec n) (i : Nat) : bitOf v.toNat i = v.getLsbD i := by
  rw [BitVec.getLsbD, Nat.testBit_eq_decide_div_mod_eq]
  rfl

/-- Without the guard MR.GE is 0. -/
@[simp] theorem unguarded_mrGE (x : Ix) : mrGE x.unguarded.sp.mr = false := by
  have hGE : (~~~(0x10 : DWord)).getLsbD 4 = false := by decide
  rw [mrGE, bitOf_toNat]
  simp only [Ix.unguarded, BitVec.getLsbD_and, hGE, Bool.and_false]

/-- Without the guard act is AM (R24). -/
theorem unguarded_act (x : Ix) : x.unguarded.act = x.am := by
  simp only [Ix.act, actOf, unguarded_mrGE, Bool.false_eq_true, if_false]
  rfl

/-- Settles O8: SEL writes with the guard off, so in every lane of AM; SELZ is a register operation. -/
theorem selectionsComplete : Obligations.SelectionsComplete :=
  fun _ x _ _ _ _ => ⟨fun h => issueG_does h, unguarded_act x, fun h => regOp3_of_issues _ h⟩

/-! ### Bit fields (R98) -/

/-- An element of a packed list is the element of the list, as far as it fits. -/
theorem elOf_packEls (n : Nat) (l : List Nat) (j : Nat) : elOf n (packEls n l) j = l.getD j 0 % 2 ^ n := by
  unfold elOf
  induction l generalizing j with
  | nil => simp [packEls]
  | cons y t ih =>
    cases j with
    | zero => simp [packEls]
    | succ j =>
      have hy : (y % 2 ^ n + 2 ^ n * packEls n t) / 2 ^ n = packEls n t := by
        rw [Nat.add_mul_div_left _ _ (Nat.two_pow_pos n), Nat.div_eq_of_lt (Nat.mod_lt _ (Nat.two_pow_pos n)), Nat.zero_add]
      rw [packEls, Nat.mul_succ, Nat.add_comm (n * j), Nat.pow_add, ← Nat.div_div_eq_div_mul, hy, ih]
      rfl

/-- An element of a packed value computed from the numbers of its elements. -/
theorem elOf_mapEls (n : Nat) {cnt j : Nat} (f : Nat → Nat) (hj : j < cnt) : elOf n (mapEls n cnt f) j = f j % 2 ^ n := by
  rw [mapEls, elOf_packEls, List.getD_eq_getElem _ _ (by simpa using hj), List.getElem_map, List.getElem_range]

/-- An element that lies within the low m bits is that of the low m bits. -/
theorem elOf_mod_two_pow {n m j : Nat} (v : Nat) (h : n * j + n ≤ m) : elOf n (v % 2 ^ m) j = elOf n v j := by
  refine Nat.eq_of_testBit_eq (fun i => ?_)
  simp only [elOf, Nat.testBit_mod_two_pow, Nat.testBit_div_two_pow]
  by_cases hi : i < n
  · simp [hi, show i + n * j < m by omega]
  · simp [hi]

/-- A byte of PERM is a byte. -/
theorem permByte_lt (p : Word) (c : Nat) : permByte p c < 2 ^ 8 := by
  unfold permByte
  dsimp only
  split
  · decide
  · split
    · split <;> decide
    · exact Nat.mod_lt _ (Nat.two_pow_pos 8)

/-- Byte j of PERM is the one that nibble j of b chooses. -/
theorem elOf_permWord (p q : Word) {j : Nat} (hj : j < 4) : elOf 8 (permWord p q).toNat j = permByte p (elOf 4 q.toNat j) := by
  rw [permWord, BitVec.toNat_ofNat, elOf_mod_two_pow _ (by omega), elOf_mapEls 8 _ hj, Nat.mod_eq_of_lt (permByte_lt _ _)]

/-- The bits of a field that is not empty: those from its position up to its top. -/
def fieldMask (q : Word) : Word := BitVec.ofNat 32 ((2 ^ (bitField q).2.2 - 1) * 2 ^ (bitField q).1)

/-- A field is empty when its length b[13:8] is 0. -/
theorem bitField_empty (q : Word) : (bitField q).2.1 = true ↔ bitsOf q.toNat 13 8 = 0 := beq_iff_eq

section
variable {q : Word}

/-- The field of length 0 has no bits, so that BFX and BFXS give 0 and BFI leaves the destination. -/
theorem bitFields_of_len_eq_zero (p : Word) (h : bitsOf q.toNat 13 8 = 0) :
    bfxWord p q = 0 ∧ bfxsWord p q = 0 ∧ ∀ r, bfiWord p q r = r := by
  have he := (bitField_empty q).mpr h
  refine ⟨if_pos he, if_pos he, fun r => ?_⟩
  calc
    bfiWord p q r = (r &&& ~~~0#32) ||| (BitVec.ofNat 32 (p.toNat * 2 ^ (bitField q).1) &&& 0#32) := by
      simp only [bfiWord, he, if_true, BitVec.ofNat_eq_ofNat]
    _ = r := by rw [BitVec.and_zero, BitVec.or_zero, BitVec.not_zero, BitVec.and_allOnes]

theorem bfxWord_of_len_ne_zero (p : Word) (h : bitsOf q.toNat 13 8 ≠ 0) :
    bfxWord p q = BitVec.ofNat 32 (p.toNat / 2 ^ (bitField q).1 % 2 ^ (bitField q).2.2) :=
  if_neg (mt (bitField_empty q).mp h)

theorem bfxsWord_of_len_ne_zero (p : Word) (h : bitsOf q.toNat 13 8 ≠ 0) :
    bfxsWord p q = BitVec.ofInt 32 (sx (p.toNat / 2 ^ (bitField q).1) (bitField q).2.2) :=
  (if_neg (mt (bitField_empty q).mp h)).trans (ofNat_pat 32 _)

/-- Within the field BFI takes the bits of a, and outside it those of the destination. -/
theorem bfiWord_of_len_ne_zero (p r : Word) (h : bitsOf q.toNat 13 8 ≠ 0) :
    bfiWord p q r = (r &&& ~~~(fieldMask q)) ||| (BitVec.ofNat 32 (p.toNat * 2 ^ (bitField q).1) &&& fieldMask q) := by
  simp only [bfiWord, if_neg (mt (bitField_empty q).mp h), fieldMask]

end

/-- Settles O9: the four are register operations, and each of their words is what R98 says of an empty and of a non-empty field. -/
theorem bitFieldsComplete : Obligations.BitFieldsComplete := by
  intro s x w d a b
  refine ⟨fun h => ⟨regOp3_of_issues _ h, regOp3_of_issues _ h, regOp3_of_issues _ h⟩, fun h => regOp3_of_issues _ h, fun p q => ?_⟩
  refine ⟨bitFields_of_len_eq_zero p, fun h => ⟨?bfx, ?bfxs, fun r => ?bfi⟩, fun j hj => elOf_permWord p q hj⟩
  case bfx => exact bfxWord_of_len_ne_zero p h
  case bfxs => exact bfxsWord_of_len_ne_zero p h
  case bfi => exact bfiWord_of_len_ne_zero p r h

end Sys2Proof.Machine
end

section
/-! PROOF. The branches of the whole split (07 R164): which lanes of AM a condition takes, and where the split goes by them. -/

namespace Sys2Proof.Machine

open Sys2Proof

/-! ### The lanes that a condition takes -/

section
variable (x : Ix) (k : Nat) (n : Bool)

/-- A lane is taken when it is in AM and its k[K] XOR N is 1 (R164). -/
theorem taken_getLsbD {i : Nat} (hi : i < 32) : (taken x k n).getLsbD i = (x.am.getLsbD i && ((x.g.pred k).getLsbD i != n)) := by
  rw [taken, predLanes, BitVec.getLsbD_and]
  cases n with
  | false => simp
  | true => simp [hi]

theorem taken_eq_zero_iff : taken x k n = 0 ↔ ¬∃ i, i < 32 ∧ x.am.getLsbD i = true ∧ ((x.g.pred k).getLsbD i != n) = true := by
  constructor
  · rintro h ⟨i, hi, ham, hc⟩
    have hlane := taken_getLsbD x k n hi
    rw [h, ham, hc] at hlane
    simp at hlane
  · intro h
    refine lanes_ext (fun i hi => ?_)
    rw [taken_getLsbD x k n hi, BitVec.ofNat_eq_ofNat, BitVec.getLsbD_zero, ← Bool.not_eq_true, Bool.and_eq_true]
    exact fun hlane => h ⟨i, hi, hlane⟩

theorem taken_eq_am_iff : taken x k n = x.am ↔ ∀ i, i < 32 → x.am.getLsbD i = true → ((x.g.pred k).getLsbD i != n) = true := by
  constructor
  · intro h i hi ham
    have hlane := taken_getLsbD x k n hi
    rwa [h, ham, Bool.true_and, eq_comm] at hlane
  · intro h
    refine lanes_ext (fun i hi => ?_)
    rw [taken_getLsbD x k n hi, Bool.and_eq_left_iff_imp]
    exact h i hi

end

/-! ### Where the split goes -/

/-- A branch of the whole split leaves the group as it is, and jumps exactly when its condition holds. -/
theorem branchIf_of_issues {s : State} {x : Ix} {k : Nat} (h : Issues s x (branchNeeds k)) (off : BitVec 21) {c : Ix → Bool} {p : Prop}
    (hc : c x = true ↔ p) :
    (p → branchIf off k c s = does x (x.s.setGroup x.g) (.jump (branchTarget x.sp.pc off)))
      ∧ (¬p → branchIf off k c s = does x (x.s.setGroup x.g) .step) := by
  refine ⟨fun hp => issueG_eq h rfl ?_, fun hp => issueG_eq h rfl ?_⟩
  · rw [if_pos (hc.mpr hp)]
  · rw [if_neg (mt hc.mp hp)]

/-- The park that bit S asks for: an entry that is READY waits when a result of its lanes is in flight (R31). -/
def parkOfS (sw : Bool) (g : Group) (sp : Split) : SplitSt :=
  if sw && sp.st == .ready && g.inFlight sp.lanes then .sparked else sp.st

/-- A jump sets the PC, the park and the time of its entry. -/
theorem settleSplit_jump (clock e : Nat) (sw : Bool) (t : Word) (g : Group) :
    settleSplit clock e sw (.jump t) g = mergeSame (g.setSplit e
      { g.split e with pc := t, st := parkOfS sw g (g.split e), since := clock, ask := none, word := none }) := by
  cases sw <;> rfl

/-- A step sets the PC, the park and the time of its entry. -/
theorem settleSplit_step (clock e : Nat) (sw : Bool) (g : Group) :
    settleSplit clock e sw .step g = mergeSame (g.setSplit e
      { g.split e with pc := (g.split e).pc + 4, st := parkOfS sw g (g.split e), since := clock, ask := none, word := none }) := by
  cases sw <;> rfl

/-- Settles O19: the branches test whether the lanes that the condition takes are some, all or none of AM. -/
theorem wholeSplitBranchesComplete : Obligations.WholeSplitBranchesComplete := by
  intro s x k n off h
  refine ⟨⟨?bany, ?ball, ?bnone⟩, fun clock e sw g t _ _ => ⟨⟨_, settleSplit_jump clock e sw t g⟩, ⟨_, settleSplit_step clock e sw g⟩⟩⟩
  case bany => exact branchIf_of_issues h off (bne_iff_ne.trans ((taken_eq_zero_iff x k.val n).not.trans not_not))
  case ball => exact branchIf_of_issues h off (beq_iff_eq.trans (taken_eq_am_iff x k.val n))
  case bnone => exact branchIf_of_issues h off (beq_iff_eq.trans (taken_eq_zero_iff x k.val n))

end Sys2Proof.Machine
end

section
/-! PROOF. The slack of a launch in a pair of uniform registers (17 R386): the words of the pattern of an integer, what a pair holds after
a write to it, and the sampling of RDSLK. -/

namespace Sys2Proof.Machine

open Sys2Proof

/-! ### The words of a 64-bit pattern -/

/-- A pattern is the residue of its integer. -/
theorem natCast_pat (z : Int) (n : Nat) : (pat z n : Int) = z % 2 ^ n := by
  rw [pat, Int.toNat_of_nonneg (Int.emod_nonneg _ (by positivity)), Nat.cast_pow, Nat.cast_ofNat]

/-- A word of n bits takes an integer modulo 2^n. -/
theorem ofInt_eq_of_emod_eq {n : Nat} {y z : Int} (h : y % 2 ^ n = z % 2 ^ n) : BitVec.ofInt n y = BitVec.ofInt n z := by
  apply BitVec.eq_of_toNat_eq
  rw [BitVec.toNat_ofInt, BitVec.toNat_ofInt, Nat.cast_pow, Nat.cast_ofNat, h]

/-- The low word of a 64-bit pattern is the word of its integer. -/
theorem low_pat (z : Int) : BitVec.ofNat 32 (pat z 64) = BitVec.ofInt 32 z := by
  rw [← BitVec.ofInt_natCast, natCast_pat]
  exact ofInt_eq_of_emod_eq (Int.emod_emod_of_dvd z (by decide))

/-- The high word of a 64-bit pattern is the word of its integer shifted down, which keeps the sign. -/
theorem high_pat (z : Int) : BitVec.ofNat 32 (pat z 64 / 2 ^ 32) = BitVec.ofInt 32 (z / 2 ^ 32) := by
  have hdiv : z % 2 ^ 64 / 2 ^ 32 % 2 ^ 32 = z / 2 ^ 32 % 2 ^ 32 := by omega
  rw [← BitVec.ofInt_natCast, Int.natCast_ediv, natCast_pat]
  exact ofInt_eq_of_emod_eq hdiv

/-! ### What a pair of uniform registers holds after a write -/

section
variable (g : Group)

@[simp] theorem ureg_setUreg_self (n : Nat) (v : Word) : (g.setUreg n v).ureg n = v := mget_mset_self 0 g.gs n v

theorem ureg_setUreg_ne {n m : Nat} (v : Word) (h : m ≠ n) : (g.setUreg n v).ureg m = g.ureg m := mget_mset_ne 0 g.gs v h

theorem writeUni_pair_low (d : Fin 64) (v : Nat) : (writeUni g true d v).ureg d.val = BitVec.ofNat 32 v :=
  (ureg_setUreg_ne _ _ (Nat.ne_of_lt d.val.lt_succ_self)).trans (ureg_setUreg_self g _ _)

theorem writeUni_pair_high (d : Fin 64) (v : Nat) : (writeUni g true d v).ureg (d.val + 1) = BitVec.ofNat 32 (v / 2 ^ 32) :=
  ureg_setUreg_self _ _ _

theorem writeUni_pair_other (d : Fin 64) (v : Nat) {n : Nat} (hlow : n ≠ d.val) (hhigh : n ≠ d.val + 1) :
    (writeUni g true d v).ureg n = g.ureg n :=
  (ureg_setUreg_ne _ _ hhigh).trans (ureg_setUreg_ne g _ hlow)

end

/-! ### The slack at issue -/

/-- A team of a launch reads that launch's value. -/
theorem launchVal_of_launch {x : Ix} {l : Launch} (hl : x.s.launch? x.t.lch = some l) (f : Launch → Nat) : launchVal x f = f l := by
  rw [launchVal, hl]

/-- RDSLK writes the pattern of the slack of its team's launch and goes on at the next word. -/
theorem execRdslk_of_issues {s : State} {x : Ix} {l : Launch} (hl : x.s.launch? x.t.lch = some l) (h : Issues s x onceNeeds) (d : Fin 64) :
    execRdslk d s = onGroup x (writeUni x.g true d (pat (slackOf x.s l) 64)) :=
  issueG_eq h rfl (by rw [launchVal_of_launch hl])

/-- The slack is negative once the device time is past T_wrap − COST × U (R192). -/
theorem slackOf_neg_iff (s : State) (l : Launch) : slackOf s l < 0 ↔ tWrap l.lr - l.lr.cost * unfinished s l < s.dtime := by
  rw [slackOf, tWrap]
  omega

/-- Settles O31: RDSLK writes the 64-bit pattern of the slack as a pair, whose words are those of the slack and of its upper half. -/
theorem slackIsSampled : Obligations.SlackIsSampled := by
  intro s x d l hl h
  refine ⟨?answer, ?low, ?high, fun n => writeUni_pair_other x.g d _, slackOf_neg_iff x.s l⟩
  case answer => exact (exec_rdslk d s).trans (execRdslk_of_issues hl h d)
  case low => exact (writeUni_pair_low x.g d _).trans (low_pat _)
  case high => exact (writeUni_pair_high x.g d _).trans (high_pat _)

end Sys2Proof.Machine
end

section
/-! PROOF. Encoding and decoding of lane words agree (03): the fields of a word of each format (Table 03.1), and the candidate that each MAJ
reads from them. -/

namespace Sys2Proof

open Sys2Proof.Machine

/-! ### Fields of a number -/

theorem bitsOf_testBit (x hi lo i : Nat) : (bitsOf x hi lo).testBit i = (decide (i < hi + 1 - lo) && x.testBit (i + lo)) := by
  rw [bitsOf, Nat.testBit_mod_two_pow, Nat.testBit_div_two_pow]

theorem bitOf_testBit (x n : Nat) : bitOf x n = x.testBit n := by
  rw [Nat.testBit_eq_decide_div_mod_eq]
  rfl

/-- A field within the low k bits is a field of them. -/
theorem bitsOf_mod_two_pow (x lo : Nat) {hi k : Nat} (h : hi < k) : bitsOf (x % 2 ^ k) hi lo = bitsOf x hi lo := by
  refine Nat.eq_of_testBit_eq (fun i => ?_)
  simp only [bitsOf_testBit, Nat.testBit_mod_two_pow, ← Bool.and_assoc, ← Bool.decide_and]
  congr 2
  exact propext ⟨And.left, fun hi => ⟨hi, by omega⟩⟩

theorem bitOf_mod_two_pow (x : Nat) {n k : Nat} (h : n < k) : bitOf (x % 2 ^ k) n = bitOf x n := by
  rw [bitOf_testBit, bitOf_testBit, Nat.testBit_mod_two_pow, decide_eq_true h, Bool.true_and]

/-- A field of a field. -/
theorem bitsOf_bitsOf (x : Nat) {hi lo h l : Nat} (hh : lo + h ≤ hi) (hl : l ≤ h) : bitsOf (bitsOf x hi lo) h l = bitsOf x (lo + h) (lo + l) := by
  refine Nat.eq_of_testBit_eq (fun i => ?_)
  rw [bitsOf_testBit, bitsOf_testBit, bitsOf_testBit, ← Bool.and_assoc, ← Bool.decide_and, show i + l + lo = i + (lo + l) by omega]
  congr 2
  exact propext (by omega)

theorem bitOf_bitsOf (x : Nat) {hi lo n : Nat} (h : lo + n ≤ hi) : bitOf (bitsOf x hi lo) n = bitOf x (lo + n) := by
  rw [bitOf_testBit, bitOf_testBit, bitsOf_testBit, Nat.add_comm n lo, decide_eq_true (by omega), Bool.true_and]

@[simp] theorem bitOf_toNat_zero (c : Bool) : bitOf c.toNat 0 = c := by cases c <;> rfl

/-! ### The fields of a word -/

/-- The fields that most formats share (Table 03.1). -/
structure FieldsW (x maj w d : Nat) : Prop where
  maj : bitsOf x 30 25 = maj
  w : bitsOf x 24 23 = w
  d : bitsOf x 22 16 = d

/-- The fields of a word of format A or U. -/
structure FieldsA (x maj w d a b fn : Nat) : Prop extends FieldsW x maj w d where
  a : bitsOf x 15 9 = a
  b : bitsOf x 8 2 = b
  fn : bitsOf x 1 0 = fn

/-- The fields of a word of format B, N, V or NU. -/
structure FieldsB (x maj w d a r : Nat) : Prop extends FieldsW x maj w d where
  a : bitsOf x 15 9 = a
  low : x % 2 ^ 9 = r

/-- The fields of a word of format D. -/
structure FieldsD (x maj k : Nat) (n : Bool) (off : BitVec 21) : Prop where
  maj : bitsOf x 30 25 = maj
  kn : bitsOf x 24 21 = 2 * k + n.toNat
  off : x % 2 ^ 21 = off.toNat

section
variable (s : Nat)

theorem fieldsW_encW {maj w d r : Nat} (hm : maj < 64) (hw : w < 4) (hd : d < 128) (hr : r < 65536) :
    FieldsW (encW maj w d r + s * 2 ^ 31) maj w d := by
  constructor <;> simp only [encW, bitsOf] <;> omega

theorem fieldsA_encA {maj w d a b fn : Nat} (hm : maj < 64) (hw : w < 4) (hd : d < 128) (ha : a < 128) (hb : b < 128) (hf : fn < 4) :
    FieldsA (encA maj w d a b fn + s * 2 ^ 31) maj w d a b fn where
  toFieldsW := fieldsW_encW s hm hw hd (by omega)
  a := by simp only [encA, encW, bitsOf]; omega
  b := by simp only [encA, encW, bitsOf]; omega
  fn := by simp only [encA, encW, bitsOf]; omega

theorem fieldsB_encB {maj w d a r : Nat} (hm : maj < 64) (hw : w < 4) (hd : d < 128) (ha : a < 128) (hr : r < 512) :
    FieldsB (encB maj w d a r + s * 2 ^ 31) maj w d a r where
  toFieldsW := fieldsW_encW s hm hw hd (by omega)
  a := by simp only [encB, encW, bitsOf]; omega
  low := by simp only [encB, encW]; omega

theorem fieldsD_encD {maj k : Nat} {n : Bool} {off : BitVec 21} (hm : maj < 64) (hk : k < 8) :
    FieldsD (encD maj k n off + s * 2 ^ 31) maj k n off := by
  have hn := n.toNat_lt
  constructor <;> simp only [encD, bitsOf] <;> omega

end

theorem encW_lt {maj w d r : Nat} (hm : maj < 64) (hw : w < 4) (hd : d < 128) (hr : r < 65536) : encW maj w d r < 2 ^ 31 := by
  simp only [encW]
  omega

theorem encD_lt {maj k : Nat} {n : Bool} {off : BitVec 21} (hm : maj < 64) (hk : k < 8) : encD maj k n off < 2 ^ 31 := by
  have hn := n.toNat_lt
  simp only [encD]
  omega

/-! ### The candidate of a word by its MAJ -/

/-- The candidates by MAJ (Table 03.6). -/
def candTable : List (Nat → Option Instr) :=
  [cand00, cand01, cand02, cand03, cand04, cand05, cand06, cand07, cand08, cand09, cand0A, cand0B, cand0C, cand0D, cand0E, cand0F,
   cand10, cand11, cand12, cand13, cand14, cand15, cand16, cand17, cand18, cand19, cand1A, cand1B, cand1C, cand1D, cand1E, cand1F,
   cand20, cand21, cand22, cand23, cand24, cand25, cand26, cand27, cand28, cand29, cand2A, cand2B, cand2C, cand2D, cand2E, cand2F,
   cand30, cand31, cand32, cand33, cand34, cand35, cand36, cand37, cand38, cand39, cand3A, cand3B, cand3C, cand3D, cand3E]

theorem candidate_eq_table (x : Nat) : candidate x = (candTable.getD (bitsOf x 30 25) (fun _ => none)) x := by
  have hm : bitsOf x 30 25 < 64 := Nat.mod_lt _ (by decide)
  unfold candidate
  generalize bitsOf x 30 25 = m at hm
  interval_cases m <;> rfl

/-- A word with S = 0 is read as an instruction, and so it is with whatever stands above bit 30. -/
def Reads (x : Nat) (i : Instr) : Prop := x < 2 ^ 31 ∧ ∀ s, candidate (x + s * 2 ^ 31) = some i

theorem candidate_of_maj {x maj : Nat} {i : Instr} (hm : bitsOf x 30 25 = maj) (h : (candTable.getD maj (fun _ => none)) x = some i) :
    candidate x = some i := (candidate_eq_table x).trans (hm ▸ h)

theorem reads_encW {maj w d r : Nat} {i : Instr} (hm : maj < 64) (hw : w < 4) (hd : d < 128) (hr : r < 65536)
    (h : ∀ x, FieldsW x maj w d → x % 2 ^ 16 = r → (candTable.getD maj (fun _ => none)) x = some i) : Reads (encW maj w d r) i :=
  ⟨encW_lt hm hw hd hr, fun s =>
    have k := fieldsW_encW s hm hw hd hr
    candidate_of_maj k.maj (h _ k (by simp only [encW]; omega))⟩

theorem reads_encA {maj w d a b fn : Nat} {i : Instr} (hm : maj < 64) (hw : w < 4) (hd : d < 128) (ha : a < 128) (hb : b < 128) (hf : fn < 4)
    (h : ∀ x, FieldsA x maj w d a b fn → (candTable.getD maj (fun _ => none)) x = some i) : Reads (encA maj w d a b fn) i :=
  ⟨encW_lt hm hw hd (by omega), fun s =>
    have k := fieldsA_encA s hm hw hd ha hb hf
    candidate_of_maj k.maj (h _ k)⟩

theorem reads_encB {maj w d a r : Nat} {i : Instr} (hm : maj < 64) (hw : w < 4) (hd : d < 128) (ha : a < 128) (hr : r < 512)
    (h : ∀ x, FieldsB x maj w d a r → (candTable.getD maj (fun _ => none)) x = some i) : Reads (encB maj w d a r) i :=
  ⟨encW_lt hm hw hd (by omega), fun s =>
    have k := fieldsB_encB s hm hw hd ha hr
    candidate_of_maj k.maj (h _ k)⟩

theorem reads_encD {maj k : Nat} {n : Bool} {off : BitVec 21} {i : Instr} (hm : maj < 64) (hk : k < 8)
    (h : ∀ x, FieldsD x maj k n off → (candTable.getD maj (fun _ => none)) x = some i) : Reads (encD maj k n off) i :=
  ⟨encD_lt hm hk, fun s =>
    have f := fieldsD_encD s hm hk
    candidate_of_maj f.maj (h _ f)⟩

/-- A word whose operand fields are lane operands. -/
theorem reads_laneA {maj w fn : Nat} {d a b : LaneOp} {i : Instr} (hw : w < 4)
    (h : ∀ x, FieldsA x maj w d.code a.code b.code fn → (candTable.getD maj (fun _ => none)) x = some i)
    (hm : maj < 64 := by decide) (hf : fn < 4 := by decide) : Reads (encA maj w d.code a.code b.code fn) i :=
  reads_encA hm hw d.code_lt a.code_lt b.code_lt hf h

/-- A word whose operand fields are uniform operands. -/
theorem reads_uniA {maj fn : Nat} {c : Bool} {d : Fin 64} {a b : UniOp} {i : Instr}
    (h : ∀ x, FieldsA x maj c.toNat d.val a.code b.code fn → (candTable.getD maj (fun _ => none)) x = some i)
    (hm : maj < 64 := by decide) (hf : fn < 4 := by decide) : Reads (encA maj c.toNat d.val a.code b.code fn) i :=
  reads_encA hm (by have := c.toNat_lt; omega) (by omega) a.code_lt b.code_lt hf h

/-- A word whose fields D and A are lane operands. -/
theorem reads_laneB {maj w r : Nat} {d a : LaneOp} {i : Instr} (hw : w < 4) (hr : r < 512)
    (h : ∀ x, FieldsB x maj w d.code a.code r → (candTable.getD maj (fun _ => none)) x = some i)
    (hm : maj < 64 := by decide) : Reads (encB maj w d.code a.code r) i :=
  reads_encB hm hw d.code_lt a.code_lt hr h

/-- A word whose field A is 0. -/
theorem reads_noA {maj w d r : Nat} {i : Instr} (hw : w < 4) (hd : d < 128) (hr : r < 512)
    (h : ∀ x, FieldsB x maj w d 0 r → (candTable.getD maj (fun _ => none)) x = some i)
    (hm : maj < 64 := by decide) : Reads (encW maj w d r) i := by
  have e : encW maj w d r = encB maj w d 0 r := by simp only [encB, Nat.zero_mul, Nat.zero_add]
  exact e ▸ reads_encB hm hw hd (by decide) hr h

theorem toNat_lt_four (c : Bool) : c.toNat < 4 := by cases c <;> decide

/-! ### Operands read from the fields -/

section
variable {x maj w dF aF bF fn r : Nat}

theorem FieldsW.width {w : Width} (h : FieldsW x maj w.code dF) : widthOf (bitsOf x 24 23) = w := by rw [h.w, widthOf_code]

theorem FieldsW.wide {c : Bool} (h : FieldsW x maj c.toNat dF) : bitOf x 23 = c := by
  rw [← bitOf_bitsOf (hi := 24) (lo := 23) (n := 0) x (by decide), h.w, bitOf_toNat_zero]

theorem FieldsW.ld {d : LaneOp} (h : FieldsW x maj w d.code) (f : LaneOp → Instr) : ld x f = some (f d) := by
  rw [Sys2Proof.ld, h.d, laneOf_code]; rfl

theorem FieldsW.gd {d : Fin 64} (h : FieldsW x maj w d.val) : Fin.ofNat 64 (bitsOf x 22 16) = d := by rw [h.d, Fin.ofNat_val_eq_self]

theorem FieldsW.kd {k : Fin 8} (h : FieldsW x maj w k.val) : Fin.ofNat 8 (bitsOf x 18 16) = k := by
  rw [← bitsOf_bitsOf (hi := 22) (lo := 16) (h := 2) (l := 0) x (by decide) (by decide), h.d]
  exact Fin.ext (by simp only [bitsOf, Fin.val_ofNat]; omega)

theorem FieldsA.ka {k : Fin 8} {n : Bool} (h : FieldsA x maj w dF (n.toNat * 8 + k.val) bF fn) :
    bitOf x 12 = n ∧ Fin.ofNat 8 (bitsOf x 15 9) = k := by
  rw [← bitOf_bitsOf (hi := 15) (lo := 9) (n := 3) x (by decide), h.a]
  refine ⟨?_, Fin.ext (by simp only [Fin.val_ofNat]; omega)⟩
  cases n <;> simp [bitOf] <;> omega

theorem FieldsA.kb {k : Fin 8} {n : Bool} (h : FieldsA x maj w dF aF (n.toNat * 8 + k.val) fn) :
    bitOf x 5 = n ∧ Fin.ofNat 8 (bitsOf x 8 2) = k := by
  rw [← bitOf_bitsOf (hi := 8) (lo := 2) (n := 3) x (by decide), h.b]
  refine ⟨?_, Fin.ext (by simp only [Fin.val_ofNat]; omega)⟩
  cases n <;> simp [bitOf] <;> omega

/-- Field D of a compare holds its flag, its relation and its predicate. -/
theorem FieldsW.compare {c : Bool} {k : Fin 8} {q : Nat} (h : FieldsW x maj w (c.toNat * 64 + q * 8 + k.val)) (hq : q < 8) :
    bitOf x 22 = c ∧ bitsOf x 21 19 = q ∧ Fin.ofNat 8 (bitsOf x 18 16) = k := by
  rw [← bitOf_bitsOf (hi := 22) (lo := 16) (n := 6) x (by decide), ← bitsOf_bitsOf (hi := 22) (lo := 16) (h := 5) (l := 3) x (by decide) (by decide),
    ← bitsOf_bitsOf (hi := 22) (lo := 16) (h := 2) (l := 0) x (by decide) (by decide), h.d]
  refine ⟨?_, by simp only [bitsOf]; omega, Fin.ext (by simp only [bitsOf, Fin.val_ofNat]; omega)⟩
  cases c <;> simp [bitOf] <;> omega

theorem FieldsA.dab {d a b : LaneOp} (h : FieldsA x maj w d.code a.code b.code fn) (f : LaneOp → LaneOp → LaneOp → Instr) :
    dab x f = some (f d a b) := by rw [Sys2Proof.dab, h.d, h.a, h.b, laneOf_code, laneOf_code, laneOf_code]

theorem FieldsA.ab {a b : LaneOp} (h : FieldsA x maj w dF a.code b.code fn) (f : LaneOp → LaneOp → Instr) : ab x f = some (f a b) := by
  rw [Sys2Proof.ab, h.a, h.b, laneOf_code, laneOf_code]

theorem FieldsA.uab {a b : UniOp} (h : FieldsA x maj w dF a.code b.code fn) (f : UniOp → UniOp → Instr) : uab x f = some (f a b) := by
  rw [Sys2Proof.uab, h.a, h.b, uniOf_code, uniOf_code]

theorem FieldsA.comb {c : Comb} (h : FieldsA x maj w dF aF bF c.code) : combOf (bitsOf x 1 0) = c := by rw [h.fn, combOf_code]

theorem FieldsB.da {d a : LaneOp} (h : FieldsB x maj w d.code a.code r) (f : LaneOp → LaneOp → Instr) : da x f = some (f d a) := by
  rw [Sys2Proof.da, h.d, h.a, laneOf_code, laneOf_code]

theorem FieldsB.la {a : LaneOp} (h : FieldsB x maj w dF a.code r) (f : LaneOp → Instr) : la x f = some (f a) := by
  rw [Sys2Proof.la, h.a, laneOf_code]; rfl

theorem FieldsB.ga {a : Fin 64} (h : FieldsB x maj w dF a.val r) : Fin.ofNat 64 (bitsOf x 15 9) = a := by rw [h.a, Fin.ofNat_val_eq_self]

/-- The top bits of the rest. -/
theorem FieldsB.high (h : FieldsB x maj w dF aF r) {lo k : Nat} (hk : r / 2 ^ lo = k) : bitsOf x 8 lo = k := by
  have hlt : r < 2 ^ 9 := h.low ▸ Nat.mod_lt _ (by decide)
  rw [← bitsOf_mod_two_pow x lo (k := 9) (by decide), h.low, bitsOf, hk]
  refine Nat.mod_eq_of_lt (hk ▸ Nat.div_lt_of_lt_mul (hlt.trans_le ?_))
  rw [← Nat.pow_add]
  exact Nat.pow_le_pow_right (by decide) (by omega)

theorem FieldsB.sel (h : FieldsB x maj w dF aF r) : bitsOf x 8 0 = r := h.high (Nat.div_one r)

theorem FieldsB.field (h : FieldsB x maj w dF aF r) {hi : Nat} (lo : Nat) (hh : hi < 9 := by decide) : bitsOf x hi lo = bitsOf r hi lo := by
  rw [← h.low, bitsOf_mod_two_pow x lo hh]

theorem FieldsB.bit (h : FieldsB x maj w dF aF r) {n : Nat} (hn : n < 9 := by decide) : bitOf x n = bitOf r n := by
  rw [← h.low, bitOf_mod_two_pow x hn]

theorem FieldsB.fin (h : FieldsB x maj w dF aF r) {n : Nat} [NeZero n] {m : Fin n} (hr : r % n = m.val) (hn : n ∣ 2 ^ 9 := by decide) :
    Fin.ofNat n x = m := Fin.ext (by rw [Fin.val_ofNat, ← Nat.mod_mod_of_dvd x hn, h.low, hr])

theorem FieldsB.imm (h : FieldsB x maj w dF aF r) {n : Nat} {i : BitVec n} (hr : r % 2 ^ n = i.toNat) (hn : n ≤ 9 := by decide) :
    BitVec.ofNat n x = i :=
  BitVec.eq_of_toNat_eq (by rw [BitVec.toNat_ofNat, ← Nat.mod_mod_of_dvd x (Nat.pow_dvd_pow 2 hn), h.low, hr])

theorem FieldsB.low2 (h : FieldsB x maj w dF aF r) : bitsOf x 1 0 = r % 4 :=
  (h.field 0).trans (congrArg (fun n => n % 4) (Nat.div_one r))

theorem FieldsW.ud {u : UniOp} (h : FieldsW x maj w u.code) : uniOf (bitsOf x 22 16) = u := by rw [h.d, uniOf_code]

theorem FieldsB.ua {u : UniOp} (h : FieldsB x maj w dF u.code r) : uniOf (bitsOf x 15 9) = u := by rw [h.a, uniOf_code]

/-- The lowest bit of field A. -/
theorem FieldsB.flagA {c : Bool} (h : FieldsB x maj w dF c.toNat r) : bitOf x 9 = c := by
  rw [← bitOf_bitsOf (hi := 15) (lo := 9) (n := 0) x (by decide), h.a, bitOf_toNat_zero]

/-- Fields D and A taken together, as TRAP does. -/
theorem FieldsB.da14 (h : FieldsB x maj w dF aF r) : bitsOf x 22 9 = dF * 2 ^ 7 + aF := by
  have hd := h.d
  have ha := h.a
  simp only [bitsOf] at hd ha ⊢
  omega

theorem imm_of_low {n : Nat} {i : BitVec n} (h : x % 2 ^ n = i.toNat) : BitVec.ofNat n x = i := BitVec.eq_of_toNat_eq (by simpa using h)

theorem FieldsD.parts {k : Fin 8} {n : Bool} {off : BitVec 21} (h : FieldsD x maj k.val n off) :
    Fin.ofNat 8 (bitsOf x 24 22) = k ∧ bitOf x 21 = n ∧ BitVec.ofNat 21 x = off := by
  rw [← bitsOf_bitsOf (hi := 24) (lo := 21) (h := 3) (l := 1) x (by decide) (by decide), ← bitOf_bitsOf (hi := 24) (lo := 21) (n := 0) x (by decide), h.kn]
  refine ⟨Fin.ext ?_, ?_, imm_of_low h.off⟩
  · have := n.toNat_lt
    simp only [bitsOf, Fin.val_ofNat]
    omega
  · cases n <;> simp [bitOf]

end

/-! ### Where a match has a default -/

section
variable {x : Nat}

theorem cand08_extension (h : 13 ≤ bitsOf x 8 0) : cand08 x =
    match bitsOf x 8 5 with
    | 1 => da x (fun d a => .sext (widthOf (bitsOf x 24 23)) d a (Fin.ofNat 32 x))
    | 2 => da x (fun d a => .zext (widthOf (bitsOf x 24 23)) d a (Fin.ofNat 32 x))
    | _ => none := by
  unfold cand08
  dsimp only
  split
  case h_14 => rfl
  all_goals omega

theorem cand20_bra (h : bitsOf x 24 21 ≠ 15) : cand20 x = some (.bra (Fin.ofNat 8 (bitsOf x 24 22)) (bitOf x 21) (BitVec.ofNat 21 x)) := by
  unfold cand20
  dsimp only
  split
  · contradiction
  · rfl

theorem cand3E_slot {n : Fin 4} :
    (bitsOf x 8 0 = 4 + n.val → cand3E x = some (.bars (Fin.ofNat 8 (bitsOf x 18 16)) (Fin.ofNat 4 x)))
    ∧ (bitsOf x 8 0 = 8 + n.val → cand3E x = some (.arr (Fin.ofNat 64 (bitsOf x 22 16)) (Fin.ofNat 4 x)))
    ∧ (bitsOf x 8 0 = 12 + n.val → cand3E x = some (.atry (Fin.ofNat 8 (bitsOf x 18 16)) (uniOf (bitsOf x 15 9)) (Fin.ofNat 4 x))) := by
  refine ⟨fun h => ?_, fun h => ?_, fun h => ?_⟩ <;> rw [cand3E, h] <;> fin_cases n <;> rfl

end

/-! ### The rest of a word in parts -/

theorem compare_lt (c : Bool) (k : Fin 8) {q : Nat} (hq : q < 8) : c.toNat * 64 + q * 8 + k.val < 128 := by
  have := c.toNat_lt
  omega

theorem pred_lt (c : Bool) (k : Fin 8) : c.toNat * 8 + k.val < 128 := by
  have := c.toNat_lt
  omega

theorem cvt_rest_lt (c : Bool) (p : Fin 8) (t : ETy) : c.toNat * 2 ^ 8 + p.val * 2 ^ 5 + t.code < 512 := by
  have := c.toNat_lt
  have := t.code_lt
  omega

theorem cvt_rest (c : Bool) (p : Fin 8) (t : ETy) :
    bitOf (c.toNat * 2 ^ 8 + p.val * 2 ^ 5 + t.code) 8 = c ∧ Fin.ofNat 8 (bitsOf (c.toNat * 2 ^ 8 + p.val * 2 ^ 5 + t.code) 7 5) = p
      ∧ etyOf (bitsOf (c.toNat * 2 ^ 8 + p.val * 2 ^ 5 + t.code) 4 0) = t := by
  have ht := t.code_lt
  have hr : bitsOf (c.toNat * 2 ^ 8 + p.val * 2 ^ 5 + t.code) 4 0 = t.code := by simp only [bitsOf]; omega
  refine ⟨?_, Fin.ext (by simp only [bitsOf, Fin.val_ofNat]; omega), by rw [hr, etyOf_code]⟩
  cases c <;> simp [bitOf] <;> omega

/-- BALLOT's negation stands above its predicate. -/
theorem ballot_rest (c : Bool) (k : Fin 8) :
    0x080 + c.toNat * 8 + k.val < 512 ∧ (0x080 + c.toNat * 8 + k.val) / 2 ^ 5 = 4 ∧ bitOf (0x080 + c.toNat * 8 + k.val) 3 = c := by
  revert c k
  decide

theorem scanadd_rest (c : Bool) : 0x0A0 + c.toNat < 512 ∧ (0x0A0 + c.toNat) / 2 ^ 5 = 5 ∧ bitOf (0x0A0 + c.toNat) 0 = c := by cases c <;> decide

theorem spoll_rest (c : Bool) : c.toNat * 2 ^ 8 + 2 < 512 ∧ (c.toNat * 2 ^ 8 + 2) % 4 = 2 ∧ bitOf (c.toNat * 2 ^ 8 + 2) 8 = c := by cases c <;> decide

/-- The space of a sub-word load stands above its kind. -/
theorem ldx_rest (sp : Space) (k : SubKind) :
    sp.code * 2 ^ 6 + k.code * 2 ^ 4 < 512 ∧ spaceOf (bitsOf (sp.code * 2 ^ 6 + k.code * 2 ^ 4) 8 6) = sp
      ∧ subKindOf (bitsOf (sp.code * 2 ^ 6 + k.code * 2 ^ 4) 5 4) = k := by
  cases sp <;> cases k <;> decide

theorem stx_rest (sp : Space) (c : Bool) :
    sp.code * 2 ^ 6 + c.toNat * 2 ^ 5 < 512 ∧ spaceOf (bitsOf (sp.code * 2 ^ 6 + c.toNat * 2 ^ 5) 8 6) = sp
      ∧ bitOf (sp.code * 2 ^ 6 + c.toNat * 2 ^ 5) 5 = c := by
  cases sp <;> cases c <;> decide

/-- The rest of an ordered load: bit 8 clear, its space, its order and its scope. -/
theorem ldo_rest (sp : Space) (c : Bool) (sc : Scope) :
    sp.code * 2 ^ 5 + c.toNat * 2 ^ 3 + sc.code < 512 ∧ (sp.code * 2 ^ 5 + c.toNat * 2 ^ 3 + sc.code) / 2 ^ 8 = 0
      ∧ spaceOf (bitsOf (sp.code * 2 ^ 5 + c.toNat * 2 ^ 3 + sc.code) 7 5) = sp ∧ bitOf (sp.code * 2 ^ 5 + c.toNat * 2 ^ 3 + sc.code) 3 = c
      ∧ scopeOf (bitsOf (sp.code * 2 ^ 5 + c.toNat * 2 ^ 3 + sc.code) 2 0) = sc := by
  cases sp <;> cases c <;> cases sc <;> decide

/-- The rest of an ordered store: bit 8 set, its space, its order and its scope. -/
theorem sto_rest (sp : Space) (c : Bool) (sc : Scope) :
    2 ^ 8 + sp.code * 2 ^ 5 + c.toNat * 2 ^ 4 + sc.code < 512 ∧ (2 ^ 8 + sp.code * 2 ^ 5 + c.toNat * 2 ^ 4 + sc.code) / 2 ^ 8 = 1
      ∧ spaceOf (bitsOf (2 ^ 8 + sp.code * 2 ^ 5 + c.toNat * 2 ^ 4 + sc.code) 7 5) = sp
      ∧ bitOf (2 ^ 8 + sp.code * 2 ^ 5 + c.toNat * 2 ^ 4 + sc.code) 4 = c
      ∧ scopeOf (bitsOf (2 ^ 8 + sp.code * 2 ^ 5 + c.toNat * 2 ^ 4 + sc.code) 2 0) = sc := by
  cases sp <;> cases c <;> cases sc <;> decide

theorem fence_rest {k : Nat} (sc : Scope) (hk : k < 64) :
    k * 8 + sc.code < 512 ∧ (k * 8 + sc.code) / 2 ^ 3 = k ∧ scopeOf (bitsOf (k * 8 + sc.code) 2 0) = sc := by
  have hs := sc.code_lt
  have hr : bitsOf (k * 8 + sc.code) 2 0 = sc.code := by simp only [bitsOf]; omega
  exact ⟨by omega, by omega, by rw [hr, scopeOf_code]⟩

/-- The count of a semaphore instruction stands above its two selecting bits. -/
theorem count_field {x fn : Nat} {n : BitVec 14} (h : x % 2 ^ 16 = n.toNat * 4 + fn) (hf : fn < 4) :
    bitsOf x 1 0 = fn ∧ BitVec.ofNat 14 (x / 4) = n :=
  ⟨by simp only [bitsOf]; omega, BitVec.eq_of_toNat_eq (by rw [BitVec.toNat_ofNat]; omega)⟩

/-- BRA is no BRA_ALWAYS (R74). -/
theorem bra_kn {k : Fin 8} {n : Bool} {off : BitVec 21} (h : (Instr.bra k n off).wf = true) : 2 * k.val + n.toNat ≠ 15 := by
  rintro hkn
  cases n with
  | false => simp at hkn; omega
  | true =>
    obtain rfl : k = 7 := Fin.ext (by simp at hkn; omega)
    exact nomatch h

/-! ### Every lane instruction is read from its encoding -/

theorem reads_encode (i : Instr) (hl : i.isLane = true) (hw : i.wf = true) : Reads (encode i) i := by
  cases i with
  | nop | exit | brkpt | icinv | tret | tfail | tlbinvAll =>
    exact reads_noA (by decide) (by decide) (by decide) (fun x h => show cand00 x = _ by simp only [cand00, h.sel])
  | trap c =>
    exact reads_encB (by decide) (by decide) (by omega) (by omega) (by decide)
      (fun x h => show cand00 x = _ by simp only [cand00, h.sel, h.da14, Nat.div_add_mod', BitVec.ofNat_toNat, BitVec.setWidth_eq])
  | rdsr c d sr =>
    exact reads_encB (by decide) (toNat_lt_four c) d.code_lt sr.isLt (by decide)
      (fun x h => show cand00 x = _ by simp only [cand00, h.sel, h.a, h.wide, h.ld, BitVec.ofNat_toNat, BitVec.setWidth_eq])
  | wrsr c sr a =>
    exact reads_encB (by decide) (toNat_lt_four c) sr.isLt a.code_lt (by decide)
      (fun x h => show cand00 x = _ by simp only [cand00, h.sel, h.d, h.wide, h.la, BitVec.ofNat_toNat, BitVec.setWidth_eq])
  | segld sr a =>
    exact reads_encB (by decide) (by decide) sr.isLt a.code_lt (by decide)
      (fun x h => show cand00 x = _ by simp only [cand00, h.sel, h.d, h.la, BitVec.ofNat_toNat, BitVec.setWidth_eq])
  | tlbinv d a => exact reads_laneB (by decide) (by decide) (fun x h => show cand00 x = _ by simp only [cand00, h.sel, h.da])
  | ownacq a | ownrel a =>
    exact reads_encB (by decide) (by decide) (by decide) a.code_lt (by decide) (fun x h => show cand00 x = _ by simp only [cand00, h.sel, h.la])
  | add w d a b | sub w d a b | rsub w d a b | absd w d a b =>
    exact reads_laneA w.code_lt (fun x h => show cand01 x = _ by simp only [cand01, h.fn, h.width, h.dab])
  | mul w d a b | mulh w d a b | mad w d a b | madh w d a b =>
    exact reads_laneA w.code_lt (fun x h => show cand02 x = _ by simp only [cand02, h.fn, h.width, h.dab])
  | and w d a b | or w d a b | xor w d a b | andn w d a b =>
    exact reads_laneA w.code_lt (fun x h => show cand03 x = _ by simp only [cand03, h.fn, h.width, h.dab])
  | shl w d a b | shr w d a b | sha w d a b | rot w d a b =>
    exact reads_laneA w.code_lt (fun x h => show cand04 x = _ by simp only [cand04, h.fn, h.width, h.dab])
  | min w d a b | max w d a b | sel w d a b | selz w d a b =>
    exact reads_laneA w.code_lt (fun x h => show cand05 x = _ by simp only [cand05, h.fn, h.width, h.dab])
  | icmp c e rel cb k a b =>
    exact reads_encA (by decide) (toNat_lt_four c) (compare_lt e k rel.code_lt) a.code_lt b.code_lt cb.code_lt
      (fun x h => show cand06 x = _ by simp only [cand06, h.wide, h.compare rel.code_lt, h.comb, h.ab, relOf_code])
  | bfx w d a b | bfxs w d a b | bfi w d a b | perm w d a b =>
    exact reads_laneA w.code_lt (fun x h => show cand07 x = _ by simp only [cand07, h.fn, h.width, h.dab])
  | mov w d a | not w d a | neg w d a | abs w d a | clz w d a | popc w d a | brev w d a | bswap w d a =>
    exact reads_laneB w.code_lt (by decide) (fun x h => show cand08 x = _ by simp only [cand08, h.sel, h.width, h.da])
  | ktoi d k =>
    exact reads_encB (by decide) (by decide) d.code_lt (by omega) (by decide)
      (fun x h => show cand08 x = _ by simp only [cand08, h.sel, h.ld, h.a, Fin.ofNat_val_eq_self])
  | itok k a =>
    exact reads_encB (by decide) (by decide) (by omega) a.code_lt (by decide)
      (fun x h => show cand08 x = _ by simp only [cand08, h.sel, h.la, h.kd])
  | kget d => exact reads_noA (by decide) d.code_lt (by decide) (fun x h => show cand08 x = _ by simp only [cand08, h.sel, h.ld])
  | kput a =>
    exact reads_encB (by decide) (by decide) (by decide) a.code_lt (by decide) (fun x h => show cand08 x = _ by simp only [cand08, h.sel, h.la])
  | movg c d g =>
    exact reads_encB (by decide) (toNat_lt_four c) d.code_lt g.code_lt (by decide)
      (fun x h => show cand08 x = _ by simp only [cand08, h.sel, h.wide, h.ld, h.ua])
  | sext w d a n =>
    exact reads_laneB w.code_lt (by omega) (fun x h => show cand08 x = _ by
      simp only [cand08_extension (h.sel ▸ (by omega : 13 ≤ 0x20 + n.val)), h.high (lo := 5) (k := 1) (by omega), h.width, h.da, h.fin (n := 32) (m := n) (by omega)])
  | zext w d a n =>
    exact reads_laneB w.code_lt (by omega) (fun x h => show cand08 x = _ by
      simp only [cand08_extension (h.sel ▸ (by omega : 13 ≤ 0x40 + n.val)), h.high (lo := 5) (k := 2) (by omega), h.width, h.da, h.fin (n := 32) (m := n) (by omega)])
  | addi w d a i =>
    exact reads_laneB w.code_lt i.isLt (fun x h => show cand09 x = _ by simp only [cand09, h.width, h.da, imm_of_low h.low])
  | shli w d a n =>
    exact reads_laneB w.code_lt (by omega) (fun x h => show cand0A x = _ by
      simp only [cand0A, h.high (lo := 7) (k := 0) (by omega), h.width, h.da, h.fin (n := 64) (m := n) (by omega)])
  | shri w d a n =>
    exact reads_laneB w.code_lt (by omega) (fun x h => show cand0A x = _ by
      simp only [cand0A, h.high (lo := 7) (k := 1) (by omega), h.width, h.da, h.fin (n := 64) (m := n) (by omega)])
  | shai w d a n =>
    exact reads_laneB w.code_lt (by omega) (fun x h => show cand0A x = _ by
      simp only [cand0A, h.high (lo := 7) (k := 2) (by omega), h.width, h.da, h.fin (n := 64) (m := n) (by omega)])
  | roti w d a n =>
    exact reads_laneB w.code_lt (by omega) (fun x h => show cand0A x = _ by
      simp only [cand0A, h.high (lo := 7) (k := 3) (by omega), h.width, h.da, h.fin (n := 64) (m := n) (by omega)])
  | andi w d a n =>
    exact reads_laneB w.code_lt (by omega) (fun x h => show cand0B x = _ by
      simp only [cand0B, h.high (lo := 7) (k := 0) (by omega), h.width, h.da, h.imm (i := n) (by omega)])
  | ori w d a n =>
    exact reads_laneB w.code_lt (by omega) (fun x h => show cand0B x = _ by
      simp only [cand0B, h.high (lo := 7) (k := 1) (by omega), h.width, h.da, h.imm (i := n) (by omega)])
  | xori w d a n =>
    exact reads_laneB w.code_lt (by omega) (fun x h => show cand0B x = _ by
      simp only [cand0B, h.high (lo := 7) (k := 2) (by omega), h.width, h.da, h.imm (i := n) (by omega)])
  | andni w d a n =>
    exact reads_laneB w.code_lt (by omega) (fun x h => show cand0B x = _ by
      simp only [cand0B, h.high (lo := 7) (k := 3) (by omega), h.width, h.da, h.imm (i := n) (by omega)])
  | movi d i | moviZ d i | moviH d i | moviL d i =>
    exact reads_encW (by decide) (by decide) d.code_lt i.isLt
      (fun x h hlow => show cand0C x = _ by simp only [cand0C, h.w, h.ld, imm_of_low hlow])
  | cmpi c e rel k a i =>
    exact reads_encB (by decide) (toNat_lt_four c) (compare_lt e k rel.code_lt) a.code_lt i.isLt
      (fun x h => show cand0D x = _ by simp only [cand0D, h.wide, h.compare rel.code_lt, h.la, imm_of_low h.low, relOf_code])
  | mode q i =>
    exact reads_encW (by decide) q.isLt (by decide) i.isLt
      (fun x h hlow => show cand0E x = _ by simp only [cand0E, h.w, imm_of_low hlow, Fin.ofNat_val_eq_self])
  | kand k m p n q | kor k m p n q | kxor k m p n q | kandn k m p n q =>
    exact reads_encA (by decide) (by decide) (by omega) (pred_lt m p) (pred_lt n q) (by decide)
      (fun x h => show cand0F x = _ by simp only [cand0F, h.fn, h.kd, h.ka, h.kb])
  | fadd w d a b | fsub w d a b | fmul w d a b | frsub w d a b =>
    exact reads_laneA w.code_lt (fun x h => show cand10 x = _ by simp only [cand10, h.fn, h.width, h.dab])
  | ffma w d a b | ffms w d a b | fnma w d a b | fnms w d a b =>
    exact reads_laneA w.code_lt (fun x h => show cand11 x = _ by simp only [cand11, h.fn, h.width, h.dab])
  | fmin w d a b | fmax w d a b | fminm w d a b | fmaxm w d a b =>
    exact reads_laneA w.code_lt (fun x h => show cand12 x = _ by simp only [cand12, h.fn, h.width, h.dab])
  | fcmp c e rel cb k a b =>
    exact reads_encA (by decide) (toNat_lt_four c) (compare_lt e k rel.code_lt) a.code_lt b.code_lt cb.code_lt
      (fun x h => show cand13 x = _ by simp only [cand13, h.wide, h.compare rel.code_lt, h.comb, h.ab, frelOf_code])
  | fabs w d a | fneg w d a | frcp w d a | frsq w d a | fsqrt w d a | fexp2 w d a | flog2 w d a | fsin w d a | fcos w d a | ftanh w d a | frnd w d a | fclass w d a =>
    exact reads_laneB w.code_lt (by decide) (fun x h => show cand14 x = _ by simp only [cand14, h.sel, h.width, h.da])
  | cvt w d a c p t =>
    exact reads_laneB w.code_lt (cvt_rest_lt c p t) (fun x h => show cand15 x = _ by
      simp only [cand15, h.width, h.da, h.bit (n := 8), h.field 5 (hi := 7), h.field 0 (hi := 4), cvt_rest])
  | packfBf16 w d a b | packfF16 w d a b | packfE4m3 w d a b | packfE5m2 w d a b =>
    exact reads_laneA w.code_lt (fun x h => show cand16 x = _ by simp only [cand16, h.fn, h.width, h.dab])
  | dot w d a b | dotz w d a b =>
    exact reads_laneA w.code_lt (fun x h => show cand17 x = _ by simp only [cand17, h.fn, h.width, h.dab])
  | uadd c d a b | usub c d a b | umul c d a b | umad c d a b =>
    exact reads_uniA (fun x h => show cand18 x = _ by simp only [cand18, h.fn, h.wide, h.gd, h.uab])
  | uand c d a b | uor c d a b | uxor c d a b | uandn c d a b =>
    exact reads_uniA (fun x h => show cand19 x = _ by simp only [cand19, h.fn, h.wide, h.gd, h.uab])
  | ushl c d a b | ushr c d a b | usha c d a b | urot c d a b =>
    exact reads_uniA (fun x h => show cand1A x = _ by simp only [cand1A, h.fn, h.wide, h.gd, h.uab])
  | umin c d a b | umax c d a b | uminn c d a b | umaxn c d a b =>
    exact reads_uniA (fun x h => show cand1B x = _ by simp only [cand1B, h.fn, h.wide, h.gd, h.uab])
  | uaddi c d a i =>
    exact reads_encB (by decide) (toNat_lt_four c) (by omega) a.code_lt i.isLt
      (fun x h => show cand1C x = _ by simp only [cand1C, h.wide, h.gd, h.ua, imm_of_low h.low])
  | umovi d i | umoviZ d i | umoviH d i | umoviL d i =>
    exact reads_encW (by decide) (by decide) (by omega) i.isLt
      (fun x h hlow => show cand1D x = _ by simp only [cand1D, h.w, h.gd, imm_of_low hlow])
  | ucmp c e rel cb k a b =>
    exact reads_encA (by decide) (toNat_lt_four c) (compare_lt e k rel.code_lt) a.code_lt b.code_lt cb.code_lt
      (fun x h => show cand1E x = _ by simp only [cand1E, h.wide, h.compare rel.code_lt, h.comb, h.uab, relOf_code])
  | shfli w d a =>
    exact reads_laneB w.code_lt (by decide) (fun x h => show cand1F x = _ by simp only [cand1F, h.high (lo := 5) (k := 0) rfl, h.width, h.da])
  | shflu w d a n =>
    exact reads_laneB w.code_lt (by omega) (fun x h => show cand1F x = _ by
      simp only [cand1F, h.high (lo := 5) (k := 1) (by omega), h.width, h.da, h.fin (n := 32) (m := n) (by omega)])
  | shfld w d a n =>
    exact reads_laneB w.code_lt (by omega) (fun x h => show cand1F x = _ by
      simp only [cand1F, h.high (lo := 5) (k := 2) (by omega), h.width, h.da, h.fin (n := 32) (m := n) (by omega)])
  | shflx w d a n =>
    exact reads_laneB w.code_lt (by omega) (fun x h => show cand1F x = _ by
      simp only [cand1F, h.high (lo := 5) (k := 3) (by omega), h.width, h.da, h.fin (n := 32) (m := n) (by omega)])
  | ballot d c k =>
    exact reads_noA (by decide) d.code_lt (ballot_rest c k).1 (fun x h => show cand1F x = _ by
      simp only [cand1F, h.high (ballot_rest c k).2.1, h.ld, h.bit (n := 3), ballot_rest, h.fin (n := 8) (m := k) (by omega)])
  | scanadd c d a =>
    exact reads_laneB (by decide) (scanadd_rest c).1 (fun x h => show cand1F x = _ by
      simp only [cand1F, h.high (scanadd_rest c).2.1, h.da, h.bit (n := 0), scanadd_rest])
  | redadd d a => exact reads_laneB (by decide) (by decide) (fun x h => show cand1F x = _ by simp only [cand1F, h.high (lo := 5) (k := 6) rfl, h.da])
  | redmin d a => exact reads_laneB (by decide) (by decide) (fun x h => show cand1F x = _ by simp only [cand1F, h.high (lo := 5) (k := 7) rfl, h.da])
  | redmax d a => exact reads_laneB (by decide) (by decide) (fun x h => show cand1F x = _ by simp only [cand1F, h.high (lo := 5) (k := 8) rfl, h.da])
  | rdlane w d a n =>
    exact reads_laneB w.code_lt (by omega) (fun x h => show cand1F x = _ by
      simp only [cand1F, h.high (lo := 5) (k := 9) (by omega), h.width, h.da, h.fin (n := 32) (m := n) (by omega)])
  | bcast w d a =>
    exact reads_laneB w.code_lt (by decide) (fun x h => show cand1F x = _ by simp only [cand1F, h.high (lo := 5) (k := 10) rfl, h.width, h.da])
  | firstLane d => exact reads_noA (by decide) d.code_lt (by decide) (fun x h => show cand1F x = _ by simp only [cand1F, h.high (lo := 5) (k := 11) rfl, h.ld])
  | matchLanes d a => exact reads_laneB (by decide) (by decide) (fun x h => show cand1F x = _ by simp only [cand1F, h.high (lo := 5) (k := 12) rfl, h.da])
  | bra k n off => exact reads_encD (by decide) k.isLt (fun x h => show cand20 x = _ by simp only [cand20_bra (h.kn ▸ bra_kn hw), h.parts])
  | braAlways off => exact reads_encD (k := (7 : Fin 8).val) (by decide) (by decide) (fun x h => show cand20 x = _ by simp only [cand20, h.kn, Bool.toNat_true, h.parts]; rfl)
  | bany k n off => exact reads_encD (by decide) k.isLt (fun x h => show cand21 x = _ by simp only [cand21, h.parts])
  | ball k n off => exact reads_encD (by decide) k.isLt (fun x h => show cand22 x = _ by simp only [cand22, h.parts])
  | bnone k n off => exact reads_encD (by decide) k.isLt (fun x h => show cand23 x = _ by simp only [cand23, h.parts])
  | brk k n off => exact reads_encD (by decide) k.isLt (fun x h => show cand24 x = _ by simp only [cand24, h.parts])
  | jpt off => exact reads_encD (by decide) (by decide) (fun x h => show cand25 x = _ by simp only [cand25, imm_of_low h.off])
  | call off => exact reads_encD (by decide) (by decide) (fun x h => show cand26 x = _ by simp only [cand26, imm_of_low h.off])
  | ret => exact reads_noA (by decide) (by decide) (by decide) (fun x h => show cand27 x = _ by simp only [cand27, h.sel])
  | jmpr a | callr a =>
    exact reads_encB (by decide) (by decide) (by decide) a.code_lt (by decide) (fun x h => show cand27 x = _ by simp only [cand27, h.sel, h.la])
  | ldg w d a i => exact reads_laneB w.code_lt i.isLt (fun x h => show cand28 x = _ by simp only [cand28, h.width, h.da, imm_of_low h.low])
  | stg w d a i => exact reads_laneB w.code_lt i.isLt (fun x h => show cand29 x = _ by simp only [cand29, h.width, h.da, imm_of_low h.low])
  | lds w d a i => exact reads_laneB w.code_lt i.isLt (fun x h => show cand2A x = _ by simp only [cand2A, h.width, h.da, imm_of_low h.low])
  | sts w d a i => exact reads_laneB w.code_lt i.isLt (fun x h => show cand2B x = _ by simp only [cand2B, h.width, h.da, imm_of_low h.low])
  | ldc w d a i => exact reads_laneB w.code_lt i.isLt (fun x h => show cand2C x = _ by simp only [cand2C, h.width, h.da, imm_of_low h.low])
  | stc w d a i => exact reads_laneB w.code_lt i.isLt (fun x h => show cand2D x = _ by simp only [cand2D, h.width, h.da, imm_of_low h.low])
  | ldd w d a i => exact reads_laneB w.code_lt i.isLt (fun x h => show cand2E x = _ by simp only [cand2E, h.width, h.da, imm_of_low h.low])
  | std w d a i => exact reads_laneB w.code_lt i.isLt (fun x h => show cand2F x = _ by simp only [cand2F, h.width, h.da, imm_of_low h.low])
  | ldl w d a i => exact reads_laneB w.code_lt i.isLt (fun x h => show cand30 x = _ by simp only [cand30, h.width, h.da, imm_of_low h.low])
  | stl w d a i => exact reads_laneB w.code_lt i.isLt (fun x h => show cand31 x = _ by simp only [cand31, h.width, h.da, imm_of_low h.low])
  | ldx d a sp k =>
    exact reads_laneB (by decide) (ldx_rest sp k).1 (fun x h => show cand32 x = _ by
      simp only [cand32, h.da, h.field 6 (hi := 8), h.field 4 (hi := 5), ldx_rest])
  | stx d a sp c =>
    exact reads_laneB (by decide) (stx_rest sp c).1 (fun x h => show cand33 x = _ by
      simp only [cand33, h.da, h.field 6 (hi := 8), h.bit (n := 5), stx_rest])
  | ldo c d a sp e sc =>
    exact reads_laneB (toNat_lt_four c) (ldo_rest sp e sc).1 (fun x h => show cand34 x = _ by
      simp only [cand34, h.high (ldo_rest sp e sc).2.1, h.wide, h.da, h.field 5 (hi := 7), h.bit (n := 3), h.field 0 (hi := 2), ldo_rest])
  | sto c d a sp e sc =>
    exact reads_laneB (toNat_lt_four c) (sto_rest sp e sc).1 (fun x h => show cand34 x = _ by
      simp only [cand34, h.high (sto_rest sp e sc).2.1, h.wide, h.da, h.field 5 (hi := 7), h.bit (n := 4), h.field 0 (hi := 2), sto_rest])
  | atomgAdd d a b | atomgMin d a b | atomgMax d a b | atomgAnd d a b | atomgOr d a b | atomgXor d a b | atomgExch d a b | atomgCas d a b | atomgInc d a b | atomgDec d a b =>
    exact reads_laneA (by decide) (fun x h => show cand35 x = _ by simp only [cand35, h.w, h.fn, h.dab])
  | atomsAdd d a b | atomsMin d a b | atomsMax d a b | atomsAnd d a b | atomsOr d a b | atomsXor d a b | atomsExch d a b | atomsCas d a b | atomsInc d a b | atomsDec d a b =>
    exact reads_laneA (by decide) (fun x h => show cand36 x = _ by simp only [cand36, h.w, h.fn, h.dab])
  | atomcAdd d a b | atomcMin d a b | atomcMax d a b | atomcAnd d a b | atomcOr d a b | atomcXor d a b | atomcExch d a b | atomcCas d a b | atomcInc d a b | atomcDec d a b =>
    exact reads_laneA (by decide) (fun x h => show cand37 x = _ by simp only [cand37, h.w, h.fn, h.dab])
  | atomdAdd d a b | atomdMin d a b | atomdMax d a b | atomdAnd d a b | atomdOr d a b | atomdXor d a b | atomdExch d a b | atomdCas d a b | atomdInc d a b | atomdDec d a b =>
    exact reads_laneA (by decide) (fun x h => show cand38 x = _ by simp only [cand38, h.w, h.fn, h.dab])
  | fenceAcq sc =>
    exact reads_noA (by decide) (by decide) (fence_rest (k := 1) sc (by decide)).1 (fun x h => show cand39 x = _ by
      simp only [cand39, h.high (fence_rest (k := 1) sc (by decide)).2.1, h.field 0 (hi := 2), (fence_rest (k := 1) sc (by decide)).2.2])
  | fenceRel sc =>
    exact reads_noA (by decide) (by decide) (fence_rest (k := 2) sc (by decide)).1 (fun x h => show cand39 x = _ by
      simp only [cand39, h.high (fence_rest (k := 2) sc (by decide)).2.1, h.field 0 (hi := 2), (fence_rest (k := 2) sc (by decide)).2.2])
  | fenceFull sc =>
    exact reads_noA (by decide) (by decide) (fence_rest (k := 3) sc (by decide)).1 (fun x h => show cand39 x = _ by
      simp only [cand39, h.high (fence_rest (k := 3) sc (by decide)).2.1, h.field 0 (hi := 2), (fence_rest (k := 3) sc (by decide)).2.2])
  | sig s n | swait s n | yield s n =>
    exact reads_encW (by decide) (by decide) (by omega) (by omega) (fun x h hlow => show cand3A x = _ by
      simp only [cand3A, count_field (n := n) hlow (by decide), h.gd])
  | spoll d s c =>
    exact reads_encB (by decide) (by decide) d.code_lt (by omega) (spoll_rest c).1 (fun x h => show cand3A x = _ by
      simp only [cand3A, h.low2, h.ld, h.ga, h.bit (n := 8), spoll_rest])
  | cpyGs z d a | cpySg z d a | cpyGc z d a | cpySs z d a =>
    exact reads_laneB z.code_lt (by decide) (fun x h => show cand3B x = _ by simp only [cand3B, h.low2, Nat.reduceMod, h.w, cpySizeOf_code, h.da])
  | louver a | cpym a | brun a | shut a =>
    exact reads_encB (by decide) (by decide) (by decide) a.code_lt (by decide)
      (fun x h => show cand3C x = _ by simp only [cand3C, h.low2, Nat.reduceMod, h.la])
  | mma u a b | mdrain u a b =>
    exact reads_encA (by decide) (by decide) u.code_lt (by omega) (by omega) (by decide)
      (fun x h => show cand3D x = _ by simp only [cand3D, h.fn, h.ud, h.a, h.b, Fin.ofNat_val_eq_self])
  | mzero u b =>
    exact reads_noA (by decide) u.code_lt (by omega) (fun x h => show cand3D x = _ by
      simp only [cand3D, h.low2, h.ud, h.high (lo := 2) (k := b.val) (by omega), Nat.mul_add_mod_self_right, Fin.ofNat_val_eq_self])
  | mstat c d =>
    exact reads_encB (by decide) (by decide) (by omega) (c.toNat_lt.trans (by decide)) (by decide) (fun x h => show cand3D x = _ by
      simp only [cand3D, h.low2, h.gd, h.flagA])
  | bart => exact reads_noA (by decide) (by decide) (by decide) (fun x h => show cand3E x = _ by simp only [cand3E, h.sel])
  | bars k n =>
    exact reads_noA (by decide) (by omega) (by omega) (fun x h => show cand3E x = _ by
      rw [cand3E_slot.1 h.sel, h.kd, h.fin (n := 4) (m := n) (by omega)])
  | arr d n =>
    exact reads_noA (by decide) (by omega) (by omega) (fun x h => show cand3E x = _ by
      rw [cand3E_slot.2.1 h.sel, h.gd, h.fin (n := 4) (m := n) (by omega)])
  | atry k u n =>
    exact reads_encB (by decide) (by decide) (by omega) u.code_lt (by omega) (fun x h => show cand3E x = _ by
      rw [cand3E_slot.2.2 h.sel, h.kd, h.ua, h.fin (n := 4) (m := n) (by omega)])
  | pop d a => exact reads_encB (by decide) (by decide) (by omega) (by omega) (by decide) (fun x h => show cand3E x = _ by simp only [cand3E, h.sel, h.gd, h.ga])
  | enq k a => exact reads_encB (by decide) (by decide) (by omega) (by omega) (by decide) (fun x h => show cand3E x = _ by simp only [cand3E, h.sel, h.kd, h.ga])
  | enqW a | valid a =>
    exact reads_encB (by decide) (by decide) (by decide) (by omega) (by decide) (fun x h => show cand3E x = _ by simp only [cand3E, h.sel, h.ga])
  | rdvalid d | rdslk d => exact reads_noA (by decide) (by omega) (by decide) (fun x h => show cand3E x = _ by simp only [cand3E, h.sel, h.gd])
  | _ => exact nomatch hl


/-! ### Decoding -/

theorem accept_eq_some_iff {x : Nat} {c : Option Instr} {i : Instr} : accept x c = some i ↔ c = some i ∧ i.wf = true ∧ encode i = x := by
  cases c with
  | none => exact ⟨(nomatch ·), (nomatch ·.1)⟩
  | some j =>
    unfold accept
    dsimp only
    split
    · next h =>
      rw [Bool.and_eq_true, beq_iff_eq] at h
      exact ⟨fun hj => by cases hj; exact ⟨rfl, h⟩, fun hj => hj.1⟩
    · next h =>
      rw [Bool.and_eq_true, beq_iff_eq] at h
      exact ⟨(nomatch ·), fun ⟨hj, hi⟩ => by cases hj; exact absurd hi h⟩

/-- A word that is read as a well-formed instruction is decoded to it, whatever its bit S holds. -/
theorem decodeWord_of_reads {i : Instr} (h : Reads (encode i) i) (hw : i.wf = true) (s : Nat) :
    decodeWord (encode i + s * 2 ^ 31) = some i := by
  have hlt := h.1
  exact accept_eq_some_iff.mpr ⟨h.2 s, hw, by omega⟩

/-- Settles O48: the candidate of a word is read field by field, and each field holds the operand that the encoder put there. -/
theorem laneEncodingsDecode : Obligations.LaneEncodingsDecode := by
  intro i hl hw
  have h := reads_encode i hl hw
  have hlt := h.1
  refine ⟨hlt, ?_, ?_, ?_, ?_⟩
  · simpa using decodeWord_of_reads h hw 0
  · simpa using decodeWord_of_reads h hw 1
  · rw [switchBit, bitOf, Nat.div_eq_of_lt hlt]; rfl
  · rw [switchBit, bitOf, Nat.add_div_right _ (by decide), Nat.div_eq_of_lt hlt]; rfl

end Sys2Proof
end

section
/-! PROOF. Encoding and decoding of bank commands agree (14 R334), and what either decoder answers is of its kind. -/

namespace Sys2Proof

open Sys2Proof.Machine

/-! ### Bank commands -/

/-- A column address is a word's low half without bits [11:6]. -/
theorem Col.code_lt (c : Col) : c.code < 2 ^ 16 ∧ c.code % 2 ^ 12 < 64 := by
  unfold Col.code
  split <;> omega

theorem fin_field {x hi lo n : Nat} [NeZero n] {m : Fin n} (h : x / 2 ^ lo % 2 ^ (hi + 1 - lo) = m.val) : Fin.ofNat n (bitsOf x hi lo) = m := by
  rw [bitsOf, h, Fin.ofNat_val_eq_self]

/-- The column address of a word, whose bits [11:9] it does not use. -/
theorem colOf_field {x n : Nat} {ca : Col} (hn : n < 8) (h : x % 2 ^ 16 = n * 2 ^ 9 + ca.code) : colOf x = ca := by
  obtain ⟨xb, col⟩ := ca
  cases xb with
  | none =>
    have hb : bitOf x 15 = false := by simp only [Col.code, Nat.zero_add] at h; simp only [bitOf, beq_eq_false_iff_ne]; omega
    rw [colOf, hb, fin_field (m := col) (by simp only [Col.code] at h; omega)]
    rfl
  | some b =>
    have hb : bitOf x 15 = true := by simp only [Col.code] at h; simp only [bitOf, beq_iff_eq]; omega
    rw [colOf, hb, fin_field (m := col) (by simp only [Col.code] at h; omega), fin_field (m := b) (by simp only [Col.code] at h; omega)]
    rfl

/-- A bank word is read by its OP. -/
theorem reads_bank {e : Nat} (op : Nat) {i : Instr} (hlt : e < 2 ^ 32) (hop : e / 2 ^ 27 = op)
    (h : ∀ x, x = e → bitsOf x 31 27 = op → bankCandidate x = some i) : e < 2 ^ 32 ∧ bankCandidate e = some i :=
  ⟨hlt, h e rfl (by simp only [bitsOf]; omega)⟩

theorem bankReads_encode (i : Instr) (hb : i.isBank = true) : encode i < 2 ^ 32 ∧ bankCandidate (encode i) = some i := by
  cases i with
  | bankNop | bankClose | bankSig | bankEnd => exact ⟨by decide, rfl⟩
  | bankOpen f =>
    exact reads_bank (e := 0x01 * 2 ^ 27 + f.val * 2 ^ 24) 0x01 (by omega) (by omega) (fun x hx hop => by
      rw [bankCandidate, hop]
      exact congrArg some (congrArg Instr.bankOpen (fin_field (by omega))))
  | bankRdc d ca =>
    have := ca.code_lt
    exact reads_bank (e := 0x03 * 2 ^ 27 + d.val * 2 ^ 20 + ca.code) 0x03 (by omega) (by omega) (fun x hx hop => by
      rw [bankCandidate, hop]
      exact congrArg some (congrArg₂ Instr.bankRdc (fin_field (by omega)) (colOf_field (n := 0) (by decide) (by omega))))
  | bankWrc c ca =>
    have := ca.code_lt
    exact reads_bank (e := 0x04 * 2 ^ 27 + c.val * 2 ^ 16 + ca.code) 0x04 (by omega) (by omega) (fun x hx hop => by
      rw [bankCandidate, hop]
      exact congrArg some (congrArg₂ Instr.bankWrc (fin_field (by omega)) (colOf_field (n := 0) (by decide) (by omega))))
  | bankMacx q n m r ca =>
    have := ca.code_lt
    exact reads_bank (e := 0x05 * 2 ^ 27 + q.val * 2 ^ 24 + n.val * 2 ^ 21 + m.val * 2 ^ 18 + r.val * 2 ^ 9 + ca.code) 0x05 (by omega) (by omega) (fun x hx hop => by
      rw [bankCandidate, hop]
      exact congrArg some (congr (congr (congr (congrArg₂ Instr.bankMacx (fin_field (by omega)) (fin_field (by omega))) (fin_field (by omega)))
        (fin_field (by omega))) (colOf_field (n := r.val) (by omega) (by omega))))
  | bankMacc q c ca =>
    have := ca.code_lt
    exact reads_bank (e := 0x06 * 2 ^ 27 + q.val * 2 ^ 24 + c.val * 2 ^ 16 + ca.code) 0x06 (by omega) (by omega) (fun x hx hop => by
      rw [bankCandidate, hop]
      exact congrArg some (congr (congrArg₂ Instr.bankMacc (fin_field (by omega)) (fin_field (by omega))) (colOf_field (n := 0) (by decide) (by omega))))
  | bankAxpy f d ca =>
    have := ca.code_lt
    exact reads_bank (e := 0x07 * 2 ^ 27 + f.val * 2 ^ 24 + d.val * 2 ^ 20 + ca.code) 0x07 (by omega) (by omega) (fun x hx hop => by
      rw [bankCandidate, hop]
      exact congrArg some (congr (congrArg₂ Instr.bankAxpy (fin_field (by omega)) (fin_field (by omega))) (colOf_field (n := 0) (by decide) (by omega))))
  | bankScl f d c =>
    exact reads_bank (e := 0x08 * 2 ^ 27 + f.val * 2 ^ 24 + d.val * 2 ^ 20 + c.val * 2 ^ 16) 0x08 (by omega) (by omega) (fun x hx hop => by
      rw [bankCandidate, hop]
      exact congrArg some (congr (congrArg₂ Instr.bankScl (fin_field (by omega)) (fin_field (by omega))) (fin_field (by omega))))
  | bankQzero q n =>
    exact reads_bank (e := 0x09 * 2 ^ 27 + q.val * 2 ^ 24 + n.val * 2 ^ 21) 0x09 (by omega) (by omega) (fun x hx hop => by
      rw [bankCandidate, hop]
      exact congrArg some (congrArg₂ Instr.bankQzero (fin_field (by omega)) (fin_field (by omega))))
  | bankHsum q =>
    exact reads_bank (e := 0x0A * 2 ^ 27 + q.val * 2 ^ 24) 0x0A (by omega) (by omega) (fun x hx hop => by
      rw [bankCandidate, hop]
      exact congrArg some (congrArg Instr.bankHsum (fin_field (by omega))))
  | bankQst q d =>
    exact reads_bank (e := 0x0B * 2 ^ 27 + q.val * 2 ^ 24 + d.val * 2 ^ 20) 0x0B (by omega) (by omega) (fun x hx hop => by
      rw [bankCandidate, hop]
      exact congrArg some (congrArg₂ Instr.bankQst (fin_field (by omega)) (fin_field (by omega))))
  | bankQout q n =>
    exact reads_bank (e := 0x0C * 2 ^ 27 + q.val * 2 ^ 24 + n.val * 2 ^ 21) 0x0C (by omega) (by omega) (fun x hx hop => by
      rw [bankCandidate, hop]
      exact congrArg some (congrArg₂ Instr.bankQout (fin_field (by omega)) (fin_field (by omega))))
  | bankSetb b i =>
    exact reads_bank (e := 0x0D * 2 ^ 27 + b.val * 2 ^ 24 + i.toNat) 0x0D (by omega) (by omega) (fun x hx hop => by
      rw [bankCandidate, hop]
      exact congrArg some (congrArg₂ Instr.bankSetb (fin_field (by omega)) (imm_of_low (by omega))))
  | bankAddb b i =>
    exact reads_bank (e := 0x0E * 2 ^ 27 + b.val * 2 ^ 24 + i.toNat) 0x0E (by omega) (by omega) (fun x hx hop => by
      rw [bankCandidate, hop]
      exact congrArg some (congrArg₂ Instr.bankAddb (fin_field (by omega)) (imm_of_low (by omega))))
  | bankSetf b i =>
    exact reads_bank (e := 0x0F * 2 ^ 27 + b.val * 2 ^ 24 + i.toNat) 0x0F (by omega) (by omega) (fun x hx hop => by
      rw [bankCandidate, hop]
      exact congrArg some (congrArg₂ Instr.bankSetf (fin_field (by omega)) (imm_of_low (by omega))))
  | bankLoop b t =>
    exact reads_bank (e := 0x10 * 2 ^ 27 + b.val * 2 ^ 24 + t.val) 0x10 (by omega) (by omega) (fun x hx hop => by
      rw [bankCandidate, hop]
      exact congrArg some (congrArg₂ Instr.bankLoop (fin_field (by omega)) (fin_field (by omega))))
  | bankFmt c e => cases c <;> cases e <;> exact ⟨by decide, rfl⟩
  | _ => exact nomatch hb

/-- Settles O49: each field of a bank word holds the operand that the encoder put there. -/
theorem bankEncodingsDecode : Obligations.BankEncodingsDecode := by
  intro i hb hw
  obtain ⟨hlt, hc⟩ := bankReads_encode i hb
  exact ⟨hlt, accept_eq_some_iff.mpr ⟨hc, hw, rfl⟩⟩

/-! ### The kind of what a decoder answers -/

/-- A candidate, if any, is a lane instruction. -/
structure LaneCand (o : Option Instr) : Prop where
  lane : ∀ i, o = some i → i.isLane = true

theorem laneCand_none : LaneCand none := ⟨fun _ h => nomatch h⟩

theorem laneCand_some {i : Instr} (h : i.isLane = true) : LaneCand (some i) := ⟨fun _ hi => Option.some.inj hi ▸ h⟩

theorem laneCand_map {α : Type} (o : Option α) {f : α → Instr} (h : ∀ a, (f a).isLane = true) : LaneCand (o.map f) := by
  cases o with
  | none => exact laneCand_none
  | some a => exact laneCand_some (h a)

section
variable (x : Nat)

theorem laneCand_ld {f : LaneOp → Instr} (h : ∀ d, (f d).isLane = true) : LaneCand (ld x f) := laneCand_map _ h

theorem laneCand_la {f : LaneOp → Instr} (h : ∀ d, (f d).isLane = true) : LaneCand (la x f) := laneCand_map _ h

theorem laneCand_da {f : LaneOp → LaneOp → Instr} (h : ∀ d a, (f d a).isLane = true) : LaneCand (da x f) := by
  unfold da
  split
  · exact laneCand_some (h _ _)
  · exact laneCand_none

theorem laneCand_ab {f : LaneOp → LaneOp → Instr} (h : ∀ a b, (f a b).isLane = true) : LaneCand (ab x f) := by
  unfold ab
  split
  · exact laneCand_some (h _ _)
  · exact laneCand_none

theorem laneCand_dab {f : LaneOp → LaneOp → LaneOp → Instr} (h : ∀ d a b, (f d a b).isLane = true) : LaneCand (dab x f) := by
  unfold dab
  split
  · exact laneCand_some (h _ _ _)
  · exact laneCand_none

theorem laneCand_uab {f : UniOp → UniOp → Instr} (h : ∀ a b, (f a b).isLane = true) : LaneCand (uab x f) := laneCand_some (h _ _)

/-- Every arm of the table's candidates is made by one of the operand readers from a lane instruction. -/
theorem laneCand_of_mem : ∀ c ∈ candTable, LaneCand (c x) := by
  simp only [candTable, List.forall_mem_cons, List.not_mem_nil, IsEmpty.forall_iff, implies_true, and_true]
  repeat' apply And.intro
  all_goals simp only [
    cand00, cand01, cand02, cand03, cand04, cand05, cand06, cand07, cand08, cand09, cand0A, cand0B, cand0C, cand0D, cand0E, cand0F, cand10, cand11,
    cand12, cand13, cand14, cand15, cand16, cand17, cand18, cand19, cand1A, cand1B, cand1C, cand1D, cand1E, cand1F, cand20, cand21, cand22, cand23,
    cand24, cand25, cand26, cand27, cand28, cand29, cand2A, cand2B, cand2C, cand2D, cand2E, cand2F, cand30, cand31, cand32, cand33, cand34, cand35,
    cand36, cand37, cand38, cand39, cand3A, cand3B, cand3C, cand3D, cand3E]
  all_goals repeat' split
  all_goals apply_rules [laneCand_none, laneCand_some, laneCand_ld, laneCand_la, laneCand_da, laneCand_ab, laneCand_dab, laneCand_uab]
  all_goals intros; rfl

end

theorem candidate_isLane {x : Nat} {i : Instr} (h : candidate x = some i) : i.isLane = true := by
  rw [candidate_eq_table] at h
  by_cases hm : bitsOf x 30 25 < candTable.length
  · rw [List.getD_eq_getElem _ _ hm] at h
    exact (laneCand_of_mem x _ (List.getElem_mem hm)).lane i h
  · rw [List.getD_eq_default _ _ (Nat.le_of_not_lt hm)] at h
    exact nomatch h

theorem bankCandidate_isBank {x : Nat} {i : Instr} (h : bankCandidate x = some i) : i.isBank = true := by
  unfold bankCandidate at h
  split at h <;> cases h <;> rfl

/-- Settles O50: the decoder answers a candidate, which is of its kind, and only when it is well formed and encodes to the word. -/
theorem decodedWordsAreWellFormed : Obligations.DecodedWordsAreWellFormed := by
  refine ⟨fun w i _ h => ?_, fun w i _ h => ?_⟩ <;> obtain ⟨hc, hi⟩ := accept_eq_some_iff.mp h
  · exact ⟨candidate_isLane hc, hi⟩
  · exact ⟨bankCandidate_isBank hc, hi⟩

end Sys2Proof
end

section
/-! PROOF. Every step keeps the memories in canonical form (10, 95): what each turn of the agenda does, over the meanings of the instructions. -/

namespace Sys2Proof.Machine

open Sys2Proof

/-- Every meaning keeps the form. -/
theorem exec_memWf (i : Instr) (s : State) (hs : MemWf s) : KeepsForm (exec i s) := by
  intro s1 h
  cases i with
  | trap code => exact execTrap_memWf code s s1 hs h
  | rdsr wide d sr => exact execRdsr_memWf wide d sr s s1 hs h
  | wrsr wide sr a => exact execWrsr_memWf wide sr a s s1 hs h
  | segld sr a => exact execSegld_memWf sr a s s1 hs h
  | tlbinv d a => exact execTlbinv_memWf d a s s1 hs h
  | ownacq a => exact execOwnacq_memWf a s s1 hs h
  | ownrel a => exact execOwnrel_memWf a s s1 hs h
  | add w d a b => exact execAdd_memWf w d a b s s1 hs h
  | sub w d a b => exact execSub_memWf w d a b s s1 hs h
  | rsub w d a b => exact execRsub_memWf w d a b s s1 hs h
  | absd w d a b => exact execAbsd_memWf w d a b s s1 hs h
  | mul w d a b => exact execMul_memWf w d a b s s1 hs h
  | mulh w d a b => exact execMulh_memWf w d a b s s1 hs h
  | mad w d a b => exact execMad_memWf w d a b s s1 hs h
  | madh w d a b => exact execMadh_memWf w d a b s s1 hs h
  | and w d a b => exact execAnd_memWf w d a b s s1 hs h
  | or w d a b => exact execOr_memWf w d a b s s1 hs h
  | xor w d a b => exact execXor_memWf w d a b s s1 hs h
  | andn w d a b => exact execAndn_memWf w d a b s s1 hs h
  | shl w d a b => exact execShl_memWf w d a b s s1 hs h
  | shr w d a b => exact execShr_memWf w d a b s s1 hs h
  | sha w d a b => exact execSha_memWf w d a b s s1 hs h
  | rot w d a b => exact execRot_memWf w d a b s s1 hs h
  | min w d a b => exact execMin_memWf w d a b s s1 hs h
  | max w d a b => exact execMax_memWf w d a b s s1 hs h
  | sel w d a b => exact execSel_memWf w d a b s s1 hs h
  | selz w d a b => exact execSelz_memWf w d a b s s1 hs h
  | icmp wide any rel cb kd a b => exact execIcmp_memWf wide any rel cb kd a b s s1 hs h
  | bfx w d a b => exact execBfx_memWf w d a b s s1 hs h
  | bfxs w d a b => exact execBfxs_memWf w d a b s s1 hs h
  | bfi w d a b => exact execBfi_memWf w d a b s s1 hs h
  | perm w d a b => exact execPerm_memWf w d a b s s1 hs h
  | mov w d a => exact execMov_memWf w d a s s1 hs h
  | not w d a => exact execNot_memWf w d a s s1 hs h
  | neg w d a => exact execNeg_memWf w d a s s1 hs h
  | abs w d a => exact execAbs_memWf w d a s s1 hs h
  | clz w d a => exact execClz_memWf w d a s s1 hs h
  | popc w d a => exact execPopc_memWf w d a s s1 hs h
  | brev w d a => exact execBrev_memWf w d a s s1 hs h
  | bswap w d a => exact execBswap_memWf w d a s s1 hs h
  | ktoi d k => exact execKtoi_memWf d k s s1 hs h
  | itok kd a => exact execItok_memWf kd a s s1 hs h
  | kget d => exact execKget_memWf d s s1 hs h
  | kput a => exact execKput_memWf a s s1 hs h
  | movg wide d g => exact execMovg_memWf wide d g s s1 hs h
  | sext w d a m => exact execSext_memWf w d a m s s1 hs h
  | zext w d a m => exact execZext_memWf w d a m s s1 hs h
  | addi w d a im => exact execAddi_memWf w d a im s s1 hs h
  | shli w d a n => exact execShli_memWf w d a n s s1 hs h
  | shri w d a n => exact execShri_memWf w d a n s s1 hs h
  | shai w d a n => exact execShai_memWf w d a n s s1 hs h
  | roti w d a n => exact execRoti_memWf w d a n s s1 hs h
  | andi w d a im => exact execAndi_memWf w d a im s s1 hs h
  | ori w d a im => exact execOri_memWf w d a im s s1 hs h
  | xori w d a im => exact execXori_memWf w d a im s s1 hs h
  | andni w d a im => exact execAndni_memWf w d a im s s1 hs h
  | movi d im => exact execMovi_memWf d im s s1 hs h
  | moviZ d im => exact execMoviZ_memWf d im s s1 hs h
  | moviH d im => exact execMoviH_memWf d im s s1 hs h
  | moviL d im => exact execMoviL_memWf d im s s1 hs h
  | cmpi wide any rel kd a im => exact execCmpi_memWf wide any rel kd a im s s1 hs h
  | mode q im => exact execMode_memWf q im s s1 hs h
  | kand kd na ka nb kb => exact execKand_memWf kd na ka nb kb s s1 hs h
  | kor kd na ka nb kb => exact execKor_memWf kd na ka nb kb s s1 hs h
  | kxor kd na ka nb kb => exact execKxor_memWf kd na ka nb kb s s1 hs h
  | kandn kd na ka nb kb => exact execKandn_memWf kd na ka nb kb s s1 hs h
  | fadd w d a b => exact execFadd_memWf w d a b s s1 hs h
  | fsub w d a b => exact execFsub_memWf w d a b s s1 hs h
  | fmul w d a b => exact execFmul_memWf w d a b s s1 hs h
  | frsub w d a b => exact execFrsub_memWf w d a b s s1 hs h
  | ffma w d a b => exact execFfma_memWf w d a b s s1 hs h
  | ffms w d a b => exact execFfms_memWf w d a b s s1 hs h
  | fnma w d a b => exact execFnma_memWf w d a b s s1 hs h
  | fnms w d a b => exact execFnms_memWf w d a b s s1 hs h
  | fmin w d a b => exact execFmin_memWf w d a b s s1 hs h
  | fmax w d a b => exact execFmax_memWf w d a b s s1 hs h
  | fminm w d a b => exact execFminm_memWf w d a b s s1 hs h
  | fmaxm w d a b => exact execFmaxm_memWf w d a b s s1 hs h
  | fcmp wide any rel cb kd a b => exact execFcmp_memWf wide any rel cb kd a b s s1 hs h
  | fabs w d a => exact execFabs_memWf w d a s s1 hs h
  | fneg w d a => exact execFneg_memWf w d a s s1 hs h
  | frcp w d a => exact execFrcp_memWf w d a s s1 hs h
  | frsq w d a => exact execFrsq_memWf w d a s s1 hs h
  | fsqrt w d a => exact execFsqrt_memWf w d a s s1 hs h
  | fexp2 w d a => exact execFexp2_memWf w d a s s1 hs h
  | flog2 w d a => exact execFlog2_memWf w d a s s1 hs h
  | fsin w d a => exact execFsin_memWf w d a s s1 hs h
  | fcos w d a => exact execFcos_memWf w d a s s1 hs h
  | ftanh w d a => exact execFtanh_memWf w d a s s1 hs h
  | frnd w d a => exact execFrnd_memWf w d a s s1 hs h
  | fclass w d a => exact execFclass_memWf w d a s s1 hs h
  | cvt w d a trunc part dt => exact execCvt_memWf w d a trunc part dt s s1 hs h
  | packfBf16 w d a b => exact execPackfBf16_memWf w d a b s s1 hs h
  | packfF16 w d a b => exact execPackfF16_memWf w d a b s s1 hs h
  | packfE4m3 w d a b => exact execPackfE4m3_memWf w d a b s s1 hs h
  | packfE5m2 w d a b => exact execPackfE5m2_memWf w d a b s s1 hs h
  | dot w d a b => exact execDot_memWf w d a b s s1 hs h
  | dotz w d a b => exact execDotz_memWf w d a b s s1 hs h
  | uadd wide d a b => exact execUadd_memWf wide d a b s s1 hs h
  | usub wide d a b => exact execUsub_memWf wide d a b s s1 hs h
  | umul wide d a b => exact execUmul_memWf wide d a b s s1 hs h
  | umad wide d a b => exact execUmad_memWf wide d a b s s1 hs h
  | uand wide d a b => exact execUand_memWf wide d a b s s1 hs h
  | uor wide d a b => exact execUor_memWf wide d a b s s1 hs h
  | uxor wide d a b => exact execUxor_memWf wide d a b s s1 hs h
  | uandn wide d a b => exact execUandn_memWf wide d a b s s1 hs h
  | ushl wide d a b => exact execUshl_memWf wide d a b s s1 hs h
  | ushr wide d a b => exact execUshr_memWf wide d a b s s1 hs h
  | usha wide d a b => exact execUsha_memWf wide d a b s s1 hs h
  | urot wide d a b => exact execUrot_memWf wide d a b s s1 hs h
  | umin wide d a b => exact execUmin_memWf wide d a b s s1 hs h
  | umax wide d a b => exact execUmax_memWf wide d a b s s1 hs h
  | uminn wide d a b => exact execUminn_memWf wide d a b s s1 hs h
  | umaxn wide d a b => exact execUmaxn_memWf wide d a b s s1 hs h
  | uaddi wide d a im => exact execUaddi_memWf wide d a im s s1 hs h
  | umovi d im => exact execUmovi_memWf d im s s1 hs h
  | umoviZ d im => exact execUmoviZ_memWf d im s s1 hs h
  | umoviH d im => exact execUmoviH_memWf d im s s1 hs h
  | umoviL d im => exact execUmoviL_memWf d im s s1 hs h
  | ucmp wide uns rel cb kd a b => exact execUcmp_memWf wide uns rel cb kd a b s s1 hs h
  | shfli w d a => exact execShfli_memWf w d a s s1 hs h
  | shflu w d a n => exact execShflu_memWf w d a n s s1 hs h
  | shfld w d a n => exact execShfld_memWf w d a n s s1 hs h
  | shflx w d a n => exact execShflx_memWf w d a n s s1 hs h
  | ballot d neg k => exact execBallot_memWf d neg k s s1 hs h
  | scanadd ex d a => exact execScanadd_memWf ex d a s s1 hs h
  | redadd d a => exact execRedadd_memWf d a s s1 hs h
  | redmin d a => exact execRedmin_memWf d a s s1 hs h
  | redmax d a => exact execRedmax_memWf d a s s1 hs h
  | rdlane w d a n => exact execRdlane_memWf w d a n s s1 hs h
  | bcast w d a => exact execBcast_memWf w d a s s1 hs h
  | firstLane d => exact execFirstLane_memWf d s s1 hs h
  | matchLanes d a => exact execMatchLanes_memWf d a s s1 hs h
  | bra k n off => exact execBra_memWf k n off s s1 hs h
  | braAlways off => exact execBraAlways_memWf off s s1 hs h
  | bany k n off => exact execBany_memWf k n off s s1 hs h
  | ball k n off => exact execBall_memWf k n off s s1 hs h
  | bnone k n off => exact execBnone_memWf k n off s s1 hs h
  | brk k n off => exact execBrk_memWf k n off s s1 hs h
  | jpt off => exact execJpt_memWf off s s1 hs h
  | call off => exact execCall_memWf off s s1 hs h
  | jmpr a => exact execJmpr_memWf a s s1 hs h
  | callr a => exact execCallr_memWf a s s1 hs h
  | ldg w d a off => exact execLdg_memWf w d a off s s1 hs h
  | stg w d a off => exact execStg_memWf w d a off s s1 hs h
  | lds w d a off => exact execLds_memWf w d a off s s1 hs h
  | sts w d a off => exact execSts_memWf w d a off s s1 hs h
  | ldc w d a off => exact execLdc_memWf w d a off s s1 hs h
  | stc w d a off => exact execStc_memWf w d a off s s1 hs h
  | ldd w d a off => exact execLdd_memWf w d a off s s1 hs h
  | std w d a off => exact execStd_memWf w d a off s s1 hs h
  | ldl w d a off => exact execLdl_memWf w d a off s s1 hs h
  | stl w d a off => exact execStl_memWf w d a off s s1 hs h
  | ldx d a sp kind => exact execLdx_memWf d a sp kind s s1 hs h
  | stx d a sp half => exact execStx_memWf d a sp half s s1 hs h
  | ldo wide d a sp acq sc => exact execLdo_memWf wide d a sp acq sc s s1 hs h
  | sto wide d a sp rel sc => exact execSto_memWf wide d a sp rel sc s s1 hs h
  | atomgAdd d a b => exact execAtomgAdd_memWf d a b s s1 hs h
  | atomgMin d a b => exact execAtomgMin_memWf d a b s s1 hs h
  | atomgMax d a b => exact execAtomgMax_memWf d a b s s1 hs h
  | atomgAnd d a b => exact execAtomgAnd_memWf d a b s s1 hs h
  | atomgOr d a b => exact execAtomgOr_memWf d a b s s1 hs h
  | atomgXor d a b => exact execAtomgXor_memWf d a b s s1 hs h
  | atomgExch d a b => exact execAtomgExch_memWf d a b s s1 hs h
  | atomgCas d a b => exact execAtomgCas_memWf d a b s s1 hs h
  | atomgInc d a b => exact execAtomgInc_memWf d a b s s1 hs h
  | atomgDec d a b => exact execAtomgDec_memWf d a b s s1 hs h
  | atomsAdd d a b => exact execAtomsAdd_memWf d a b s s1 hs h
  | atomsMin d a b => exact execAtomsMin_memWf d a b s s1 hs h
  | atomsMax d a b => exact execAtomsMax_memWf d a b s s1 hs h
  | atomsAnd d a b => exact execAtomsAnd_memWf d a b s s1 hs h
  | atomsOr d a b => exact execAtomsOr_memWf d a b s s1 hs h
  | atomsXor d a b => exact execAtomsXor_memWf d a b s s1 hs h
  | atomsExch d a b => exact execAtomsExch_memWf d a b s s1 hs h
  | atomsCas d a b => exact execAtomsCas_memWf d a b s s1 hs h
  | atomsInc d a b => exact execAtomsInc_memWf d a b s s1 hs h
  | atomsDec d a b => exact execAtomsDec_memWf d a b s s1 hs h
  | atomcAdd d a b => exact execAtomcAdd_memWf d a b s s1 hs h
  | atomcMin d a b => exact execAtomcMin_memWf d a b s s1 hs h
  | atomcMax d a b => exact execAtomcMax_memWf d a b s s1 hs h
  | atomcAnd d a b => exact execAtomcAnd_memWf d a b s s1 hs h
  | atomcOr d a b => exact execAtomcOr_memWf d a b s s1 hs h
  | atomcXor d a b => exact execAtomcXor_memWf d a b s s1 hs h
  | atomcExch d a b => exact execAtomcExch_memWf d a b s s1 hs h
  | atomcCas d a b => exact execAtomcCas_memWf d a b s s1 hs h
  | atomcInc d a b => exact execAtomcInc_memWf d a b s s1 hs h
  | atomcDec d a b => exact execAtomcDec_memWf d a b s s1 hs h
  | atomdAdd d a b => exact execAtomdAdd_memWf d a b s s1 hs h
  | atomdMin d a b => exact execAtomdMin_memWf d a b s s1 hs h
  | atomdMax d a b => exact execAtomdMax_memWf d a b s s1 hs h
  | atomdAnd d a b => exact execAtomdAnd_memWf d a b s s1 hs h
  | atomdOr d a b => exact execAtomdOr_memWf d a b s s1 hs h
  | atomdXor d a b => exact execAtomdXor_memWf d a b s s1 hs h
  | atomdExch d a b => exact execAtomdExch_memWf d a b s s1 hs h
  | atomdCas d a b => exact execAtomdCas_memWf d a b s s1 hs h
  | atomdInc d a b => exact execAtomdInc_memWf d a b s s1 hs h
  | atomdDec d a b => exact execAtomdDec_memWf d a b s s1 hs h
  | fenceAcq sc => exact execFenceAcq_memWf sc s s1 hs h
  | fenceRel sc => exact execFenceRel_memWf sc s s1 hs h
  | fenceFull sc => exact execFenceFull_memWf sc s s1 hs h
  | sig sm n => exact execSig_memWf sm n s s1 hs h
  | swait sm n => exact execSwait_memWf sm n s s1 hs h
  | spoll d sm clr => exact execSpoll_memWf d sm clr s s1 hs h
  | yield sm n => exact execYield_memWf sm n s s1 hs h
  | cpyGs sz d a => exact execCpyGs_memWf sz d a s s1 hs h
  | cpySg sz d a => exact execCpySg_memWf sz d a s s1 hs h
  | cpyGc sz d a => exact execCpyGc_memWf sz d a s s1 hs h
  | cpySs sz d a => exact execCpySs_memWf sz d a s s1 hs h
  | louver a => exact execLouver_memWf a s s1 hs h
  | cpym a => exact execCpym_memWf a s s1 hs h
  | brun a => exact execBrun_memWf a s s1 hs h
  | shut a => exact execShut_memWf a s s1 hs h
  | mma t a b => exact execMma_memWf t a b s s1 hs h
  | mzero t b => exact execMzero_memWf t b s s1 hs h
  | mdrain t a b => exact execMdrain_memWf t a b s s1 hs h
  | mstat clr d => exact execMstat_memWf clr d s s1 hs h
  | bars kd slot => exact execBars_memWf kd slot s s1 hs h
  | arr d slot => exact execArr_memWf d slot s s1 hs h
  | atry kd a slot => exact execAtry_memWf kd a slot s s1 hs h
  | pop d a => exact execPop_memWf d a s s1 hs h
  | enq kd a => exact execEnq_memWf kd a s s1 hs h
  | enqW a => exact execEnqW_memWf a s s1 hs h
  | valid a => exact execValid_memWf a s s1 hs h
  | rdvalid a => exact execRdvalid_memWf a s s1 hs h
  | rdslk a => exact execRdslk_memWf a s s1 hs h
  | bankOpen fs => exact execBankOpen_memWf fs s s1 hs h
  | bankRdc d ca => exact execBankRdc_memWf d ca s s1 hs h
  | bankWrc c ca => exact execBankWrc_memWf c ca s s1 hs h
  | bankMacx q n slot xr ca => exact execBankMacx_memWf q n slot xr ca s s1 hs h
  | bankMacc q c ca => exact execBankMacc_memWf q c ca s s1 hs h
  | bankAxpy f d ca => exact execBankAxpy_memWf f d ca s s1 hs h
  | bankScl f d c => exact execBankScl_memWf f d c s s1 hs h
  | bankQzero q n => exact execBankQzero_memWf q n s s1 hs h
  | bankHsum q => exact execBankHsum_memWf q s s1 hs h
  | bankQst q d => exact execBankQst_memWf q d s s1 hs h
  | bankQout q n => exact execBankQout_memWf q n s s1 hs h
  | bankSetb b im => exact execBankSetb_memWf b im s s1 hs h
  | bankAddb b im => exact execBankAddb_memWf b im s s1 hs h
  | bankSetf f im => exact execBankSetf_memWf f im s s1 hs h
  | bankLoop b tgt => exact execBankLoop_memWf b tgt s s1 hs h
  | bankFmt sat wf => exact execBankFmt_memWf sat wf s s1 hs h
  | nop => exact execNop_memWf s s1 hs h
  | exit => exact execExit_memWf s s1 hs h
  | brkpt => exact execBrkpt_memWf s s1 hs h
  | icinv => exact execIcinv_memWf s s1 hs h
  | tret => exact execTret_memWf s s1 hs h
  | tfail => exact execTfail_memWf s s1 hs h
  | tlbinvAll => exact execTlbinvAll_memWf s s1 hs h
  | ret => exact execRet_memWf s s1 hs h
  | bart => exact execBart_memWf s s1 hs h
  | bankNop => exact execBankNop_memWf s s1 hs h
  | bankClose => exact execBankClose_memWf s s1 hs h
  | bankSig => exact execBankSig_memWf s s1 hs h
  | bankEnd => exact execBankEnd_memWf s s1 hs h
  | powerOnReset => exact execPowerOnReset_memWf s s1 hs h
  | mbcmdLoadVerify => exact execMbcmdLoadVerify_memWf s s1 hs h
  | attestationSign => exact execAttestationSign_memWf s s1 hs h
  | fatalError => exact execFatalError_memWf s s1 hs h
  | submit => exact execSubmit_memWf s s1 hs h
  | feed => exact execFeed_memWf s s1 hs h
  | resume => exact execResume_memWf s s1 hs h
  | kill => exact execKill_memWf s s1 hs h
  | hostTlbinv => exact execHostTlbinv_memWf s s1 hs h
  | contextEnd => exact execContextEnd_memWf s s1 hs h
  | registerWrite => exact execRegisterWrite_memWf s s1 hs h
  | bar2Read => exact execBar2Read_memWf s s1 hs h
  | bar2Write => exact execBar2Write_memWf s s1 hs h
  | lintelEnable => exact execLintelEnable_memWf s s1 hs h
  | lintelDisable => exact execLintelDisable_memWf s s1 hs h
  | timePortLock => exact execTimePortLock_memWf s s1 hs h
  | governorTick => exact execGovernorTick_memWf s s1 hs h
  | coolantOver45c => exact execCoolantOver45c_memWf s s1 hs h
  | coolantBelow40c => exact execCoolantBelow40c_memWf s s1 hs h
  | refreshDue => exact execRefreshDue_memWf s s1 hs h
  | launchAccept => exact execLaunchAccept_memWf s s1 hs h
  | preemptionSave => exact execPreemptionSave_memWf s s1 hs h
  | teamRetire => exact execTeamRetire_memWf s s1 hs h
  | tWrapReached => exact execTWrapReached_memWf s s1 hs h
  | diversion => exact execDiversion_memWf s s1 hs h
  | deadlineReached => exact execDeadlineReached_memWf s s1 hs h
  | teamKill => exact execTeamKill_memWf s s1 hs h
  | loadReturn => exact execLoadReturn_memWf s s1 hs h
  | splitJoin => exact execSplitJoin_memWf s s1 hs h
  | serialTurnEnd => exact execSerialTurnEnd_memWf s s1 hs h
  | trapEntry => exact execTrapEntry_memWf s s1 hs h
  | trapRecordDeferredWrite => exact execTrapRecordDeferredWrite_memWf s s1 hs h
  | writeBack => exact execWriteBack_memWf s s1 hs h
  | drainRequest => exact execDrainRequest_memWf s s1 hs h
  | invalidationPoint => exact execInvalidationPoint_memWf s s1 hs h
  | invalidationAck => exact execInvalidationAck_memWf s s1 hs h
  | engineCommandComplete => exact execEngineCommandComplete_memWf s s1 hs h
  | cpymExecute => exact execCpymExecute_memWf s s1 hs h
  | louverExecute => exact execLouverExecute_memWf s s1 hs h
  | matrixCommandStart => exact execMatrixCommandStart_memWf s s1 hs h
  | mmaKStep => exact execMmaKStep_memWf s s1 hs h
  | bankQueueNextCheck => exact execBankQueueNextCheck_memWf s s1 hs h
  | handingDone => exact execHandingDone_memWf s s1 hs h
  | toDieFrame => exact execToDieFrame_memWf s s1 hs h
  | bankRunGrant => exact execBankRunGrant_memWf s s1 hs h
  | windowEnd => exact execWindowEnd_memWf s s1 hs h
  | tokenArrival => exact execTokenArrival_memWf s s1 hs h
  | guardElapsed => exact execGuardElapsed_memWf s s1 hs h
  | lintelFrameReceive => exact execLintelFrameReceive_memWf s s1 hs h
  | scheduleTimeout => exact execScheduleTimeout_memWf s s1 hs h
  | rollCall => exact execRollCall_memWf s s1 hs h
  | rollCallEnd => exact execRollCallEnd_memWf s s1 hs h
  | ualinkRequest => exact execUalinkRequest_memWf s s1 hs h
  | remoteResponse => exact execRemoteResponse_memWf s s1 hs h
  | remoteRequestTimeout => exact execRemoteRequestTimeout_memWf s s1 hs h
  | linkStateChange => exact execLinkStateChange_memWf s s1 hs h
  | tokenRequest => exact execTokenRequest_memWf s s1 hs h
  | tokenRecall => exact execTokenRecall_memWf s s1 hs h
  | recallDone => exact execRecallDone_memWf s s1 hs h
  | tokenGiveBack => exact execTokenGiveBack_memWf s s1 hs h
  | tokenGrant => exact execTokenGrant_memWf s s1 hs h
  | illegalEncoding => exact execIllegalEncoding_memWf s s1 hs h
  | instructionFetchFault => exact execInstructionFetchFault_memWf s s1 hs h
  | imageVerificationEnd => exact execImageVerificationEnd_memWf s s1 hs h
  | timePortLockLoss => exact execTimePortLockLoss_memWf s s1 hs h

theorem keepsForm_next {s : State} (hs : MemWf s) : KeepsForm (.next s) := fun _ h => by
  cases h
  exact hs

theorem mapNext_exec_memWf {f : State → State} {i : Instr} {s : State} (hs : MemWf s) (hf : ∀ s, MemWf s → MemWf (f s)) :
    KeepsForm (mapNext f (exec i s)) :=
  mapNext_memWf f _ hf (exec_memWf i s hs)

theorem runEvent_memWf (s : State) (i : Instr) (x : Subject) (hs : MemWf s) : KeepsForm (runEvent s i x) :=
  mapNext_exec_memWf ((MemWf_upd s ..).2 hs) (fun t ht => (MemWf_upd t ..).2 ht)

@[simp] theorem fetchAsk_memWf (s : State) (t : Team) (u e pa va : Nat) (hs : MemWf s) : MemWf (fetchAsk s t u e pa va) := by
  simp_all [fetchAsk]

theorem issueWord_memWf (s : State) (g : Group) (t : Team) (e : Nat) (hs : MemWf s) : KeepsForm (issueWord s g t e) := by
  refine mapNext_memWf _ _ (fun t ht => afterIssue_memWf _ _ _ hs ht) ?_
  have run (s : State) (i : Instr) (w : Word) (hs : MemWf s) : KeepsForm (exec i (withIssuer s g.uid e w)) :=
    exec_memWf _ _ (withIssuer_memWf _ _ _ _ hs)
  cases (g.split e).word with
  | some w => exact run s _ w hs
  | none =>
    show KeepsForm (ite _ _ _)
    split
    · exact keepsForm_next ((MemWf_upd s ..).2 hs)
    split
    · exact run s _ 0 hs
    split
    case h_1 => exact run s _ 0 hs
    case h_2 => exact keepsForm_next (fetchHeld_memWf _ _ _ _ hs)
    case h_3 => exact keepsForm_next (fetchAsk_memWf _ _ _ _ _ _ hs)
    case h_4 => exact keepsForm_next (fetchWalks_memWf _ _ _ _ _ hs)
    case h_5 s1 w hw => exact run _ _ w (keepWord_memWf _ _ _ _ (fetchWord_memWf _ _ _ _ hs _ _ hw))

theorem issueSplit_memWf (s : State) (g : Group) (t : Team) (e : Nat) (hs : MemWf s) : KeepsForm (issueSplit s g t e) := by
  unfold issueSplit
  split
  · exact runEvent_memWf _ _ _ hs
  · exact issueWord_memWf _ _ _ _ hs

theorem issueOf_memWf (s : State) (grp e : Nat) (hs : MemWf s) : KeepsForm (issueOf s grp e) := by
  unfold issueOf
  dsimp only
  split
  · exact keepsForm_next hs
  split
  · exact keepsForm_next hs
  split
  · exact issueSplit_memWf _ _ _ _ hs
  · exact keepsForm_next hs

theorem bankTurn_memWf (s : State) (uid : Nat) (hs : MemWf s) : KeepsForm (bankTurn s uid) := by
  unfold bankTurn
  split
  · exact keepsForm_next hs
  split
  · exact keepsForm_next hs
  split
  case h_1 s1 h1 => exact keepsForm_next (atBoundary_memWf _ _ hs _ h1)
  split
  · exact mapNext_exec_memWf ((MemWf_upd s ..).2 hs) (fun t ht => (MemWf_upd t ..).2 ht)
  · exact keepsForm_next hs

theorem runTurn_memWf (s : State) (x : Turn) (hs : MemWf s) : KeepsForm (runTurn s x) := by
  cases x with
  | event i x =>
    show KeepsForm (ite _ _ _)
    split
    · exact runEvent_memWf _ _ _ hs
    · exact keepsForm_next hs
  | issue g e => exact issueOf_memWf _ _ _ hs
  | bank r => exact bankTurn_memWf _ _ hs
  | clock n => exact keepsForm_next (ticks_memWf _ _ hs)
  | upset d => exact keepsForm_next (upset_memWf _ _ hs)
  | perform l r i =>
    refine keepsForm_next ?_
    split
    · exact hs
    · exact performTurn_memWf _ _ _ _ hs
  | tlbLoad a c v =>
    refine keepsForm_next ?_
    split
    · exact hs
    · exact tlbLoad_memWf _ _ _ _ hs
  | bar2Size k => exact keepsForm_next (resizeBar2_memWf _ _ hs)
  | front => exact keepsForm_next (frontTurn_memWf _ hs)

theorem dueEvent_memWf (s : State) (hs : MemWf s) {o : Host.Outcome State Fault Refusal} (h : dueEvent s = some o) : KeepsForm o := by
  obtain ⟨e, _, he⟩ := List.exists_of_findSome?_eq_some h
  dsimp only at he
  split at he <;> cases he
  exact runEvent_memWf _ _ _ hs

theorem dueFront_memWf (s : State) (hs : MemWf s) {o : Host.Outcome State Fault Refusal} (h : dueFront s = some o) : KeepsForm o := by
  unfold dueFront at h
  split at h
  · cases h
  · split at h <;> cases h
    exact keepsForm_next (frontTurn_memWf _ hs)

theorem dueRun_memWf (s : State) (hs : MemWf s) {o : Host.Outcome State Fault Refusal} (h : dueRun s = some o) : KeepsForm o := by
  obtain ⟨r, _, hr⟩ := List.exists_of_findSome?_eq_some h
  dsimp only at hr
  split at hr
  · split at hr <;> cases hr
    exact bankTurn_memWf _ _ hs
  · cases hr

theorem idle_memWf (s : State) (hs : MemWf s) : KeepsForm (idle s) := by
  unfold idle
  split
  case h_1 o ho => exact dueEvent_memWf s hs ho
  split
  case h_1 o ho => exact dueFront_memWf s hs ho
  split
  case h_1 o ho => exact dueRun_memWf s hs ho
  split
  · exact issueOf_memWf _ _ _ hs
  · exact keepsForm_next (tick_memWf _ hs)

theorem stepOf_memWf (s : State) (hs : MemWf s) : KeepsForm (stepOf s) := by
  unfold stepOf
  split
  · exact runTurn_memWf _ _ ((MemWf_upd s ..).2 hs)
  · exact idle_memWf s hs

/-- Settles O52: each turn of the agenda keeps the form, since each meaning does. -/
theorem stepsKeepTheMemoriesCanonical : Obligations.StepsKeepTheMemoriesCanonical :=
  fun s t hs h => stepOf_memWf s hs t h

end Sys2Proof.Machine
end

section
/-! PROOF. The instructions of the own-group families are issues whose effect leaves the group the one it was (01, 04 to 07). -/

namespace Sys2Proof.Machine

open Sys2Proof

/-! ### The same group -/

/-- A group is the one it was, with the same lanes left, in a handler or not as before, and with no new failure. -/
structure Kin (h g : Group) : Prop where
  uid : h.uid = g.uid
  team : h.team = g.team
  exm : h.exm = g.exm
  inHandler : h.inHandler = g.inHandler
  failed : g.failed = [] → h.failed = []

theorem Kin.rfl (g : Group) : Kin g g := ⟨Eq.refl _, Eq.refl _, Eq.refl _, Eq.refl _, id⟩

theorem Kin.trans {f g h : Group} (a : Kin f g) (b : Kin g h) : Kin f h :=
  ⟨a.uid.trans b.uid, a.team.trans b.team, a.exm.trans b.exm, a.inHandler.trans b.inHandler, fun e => a.failed (b.failed e)⟩

theorem Kin.foldl {α : Type} {f : Group → α → Group} (hf : ∀ g a, Kin (f g a) g) (l : List α) (g : Group) : Kin (l.foldl f g) g := by
  induction l generalizing g with
  | nil => exact .rfl g
  | cons a t ih => exact (ih (f g a)).trans (hf g a)

theorem setSplit_kin (g : Group) (e : Nat) (sp : Split) : Kin (g.setSplit e sp) g := ⟨rfl, rfl, rfl, rfl, id⟩

theorem setFrame_kin (g : Group) (f : Nat) (x : DFrame) : Kin (g.setFrame f x) g := ⟨rfl, rfl, rfl, rfl, id⟩

theorem setUreg_kin (g : Group) (n : Nat) (v : Word) : Kin (g.setUreg n v) g := ⟨rfl, rfl, rfl, rfl, id⟩

theorem setPred_kin (g : Group) (k : Nat) (m v : Lanes) : Kin (g.setPred k m v) g := ⟨rfl, rfl, rfl, rfl, id⟩

theorem writeReg_kin (g : Group) (i r : Nat) (v : Word) : Kin (writeReg g i r v) g :=
  ⟨rfl, rfl, rfl, rfl, fun h => by rw [writeReg, h, List.filter_nil]⟩

theorem writeWord_kin (g : Group) (d : LaneOp) (i k : Nat) (v : Word) : Kin (writeWord g d i k v) g := by
  unfold writeWord
  split
  · exact writeReg_kin _ _ _ _
  · exact .rfl g

theorem writeRun_kin (g : Group) (d : LaneOp) (w i v : Nat) : Kin (writeRun g d w i v) g := Kin.foldl (fun _ _ => writeWord_kin _ _ _ _ _) _ g

theorem putResult_kin (d : LaneOp) (w : Nat) (g : Group) (q : Nat × LaneRes) : Kin (putResult d w g q) g := by
  have hr := writeRun_kin g d w q.1 q.2.val
  unfold putResult
  dsimp only
  split <;> exact ⟨hr.uid, hr.team, hr.exm, hr.inHandler, hr.failed⟩

theorem enterHist_kin (g : Group) (e : Nat) (act : Lanes) (res : Nat → Nat) : Kin (enterHist g e act res) g := ⟨rfl, rfl, rfl, rfl, id⟩

theorem putResults_kin (x : Ix) (d : LaneOp) (w : Nat) (r : Nat → LaneRes) : Kin (putResults x d w r) x.g :=
  (enterHist_kin _ _ _ _).trans (Kin.foldl (putResult_kin d w) _ x.g)

theorem putChain_kin (x : Ix) (d : LaneOp) (ls : List Link) (val : Nat → Nat) : Kin (putChain x d ls val) x.g := putResults_kin _ _ _ _

theorem putPred_kin (x : Ix) (kd : Nat) (cb : Comb) (m : Lanes) : Kin (putPred x kd cb m) x.g := setPred_kin _ _ _ _

theorem writeUni_kin (g : Group) (wide : Bool) (d : Fin 64) (v : Nat) : Kin (writeUni g wide d v) g := by
  cases wide
  · exact setUreg_kin _ _ _
  · exact (setUreg_kin _ _ _).trans (setUreg_kin _ _ _)

theorem writeLink_kin (g : Group) (m : Lanes) (v : Word) : Kin (writeLink g m v) g := Kin.foldl (fun _ _ => writeReg_kin _ _ _ _) _ g

theorem startSerial_kin (clock : Nat) (g : Group) (e : Nat) : Kin (startSerial clock g e) g := setSplit_kin _ _ _

theorem brkSplit_kin (clock : Nat) (g : Group) (e k : Nat) (n : Bool) (target : Word) : Kin (brkSplit clock g e k n target) g := by
  unfold brkSplit
  dsimp only
  split
  · exact setSplit_kin _ _ _
  split
  · exact setSplit_kin _ _ _
  split
  · exact setSplit_kin _ _ _
  split
  · exact (setSplit_kin _ _ _).trans (setSplit_kin _ _ _)
  · exact startSerial_kin _ _ _

theorem jptSplit_kin (clock : Nat) (g : Group) (e : Nat) (target : Word) : Kin (jptSplit clock g e target) g := by
  unfold jptSplit
  dsimp only
  split
  · exact setSplit_kin _ _ _
  split
  · exact (setSplit_kin _ _ _).trans (setFrame_kin _ _ _)
  · exact startSerial_kin _ _ _

theorem jumpSplit_kin (clock : Nat) (g : Group) (e : Nat) (ts : List (Nat × Word)) : Kin (jumpSplit clock g e ts) g := by
  unfold jumpSplit
  dsimp only
  split
  · exact .rfl g
  · exact setSplit_kin _ _ _
  split
  · exact (Kin.foldl (fun _ _ => setSplit_kin _ _ _) _ _).trans (setSplit_kin _ _ _)
  · exact startSerial_kin _ _ _

/-! ### The issue of an own-group instruction -/

/-- The answer of an issue from a state. -/
def Issued (s : State) (o : Host.Outcome State Fault Refusal) : Prop := ∃ n body, o = issue n body s

theorem issue_issued (n : Needs) (body : Ix → Except Trap (State × Next)) (s : State) : Issued s (issue n body s) := ⟨n, body, rfl⟩

theorem issueG_issued (n : Needs) (body : Ix → Group × Next) (s : State) : Issued s (issueG n body s) := issue_issued _ _ s

/-- The split has issued, and no entry of its group has gone. -/
def Steady : Next → Prop
  | .again | .gone => False
  | _ => True

/-- An effect on the issuing group alone, or the ALIGN trap of an indirect transfer. -/
inductive OwnEffect (x : Ix) : Except Trap (State × Next) → Prop where
  | moves {g : Group} {nx : Next} (k : Kin g x.g) (h : Steady nx) : OwnEffect x (.ok (x.s.setGroup g, nx))
  | misaligned (m : Lanes) (va : Nat) : OwnEffect x (.error (laneTrap cALIGN m va))

/-- The answer of an issue that no queue holds back and whose effect is on the issuing group alone. -/
def OwnIssued (s : State) (o : Host.Outcome State Fault Refusal) : Prop :=
  ∃ n body, (∀ x, n.blocked x = false) ∧ (∀ x, OwnEffect x (body x)) ∧ o = issue n body s

theorem OwnIssued.issued {s : State} {o : Host.Outcome State Fault Refusal} (h : OwnIssued s o) : Issued s o := by
  obtain ⟨n, body, -, -, e⟩ := h
  exact ⟨n, body, e⟩

theorem issueG_own {n : Needs} {body : Ix → Group × Next} {s : State} (hb : ∀ x, n.blocked x = false) (hk : ∀ x, Kin (body x).1 x.g)
    (hn : ∀ x, Steady (body x).2) : OwnIssued s (issueG n body s) :=
  ⟨n, _, hb, fun x => .moves (hk x) (hn x), rfl⟩

theorem intOp3_own (w d a b r f s) : OwnIssued s (intOp3 w d a b r f s) := by
  unfold intOp3
  exact issueG_own (fun _ => rfl) (fun _ => putResults_kin _ _ _ _) (fun _ => trivial)

theorem regOp3_own (w d a b r f s) : OwnIssued s (regOp3 w d a b r f s) := by
  unfold regOp3
  exact issueG_own (fun _ => rfl) (fun _ => putResults_kin _ _ _ _) (fun _ => trivial)

theorem regOp2_own (w d a f s) : OwnIssued s (regOp2 w d a f s) := by
  unfold regOp2
  exact issueG_own (fun _ => rfl) (fun _ => putResults_kin _ _ _ _) (fun _ => trivial)

theorem intOp2_own (w d a f s) : OwnIssued s (intOp2 w d a f s) := by
  unfold intOp2
  exact issueG_own (fun _ => rfl) (fun _ => putResults_kin _ _ _ _) (fun _ => trivial)

theorem moviOp_own (h d i s) : OwnIssued s (moviOp h d i s) := by
  unfold moviOp
  exact issueG_own (fun _ => rfl) (fun _ => putResults_kin _ _ _ _) (fun _ => trivial)

theorem kop_own (kd na ka nb kb f s) : OwnIssued s (kop kd na ka nb kb f s) := by
  unfold kop
  exact issueG_own (fun _ => rfl) (fun _ => putPred_kin _ _ _ _) (fun _ => trivial)

theorem floatOp3_own (w d a b r f s) : OwnIssued s (floatOp3 w d a b r f s) := by
  unfold floatOp3
  exact issueG_own (fun _ => rfl) (fun _ => putResults_kin _ _ _ _) (fun _ => trivial)

theorem minMaxOp_own (w d a b big prop s) : OwnIssued s (minMaxOp w d a b big prop s) := by
  unfold minMaxOp
  exact issueG_own (fun _ => rfl) (fun _ => putResults_kin _ _ _ _) (fun _ => trivial)

theorem funOp_own (w d a r f s) : OwnIssued s (funOp w d a r f s) := by
  unfold funOp
  exact issueG_own (fun _ => rfl) (fun _ => putResults_kin _ _ _ _) (fun _ => trivial)

theorem packOp_own (w d a b f s) : OwnIssued s (packOp w d a b f s) := by
  unfold packOp
  exact issueG_own (fun _ => rfl) (fun _ => putResults_kin _ _ _ _) (fun _ => trivial)

theorem dotOp_own (w d a b acc s) : OwnIssued s (dotOp w d a b acc s) := by
  unfold dotOp
  exact issueG_own (fun _ => rfl) (fun _ => putResults_kin _ _ _ _) (fun _ => trivial)

theorem uniOp_own (wide d a b r f s) : OwnIssued s (uniOp wide d a b r f s) := by
  unfold uniOp
  exact issueG_own (fun _ => rfl) (fun _ => writeUni_kin _ _ _ _) (fun _ => trivial)

theorem umoviOp_own (h d i s) : OwnIssued s (umoviOp h d i s) := by
  unfold umoviOp
  exact issueG_own (fun _ => rfl) (fun _ => setUreg_kin _ _ _) (fun _ => trivial)

theorem shuffle_own (w d a more src s) : OwnIssued s (shuffle w d a more src s) := by
  unfold shuffle
  exact issueG_own (fun _ => rfl) (fun _ => putResults_kin _ _ _ _) (fun _ => trivial)

theorem reduceOp_own (d a chain s) : OwnIssued s (reduceOp d a chain s) := by
  unfold reduceOp
  exact issueG_own (fun _ => rfl) (fun _ => putChain_kin _ _ _ _) (fun _ => trivial)

theorem branchIf_own (off k p s) : OwnIssued s (branchIf off k p s) := by
  unfold branchIf
  exact issueG_own (fun _ => rfl) (fun _ => .rfl _) (fun x => by dsimp only; split <;> trivial)

theorem jind_own (a link s) : OwnIssued s (jind a link s) := by
  refine ⟨_, _, fun _ => rfl, fun x => ?_, rfl⟩
  dsimp only
  split
  · exact .misaligned _ _
  · refine .moves ((jumpSplit_kin _ _ _ _).trans ?_) trivial
    split
    · exact writeLink_kin _ _ _
    · exact .rfl x.g

theorem execKtoi_own (d k s) : OwnIssued s (execKtoi d k s) := by
  unfold execKtoi
  exact issueG_own (fun _ => rfl) (fun _ => putResults_kin _ _ _ _) (fun _ => trivial)

theorem execItok_own (kd a s) : OwnIssued s (execItok kd a s) := by
  unfold execItok
  exact issueG_own (fun _ => rfl) (fun _ => putPred_kin _ _ _ _) (fun _ => trivial)

theorem execKget_own (d s) : OwnIssued s (execKget d s) := by
  unfold execKget
  exact issueG_own (fun _ => rfl) (fun _ => putResults_kin _ _ _ _) (fun _ => trivial)

theorem execKput_own (a s) : OwnIssued s (execKput a s) := by
  unfold execKput
  exact issueG_own (fun _ => rfl) (fun _ => Kin.foldl (fun _ _ => setPred_kin _ _ _ _) _ _) (fun _ => trivial)

theorem execMode_own (q im s) : OwnIssued s (execMode q im s) := by
  unfold execMode
  exact issueG_own (fun _ => rfl) (fun _ => setSplit_kin _ _ _) (fun _ => trivial)

theorem execUcmp_own (wide uns rel cb kd a b s) : OwnIssued s (execUcmp wide uns rel cb kd a b s) := by
  unfold execUcmp
  exact issueG_own (fun _ => rfl) (fun _ => putPred_kin _ _ _ _) (fun _ => trivial)

theorem execBallot_own (d neg k s) : OwnIssued s (execBallot d neg k s) := by
  unfold execBallot
  exact issueG_own (fun _ => rfl) (fun _ => putResults_kin _ _ _ _) (fun _ => trivial)

theorem execScanadd_own (ex d a s) : OwnIssued s (execScanadd ex d a s) := by
  unfold execScanadd
  exact issueG_own (fun _ => rfl) (fun _ => putChain_kin _ _ _ _) (fun _ => trivial)

theorem execFirstLane_own (d s) : OwnIssued s (execFirstLane d s) := by
  unfold execFirstLane
  exact issueG_own (fun _ => rfl) (fun _ => putResults_kin _ _ _ _) (fun _ => trivial)

theorem execMatchLanes_own (d a s) : OwnIssued s (execMatchLanes d a s) := by
  unfold execMatchLanes
  exact issueG_own (fun _ => rfl) (fun _ => putResults_kin _ _ _ _) (fun _ => trivial)

theorem execBra_own (k n off s) : OwnIssued s (execBra k n off s) := by
  unfold execBra
  exact issueG_own (fun _ => rfl) (fun _ => .rfl _) (fun x => by dsimp only; split <;> trivial)

theorem execBraAlways_own (off s) : OwnIssued s (execBraAlways off s) := by
  unfold execBraAlways
  exact issueG_own (fun _ => rfl) (fun _ => .rfl _) (fun _ => trivial)

theorem execBrk_own (k n off s) : OwnIssued s (execBrk k n off s) := by
  unfold execBrk
  exact issueG_own (fun _ => rfl) (fun _ => brkSplit_kin _ _ _ _ _ _) (fun _ => trivial)

theorem execJpt_own (off s) : OwnIssued s (execJpt off s) := by
  unfold execJpt
  exact issueG_own (fun _ => rfl) (fun _ => jptSplit_kin _ _ _ _) (fun _ => trivial)

theorem execCall_own (off s) : OwnIssued s (execCall off s) := by
  unfold execCall
  exact issueG_own (fun _ => rfl) (fun _ => writeLink_kin _ _ _) (fun _ => trivial)

theorem execRdslk_own (a s) : OwnIssued s (execRdslk a s) := by
  unfold execRdslk
  exact issueG_own (fun _ => rfl) (fun _ => writeUni_kin _ true a _) (fun _ => trivial)

theorem execNop_own (s) : OwnIssued s (execNop s) := by
  unfold execNop
  exact issueG_own (fun _ => rfl) (fun _ => .rfl _) (fun _ => trivial)

theorem execSel_own (w d a b s) : OwnIssued s (execSel w d a b s) := by
  unfold execSel
  exact issueG_own (fun _ => rfl) (fun _ => putResults_kin _ _ _ _) (fun _ => trivial)

theorem execIcmp_own (wide any rel cb kd a b s) : OwnIssued s (execIcmp wide any rel cb kd a b s) := by
  unfold execIcmp
  exact issueG_own (fun _ => rfl) (fun _ => putPred_kin _ _ _ _) (fun _ => trivial)

theorem execMovg_own (wide d g s) : OwnIssued s (execMovg wide d g s) := by
  unfold execMovg
  exact issueG_own (fun _ => rfl) (fun _ => putResults_kin _ _ _ _) (fun _ => trivial)

theorem execCmpi_own (wide any rel kd a im s) : OwnIssued s (execCmpi wide any rel kd a im s) := by
  unfold execCmpi
  exact issueG_own (fun _ => rfl) (fun _ => putPred_kin _ _ _ _) (fun _ => trivial)

theorem execFcmp_own (wide any rel cb kd a b s) : OwnIssued s (execFcmp wide any rel cb kd a b s) := by
  unfold execFcmp
  exact issueG_own (fun _ => rfl) (fun _ => putPred_kin _ _ _ _) (fun _ => trivial)

theorem execCvt_own (w d a trunc part dt s) : OwnIssued s (execCvt w d a trunc part dt s) := by
  unfold execCvt
  exact issueG_own (fun _ => rfl) (fun _ => putResults_kin _ _ _ _) (fun _ => trivial)

theorem execRdlane_own (w d a n s) : OwnIssued s (execRdlane w d a n s) := by
  unfold execRdlane
  exact issueG_own (fun _ => rfl) (fun _ => putResults_kin _ _ _ _) (fun _ => trivial)

theorem execBcast_own (w d a s) : OwnIssued s (execBcast w d a s) := by
  unfold execBcast
  exact issueG_own (fun _ => rfl) (fun _ => putResults_kin _ _ _ _) (fun _ => trivial)

theorem exec_own (i : Instr) (s : State) (h : ownGroup i = true) : OwnIssued s (exec i s) := by
  cases i with
  | add w d a b => exact (intOp3_own _ _ _ _ _ _ s : OwnIssued s (execAdd w d a b s))
  | sub w d a b => exact (intOp3_own _ _ _ _ _ _ s : OwnIssued s (execSub w d a b s))
  | rsub w d a b => exact (intOp3_own _ _ _ _ _ _ s : OwnIssued s (execRsub w d a b s))
  | absd w d a b => exact (intOp3_own _ _ _ _ _ _ s : OwnIssued s (execAbsd w d a b s))
  | mul w d a b => exact (intOp3_own _ _ _ _ _ _ s : OwnIssued s (execMul w d a b s))
  | mulh w d a b => exact (intOp3_own _ _ _ _ _ _ s : OwnIssued s (execMulh w d a b s))
  | mad w d a b => exact (intOp3_own _ _ _ _ _ _ s : OwnIssued s (execMad w d a b s))
  | madh w d a b => exact (intOp3_own _ _ _ _ _ _ s : OwnIssued s (execMadh w d a b s))
  | shl w d a b => exact (intOp3_own _ _ _ _ _ _ s : OwnIssued s (execShl w d a b s))
  | shr w d a b => exact (intOp3_own _ _ _ _ _ _ s : OwnIssued s (execShr w d a b s))
  | sha w d a b => exact (intOp3_own _ _ _ _ _ _ s : OwnIssued s (execSha w d a b s))
  | rot w d a b => exact (intOp3_own _ _ _ _ _ _ s : OwnIssued s (execRot w d a b s))
  | min w d a b => exact (intOp3_own _ _ _ _ _ _ s : OwnIssued s (execMin w d a b s))
  | max w d a b => exact (intOp3_own _ _ _ _ _ _ s : OwnIssued s (execMax w d a b s))
  | and w d a b => exact (regOp3_own _ _ _ _ _ _ s : OwnIssued s (execAnd w d a b s))
  | or w d a b => exact (regOp3_own _ _ _ _ _ _ s : OwnIssued s (execOr w d a b s))
  | xor w d a b => exact (regOp3_own _ _ _ _ _ _ s : OwnIssued s (execXor w d a b s))
  | andn w d a b => exact (regOp3_own _ _ _ _ _ _ s : OwnIssued s (execAndn w d a b s))
  | selz w d a b => exact (regOp3_own _ _ _ _ _ _ s : OwnIssued s (execSelz w d a b s))
  | bfx w d a b => exact (regOp3_own _ _ _ _ _ _ s : OwnIssued s (execBfx w d a b s))
  | bfxs w d a b => exact (regOp3_own _ _ _ _ _ _ s : OwnIssued s (execBfxs w d a b s))
  | bfi w d a b => exact (regOp3_own _ _ _ _ _ _ s : OwnIssued s (execBfi w d a b s))
  | perm w d a b => exact (regOp3_own _ _ _ _ _ _ s : OwnIssued s (execPerm w d a b s))
  | mov w d a => exact (regOp2_own _ _ _ _ s : OwnIssued s (execMov w d a s))
  | not w d a => exact (regOp2_own _ _ _ _ s : OwnIssued s (execNot w d a s))
  | clz w d a => exact (regOp2_own _ _ _ _ s : OwnIssued s (execClz w d a s))
  | popc w d a => exact (regOp2_own _ _ _ _ s : OwnIssued s (execPopc w d a s))
  | brev w d a => exact (regOp2_own _ _ _ _ s : OwnIssued s (execBrev w d a s))
  | bswap w d a => exact (regOp2_own _ _ _ _ s : OwnIssued s (execBswap w d a s))
  | sext w d a m => exact (regOp2_own _ _ _ _ s : OwnIssued s (execSext w d a m s))
  | zext w d a m => exact (regOp2_own _ _ _ _ s : OwnIssued s (execZext w d a m s))
  | andi w d a im => exact (regOp2_own _ _ _ _ s : OwnIssued s (execAndi w d a im s))
  | ori w d a im => exact (regOp2_own _ _ _ _ s : OwnIssued s (execOri w d a im s))
  | xori w d a im => exact (regOp2_own _ _ _ _ s : OwnIssued s (execXori w d a im s))
  | andni w d a im => exact (regOp2_own _ _ _ _ s : OwnIssued s (execAndni w d a im s))
  | neg w d a => exact (intOp2_own _ _ _ _ s : OwnIssued s (execNeg w d a s))
  | abs w d a => exact (intOp2_own _ _ _ _ s : OwnIssued s (execAbs w d a s))
  | addi w d a im => exact (intOp2_own _ _ _ _ s : OwnIssued s (execAddi w d a im s))
  | shli w d a n => exact (intOp2_own _ _ _ _ s : OwnIssued s (execShli w d a n s))
  | shri w d a n => exact (intOp2_own _ _ _ _ s : OwnIssued s (execShri w d a n s))
  | shai w d a n => exact (intOp2_own _ _ _ _ s : OwnIssued s (execShai w d a n s))
  | roti w d a n => exact (intOp2_own _ _ _ _ s : OwnIssued s (execRoti w d a n s))
  | movi d im => exact (moviOp_own _ _ _ s : OwnIssued s (execMovi d im s))
  | moviZ d im => exact (moviOp_own _ _ _ s : OwnIssued s (execMoviZ d im s))
  | moviH d im => exact (moviOp_own _ _ _ s : OwnIssued s (execMoviH d im s))
  | moviL d im => exact (moviOp_own _ _ _ s : OwnIssued s (execMoviL d im s))
  | kand kd na ka nb kb => exact (kop_own _ _ _ _ _ _ s : OwnIssued s (execKand kd na ka nb kb s))
  | kor kd na ka nb kb => exact (kop_own _ _ _ _ _ _ s : OwnIssued s (execKor kd na ka nb kb s))
  | kxor kd na ka nb kb => exact (kop_own _ _ _ _ _ _ s : OwnIssued s (execKxor kd na ka nb kb s))
  | kandn kd na ka nb kb => exact (kop_own _ _ _ _ _ _ s : OwnIssued s (execKandn kd na ka nb kb s))
  | fadd w d a b => exact (floatOp3_own _ _ _ _ _ _ s : OwnIssued s (execFadd w d a b s))
  | fsub w d a b => exact (floatOp3_own _ _ _ _ _ _ s : OwnIssued s (execFsub w d a b s))
  | fmul w d a b => exact (floatOp3_own _ _ _ _ _ _ s : OwnIssued s (execFmul w d a b s))
  | frsub w d a b => exact (floatOp3_own _ _ _ _ _ _ s : OwnIssued s (execFrsub w d a b s))
  | ffma w d a b => exact (floatOp3_own _ _ _ _ _ _ s : OwnIssued s (execFfma w d a b s))
  | ffms w d a b => exact (floatOp3_own _ _ _ _ _ _ s : OwnIssued s (execFfms w d a b s))
  | fnma w d a b => exact (floatOp3_own _ _ _ _ _ _ s : OwnIssued s (execFnma w d a b s))
  | fnms w d a b => exact (floatOp3_own _ _ _ _ _ _ s : OwnIssued s (execFnms w d a b s))
  | fmin w d a b => exact (minMaxOp_own _ _ _ _ _ _ s : OwnIssued s (execFmin w d a b s))
  | fmax w d a b => exact (minMaxOp_own _ _ _ _ _ _ s : OwnIssued s (execFmax w d a b s))
  | fminm w d a b => exact (minMaxOp_own _ _ _ _ _ _ s : OwnIssued s (execFminm w d a b s))
  | fmaxm w d a b => exact (minMaxOp_own _ _ _ _ _ _ s : OwnIssued s (execFmaxm w d a b s))
  | fabs w d a => exact (funOp_own _ _ _ _ _ s : OwnIssued s (execFabs w d a s))
  | fneg w d a => exact (funOp_own _ _ _ _ _ s : OwnIssued s (execFneg w d a s))
  | frcp w d a => exact (funOp_own _ _ _ _ _ s : OwnIssued s (execFrcp w d a s))
  | frsq w d a => exact (funOp_own _ _ _ _ _ s : OwnIssued s (execFrsq w d a s))
  | fsqrt w d a => exact (funOp_own _ _ _ _ _ s : OwnIssued s (execFsqrt w d a s))
  | fexp2 w d a => exact (funOp_own _ _ _ _ _ s : OwnIssued s (execFexp2 w d a s))
  | flog2 w d a => exact (funOp_own _ _ _ _ _ s : OwnIssued s (execFlog2 w d a s))
  | fsin w d a => exact (funOp_own _ _ _ _ _ s : OwnIssued s (execFsin w d a s))
  | fcos w d a => exact (funOp_own _ _ _ _ _ s : OwnIssued s (execFcos w d a s))
  | ftanh w d a => exact (funOp_own _ _ _ _ _ s : OwnIssued s (execFtanh w d a s))
  | frnd w d a => exact (funOp_own _ _ _ _ _ s : OwnIssued s (execFrnd w d a s))
  | fclass w d a => exact (funOp_own _ _ _ _ _ s : OwnIssued s (execFclass w d a s))
  | packfBf16 w d a b => exact (packOp_own _ _ _ _ _ s : OwnIssued s (execPackfBf16 w d a b s))
  | packfF16 w d a b => exact (packOp_own _ _ _ _ _ s : OwnIssued s (execPackfF16 w d a b s))
  | packfE4m3 w d a b => exact (packOp_own _ _ _ _ _ s : OwnIssued s (execPackfE4m3 w d a b s))
  | packfE5m2 w d a b => exact (packOp_own _ _ _ _ _ s : OwnIssued s (execPackfE5m2 w d a b s))
  | dot w d a b => exact (dotOp_own _ _ _ _ _ s : OwnIssued s (execDot w d a b s))
  | dotz w d a b => exact (dotOp_own _ _ _ _ _ s : OwnIssued s (execDotz w d a b s))
  | uadd wide d a b => exact (uniOp_own _ _ _ _ _ _ s : OwnIssued s (execUadd wide d a b s))
  | usub wide d a b => exact (uniOp_own _ _ _ _ _ _ s : OwnIssued s (execUsub wide d a b s))
  | umul wide d a b => exact (uniOp_own _ _ _ _ _ _ s : OwnIssued s (execUmul wide d a b s))
  | umad wide d a b => exact (uniOp_own _ _ _ _ _ _ s : OwnIssued s (execUmad wide d a b s))
  | uand wide d a b => exact (uniOp_own _ _ _ _ _ _ s : OwnIssued s (execUand wide d a b s))
  | uor wide d a b => exact (uniOp_own _ _ _ _ _ _ s : OwnIssued s (execUor wide d a b s))
  | uxor wide d a b => exact (uniOp_own _ _ _ _ _ _ s : OwnIssued s (execUxor wide d a b s))
  | uandn wide d a b => exact (uniOp_own _ _ _ _ _ _ s : OwnIssued s (execUandn wide d a b s))
  | ushl wide d a b => exact (uniOp_own _ _ _ _ _ _ s : OwnIssued s (execUshl wide d a b s))
  | ushr wide d a b => exact (uniOp_own _ _ _ _ _ _ s : OwnIssued s (execUshr wide d a b s))
  | usha wide d a b => exact (uniOp_own _ _ _ _ _ _ s : OwnIssued s (execUsha wide d a b s))
  | urot wide d a b => exact (uniOp_own _ _ _ _ _ _ s : OwnIssued s (execUrot wide d a b s))
  | umin wide d a b => exact (uniOp_own _ _ _ _ _ _ s : OwnIssued s (execUmin wide d a b s))
  | umax wide d a b => exact (uniOp_own _ _ _ _ _ _ s : OwnIssued s (execUmax wide d a b s))
  | uminn wide d a b => exact (uniOp_own _ _ _ _ _ _ s : OwnIssued s (execUminn wide d a b s))
  | umaxn wide d a b => exact (uniOp_own _ _ _ _ _ _ s : OwnIssued s (execUmaxn wide d a b s))
  | uaddi wide d a im => exact (uniOp_own _ _ _ _ _ _ s : OwnIssued s (execUaddi wide d a im s))
  | umovi d im => exact (umoviOp_own _ _ _ s : OwnIssued s (execUmovi d im s))
  | umoviZ d im => exact (umoviOp_own _ _ _ s : OwnIssued s (execUmoviZ d im s))
  | umoviH d im => exact (umoviOp_own _ _ _ s : OwnIssued s (execUmoviH d im s))
  | umoviL d im => exact (umoviOp_own _ _ _ s : OwnIssued s (execUmoviL d im s))
  | shfli w d a => exact (shuffle_own _ _ _ _ _ s : OwnIssued s (execShfli w d a s))
  | shflu w d a n => exact (shuffle_own _ _ _ _ _ s : OwnIssued s (execShflu w d a n s))
  | shfld w d a n => exact (shuffle_own _ _ _ _ _ s : OwnIssued s (execShfld w d a n s))
  | shflx w d a n => exact (shuffle_own _ _ _ _ _ s : OwnIssued s (execShflx w d a n s))
  | redadd d a => exact (reduceOp_own _ _ _ s : OwnIssued s (execRedadd d a s))
  | redmin d a => exact (reduceOp_own _ _ _ s : OwnIssued s (execRedmin d a s))
  | redmax d a => exact (reduceOp_own _ _ _ s : OwnIssued s (execRedmax d a s))
  | bany k n off => exact (branchIf_own _ _ _ s : OwnIssued s (execBany k n off s))
  | ball k n off => exact (branchIf_own _ _ _ s : OwnIssued s (execBall k n off s))
  | bnone k n off => exact (branchIf_own _ _ _ s : OwnIssued s (execBnone k n off s))
  | jmpr a => exact (jind_own _ _ s : OwnIssued s (execJmpr a s))
  | callr a => exact (jind_own _ _ s : OwnIssued s (execCallr a s))
  | ret => exact (jind_own _ _ s : OwnIssued s (execRet s))
  | ktoi d k => exact execKtoi_own d k s
  | itok kd a => exact execItok_own kd a s
  | kget d => exact execKget_own d s
  | kput a => exact execKput_own a s
  | mode q im => exact execMode_own q im s
  | ucmp wide uns rel cb kd a b => exact execUcmp_own wide uns rel cb kd a b s
  | ballot d neg k => exact execBallot_own d neg k s
  | scanadd ex d a => exact execScanadd_own ex d a s
  | firstLane d => exact execFirstLane_own d s
  | matchLanes d a => exact execMatchLanes_own d a s
  | bra k n off => exact execBra_own k n off s
  | braAlways off => exact execBraAlways_own off s
  | brk k n off => exact execBrk_own k n off s
  | jpt off => exact execJpt_own off s
  | call off => exact execCall_own off s
  | rdslk a => exact execRdslk_own a s
  | nop => exact execNop_own s
  | sel w d a b => exact execSel_own w d a b s
  | icmp wide any rel cb kd a b => exact execIcmp_own wide any rel cb kd a b s
  | movg wide d g => exact execMovg_own wide d g s
  | cmpi wide any rel kd a im => exact execCmpi_own wide any rel kd a im s
  | fcmp wide any rel cb kd a b => exact execFcmp_own wide any rel cb kd a b s
  | cvt w d a trunc part dt => exact execCvt_own w d a trunc part dt s
  | rdlane w d a n => exact execRdlane_own w d a n s
  | bcast w d a => exact execBcast_own w d a s
  | _ => exact nomatch h

end Sys2Proof.Machine
end

section
/-! PROOF. No step is refused, and none faults but at an event whose subject is of another kind (95): what every meaning may answer, and
that the turns of the agenda name an issuing split and a running run where their instructions look for one. -/

namespace Sys2Proof.Machine

open Sys2Proof

/-! ### Every instruction of a split is an issue -/

theorem loadOp_issued (f w d a s) : Issued s (loadOp f w d a s) := by
  unfold loadOp
  exact issue_issued _ _ s

theorem storeOp_issued (f w d a s) : Issued s (storeOp f w d a s) := by
  unfold storeOp
  exact issue_issued _ _ s

theorem atomOp_issued (op sp d a b s) : Issued s (atomOp op sp d a b s) := by
  unfold atomOp
  exact issue_issued _ _ s

theorem fenceOp_issued (acq sc s) : Issued s (fenceOp acq sc s) := by
  unfold fenceOp
  exact issue_issued _ _ s

theorem semWait_issued (sem n cont s) : Issued s (semWait sem n cont s) := by
  unfold semWait
  exact issue_issued _ _ s

theorem cpyOp_issued (sz src dst d a s) : Issued s (cpyOp sz src dst d a s) := by
  unfold cpyOp
  exact issue_issued _ _ s

theorem ecmdOp_issued (kind a s) : Issued s (ecmdOp kind a s) := by
  unfold ecmdOp
  exact issue_issued _ _ s

theorem mxOp_issued (kind bad chks t a b s) : Issued s (mxOp kind bad chks t a b s) := by
  unfold mxOp
  exact issue_issued _ _ s

theorem enqOp_issued (a hb full done s) : Issued s (enqOp a hb full done s) := by
  unfold enqOp
  exact issue_issued _ _ s

theorem execRdsr_issued (wide d sr s) : Issued s (execRdsr wide d sr s) := by
  unfold execRdsr
  exact issue_issued _ _ s

theorem execWrsr_issued (wide sr a s) : Issued s (execWrsr wide sr a s) := by
  unfold execWrsr
  exact issue_issued _ _ s

theorem execSegld_issued (sr a s) : Issued s (execSegld sr a s) := by
  unfold execSegld
  exact issue_issued _ _ s

/-- Outside the own-group families. -/
theorem exec_issued_of_not_own (i : Instr) (s : State) (h : i.isLane = true) (ho : ownGroup i = false) : Issued s (exec i s) := by
  cases i with
  | trap code => exact (issue_issued _ _ s : Issued s (execTrap code s))
  | rdsr wide d sr => exact execRdsr_issued wide d sr s
  | wrsr wide sr a => exact execWrsr_issued wide sr a s
  | segld sr a => exact execSegld_issued sr a s
  | tlbinv d a => exact (issue_issued _ _ s : Issued s (execTlbinv d a s))
  | ownacq a => exact (issue_issued _ _ s : Issued s (execOwnacq a s))
  | ownrel a => exact (issue_issued _ _ s : Issued s (execOwnrel a s))
  | ldg w d a off => exact (loadOp_issued _ _ _ _ s : Issued s (execLdg w d a off s))
  | stg w d a off => exact (storeOp_issued _ _ _ _ s : Issued s (execStg w d a off s))
  | lds w d a off => exact (loadOp_issued _ _ _ _ s : Issued s (execLds w d a off s))
  | sts w d a off => exact (storeOp_issued _ _ _ _ s : Issued s (execSts w d a off s))
  | ldc w d a off => exact (loadOp_issued _ _ _ _ s : Issued s (execLdc w d a off s))
  | stc w d a off => exact (storeOp_issued _ _ _ _ s : Issued s (execStc w d a off s))
  | ldd w d a off => exact (loadOp_issued _ _ _ _ s : Issued s (execLdd w d a off s))
  | std w d a off => exact (storeOp_issued _ _ _ _ s : Issued s (execStd w d a off s))
  | ldl w d a off => exact (loadOp_issued _ _ _ _ s : Issued s (execLdl w d a off s))
  | stl w d a off => exact (storeOp_issued _ _ _ _ s : Issued s (execStl w d a off s))
  | ldx d a sp kind => exact (loadOp_issued _ _ _ _ s : Issued s (execLdx d a sp kind s))
  | stx d a sp half => exact (storeOp_issued _ _ _ _ s : Issued s (execStx d a sp half s))
  | ldo wide d a sp acq sc => exact (loadOp_issued _ _ _ _ s : Issued s (execLdo wide d a sp acq sc s))
  | sto wide d a sp rel sc => exact (storeOp_issued _ _ _ _ s : Issued s (execSto wide d a sp rel sc s))
  | atomgAdd d a b => exact (atomOp_issued _ _ _ _ _ s : Issued s (execAtomgAdd d a b s))
  | atomgMin d a b => exact (atomOp_issued _ _ _ _ _ s : Issued s (execAtomgMin d a b s))
  | atomgMax d a b => exact (atomOp_issued _ _ _ _ _ s : Issued s (execAtomgMax d a b s))
  | atomgAnd d a b => exact (atomOp_issued _ _ _ _ _ s : Issued s (execAtomgAnd d a b s))
  | atomgOr d a b => exact (atomOp_issued _ _ _ _ _ s : Issued s (execAtomgOr d a b s))
  | atomgXor d a b => exact (atomOp_issued _ _ _ _ _ s : Issued s (execAtomgXor d a b s))
  | atomgExch d a b => exact (atomOp_issued _ _ _ _ _ s : Issued s (execAtomgExch d a b s))
  | atomgCas d a b => exact (atomOp_issued _ _ _ _ _ s : Issued s (execAtomgCas d a b s))
  | atomgInc d a b => exact (atomOp_issued _ _ _ _ _ s : Issued s (execAtomgInc d a b s))
  | atomgDec d a b => exact (atomOp_issued _ _ _ _ _ s : Issued s (execAtomgDec d a b s))
  | atomsAdd d a b => exact (atomOp_issued _ _ _ _ _ s : Issued s (execAtomsAdd d a b s))
  | atomsMin d a b => exact (atomOp_issued _ _ _ _ _ s : Issued s (execAtomsMin d a b s))
  | atomsMax d a b => exact (atomOp_issued _ _ _ _ _ s : Issued s (execAtomsMax d a b s))
  | atomsAnd d a b => exact (atomOp_issued _ _ _ _ _ s : Issued s (execAtomsAnd d a b s))
  | atomsOr d a b => exact (atomOp_issued _ _ _ _ _ s : Issued s (execAtomsOr d a b s))
  | atomsXor d a b => exact (atomOp_issued _ _ _ _ _ s : Issued s (execAtomsXor d a b s))
  | atomsExch d a b => exact (atomOp_issued _ _ _ _ _ s : Issued s (execAtomsExch d a b s))
  | atomsCas d a b => exact (atomOp_issued _ _ _ _ _ s : Issued s (execAtomsCas d a b s))
  | atomsInc d a b => exact (atomOp_issued _ _ _ _ _ s : Issued s (execAtomsInc d a b s))
  | atomsDec d a b => exact (atomOp_issued _ _ _ _ _ s : Issued s (execAtomsDec d a b s))
  | atomcAdd d a b => exact (atomOp_issued _ _ _ _ _ s : Issued s (execAtomcAdd d a b s))
  | atomcMin d a b => exact (atomOp_issued _ _ _ _ _ s : Issued s (execAtomcMin d a b s))
  | atomcMax d a b => exact (atomOp_issued _ _ _ _ _ s : Issued s (execAtomcMax d a b s))
  | atomcAnd d a b => exact (atomOp_issued _ _ _ _ _ s : Issued s (execAtomcAnd d a b s))
  | atomcOr d a b => exact (atomOp_issued _ _ _ _ _ s : Issued s (execAtomcOr d a b s))
  | atomcXor d a b => exact (atomOp_issued _ _ _ _ _ s : Issued s (execAtomcXor d a b s))
  | atomcExch d a b => exact (atomOp_issued _ _ _ _ _ s : Issued s (execAtomcExch d a b s))
  | atomcCas d a b => exact (atomOp_issued _ _ _ _ _ s : Issued s (execAtomcCas d a b s))
  | atomcInc d a b => exact (atomOp_issued _ _ _ _ _ s : Issued s (execAtomcInc d a b s))
  | atomcDec d a b => exact (atomOp_issued _ _ _ _ _ s : Issued s (execAtomcDec d a b s))
  | atomdAdd d a b => exact (atomOp_issued _ _ _ _ _ s : Issued s (execAtomdAdd d a b s))
  | atomdMin d a b => exact (atomOp_issued _ _ _ _ _ s : Issued s (execAtomdMin d a b s))
  | atomdMax d a b => exact (atomOp_issued _ _ _ _ _ s : Issued s (execAtomdMax d a b s))
  | atomdAnd d a b => exact (atomOp_issued _ _ _ _ _ s : Issued s (execAtomdAnd d a b s))
  | atomdOr d a b => exact (atomOp_issued _ _ _ _ _ s : Issued s (execAtomdOr d a b s))
  | atomdXor d a b => exact (atomOp_issued _ _ _ _ _ s : Issued s (execAtomdXor d a b s))
  | atomdExch d a b => exact (atomOp_issued _ _ _ _ _ s : Issued s (execAtomdExch d a b s))
  | atomdCas d a b => exact (atomOp_issued _ _ _ _ _ s : Issued s (execAtomdCas d a b s))
  | atomdInc d a b => exact (atomOp_issued _ _ _ _ _ s : Issued s (execAtomdInc d a b s))
  | atomdDec d a b => exact (atomOp_issued _ _ _ _ _ s : Issued s (execAtomdDec d a b s))
  | fenceAcq sc => exact (fenceOp_issued _ _ s : Issued s (execFenceAcq sc s))
  | fenceRel sc => exact (fenceOp_issued _ _ s : Issued s (execFenceRel sc s))
  | fenceFull sc => exact (fenceOp_issued _ _ s : Issued s (execFenceFull sc s))
  | sig sm n => exact (issue_issued _ _ s : Issued s (execSig sm n s))
  | swait sm n => exact (semWait_issued _ _ _ s : Issued s (execSwait sm n s))
  | spoll d sm clr => exact (issue_issued _ _ s : Issued s (execSpoll d sm clr s))
  | yield sm n => exact (semWait_issued _ _ _ s : Issued s (execYield sm n s))
  | cpyGs sz d a => exact (cpyOp_issued _ _ _ _ _ s : Issued s (execCpyGs sz d a s))
  | cpySg sz d a => exact (cpyOp_issued _ _ _ _ _ s : Issued s (execCpySg sz d a s))
  | cpyGc sz d a => exact (cpyOp_issued _ _ _ _ _ s : Issued s (execCpyGc sz d a s))
  | cpySs sz d a => exact (cpyOp_issued _ _ _ _ _ s : Issued s (execCpySs sz d a s))
  | louver a => exact (ecmdOp_issued _ _ s : Issued s (execLouver a s))
  | cpym a => exact (ecmdOp_issued _ _ s : Issued s (execCpym a s))
  | brun a => exact (ecmdOp_issued _ _ s : Issued s (execBrun a s))
  | shut a => exact (ecmdOp_issued _ _ s : Issued s (execShut a s))
  | mma t a b => exact (mxOp_issued _ _ _ _ _ _ s : Issued s (execMma t a b s))
  | mzero t b => exact (mxOp_issued _ _ _ _ _ _ s : Issued s (execMzero t b s))
  | mdrain t a b => exact (mxOp_issued _ _ _ _ _ _ s : Issued s (execMdrain t a b s))
  | mstat clr d => exact (issue_issued _ _ s : Issued s (execMstat clr d s))
  | bars kd slot => exact (issue_issued _ _ s : Issued s (execBars kd slot s))
  | arr d slot => exact (issue_issued _ _ s : Issued s (execArr d slot s))
  | atry kd a slot => exact (issue_issued _ _ s : Issued s (execAtry kd a slot s))
  | pop d a => exact (issue_issued _ _ s : Issued s (execPop d a s))
  | enq kd a => exact (enqOp_issued _ _ _ _ s : Issued s (execEnq kd a s))
  | enqW a => exact (enqOp_issued _ _ _ _ s : Issued s (execEnqW a s))
  | valid a => exact (issue_issued _ _ s : Issued s (execValid a s))
  | rdvalid a => exact (issue_issued _ _ s : Issued s (execRdvalid a s))
  | exit => exact (issueG_issued _ _ s : Issued s (execExit s))
  | brkpt => exact (issue_issued _ _ s : Issued s (execBrkpt s))
  | icinv => exact (issue_issued _ _ s : Issued s (execIcinv s))
  | tret => exact (issueG_issued _ _ s : Issued s (execTret s))
  | tfail => exact (issue_issued _ _ s : Issued s (execTfail s))
  | tlbinvAll => exact (issue_issued _ _ s : Issued s (execTlbinvAll s))
  | bart => exact (issue_issued _ _ s : Issued s (execBart s))
  | add | sub | rsub | absd | mul | mulh | mad | madh | and | or | xor | andn | shl | shr | sha | rot | min | max | sel | selz | icmp | bfx | bfxs |
  bfi | perm | mov | not | neg | abs | clz | popc | brev | bswap | ktoi | itok | kget | kput | movg | sext | zext | addi | shli | shri | shai | roti
  | andi | ori | xori | andni | movi | moviZ | moviH | moviL | cmpi | mode | kand | kor | kxor | kandn | fadd | fsub | fmul | frsub | ffma | ffms |
  fnma | fnms | fmin | fmax | fminm | fmaxm | fcmp | fabs | fneg | frcp | frsq | fsqrt | fexp2 | flog2 | fsin | fcos | ftanh | frnd | fclass | cvt |
  packfBf16 | packfF16 | packfE4m3 | packfE5m2 | dot | dotz | uadd | usub | umul | umad | uand | uor | uxor | uandn | ushl | ushr | usha | urot |
  umin | umax | uminn | umaxn | uaddi | umovi | umoviZ | umoviH | umoviL | ucmp | shfli | shflu | shfld | shflx | ballot | scanadd | redadd | redmin
  | redmax | rdlane | bcast | firstLane | matchLanes | bra | braAlways | bany | ball | bnone | brk | jpt | call | jmpr | callr | rdslk | nop | ret =>
    exact nomatch ho
  | _ => exact nomatch h

theorem exec_issued (i : Instr) (s : State) (h : i.isLane = true) : Issued s (exec i s) := by
  cases ho : ownGroup i with
  | true => exact (exec_own i s ho).issued
  | false => exact exec_issued_of_not_own i s h ho

/-! ### What a meaning may answer -/

/-- Why a meaning faults: nothing that it looks for is there. -/
def Stops (s : State) : Fault → Prop
  | .noIssuer => ixOf s = none
  | .noRun => ∀ r, ¬ Running s r
  | .noSubject => True

/-- A next state, or the one fault f, for its reason. -/
inductive Answers (f : Fault) (s : State) : Host.Outcome State Fault Refusal → Prop where
  | next (t : State) : Answers f s (.next t)
  | fault : Stops s f → Answers f s (.fault f)

theorem issue_answers (n : Needs) (body : Ix → Except Trap (State × Next)) (s : State) : Answers .noIssuer s (issue n body s) := by
  unfold issue
  split
  case h_1 hx => exact .fault hx
  split
  · exact .next _
  split
  · exact .next _
  split
  · exact .next _
  split <;> exact .next _

theorem execInstructionFetchFault_answers (s : State) : Answers .noIssuer s (execInstructionFetchFault s) := by
  unfold execInstructionFetchFault
  split
  case h_1 hx => exact .fault hx
  dsimp only
  split
  · exact .next _
  split <;> exact .next _

theorem bankCmd_answers (f : State → Run → BankNx) (s : State) : Answers .noRun s (bankCmd f s) := by
  unfold bankCmd
  split
  case h_1 hn => exact .fault (fun r hr => nomatch hn.symm.trans hr.names)
  case h_2 r hn =>
    split
    case isTrue hst => exact .fault (fun q hq => hst (Option.some.inj (hn.symm.trans hq.names) ▸ hq.on))
    split <;> exact .next _

theorem onNum_answers (f : State → Nat → State) (s : State) : Answers .noSubject s (onNum f s) := by
  unfold onNum
  split
  · exact .next _
  · exact .fault trivial

theorem onPair_answers (f : State → Nat → Nat → State) (s : State) : Answers .noSubject s (onPair f s) := by
  unfold onPair
  split
  · exact .next _
  · exact .fault trivial


theorem exec_lane_answers (i : Instr) (s : State) (h : i.isLane = true) : Answers .noIssuer s (exec i s) := by
  obtain ⟨n, body, e⟩ := exec_issued i s h
  exact e ▸ issue_answers n body s

/-! ### Bank commands -/

theorem bankReg_answers (f : Run → Run) (s : State) : Answers .noRun s (bankReg f s) := by
  unfold bankReg
  exact bankCmd_answers _ s

theorem colCmd_answers (reads : Bool) (bad : Run → Nat → Bool) (ca : Col) (f : State → Run → Nat → Nat → State × Run) (s : State) :
    Answers .noRun s (colCmd reads bad ca f s) := by
  unfold colCmd
  exact bankCmd_answers _ s

theorem exec_bank_answers (i : Instr) (s : State) (h : i.isBank = true) : Answers .noRun s (exec i s) := by
  cases i with
  | bankOpen fs => exact (bankCmd_answers _ s : Answers .noRun s (execBankOpen fs s))
  | bankQout q n => exact (bankCmd_answers _ s : Answers .noRun s (execBankQout q n s))
  | bankLoop b tgt => exact (bankCmd_answers _ s : Answers .noRun s (execBankLoop b tgt s))
  | bankClose => exact (bankCmd_answers _ s : Answers .noRun s (execBankClose s))
  | bankSig => exact (bankCmd_answers _ s : Answers .noRun s (execBankSig s))
  | bankEnd => exact (bankCmd_answers _ s : Answers .noRun s (execBankEnd s))
  | bankScl f d c => exact (bankReg_answers _ s : Answers .noRun s (execBankScl f d c s))
  | bankQzero q n => exact (bankReg_answers _ s : Answers .noRun s (execBankQzero q n s))
  | bankHsum q => exact (bankReg_answers _ s : Answers .noRun s (execBankHsum q s))
  | bankQst q d => exact (bankReg_answers _ s : Answers .noRun s (execBankQst q d s))
  | bankSetb b im => exact (bankReg_answers _ s : Answers .noRun s (execBankSetb b im s))
  | bankAddb b im => exact (bankReg_answers _ s : Answers .noRun s (execBankAddb b im s))
  | bankSetf f im => exact (bankReg_answers _ s : Answers .noRun s (execBankSetf f im s))
  | bankFmt sat wf => exact (bankReg_answers _ s : Answers .noRun s (execBankFmt sat wf s))
  | bankNop => exact (bankReg_answers _ s : Answers .noRun s (execBankNop s))
  | bankRdc d ca => exact (colCmd_answers _ _ _ _ s : Answers .noRun s (execBankRdc d ca s))
  | bankWrc c ca => exact (colCmd_answers _ _ _ _ s : Answers .noRun s (execBankWrc c ca s))
  | bankMacx q n slot xr ca => exact (colCmd_answers _ _ _ _ s : Answers .noRun s (execBankMacx q n slot xr ca s))
  | bankMacc q c ca => exact (colCmd_answers _ _ _ _ s : Answers .noRun s (execBankMacc q c ca s))
  | bankAxpy f d ca => exact (colCmd_answers _ _ _ _ s : Answers .noRun s (execBankAxpy f d ca s))
  | _ => exact nomatch h

/-! ### Events -/

theorem exec_event_answers (i : Instr) (s : State) (h : i.isEvent = true) : Answers .noSubject s (exec i s) := by
  cases i with
  | hostTlbinv => exact (onNum_answers _ s : Answers .noSubject s (execHostTlbinv s))
  | timePortLock => exact (onNum_answers _ s : Answers .noSubject s (execTimePortLock s))
  | governorTick => exact (onNum_answers _ s : Answers .noSubject s (execGovernorTick s))
  | preemptionSave => exact (onNum_answers _ s : Answers .noSubject s (execPreemptionSave s))
  | teamRetire => exact (onNum_answers _ s : Answers .noSubject s (execTeamRetire s))
  | tWrapReached => exact (onNum_answers _ s : Answers .noSubject s (execTWrapReached s))
  | diversion => exact (onNum_answers _ s : Answers .noSubject s (execDiversion s))
  | deadlineReached => exact (onNum_answers _ s : Answers .noSubject s (execDeadlineReached s))
  | teamKill => exact (onNum_answers _ s : Answers .noSubject s (execTeamKill s))
  | trapEntry => exact (onNum_answers _ s : Answers .noSubject s (execTrapEntry s))
  | engineCommandComplete => exact (onNum_answers _ s : Answers .noSubject s (execEngineCommandComplete s))
  | cpymExecute => exact (onNum_answers _ s : Answers .noSubject s (execCpymExecute s))
  | louverExecute => exact (onNum_answers _ s : Answers .noSubject s (execLouverExecute s))
  | matrixCommandStart => exact (onNum_answers _ s : Answers .noSubject s (execMatrixCommandStart s))
  | mmaKStep => exact (onNum_answers _ s : Answers .noSubject s (execMmaKStep s))
  | bankQueueNextCheck => exact (onNum_answers _ s : Answers .noSubject s (execBankQueueNextCheck s))
  | handingDone => exact (onNum_answers _ s : Answers .noSubject s (execHandingDone s))
  | toDieFrame => exact (onNum_answers _ s : Answers .noSubject s (execToDieFrame s))
  | bankRunGrant => exact (onNum_answers _ s : Answers .noSubject s (execBankRunGrant s))
  | windowEnd => exact (onNum_answers _ s : Answers .noSubject s (execWindowEnd s))
  | remoteRequestTimeout => exact (onNum_answers _ s : Answers .noSubject s (execRemoteRequestTimeout s))
  | tokenRecall => exact (onNum_answers _ s : Answers .noSubject s (execTokenRecall s))
  | tokenGrant => exact (onNum_answers _ s : Answers .noSubject s (execTokenGrant s))
  | bar2Read => exact (onPair_answers _ s : Answers .noSubject s (execBar2Read s))
  | refreshDue => exact (onPair_answers _ s : Answers .noSubject s (execRefreshDue s))
  | launchAccept => exact (onPair_answers _ s : Answers .noSubject s (execLaunchAccept s))
  | loadReturn => exact (onPair_answers _ s : Answers .noSubject s (execLoadReturn s))
  | splitJoin => exact (onPair_answers _ s : Answers .noSubject s (execSplitJoin s))
  | serialTurnEnd => exact (onPair_answers _ s : Answers .noSubject s (execSerialTurnEnd s))
  | writeBack => exact (onPair_answers _ s : Answers .noSubject s (execWriteBack s))
  | drainRequest => exact (onPair_answers _ s : Answers .noSubject s (execDrainRequest s))
  | invalidationPoint => exact (onPair_answers _ s : Answers .noSubject s (execInvalidationPoint s))
  | invalidationAck => exact (onPair_answers _ s : Answers .noSubject s (execInvalidationAck s))
  | tokenRequest => exact (onPair_answers _ s : Answers .noSubject s (execTokenRequest s))
  | recallDone => exact (onPair_answers _ s : Answers .noSubject s (execRecallDone s))
  | tokenGiveBack => exact (onPair_answers _ s : Answers .noSubject s (execTokenGiveBack s))
  | submit =>
    rw [exec_submit, execSubmit]
    split
    · exact .next _
    · exact .fault trivial
  | feed =>
    rw [exec_feed, execFeed]
    split
    · exact .next _
    · exact .fault trivial
  | resume =>
    rw [exec_resume, execResume]
    split
    · exact .next _
    · exact .next _
    · exact .fault trivial
  | kill =>
    rw [exec_kill, execKill]
    split
    · exact .next _
    · exact .next _
    · exact .fault trivial
  | contextEnd =>
    rw [exec_contextEnd, execContextEnd]
    split
    · exact .next _
    · exact .next _
    · exact .fault trivial
  | registerWrite =>
    rw [exec_registerWrite, execRegisterWrite]
    split
    · exact .next _
    · exact .fault trivial
  | bar2Write =>
    rw [exec_bar2Write, execBar2Write]
    split
    · exact .next _
    · exact .fault trivial
  | lintelEnable =>
    rw [exec_lintelEnable, execLintelEnable]
    split
    · exact .next _
    · exact .fault trivial
  | lintelDisable =>
    rw [exec_lintelDisable, execLintelDisable]
    split
    · exact .next _
    · exact .fault trivial
  | trapRecordDeferredWrite =>
    rw [exec_trapRecordDeferredWrite, execTrapRecordDeferredWrite]
    split
    · exact .next _
    · exact .next _
    · exact .fault trivial
  | tokenArrival =>
    rw [exec_tokenArrival, execTokenArrival]
    split
    · exact .next _
    · exact .fault trivial
  | lintelFrameReceive =>
    rw [exec_lintelFrameReceive, execLintelFrameReceive]
    split
    · exact .next _
    · exact .fault trivial
  | rollCallEnd =>
    rw [exec_rollCallEnd, execRollCallEnd]
    split
    · exact .next _
    · exact .fault trivial
  | ualinkRequest =>
    rw [exec_ualinkRequest, execUalinkRequest]
    split
    · exact .next _
    · exact .fault trivial
  | remoteResponse =>
    rw [exec_remoteResponse, execRemoteResponse]
    split
    · exact .next _
    · exact .fault trivial
  | linkStateChange =>
    rw [exec_linkStateChange, execLinkStateChange]
    split
    · exact .next _
    · exact .fault trivial
  | imageVerificationEnd =>
    rw [exec_imageVerificationEnd, execImageVerificationEnd]
    split
    · exact .next _
    · exact .fault trivial
  | powerOnReset => exact .next _
  | mbcmdLoadVerify => exact .next _
  | attestationSign => exact .next _
  | fatalError => exact .next _
  | coolantOver45c => exact .next _
  | coolantBelow40c => exact .next _
  | guardElapsed => exact .next _
  | scheduleTimeout => exact .next _
  | rollCall => exact .next _
  | timePortLockLoss => exact .next _
  | _ => exact nomatch h

/-! ### No meaning is refused -/

/-- An outcome that is a next state. -/
def Goes (o : Host.Outcome State Fault Refusal) : Prop := ∃ t, o = .next t

theorem goes_next (t : State) : Goes (.next t) := ⟨t, rfl⟩

theorem Goes.mapNext {o : Host.Outcome State Fault Refusal} (f : State → State) (h : Goes o) : Goes (mapNext f o) := by
  obtain ⟨t, rfl⟩ := h
  exact goes_next _

theorem Answers.goes {f : Fault} {s : State} {o : Host.Outcome State Fault Refusal} (h : Answers f s o) (hs : ¬ Stops s f) : Goes o := by
  cases h with
  | next t => exact goes_next t
  | fault hf => exact absurd hf hs

theorem Answers.not_refused {f : Fault} {s : State} {o : Host.Outcome State Fault Refusal} (h : Answers f s o) (r : Refusal) : o ≠ .refused r := by
  cases h <;> exact nofun

theorem Answers.fault_eq {f g : Fault} {s : State} {o : Host.Outcome State Fault Refusal} (h : Answers f s o) (e : o = .fault g) : g = f := by
  cases h with
  | next t => cases e
  | fault _ => cases e; rfl

/-- An instruction comes of a word, of a bank word, of nothing, or with a failed fetch; or it is an event. -/
theorem instr_kinds (i : Instr) :
    i.isLane = true ∨ i.isBank = true ∨ i.isEvent = true ∨ i = .illegalEncoding ∨ i = .instructionFetchFault := by
  unfold Instr.isEvent
  split
  · simp
  · simp
  · cases i.isLane <;> cases i.isBank <;> simp

theorem exec_illegalEncoding_answers (s : State) : Answers .noIssuer s (exec .illegalEncoding s) :=
  (issue_answers _ _ s : Answers .noIssuer s (execIllegalEncoding s))

theorem exec_not_refused (i : Instr) (s : State) (r : Refusal) : exec i s ≠ .refused r := by
  rcases instr_kinds i with h | h | h | rfl | rfl
  · exact (exec_lane_answers i s h).not_refused r
  · exact (exec_bank_answers i s h).not_refused r
  · exact (exec_event_answers i s h).not_refused r
  · exact (exec_illegalEncoding_answers s).not_refused r
  · exact (execInstructionFetchFault_answers s).not_refused r

theorem mapNext_not_refused {f : State → State} {o : Host.Outcome State Fault Refusal} (h : ∀ r, o ≠ .refused r) (r : Refusal) :
    mapNext f o ≠ .refused r := by
  cases o with
  | next | fault => exact nofun
  | refused q => exact absurd rfl (h q)

/-! ### The split that issues -/

theorem find?_map_of_fix {α : Type} {p : α → Bool} {f : α → α} (h : ∀ a, p (f a) = p a) (l : List α) : (l.map f).find? p = (l.find? p).map f := by
  rw [List.find?_map]
  exact congrArg (fun q => (l.find? q).map f) (funext h)

/-- A group changed by a function that keeps identifiers is found where it was. -/
theorem group?_modGroup {s : State} {u : Nat} {f : Group → Group} {g : Group} (hf : ∀ g, (f g).uid = g.uid) (hg : s.group? u = some g) :
    (s.modGroup u f).group? u = some (f g) := by
  have hu : g.uid = u := by simpa using List.find?_some hg
  unfold State.modGroup State.group?
  rw [find?_map_of_fix (fun a => by split <;> simp [hf]), show List.find? _ s.groups = some g from hg]
  exact congrArg some (if_pos hu)

theorem length_setAt {α : Type} (l : List α) (e : Nat) (y : α) : (setAt l e y).length = l.length := by
  induction l generalizing e with
  | nil => rfl
  | cons a t ih =>
    cases e with
    | zero => rfl
    | succ e => exact congrArg Nat.succ (ih e)

theorem split_setSplit_st (g : Group) (e : Nat) (sp : Split) (h : sp.st = (g.split e).st) : ((g.setSplit e sp).split e).st = (g.split e).st := by
  by_cases he : e < g.splits.length
  · exact (congrArg Split.st (getD_setAt_same g.splits sp {} he)).trans h
  · have hs : (setAt g.splits e sp).length ≤ e := by rw [length_setAt]; omega
    unfold Group.split
    exact congrArg Split.st ((List.getD_eq_default _ _ hs).trans (List.getD_eq_default _ _ (Nat.le_of_not_lt he)).symm)

/-- A split that may issue: its group, its team, and that it is READY. -/
structure MayIssue (s : State) (u e : Nat) (g : Group) (t : Team) : Prop where
  group : s.group? u = some g
  team : s.team? g.team = some t
  open_ : g.canIssue = true
  ready : (g.split e).st = .ready

theorem MayIssue.ixOf_ne {s : State} {u e : Nat} {g : Group} {t : Team} (h : MayIssue s u e g t) (w : Word) : ixOf (withIssuer s u e w) ≠ none := by
  have hg : (withIssuer s u e w).group? u = some g := h.group
  have ht : (withIssuer s u e w).team? g.team = some t := h.team
  simp only [ixOf, show (withIssuer s u e w).issuer = some ⟨u, e, switchBit w.toNat⟩ from rfl, hg, ht, h.open_, h.ready]
  simp

theorem serveRow_keeps {s s1 : State} {pa : Nat} (h : serveRow s pa = some s1) : s1.groups = s.groups ∧ s1.teams = s.teams := by
  unfold serveRow at h
  dsimp only at h
  split at h
  · cases h; exact ⟨rfl, rfl⟩
  split at h
  · cases h
  split at h
  · cases h; exact ⟨rfl, rfl⟩
  split at h
  · cases h
  · cases h; exact ⟨rfl, rfl⟩

theorem tlbFill_keeps (s : State) (a c va : Nat) (y : Xl) : (tlbFill s a c va y).groups = s.groups ∧ (tlbFill s a c va y).teams = s.teams := by
  unfold tlbFill
  dsimp only
  split <;> exact ⟨rfl, rfl⟩

theorem fetchPa_keeps {s s1 : State} {t : Team} {va : Nat} {y : Xl} {w : Word} (h : fetchPa s t va y = .got s1 w) :
    s1.groups = s.groups ∧ s1.teams = s.teams := by
  unfold fetchPa at h
  dsimp only at h
  split at h
  · cases h; exact ⟨rfl, rfl⟩
  split at h
  · cases h
  split at h
  · cases h; exact ⟨rfl, rfl⟩
  split at h
  · cases h
  case h_2 s2 h2 =>
    have hk : s2.groups = s.groups ∧ s2.teams = s.teams := by
      split at h2
      · exact serveRow_keeps h2
      · cases h2; exact ⟨rfl, rfl⟩
    split at h
    · cases h
    · cases h
      split <;> exact hk

theorem fetchWord_keeps {s s1 : State} {g : Group} {t : Team} {pc w : Word} (h : fetchWord s g t pc = .got s1 w) :
    s1.groups = s.groups ∧ s1.teams = s.teams := by
  unfold fetchWord at h
  dsimp only at h
  split at h
  · unfold fetchFirmware at h
    dsimp only at h
    split at h <;> cases h
    exact ⟨rfl, rfl⟩
  split at h
  · split at h <;> cases h
  · obtain ⟨hg, ht⟩ := fetchPa_keeps h
    obtain ⟨hg', ht'⟩ := tlbFill_keeps s t.core t.ctx _ _
    exact ⟨hg.trans hg', ht.trans ht'⟩

/-- A split that keeps its word may issue as before. -/
theorem MayIssue.keepWord {s s1 : State} {u e : Nat} {g : Group} {t : Team} (h : MayIssue s u e g t) (hg : s1.groups = s.groups)
    (ht : s1.teams = s.teams) (w : Word) : ∃ h, MayIssue (keepWord s1 u e w) u e h t := by
  have hg1 : s1.group? u = some g := by rw [State.group?, hg]; exact h.group
  have ht1 : s1.team? g.team = some t := by rw [State.team?, ht]; exact h.team
  exact ⟨_, group?_modGroup (fun _ => rfl) hg1, ht1, h.open_, (split_setSplit_st g e { g.split e with word := some w, ask := none } rfl).trans h.ready⟩

theorem instrOf_answers (w : Word) (s : State) : Answers .noIssuer s (exec (instrOf w) s) := by
  unfold instrOf
  cases hd : decodeWord w.toNat with
  | none => exact exec_illegalEncoding_answers s
  | some i => exact exec_lane_answers i s (decodedWordsAreWellFormed.1 _ i w.isLt hd).1

theorem MayIssue.goes {s : State} {u e : Nat} {g : Group} {t : Team} (h : MayIssue s u e g t) (w : Word) :
    Goes (exec (instrOf w) (withIssuer s u e w)) :=
  (instrOf_answers w _).goes (h.ixOf_ne w)

theorem MayIssue.fetchFault_goes {s : State} {u e : Nat} {g : Group} {t : Team} (h : MayIssue s u e g t) (w : Word) :
    Goes (exec .instructionFetchFault (withIssuer s u e w)) :=
  (execInstructionFetchFault_answers _).goes (h.ixOf_ne w)

theorem issueWord_goes {s : State} {g : Group} {t : Team} {e : Nat} (h : MayIssue s g.uid e g t) : Goes (issueWord s g t e) := by
  refine Goes.mapNext _ ?_
  cases (g.split e).word with
  | some w => exact h.goes w
  | none =>
    show Goes (ite _ _ _)
    split
    · exact goes_next _
    split
    · exact h.fetchFault_goes 0
    split
    case h_1 => exact h.fetchFault_goes 0
    case h_2 => exact goes_next _
    case h_3 => exact goes_next _
    case h_4 => exact goes_next _
    case h_5 s1 w hw =>
      obtain ⟨hg, ht⟩ := fetchWord_keeps hw
      obtain ⟨_, hk⟩ := h.keepWord hg ht w
      exact hk.goes w

theorem runEvent_pair_goes {s : State} {i : Instr} {f : State → Nat → Nat → State} (h : ∀ s, exec i s = onPair f s) (a b : Nat) :
    Goes (runEvent s i (.pair a b)) := by
  unfold runEvent
  rw [h, onPair_event (s := { s with subject := .pair a b }) rfl]
  exact (goes_next _).mapNext _

theorem issueSplit_goes {s : State} {g : Group} {t : Team} {e : Nat} (h : MayIssue s g.uid e g t) : Goes (issueSplit s g t e) := by
  unfold issueSplit
  split
  · split
    · exact runEvent_pair_goes exec_serialTurnEnd _ _
    · exact runEvent_pair_goes exec_splitJoin _ _
  · exact issueWord_goes h

theorem group?_of_mem {s : State} {g : Group} (hn : (s.groups.map (fun g => g.uid)).Nodup) (hg : g ∈ s.groups) : s.group? g.uid = some g := by
  unfold State.group?
  cases hf : s.groups.find? (fun h => h.uid == g.uid) with
  | none => simpa using List.find?_eq_none.mp hf g hg
  | some h =>
    have hu : h.uid = g.uid := by simpa using List.find?_some hf
    exact congrArg some (List.inj_on_of_nodup_map hn (List.mem_of_find?_eq_some hf) hg hu)

theorem mayIssue_of_ready {s : State} (hn : (s.groups.map (fun g => g.uid)).Nodup) {r : Ready} (hr : r ∈ readySplits s) :
    ∃ g t, MayIssue s r.grp r.e g t := by
  unfold readySplits at hr
  obtain ⟨g, hg, hr⟩ := List.mem_flatMap.mp hr
  split at hr
  · cases hr
  case h_2 t ht =>
    split at hr
    case isFalse => cases hr
    case isTrue ho =>
      obtain ⟨e, he, rfl⟩ := List.mem_map.mp hr
      have hc : g.canIssue = true := by
        simp only [quadOpen, Bool.and_eq_true] at ho
        exact ho.1.1.2
      have hs : (g.split e).st = .ready := by
        simp only [readyEntries, entriesIf, List.mem_filter, Bool.and_eq_true, beq_iff_eq] at he
        exact he.1.2.1
      exact ⟨g, t, group?_of_mem hn hg, ht, hc, hs⟩

theorem issueOf_goes {s : State} (hn : (s.groups.map (fun g => g.uid)).Nodup) (grp e : Nat) : Goes (issueOf s grp e) := by
  unfold issueOf
  dsimp only
  split
  · exact goes_next s
  case h_2 g hg =>
    split
    · exact goes_next s
    case h_2 t ht =>
      split
      case isFalse => exact goes_next s
      case isTrue hr =>
        obtain ⟨r, hmem, hre⟩ := List.any_eq_true.mp hr
        simp only [Bool.and_eq_true, beq_iff_eq] at hre
        obtain ⟨⟨rfl, rfl⟩, -⟩ := hre
        obtain ⟨g', t', hm⟩ := mayIssue_of_ready hn hmem
        obtain rfl : g = g' := Option.some.inj (hg.symm.trans hm.group)
        obtain rfl : t = t' := Option.some.inj (ht.symm.trans hm.team)
        have hu : g.uid = r.grp := by simpa using List.find?_some hg
        exact issueSplit_goes (hu ▸ hm)

/-! ### The turns of the agenda -/

theorem bankTurn_goes (s : State) (uid : Nat) : Goes (bankTurn s uid) := by
  unfold bankTurn
  split
  · exact goes_next s
  case h_2 r hr =>
    split
    · exact goes_next s
    case isFalse hst =>
      split
      · exact goes_next _
      split
      case h_2 => exact goes_next s
      case h_1 i hi =>
        obtain ⟨w, -, hw⟩ := Option.bind_eq_some_iff.mp hi
        have hb := (decodedWordsAreWellFormed.2 _ i w.isLt hw).1
        have hrun : Running { s with curRun := some uid } r := ⟨hr, by simpa using (not_or.mp hst).1⟩
        exact ((exec_bank_answers i _ hb).goes (fun h => h r hrun)).mapNext _

theorem runEvent_not_refused (s : State) (i : Instr) (x : Subject) (r : Refusal) : runEvent s i x ≠ .refused r :=
  mapNext_not_refused (exec_not_refused i _) r

theorem issueWord_not_refused (s : State) (g : Group) (t : Team) (e : Nat) (r : Refusal) : issueWord s g t e ≠ .refused r := by
  refine mapNext_not_refused (fun r => ?_) r
  cases (g.split e).word with
  | some w => exact exec_not_refused _ _ r
  | none =>
    show ite _ _ _ ≠ _
    split
    · exact nofun
    split
    · exact exec_not_refused _ _ r
    split
    case h_1 | h_5 => exact exec_not_refused _ _ r
    case h_2 | h_3 | h_4 => exact nofun

theorem issueOf_not_refused (s : State) (grp e : Nat) (r : Refusal) : issueOf s grp e ≠ .refused r := by
  unfold issueOf
  dsimp only
  split
  · exact nofun
  split
  · exact nofun
  split
  · unfold issueSplit
    split
    · exact runEvent_not_refused _ _ _ r
    · exact issueWord_not_refused _ _ _ _ r
  · exact nofun

theorem Goes.not_refused {o : Host.Outcome State Fault Refusal} (h : Goes o) (r : Refusal) : o ≠ .refused r := by
  obtain ⟨t, rfl⟩ := h
  exact nofun

theorem Goes.not_fault {o : Host.Outcome State Fault Refusal} (h : Goes o) (f : Fault) : o ≠ .fault f := by
  obtain ⟨t, rfl⟩ := h
  exact nofun

theorem runTurn_not_refused (s : State) (x : Turn) (r : Refusal) : runTurn s x ≠ .refused r := by
  cases x with
  | event i x =>
    show ite _ _ _ ≠ _
    split
    · exact runEvent_not_refused _ _ _ r
    · exact nofun
  | issue g e => exact issueOf_not_refused s g e r
  | bank u => exact (bankTurn_goes s u).not_refused r
  | clock | upset | perform | tlbLoad | bar2Size | front => exact nofun

theorem mapNext_fault {f : State → State} {o : Host.Outcome State Fault Refusal} {g : Fault} (h : mapNext f o = .fault g) : o = .fault g := by
  cases o with
  | next | refused => cases h
  | fault q => exact h

/-- A turn that faults is an event with a subject of another kind. -/
theorem runTurn_fault {s : State} (hn : (s.groups.map (fun g => g.uid)).Nodup) {x : Turn} {f : Fault} (h : runTurn s x = .fault f) :
    f = .noSubject ∧ ∃ i y, x = .event i y := by
  cases x with
  | event i y =>
    have h' : (if i.isEvent && serves s i then runEvent s i y else .next s) = .fault f := h
    split at h'
    case isFalse => cases h'
    case isTrue hi =>
      exact ⟨(exec_event_answers i _ (Bool.and_eq_true_iff.mp hi).1).fault_eq (mapNext_fault h'), i, y, rfl⟩
  | issue g e => exact absurd h ((issueOf_goes hn g e).not_fault f)
  | bank u => exact absurd h ((bankTurn_goes s u).not_fault f)
  | clock | upset | perform | tlbLoad | bar2Size | front => cases h

/-! ### An empty agenda -/

theorem goes_of_changes {s : State} {o : Host.Outcome State Fault Refusal} (h : changes s o = true) : Goes o := by
  cases o with
  | next t => exact goes_next t
  | fault | refused => cases h

theorem dueEvent_goes {s : State} {o : Host.Outcome State Fault Refusal} (h : dueEvent s = some o) : Goes o := by
  obtain ⟨e, _, he⟩ := List.exists_of_findSome?_eq_some h
  dsimp only at he
  split at he <;> cases he
  case isTrue hc => exact goes_of_changes (Bool.and_eq_true_iff.mp hc).2

theorem dueFront_goes {s : State} {o : Host.Outcome State Fault Refusal} (h : dueFront s = some o) : Goes o := by
  unfold dueFront at h
  split at h
  · cases h
  · split at h <;> cases h
    exact goes_next _

theorem dueRun_goes {s : State} {o : Host.Outcome State Fault Refusal} (h : dueRun s = some o) : Goes o := by
  obtain ⟨r, _, hr⟩ := List.exists_of_findSome?_eq_some h
  dsimp only at hr
  split at hr
  · split at hr <;> cases hr
    exact bankTurn_goes s r.uid
  · cases hr

theorem idle_not_refused (s : State) (r : Refusal) : idle s ≠ .refused r := by
  unfold idle
  split
  case h_1 o ho => exact (dueEvent_goes ho).not_refused r
  split
  case h_1 o ho => exact (dueFront_goes ho).not_refused r
  split
  case h_1 o ho => exact (dueRun_goes ho).not_refused r
  split
  · exact issueOf_not_refused _ _ _ r
  · exact nofun

theorem idle_goes {s : State} (hn : (s.groups.map (fun g => g.uid)).Nodup) : Goes (idle s) := by
  unfold idle
  split
  case h_1 o ho => exact dueEvent_goes ho
  split
  case h_1 o ho => exact dueFront_goes ho
  split
  case h_1 o ho => exact dueRun_goes ho
  split
  · exact issueOf_goes hn _ _
  · exact goes_next _

/-- Settles O51: every turn goes on but an event with a subject of another kind, since the issue choice and the bank turns name what their
instructions look for. -/
theorem stepsNeverRefuse : Obligations.StepsNeverRefuse := by
  intro s
  show (∀ r, stepOf s ≠ .refused r) ∧ (_ → ∀ f, stepOf s = .fault f → _)
  unfold stepOf
  split
  case h_1 x rest hx =>
    refine ⟨runTurn_not_refused _ x, fun hn f h => ?_⟩
    obtain ⟨hf, i, y, rfl⟩ := runTurn_fault (s := { s with agenda := rest }) hn h
    exact ⟨hf, i, y, rest, hx⟩
  case h_2 => exact ⟨idle_not_refused s, fun hn f h => absurd h ((idle_goes hn).not_fault f)⟩

end Sys2Proof.Machine
end

section
/-! PROOF. What a step does with the first turn of its agenda (R74, R130, R156, R332, R342, 95), words written out, and what reset leaves. -/

namespace Sys2Proof.Machine

open Sys2Proof

/-! ### The first turn of the agenda -/

theorem step_turn {s s0 : State} {x : Turn} {rest : List Turn} (h : s.agenda = x :: rest) (h0 : s0 = { s with agenda := rest }) :
    step s = runTurn s0 x := by
  subst h0
  show stepOf s = _
  unfold stepOf
  rw [h]

theorem issueOf_chosen {s : State} {g : Group} {t : Team} {e : Nat} (hg : s.group? g.uid = some g) (ht : s.team? g.team = some t)
    (hr : (readySplits s).any (fun r => r.grp == g.uid && r.e == e && chosen (readySplits s) r) = true)
    (hj : atJoin g (g.split e) = false) : issueOf s g.uid e = issueWord s g t e := by
  simp only [issueOf, hg, ht, hr, if_true, issueSplit, hj, Bool.false_eq_true, if_false]

theorem exec_instrOf {w : Word} (s : State) :
    (∀ i, decodeWord w.toNat = some i → exec (instrOf w) s = exec i s)
      ∧ (decodeWord w.toNat = none → exec (instrOf w) s = exec .illegalEncoding s) :=
  ⟨fun i h => by rw [instrOf, h, Option.getD_some], fun h => by rw [instrOf, h, Option.getD_none]⟩

section Issue

variable {s : State} {g : Group} {t : Team} {e : Nat}

/-- A kept word runs. -/
theorem issueWord_kept {w : Word} (h : (g.split e).word = some w) :
    issueWord s g t e = mapNext (afterIssue s (quadOf g t)) (exec (instrOf w) (withIssuer s g.uid e w)) := by
  unfold issueWord
  rw [h]

/-- A split whose fetch waits is passed over. -/
theorem issueWord_waits (h : (g.split e).word = none) (ha : askWaits (g.split e) = true) :
    issueWord s g t e = .next (afterIssue s (quadOf g t) { s with passed := (g.uid, e) :: s.passed }) := by
  unfold issueWord
  simp only [h, ha, if_true, mapNext]

/-- A read of code that has failed is a fetch that fails. -/
theorem issueWord_failed (h : (g.split e).word = none) (ha : askWaits (g.split e) = false) (hc : (codeFail (g.split e)).isSome = true) :
    issueWord s g t e = mapNext (afterIssue s (quadOf g t)) (exec .instructionFetchFault (withIssuer s g.uid e 0)) := by
  unfold issueWord
  simp only [h, ha, hc, Bool.false_eq_true, if_false, if_true]

/-- What follows the fetch of a split's next word. -/
def afterFetch (s : State) (g : Group) (t : Team) (e : Nat) : Fetched → Host.Outcome State Fault Refusal
  | .trap _ _ => exec .instructionFetchFault (withIssuer s g.uid e 0)
  | .held pa => .next (fetchHeld s g.uid e pa)
  | .ask pa va => .next (fetchAsk s t g.uid e pa va)
  | .walks va => .next (fetchWalks s t g.uid e va)
  | .got s1 w => exec (instrOf w) (withIssuer (keepWord s1 g.uid e w) g.uid e w)

/-- Else the word is fetched. -/
theorem issueWord_fetch (h : (g.split e).word = none) (ha : askWaits (g.split e) = false) (hc : codeFail (g.split e) = none) :
    issueWord s g t e = mapNext (afterIssue s (quadOf g t)) (afterFetch s g t e (fetchWord s g t (g.split e).pc)) := by
  unfold issueWord
  simp only [h, ha, hc, Option.isSome_none, Bool.false_eq_true, if_false]
  cases fetchWord s g t (g.split e).pc <;> rfl

end Issue

/-- Settles O1: the agenda's turn is the issue of the chosen entry, whose cases are those of its word and of its fetch. -/
theorem stepIssuesTheFetchedWord : Obligations.StepIssuesTheFetchedWord := by
  intro s s0 rest g t e hx h0 hg ht hr hj
  have hs : step s = issueWord s0 g t e := (step_turn hx h0).trans (issueOf_chosen hg ht hr hj)
  dsimp only
  rw [hs]
  refine ⟨fun w hw => ?kept, fun hw ha => issueWord_waits hw ha, fun hw ha hc => issueWord_failed hw ha hc, fun hw ha hc => ?fetched⟩
  case kept =>
    rw [issueWord_kept hw]
    exact ⟨fun i hi => congrArg _ ((exec_instrOf _).1 i hi), fun hi => congrArg _ ((exec_instrOf _).2 hi)⟩
  case fetched =>
    rw [issueWord_fetch hw ha hc]
    refine ⟨fun s1 w hf => ?_, fun c va hf => ?_, fun pa hf => ?_, fun va hf => ?_, fun pa va hf => ?_⟩ <;> rw [hf]
    · exact ⟨fun i hi => congrArg _ ((exec_instrOf _).1 i hi), fun hi => congrArg _ ((exec_instrOf _).2 hi)⟩
    all_goals rfl

section Bank

variable {s : State} {u : Nat} {r : Run}

/-- The turn of a running run at whose boundary a window is due. -/
theorem bankTurn_window {s1 : State} (hr : s.run? u = some r) (hst : r.st = .running) (hb : s.dev.boot ≠ .fatal)
    (ha : atBoundary s r = some s1) : bankTurn s u = .next s1 := by
  have hno : ¬ (r.st ≠ .running ∨ s.dev.boot = .fatal) := not_or.mpr ⟨not_not.mpr hst, hb⟩
  simp only [bankTurn, hr, if_neg hno, ha]

/-- The turn of a running run between windows. -/
theorem bankTurn_command {w : Word} {i : Instr} (hr : s.run? u = some r) (hst : r.st = .running) (hb : s.dev.boot ≠ .fatal)
    (ha : atBoundary s r = none) (hw : r.prog[r.upc]? = some w) (hi : decodeBank w.toNat = some i) :
    bankTurn s u = mapNext (fun t => { t with curRun := none }) (exec i { s with curRun := some u }) := by
  have hno : ¬ (r.st ≠ .running ∨ s.dev.boot = .fatal) := not_or.mpr ⟨not_not.mpr hst, hb⟩
  simp only [bankTurn, hr, if_neg hno, ha, hw, Option.bind_some, hi]

end Bank

/-- Settles O2: the turn of a run, of an event and of the front end. -/
theorem stepRunsBankCommandsAndEvents : Obligations.StepRunsBankCommandsAndEvents := by
  intro s s0 rest h0
  refine ⟨fun u r w i hx hr hst hb ha hw hi => ?_, fun u r s1 hx hr hst hb ha => ?_, fun i y hx hi hv => ?_,
    fun hx => ⟨fun hb => ?_, fun hb => ?_⟩⟩
  · rw [step_turn hx h0]
    exact bankTurn_command hr hst hb ha hw hi
  · rw [step_turn hx h0]
    exact bankTurn_window hr hst hb ha
  · rw [step_turn hx h0]
    exact if_pos (Bool.and_eq_true_iff.mpr ⟨hi, hv⟩)
  · rw [step_turn hx h0]
    exact congrArg _ (if_neg hb)
  · rw [step_turn hx h0]
    exact congrArg _ (if_pos hb)

/-- Settles O3: the decoder runs on the nine words. -/
theorem writtenOutWordsDecode : Obligations.WrittenOutWordsDecode := by
  refine ⟨?_, ?_, ?_, ?_, ?_, ?_, ?_, ?_, ?_⟩ <;> decide +kernel

/-- Settles O53: the reset state lists nothing, and an unlisted part has its default. -/
theorem resetLeaves : Obligations.ResetLeaves :=
  ⟨⟨rfl, rfl, rfl, rfl⟩, rfl, rfl, rfl, fun _ => rfl, rfl, rfl, rfl, fun _ => rfl, rfl, rfl, rfl, rfl, fun _ => rfl, rfl, fun _ => rfl⟩

end Sys2Proof.Machine
end

section
/-! PROOF. A trap enters the handler of its launch, or stops its group (17 R362 to R370). -/

namespace Sys2Proof.Machine

open Sys2Proof

/-! ### What leaves the groups alone -/

/-- Two states have the same groups and teams. -/
structure SameGroups (s t : State) : Prop where
  groups : t.groups = s.groups
  teams : t.teams = s.teams

theorem SameGroups.refl (s : State) : SameGroups s s := ⟨rfl, rfl⟩

theorem SameGroups.trans {s t u : State} (h : SameGroups s t) (k : SameGroups t u) : SameGroups s u :=
  ⟨k.groups.trans h.groups, k.teams.trans h.teams⟩

theorem SameActors.sameGroups {s t : State} (h : SameActors s t) : SameGroups s t := ⟨h.groups, h.teams⟩

theorem foldl_sameGroups {α : Type} (f : State → α → State) (hf : ∀ s a, SameGroups s (f s a)) (l : List α) (s : State) :
    SameGroups s (l.foldl f s) := by
  induction l generalizing s with
  | nil => exact .refl s
  | cons a t ih => exact (hf s a).trans (ih _)

theorem SameGroups.group? {s t : State} (h : SameGroups s t) (u : Nat) : t.group? u = s.group? u := by
  unfold State.group?
  rw [h.groups]

theorem SameGroups.team? {s t : State} (h : SameGroups s t) (u : Nat) : t.team? u = s.team? u := by
  unfold State.team?
  rw [h.teams]

theorem serveRow_sameGroups {s t : State} {pa : Nat} (h : serveRow s pa = some t) : SameGroups s t :=
  ⟨(serveRow_keeps h).1, (serveRow_keeps h).2⟩

theorem wantBack_sameGroups (s : State) (core : Nat) (l : L1Line) : SameGroups s (wantBack s core l) := by
  unfold wantBack
  split
  case h_1 s1 h1 =>
    refine SameGroups.trans ?_ (cleanLine_sameActors s1 core l).sameGroups
    split at h1
    · exact serveRow_sameGroups h1
    · cases h1
      exact .refl s
  case h_2 =>
    split
    · exact .refl s
    · exact ⟨rfl, rfl⟩

theorem drainWait_sameGroups (s : State) (core : Nat) (p : L1Line → Bool) : SameGroups s (drainWait s core p) :=
  foldl_sameGroups _ (fun s l => wantBack_sameGroups s core l) _ s

theorem recRelease_sameGroups (s : State) (core : Option Nat) : SameGroups s (recRelease s core).1 := by
  unfold recRelease
  split
  · exact .refl s
  · exact drainWait_sameGroups _ _ _

theorem endWalk_sameGroups (s : State) (agent : Nat) : SameGroups s (endWalk s agent) := ⟨rfl, rfl⟩

theorem waitRow_sameGroups (s : State) (pa : Nat) (w : RowWant) : SameGroups s (waitRow s pa w) := by
  unfold waitRow
  split <;> exact ⟨rfl, rfl⟩

theorem askFar_sameGroups (s : State) (agent ctx lvl va pa : Nat) : SameGroups s (askFar s agent ctx lvl va pa) := by
  unfold askFar
  dsimp only
  split
  · exact .refl s
  · exact ((fresh_sameActors s).trans (request_sameActors _ _)).sameGroups

theorem askEntry_sameGroups (s : State) (agent ctx va : Nat) : SameGroups s (askEntry s agent ctx va) := by
  unfold askEntry
  dsimp only
  split
  case h_1 lvl a _ =>
    split
    · exact askFar_sameGroups _ _ _ _ _ _
    split
    case h_1 s1 h1 => exact (serveRow_sameGroups h1).trans ⟨rfl, rfl⟩
    case h_2 => exact waitRow_sameGroups _ _ _
  case h_2 => exact .refl s

/-- The state that a check of the front end leaves. -/
def stateOf : Except State State → State
  | .ok s => s
  | .error s => s

theorem chanReady_sameGroups (s : State) (pa : Nat) : SameGroups s (stateOf (chanReady s pa)) := by
  unfold chanReady
  split
  · exact .refl s
  split
  case h_1 s1 h1 => exact (serveRow_sameGroups h1).trans ⟨rfl, rfl⟩
  case h_2 => exact waitRow_sameGroups _ _ _

theorem frontReady_sameGroups (s : State) (ctx : Nat) (a : Acc) (va : Nat) : SameGroups s (stateOf (frontReady s ctx a va)) := by
  unfold frontReady
  split
  · split
    · exact askEntry_sameGroups _ _ _ _
    · exact .refl s
  · exact chanReady_sameGroups _ _

theorem ringWrite_sameGroups {s t : State} {ctx : Nat} {b : List Byte} (h : ringWrite s ctx b = some t) : SameGroups s t := by
  unfold ringWrite at h
  dsimp only at h
  split at h
  · cases h
  case h_2 x _ =>
    have hw := (writePa_sameActors s frontEnd noGrp x.pa b none).sameGroups
    cases h
    split <;> exact ⟨hw.groups, hw.teams⟩

/-- The writing of a group's records changes, of the groups, its records alone. -/
theorem flushRecords_group {s : State} {u : Nat} {g : Group} (hg : s.group? u = some g) :
    ∃ l, (flushRecords s u).group? u = some { g with records := l } := by
  have same {t : State} (h : SameGroups s t) : ∃ l, t.group? u = some { g with records := l } := ⟨g.records, (h.group? u).trans hg⟩
  have put (l : List SyncRec) {t : State} (h : SameGroups s t) :
      ∃ k, (t.modGroup u (fun g => { g with records := l })).group? u = some { g with records := k } :=
    ⟨l, group?_modGroup (f := fun g => { g with records := l }) (fun _ => rfl) ((h.group? u).trans hg)⟩
  unfold flushRecords
  rw [hg]
  dsimp only
  split
  case h_2 => exact same (.refl s)
  case h_1 r rest t _ _ =>
    have hr := recRelease_sameGroups s (some t.core)
    split
    · exact same (.refl s)
    split
    · exact put _ (.refl s)
    split
    · exact same hr
    split
    · split
      · exact same hr
      · exact put _ (hr.trans ⟨rfl, rfl⟩)
    have hf := frontReady_sameGroups (recRelease s (some t.core)).1 t.ctx .cmdWrite (ringSlot ((recRelease s (some t.core)).1.ctx t.ctx))
    split
    case h_1 s1 h1 =>
      exact same (hr.trans (by rw [show frontReady _ _ _ _ = _ from h1] at hf; exact hf))
    case h_2 s1 h1 =>
      have hs1 : SameGroups s s1 := hr.trans (by rw [show frontReady _ _ _ _ = _ from h1] at hf; exact hf)
      refine put _ (hs1.trans (SameGroups.trans ?_ (endWalk_sameGroups _ _)))
      cases hw : ringWrite s1 t.ctx r.bytes with
      | none => exact .refl s1
      | some s2 => exact ringWrite_sameGroups hw

/-! ### A group replaced -/

theorem group?_setGroup {s : State} {g h : Group} (hg : s.group? h.uid = some g) : (s.setGroup h).group? h.uid = some h := by
  have hu : g.uid = h.uid := by simpa using List.find?_some hg
  unfold State.setGroup State.group?
  rw [find?_map_of_fix (fun a => by split <;> simp [*]), show List.find? _ s.groups = some g from hg]
  exact congrArg some (if_pos hu)

theorem setGroup_groups_setGroup (l : List Group) {g h : Group} (hu : h.uid = g.uid) :
    (l.map (fun k => if k.uid = g.uid then g else k)).map (fun k => if k.uid = h.uid then h else k) =
      l.map (fun k => if k.uid = g.uid then h else k) := by
  rw [List.map_map]
  refine List.map_congr_left (fun k _ => ?_)
  rw [Function.comp_apply, hu]
  by_cases hk : k.uid = g.uid
  · simp [hk]
  · simp [hk]

/-! ### Requests withdrawn -/

theorem tellHome_groups (core grp : Nat) (s : State) (G : List Group) (h : Nat × Nat) :
    tellHome core grp false { s with groups := G } h = { tellHome core grp false s h with groups := G } := by
  unfold tellHome
  simp only [Bool.false_eq_true, if_false, State.emit]
  show (if s.links.isEmpty then _ else _ : State) = { (if s.links.isEmpty then _ else _ : State) with groups := G }
  cases s.links.isEmpty <;> rfl

theorem withdrawAsks_groups (core grp : Nat) (sps : List Split) (s : State) (G : List Group) :
    withdrawAsks { s with groups := G } core grp sps = { withdrawAsks s core grp sps with groups := G } := by
  unfold withdrawAsks
  generalize sps.flatMap _ = l
  induction l generalizing s with
  | nil => rfl
  | cons h t ih => rw [List.foldl_cons, List.foldl_cons, tellHome_groups, ih]

/-- A request withdrawn leaves what a trap looks at alone. -/
structure KeepsAll (s t : State) : Prop where
  groups : t.groups = s.groups
  teams : t.teams = s.teams
  launches : t.launches = s.launches
  clock : t.clock = s.clock

theorem tellHome_keepsAll (core grp : Nat) (s : State) (h : Nat × Nat) : KeepsAll s (tellHome core grp false s h) := by
  unfold tellHome
  simp only [Bool.false_eq_true, if_false, State.emit]
  split <;> exact ⟨rfl, rfl, rfl, rfl⟩

theorem withdrawAsks_keepsAll (core grp : Nat) (sps : List Split) (s : State) : KeepsAll s (withdrawAsks s core grp sps) := by
  unfold withdrawAsks
  generalize sps.flatMap _ = l
  induction l generalizing s with
  | nil => exact ⟨rfl, rfl, rfl, rfl⟩
  | cons h t ih =>
    have h1 := tellHome_keepsAll core grp s h
    have h2 := ih (tellHome core grp false s h)
    exact ⟨h2.groups.trans h1.groups, h2.teams.trans h1.teams, h2.launches.trans h1.launches, h2.clock.trans h1.clock⟩

theorem KeepsAll.lrOf {s t : State} (h : KeepsAll s t) (m : Team) : t.lrOf m = s.lrOf m := by
  unfold State.lrOf State.launch?
  rw [h.launches]

/-! ### The trap -/

/-- The group that has raised a trap. -/
def raisedGroup (g : Group) (e : Nat) (r : Trap) : Group :=
  { g.setSplit e { g.split e with ask := none, word := none } with raised := some ⟨e, (g.split e).pc, (g.split e).am, r⟩ }

/-- The state in which a group has raised a trap, before its entry. -/
def raisedState (s : State) (g : Group) (e : Nat) (r : Trap) (t : Team) : State :=
  withdrawAsks { s with
    groups := s.groups.map (fun h => if h.uid = g.uid then raisedGroup g e r else h)
    draws := s.draws + 1 } t.core g.uid [g.split e]

/-- The group in its handler. -/
def handlerGroup (s : State) (g : Group) (e : Nat) (r : Trap) (t : Team) : Group :=
  enterHandler s.clock (setTrapRegs (raisedGroup g e r) ⟨e, (g.split e).pc, (g.split e).am, r⟩) e (BitVec.ofNat 32 (s.lrOf t).traph)

theorem enterTrap_eq {s : State} {u : Nat} {k : Group} {q : Raised} {t : Team} (hk : s.group? u = some k) (hq : k.raised = some q)
    (ht : s.team? k.team = some t) : enterTrap s u =
      if k.inHandler then stopGroup (s.setGroup (setTrapRegs k q)) u true false
      else if (s.lrOf t).traph = 0xFFFFFFFF then
        stopGroup (s.setGroup { setTrapRegs k q with saved := some ⟨q.e, (setTrapRegs k q).splits, (setTrapRegs k q).frames⟩ }) u false false
      else s.setGroup (enterHandler s.clock (setTrapRegs k q) q.e (BitVec.ofNat 32 (s.lrOf t).traph)) := by
  unfold enterTrap
  simp only [hk, hq, ht]

section Trap

variable {s : State} {g : Group} {e : Nat} {r : Trap} {t : Team}

theorem takeTrap_eq (ht : s.team? g.team = some t) :
    takeTrap s g e r = if g.quiet then enterTrap (raisedState s g e r t) g.uid else raisedState s g e r t := by
  unfold takeTrap
  rw [ht]
  rfl

theorem raisedState_group (hg : s.group? g.uid = some g) : (raisedState s g e r t).group? g.uid = some (raisedGroup g e r) := by
  have h1 := group?_setGroup (s := s) (h := raisedGroup g e r) hg
  unfold State.group? at h1 ⊢
  unfold raisedState
  rw [(withdrawAsks_keepsAll _ _ _ _).groups]
  exact h1

theorem raisedState_team (ht : s.team? g.team = some t) : (raisedState s g e r t).team? g.team = some t := by
  unfold State.team? at ht ⊢
  unfold raisedState
  rw [(withdrawAsks_keepsAll _ _ _ _).teams]
  exact ht

theorem raisedState_lrOf (m : Team) : (raisedState s g e r t).lrOf m = s.lrOf m := (withdrawAsks_keepsAll _ _ _ _).lrOf m

theorem raisedState_setGroup {h : Group} (hu : h.uid = g.uid) : (raisedState s g e r t).setGroup h = withdrawAsks { s with
    groups := s.groups.map (fun k => if k.uid = g.uid then h else k)
    draws := s.draws + 1 } t.core g.uid [g.split e] := by
  have hk : (raisedState s g e r t).groups = s.groups.map (fun k => if k.uid = g.uid then raisedGroup g e r else k) :=
    (withdrawAsks_keepsAll _ _ _ _).groups
  unfold State.setGroup
  rw [hk]
  exact (congrArg (fun G => { raisedState s g e r t with groups := G }) (setGroup_groups_setGroup s.groups (g := raisedGroup g e r) hu)).trans
    (withdrawAsks_groups _ _ _ _ _).symm

/-- A trap of a group in no handler, whose launch has one. -/
theorem enterTrap_handler (hg : s.group? g.uid = some g) (ht : s.team? g.team = some t) (hi : g.inHandler = false)
    (hh : (s.lrOf t).traph ≠ 0xFFFFFFFF) : enterTrap (raisedState s g e r t) g.uid = withdrawAsks { s with
      groups := s.groups.map (fun k => if k.uid = g.uid then handlerGroup s g e r t else k)
      draws := s.draws + 1 } t.core g.uid [g.split e] := by
  have hc : (raisedState s g e r t).clock = s.clock := (withdrawAsks_keepsAll _ _ _ _).clock
  have hn : (raisedGroup g e r).inHandler ≠ true := by rw [show (raisedGroup g e r).inHandler = g.inHandler from rfl, hi]; decide
  rw [enterTrap_eq (raisedState_group hg) rfl (raisedState_team ht), raisedState_lrOf, if_neg hn, if_neg hh, hc]
  exact raisedState_setGroup rfl

/-- The stop of a group that is found. -/
theorem stopGroup_group {s : State} {g : Group} {t : Team} (hg : s.group? g.uid = some g) (ht : s.team? g.team = some t) (nested tfail : Bool) :
    ∃ h, (stopGroup s g.uid nested tfail).group? g.uid = some h ∧ h.stop = some ⟨nested, tfail⟩ ∧ h.canIssue = false := by
  unfold stopGroup
  simp only [hg, ht]
  have hg' : s.fresh.group? g.uid = some g := hg
  obtain ⟨l, hl⟩ := flushRecords_group (group?_modGroup (s := s.fresh) (u := g.uid)
    (f := fun h => { h with stop := some ⟨nested, tfail⟩, records := h.records ++ [{ ord := s.uid, bytes := trapRecord s g t nested tfail }] })
    (fun _ => rfl) hg')
  exact ⟨_, hl, rfl, by simp [Group.canIssue]⟩

/-- A trap of a group in a handler, or whose launch has none. -/
theorem enterTrap_stops (hg : s.group? g.uid = some g) (ht : s.team? g.team = some t)
    (hh : g.inHandler = true ∨ (s.lrOf t).traph = 0xFFFFFFFF) :
    ∃ h, (enterTrap (raisedState s g e r t) g.uid).group? g.uid = some h ∧ h.stop = some ⟨g.inHandler, false⟩ ∧ h.canIssue = false := by
  have stop (h : Group) (hu : h.uid = g.uid) (hm : h.team = g.team) (nested : Bool) :
      ∃ k, (stopGroup ((raisedState s g e r t).setGroup h) g.uid nested false).group? g.uid = some k ∧ k.stop = some ⟨nested, false⟩
        ∧ k.canIssue = false := by
    have h1 : ((raisedState s g e r t).setGroup h).group? h.uid = some h := group?_setGroup (by rw [hu]; exact raisedState_group hg)
    have h2 : ((raisedState s g e r t).setGroup h).team? h.team = some t := by rw [hm]; exact raisedState_team ht
    exact hu ▸ stopGroup_group h1 h2 nested false
  rw [enterTrap_eq (raisedState_group hg) rfl (raisedState_team ht), raisedState_lrOf]
  show ∃ h, (if g.inHandler then _ else _ : State).group? g.uid = some h ∧ _
  cases hi : g.inHandler with
  | true =>
    rw [if_pos rfl]
    exact stop _ (by rfl) (by rfl) true
  | false =>
    have hn : (s.lrOf t).traph = 0xFFFFFFFF := hh.resolve_left (by rw [hi]; exact Bool.false_ne_true)
    rw [if_neg Bool.false_ne_true, if_pos hn]
    exact stop _ (by rfl) (by rfl) false

end Trap

/-! ### tca (Table 17.2) -/

theorem tcaOf_toNat {r : Trap} (h : r.cause < 256) :
    (tcaOf r).toNat = r.cause + (if r.fetch then 256 else 0) + (if r.deferred then 512 else 0) := by
  unfold tcaOf
  rw [BitVec.toNat_ofNat, Nat.mod_eq_of_lt]
  split <;> split <;> omega

theorem tcaOf_fields {r : Trap} (h : r.cause < 256) : (tcaOf r).toNat % 256 = r.cause ∧ (tcaOf r).getLsbD 8 = r.fetch
    ∧ (tcaOf r).getLsbD 9 = r.deferred ∧ (tcaOf r).toNat < 1024 := by
  have hn := tcaOf_toNat h
  have bit (k : Nat) : (tcaOf r).getLsbD k = decide ((tcaOf r).toNat / 2 ^ k % 2 = 1) := by
    rw [BitVec.getLsbD, Nat.testBit_eq_decide_div_mod_eq]
  rw [bit, bit, hn]
  cases r.fetch <;> cases r.deferred <;> simp only [Bool.false_eq_true, if_true, if_false, decide_eq_true_eq, decide_eq_false_iff_not] <;> omega

/-- Settles O59: the group raises its trap, and enters its handler or stops once its loads have returned. -/
theorem trapsEnterTheHandler : Obligations.TrapsEnterTheHandler := by
  intro s g e r t hg ht hc
  rw [takeTrap_eq ht]
  obtain ⟨h1, h2, h3, h4⟩ := tcaOf_fields hc
  refine ⟨fun hq => ?_, fun hq hi hh => ⟨handlerGroup s g e r t, ?_, ?_⟩, fun hq hh => ?_⟩
  · rw [hq]
    rfl
  · rw [hq]
    exact enterTrap_handler hg ht hi hh
  · exact ⟨rfl, rfl, rfl, rfl, rfl, h1, h2, h3, h4, rfl, rfl, rfl, ⟨_, rfl, rfl, rfl, rfl, rfl, rfl, rfl, rfl⟩, rfl, rfl, rfl, rfl, rfl, rfl⟩
  · rw [hq]
    exact enterTrap_stops hg ht hh

end Sys2Proof.Machine
end

section
/-! PROOF. An instruction of the own-group families changes its own group alone, by its effect or by a trap (01, 04 to 07). -/

namespace Sys2Proof.Machine

open Sys2Proof

/-- The state with one group replaced and the model's counter of draws gone up. -/
def onlyGroup (s : State) (u : Nat) (g : Group) : State :=
  { s with
    groups := s.groups.map (fun h => if h.uid = u then g else h)
    draws := s.draws + 1 }

/-! ### What follows an instruction -/

theorem freeSplit_kin (g : Group) (e : Nat) : Kin (freeSplit g e) g := setSplit_kin _ _ _

theorem mergePair_kin (g : Group) (i j : Nat) : Kin (mergePair g i j) g := (setSplit_kin _ _ _).trans (freeSplit_kin _ _)

theorem mergeSame_kin (g : Group) : Kin (mergeSame g) g := by
  have once (g : Group) : Kin (match samePair? g with
      | some p => mergePair g p.1 p.2
      | none => g) g := by
    split
    · exact mergePair_kin _ _ _
    · exact .rfl g
  exact ((once _).trans (once _)).trans (once g)

theorem settleSplit_kin (clock e : Nat) (sw : Bool) {nx : Next} (h : Steady nx) (g : Group) : Kin (settleSplit clock e sw nx g) g := by
  cases nx with
  | again | gone => cases h
  | step | park | jump | stay => exact (mergeSame_kin _).trans (setSplit_kin _ _ _)

theorem endHandler_eq {g : Group} (clock : Nat) (h : g.inHandler = false) : endHandler clock g = g := by
  unfold endHandler
  rw [h]

theorem modGroup_setGroup (l : List Group) {g : Group} {u : Nat} (f : Group → Group) (hu : g.uid = u) :
    (l.map (fun k => if k.uid = g.uid then g else k)).map (fun k => if k.uid = u then f k else k) =
      l.map (fun k => if k.uid = u then f g else k) := by
  rw [List.map_map]
  refine List.map_congr_left (fun k _ => ?_)
  rw [Function.comp_apply, hu]
  by_cases hk : k.uid = u
  · simp [hk, hu]
  · simp [hk]

section Own

variable {x : Ix}

/-- What follows the effect of an instruction of a quiet group that leaves the group the one it was. -/
theorem finish_own (hg : x.s.group? x.g.uid = some x.g) (q : Quiet x.g) {g : Group} (k : Kin g x.g) {nx : Next} (h : Steady nx) :
    finish x (x.s.setGroup g) nx = onlyGroup x.s x.g.uid (settleSplit x.s.clock x.e x.sw nx g) := by
  have kf := (settleSplit_kin x.s.clock x.e x.sw h g).trans k
  have he : endHandler x.s.clock (settleSplit x.s.clock x.e x.sw nx g) = settleSplit x.s.clock x.e x.sw nx g :=
    endHandler_eq _ (kf.inHandler.trans q.plain)
  have h1 : (x.s.setGroup g).modGroup x.g.uid (fun g => endHandler x.s.clock (settleSplit x.s.clock x.e x.sw nx g)) =
      x.s.setGroup (settleSplit x.s.clock x.e x.sw nx g) := by
    have hm := modGroup_setGroup x.s.groups (fun g => endHandler x.s.clock (settleSplit x.s.clock x.e x.sw nx g)) k.uid
    rw [he] at hm
    unfold State.modGroup State.setGroup
    rw [kf.uid]
    exact congrArg (fun G => { x.s with groups := G }) hm
  have h2 : (x.s.setGroup (settleSplit x.s.clock x.e x.sw nx g)).group? x.g.uid = some (settleSplit x.s.clock x.e x.sw nx g) :=
    kf.uid ▸ group?_setGroup (kf.uid.symm ▸ hg)
  have hexm : (settleSplit x.s.clock x.e x.sw nx g).exm ≠ 0xFFFFFFFF := by rw [kf.exm]; exact q.lives
  have hgone : nx ≠ .gone := by rintro rfl; exact h
  have hagain : nx ≠ .again := by rintro rfl; exact h
  unfold finish
  dsimp only
  rw [h1, h2]
  dsimp only
  rw [q.sound]
  unfold postUndelivered retireIfDone
  simp only [List.filter_nil, List.foldl_nil, h2, hexm, decide_false, Bool.false_and, Bool.false_eq_true, if_false, if_neg hgone, if_neg hagain]
  unfold onlyGroup State.setGroup
  rw [kf.uid]

theorem withdrawAsks_none {s : State} {core grp : Nat} {sp : Split} (h : (sp.ask.getD {}).held = []) : withdrawAsks s core grp [sp] = s := by
  unfold withdrawAsks
  rw [List.flatMap_singleton, h]
  rfl

/-- A trap of a quiet group whose launch has a handler and for which no home holds a request changes the group alone. -/
theorem takeTrap_own (hg : x.s.group? x.g.uid = some x.g) (ht : x.s.team? x.g.team = some x.t) (hl : x.lr = x.s.lrOf x.t)
    (hp : x.sp = x.g.split x.e) (q : Quiet x.g) (hh : HasHandler x) (ha : (x.sp.ask.getD {}).held = []) (r : Trap) :
    ∃ g, g.uid = x.g.uid ∧ g.team = x.g.team ∧ takeTrap x.s x.g x.e r = onlyGroup x.s x.g.uid g := by
  rw [hp] at ha
  rw [takeTrap_eq ht]
  split
  · rw [enterTrap_handler hg ht q.plain (hl ▸ hh), withdrawAsks_none ha]
    exact ⟨handlerGroup x.s x.g x.e r x.t, rfl, rfl, rfl⟩
  · unfold raisedState
    rw [withdrawAsks_none ha]
    exact ⟨raisedGroup x.g x.e r, rfl, rfl, rfl⟩

theorem markRead_quiet (n : Needs) (q : Quiet x.g) : markRead n x = x.g := by
  unfold markRead
  rw [q.sound, List.map_nil, ← q.sound]

end Own

theorem ixOf_group {s : State} {x : Ix} (h : ixOf s = some x) : x.s.group? x.g.uid = some x.g := by
  obtain ⟨rfl, -, -, -, ⟨i, -, hg, -, -⟩, -, -⟩ := ixOf_fields h
  have hu : x.g.uid = i.grp := by simpa using List.find?_some hg
  rw [hu]
  exact hg

/-- Settles O54: the instruction traps, or its effect is on its group, and nothing else is due. -/
theorem ownGroupInstructionsKeepTheRest : Obligations.OwnGroupInstructionsKeepTheRest := by
  intro i s t x hi hx hw ha q hh he
  obtain ⟨n, body, hb, hbody, hix⟩ := exec_own i s hi
  rw [hix] at he
  have hg := ixOf_group hx
  obtain ⟨rfl, hl, hp, ht, -, -, -⟩ := ixOf_fields hx
  have trap (r : Trap) (g : Group) (hgg : g = x.g) (hr : t = takeTrap x.s g x.e r) :
      ∃ g, g.uid = x.g.uid ∧ g.team = x.g.team ∧ t = onlyGroup x.s x.g.uid g := by
    subst hgg hr
    exact takeTrap_own hg ht hl hp q hh ha r
  unfold issue at he
  rw [hx] at he
  dsimp only at he
  split at he
  · cases he
    exact trap _ _ rfl rfl
  rw [hw, hb, Bool.or_self, if_neg Bool.false_ne_true] at he
  split at he
  · cases he
    exact trap _ _ (by split; exacts [markRead_quiet n q, rfl]) rfl
  have hbx := hbody x
  split at he
  case h_1 r hr =>
    rw [hr] at hbx
    cases hbx
    cases he
    exact trap _ _ rfl rfl
  case h_2 r hr =>
    rw [hr] at hbx
    cases hbx
    case moves g nx k h =>
      cases he
      have kf := (settleSplit_kin x.s.clock x.e x.sw h g).trans k
      exact ⟨_, kf.uid, kf.team, finish_own hg q k h⟩

end Sys2Proof.Machine
end

section
/-! PROOF. Arithmetic of the lanes, moves, compares and predicates (04 R93, R99 to R108), floating point, conversion and dot products
(05 R114 to R129): each instruction issues one lane operation, and its answer is that operation's results in the lanes of act. -/

namespace Sys2Proof.Machine

open Sys2Proof

/-! ### Integers -/

/-- Settles O4: the eight are element operations whose element functions are those of R93. -/
theorem integerArithmeticCompletes : Obligations.IntegerArithmeticCompletes := by
  refine fun s x w d a b => ⟨fun h => ⟨?add, ?sub, ?rsub, ?absd, ?mul, ?mulh⟩, fun h => ⟨?mad, ?madh⟩⟩
  case add => exact intOp3_of_issues elAdd h
  case sub => exact intOp3_of_issues elSub h
  case rsub => exact intOp3_of_issues elRsub h
  case absd => exact intOp3_of_issues elAbsd h
  case mul => exact intOp3_of_issues elMul h
  case mulh => exact intOp3_of_issues elMulh h
  case mad => exact intOp3_of_issues elMad h
  case madh => exact intOp3_of_issues elMadh h

section
variable {s : State} {x : Ix} {w : Width} {d a b : LaneOp}

/-- A format N register operation applies its function to each register of the source. -/
theorem regOp2_of_issues (f : Word → Word) (h : Issues s x (regNeeds2 w d a)) :
    regOp2 w d a f s = onGroup x (regResult2 x w d a f) := issueG_does h

/-- A sign extension written as the word of its integer. -/
theorem execSext_of_issues (m : Fin 32) (h : Issues s x (regNeeds2 w d a)) :
    execSext w d a m s = onGroup x (regResult2 x w d a (fun v => BitVec.ofInt 32 (sx v.toNat (m.val + 1)))) := by
  rw [← funext (fun v : Word => ofNat_pat 32 (sx v.toNat (m.val + 1)))]
  exact regOp2_of_issues _ h

end

/-- Settles O10: register operations whose functions are those of Table 04.3, and element operations under MR.TY. -/
theorem unaryAndImmediateFormsComplete : Obligations.UnaryAndImmediateFormsComplete := by
  intro s x w d a
  refine ⟨fun h => ⟨?mov, ?not, ?clz, ?popc, ?brev, ?bswap, fun i7 => ⟨?andi, ?ori, ?xori, ?andni⟩, fun m => ⟨?sext, ?zext⟩⟩,
    fun h => ⟨?neg, ?abs, fun i9 => ?addi⟩⟩
  case mov => exact regOp2_of_issues id h
  case not => exact regOp2_of_issues _ h
  case clz => exact regOp2_of_issues clzWord h
  case popc => exact regOp2_of_issues popcWord h
  case brev => exact regOp2_of_issues brevWord h
  case bswap => exact regOp2_of_issues bswapWord h
  case andi => exact regOp2_of_issues _ h
  case ori => exact regOp2_of_issues _ h
  case xori => exact regOp2_of_issues _ h
  case andni => exact regOp2_of_issues (fun v => andnWord v (i7.signExtend 32)) h
  case sext => exact execSext_of_issues m h
  case zext => exact regOp2_of_issues _ h
  case neg => exact intOp2_of_issues (fun sg sat n p => fit sg sat n (-p)) h
  case abs => exact intOp2_of_issues (fun sg sat n p => fit sg sat n (if p < 0 then -p else p)) h
  case addi => exact intOp2_of_issues (fun sg sat n p => fit sg sat n (p + i9.toInt)) h

/-! ### Moves, compares and predicates -/

/-- Settles O11: each is one issue whose body writes the lanes, or the predicates, of act. -/
theorem movesOfPredicatesAndImmediatesComplete : Obligations.MovesOfPredicatesAndImmediatesComplete := by
  intro s x d a k
  refine ⟨fun i16 h => ⟨?movi, ?moviZ⟩, fun i16 h => ⟨?moviH, ?moviL⟩, fun wide u h => ?movg, fun h => ?ktoi, fun h => ?kget,
    fun h => ⟨?itok, ?kput⟩⟩
  case movi => exact issueG_eq h rfl rfl
  case moviZ => exact issueG_eq h rfl rfl
  case moviH => exact issueG_eq h rfl rfl
  case moviL => exact issueG_eq h rfl rfl
  case movg => exact issueG_eq h rfl rfl
  case ktoi => exact issueG_eq h rfl rfl
  case kget => exact issueG_eq h rfl rfl
  case itok => exact issueG_eq h rfl rfl
  case kput => exact issueG_eq h rfl rfl

/-- Settles O12: the compares and the predicate operations write one predicate through a mask of the lanes, MODE the split's MR. -/
theorem comparesAndPredicatesComplete : Obligations.ComparesAndPredicatesComplete := by
  intro s x kd ka kb a b wide any
  refine ⟨fun rel cb h => ?icmp, fun rel i9 h => ?cmpi, fun rel cb h => ?fcmp, fun na nb h => ⟨?kand, ?kor, ?kxor, ?kandn⟩,
    fun q i16 h => ?mode⟩
  case icmp => exact issueG_eq h rfl rfl
  case cmpi => exact issueG_eq h rfl rfl
  case fcmp => exact issueG_eq h rfl rfl
  case kand => exact issueG_eq h rfl rfl
  case kor => exact issueG_eq h rfl rfl
  case kxor => exact issueG_eq h rfl rfl
  case kandn => exact issueG_eq h rfl rfl
  case mode => exact issueG_eq h rfl rfl

/-! ### Floating point -/

section
variable {s : State} {x : Ix} {w : Width} {d a b : LaneOp}

/-- A format A operation that rounds applies its exact function to the values of the elements, under MR.RM. -/
theorem floatOp3_of_issues {readsD : Bool} (f : RMode → FVal → FVal → FVal → Pre) (h : Issues s x (needs3 w.regs d a b readsD floatBad)) :
    floatOp3 w d a b readsD f s = onGroup x (floatResult x w d a b readsD (f x.rm)) := issueG_does h

/-- A minimum or maximum chooses between the encodings of the elements and rounds nothing. -/
theorem minMaxOp_of_issues (big prop : Bool) (h : Issues s x (needs3 w.regs d a b false floatBad)) :
    minMaxOp w d a b big prop s = onGroup x (putResults x d w.regs (fun i =>
      rndEls (fmtBits x.fmt) (32 * w.regs / fmtBits x.fmt) false (x.g.seed i) (fun _ j => ⟨minMaxF x.fmt x.ftz big prop
        (elOf (fmtBits x.fmt) (readRun x 0 a w.regs i) j) (elOf (fmtBits x.fmt) (readRun x 1 b w.regs i) j), 0⟩))) := issueG_does h

/-- A function applies to the encoding of each element of its source. -/
theorem funOp_of_issues (rounds : Bool) (f : Ix → Nat → Nat → Rnd) (h : Issues s x (funNeeds w d a)) :
    funOp w d a rounds f s = onGroup x (funResult x w d a rounds (f x)) := issueG_does h

end

/-- Settles O13: the rounding forms apply the exact function of R116 to the values of the elements, the others choose an operand. -/
theorem floatArithmeticCompletes : Obligations.FloatArithmeticCompletes := by
  intro s x w d a b
  refine ⟨fun h => ⟨?fadd, ?fsub, ?frsub, ?fmul, ?fmin, ?fmax, ?fminm, ?fmaxm⟩, fun h => ⟨?ffma, ?ffms, ?fnma, ?fnms⟩⟩
  case fadd => exact floatOp3_of_issues (fun rm p q _ => addF rm p q) h
  case fsub => exact floatOp3_of_issues (fun rm p q _ => addF rm p (negF q)) h
  case frsub => exact floatOp3_of_issues (fun rm p q _ => addF rm q (negF p)) h
  case fmul => exact floatOp3_of_issues (fun _ p q _ => mulF p q) h
  case fmin => exact minMaxOp_of_issues false false h
  case fmax => exact minMaxOp_of_issues true false h
  case fminm => exact minMaxOp_of_issues false true h
  case fmaxm => exact minMaxOp_of_issues true true h
  case ffma => exact floatOp3_of_issues (fun rm p q r => fmaF rm p q r) h
  case ffms => exact floatOp3_of_issues (fun rm p q r => fmaF rm p q (negF r)) h
  case fnma => exact floatOp3_of_issues (fun rm p q r => fmaF rm (negF p) q r) h
  case fnms => exact floatOp3_of_issues (fun rm p q r => fmaF rm (negF p) q (negF r)) h

/-- Settles O14: each is a function of the encoding of the element, and three of them take MR.RM. -/
theorem functionsComplete : Obligations.FunctionsComplete := by
  refine fun s x w d a h => ⟨?fabs, ?fneg, ?frcp, ?fsqrt, ?frnd, ?fclass, ?frsq, ?fexp2, ?flog2, ?fsin, ?fcos, ?ftanh⟩
  case fabs => exact funOp_of_issues false (fun x _ p => signedBits x p (fun _ => false)) h
  case fneg => exact funOp_of_issues false (fun x _ p => signedBits x p (fun m => !m)) h
  case frcp => exact funOp_of_issues true (fun x n16 p => x.fround n16 (rcpPre (x.vl p))) h
  case fsqrt => exact funOp_of_issues true (fun x n16 p => x.fround n16 (sqrtPre (x.vl p))) h
  case frnd => exact funOp_of_issues true (fun x n16 p => frndF x.fmt x.rm n16 (x.vl p)) h
  case fclass => exact funOp_of_issues false (fun x _ p => ⟨2 ^ classBit x.fmt x.ftz p, 0⟩) h
  case frsq => exact funOp_of_issues false (faithOp frsqF) h
  case fexp2 => exact funOp_of_issues false (faithOp fexp2F) h
  case flog2 => exact funOp_of_issues false (faithOp flog2F) h
  case fsin => exact funOp_of_issues false (faithOp fsinF) h
  case fcos => exact funOp_of_issues false (faithOp fcosF) h
  case ftanh => exact funOp_of_issues false (faithOp ftanhF) h

/-! ### Conversion, packing and dot products -/

/-- Settles O15: each is one issue; the format of a pair decides whether the old low half of a register is read and kept. -/
theorem conversionPackingAndDotComplete : Obligations.ConversionPackingAndDotComplete := by
  intro s x w d a b
  refine ⟨fun trunc part dt h => ?cvt, fun h => ?bf16, fun h => ?f16, fun h => ?e4m3, fun h => ?e5m2, fun h => ?dot, fun h => ?dotz⟩
  case cvt => exact issueG_eq h rfl rfl
  case bf16 => exact issueG_eq h rfl rfl
  case f16 => exact issueG_eq h rfl rfl
  case e4m3 => exact issueG_eq h rfl rfl
  case e5m2 => exact issueG_eq h rfl rfl
  case dot => exact issueG_eq h rfl rfl
  case dotz => exact issueG_eq h rfl rfl

end Sys2Proof.Machine
end

section
/-! PROOF. Uniform instructions (04 R110, R111), cross-lane transfers, scans and reductions (07 R172 to R176), branches, calls and
divergence (06 R131 to R135, 07 R165 to R168). -/

namespace Sys2Proof.Machine

open Sys2Proof

/-! ### Uniform instructions -/

section
variable {s : State} {x : Ix} {wide : Bool} {d : Fin 64} {a b : UniOp}

/-- A uniform operation writes its function of the sources and of the old destination. -/
theorem uniOp_of_issues {readsD : Bool} (f : Nat → Nat → Nat → Nat → Nat) (h : Issues s x (uniNeeds wide d a b readsD)) :
    uniOp wide d a b readsD f s = onGroup x (uniResult x wide d a b f) := issueG_does h

end

/-- Settles O16: fifteen functions of two sources, UMAD of three, the placements of an immediate, and one comparison for all lanes. -/
theorem uniformInstructionsComplete : Obligations.UniformInstructionsComplete := by
  intro s x wide d a b
  refine ⟨fun h => ⟨?uadd, ?usub, ?umul, ?uand, ?uor, ?uxor, ?uandn, ?ushl, ?ushr, ?usha, ?urot, ?umin, ?umax, ?uminn, ?umaxn⟩,
    fun h => ?umad, fun i9 h => ?uaddi, fun i16 h => ?umovi, fun i16 h => ?umoviZ, fun i16 h => ?umoviH, fun i16 h => ?umoviL,
    fun uns rel cb kd h => ?ucmp⟩
  case uadd => exact uniOp_of_issues (fun n p q _ => (p + q) % 2 ^ n) h
  case usub => exact uniOp_of_issues (fun n p q _ => (p + (2 ^ n - q)) % 2 ^ n) h
  case umul => exact uniOp_of_issues (fun n p q _ => (p * q) % 2 ^ n) h
  case uand => exact uniOp_of_issues (fun _ p q _ => p &&& q) h
  case uor => exact uniOp_of_issues (fun _ p q _ => p ||| q) h
  case uxor => exact uniOp_of_issues (fun _ p q _ => p ^^^ q) h
  case uandn => exact uniOp_of_issues (fun n p q _ => p &&& (2 ^ n - 1 - q)) h
  case ushl => exact uniOp_of_issues (fun n p q _ => shlBits n p q) h
  case ushr => exact uniOp_of_issues (fun n p q _ => shrBits n p q) h
  case usha => exact uniOp_of_issues (fun n p q _ => shaBits n p q) h
  case urot => exact uniOp_of_issues (fun n p q _ => rotBits n p q) h
  case umin => exact uniOp_of_issues (fun n p q _ => if sx p n ≤ sx q n then p else q) h
  case umax => exact uniOp_of_issues (fun n p q _ => if sx p n ≤ sx q n then q else p) h
  case uminn => exact uniOp_of_issues (fun _ p q _ => if p ≤ q then p else q) h
  case umaxn => exact uniOp_of_issues (fun _ p q _ => if p ≤ q then q else p) h
  case umad => exact uniOp_of_issues (fun n p q r => (p * q + r) % 2 ^ n) h
  case uaddi => exact uniOp_of_issues (fun n p _ _ => pat ((p : Int) + i9.toInt) n) h
  case umovi => exact issueG_eq h rfl rfl
  case umoviZ => exact issueG_eq h rfl rfl
  case umoviH => exact issueG_eq h rfl rfl
  case umoviL => exact issueG_eq h rfl rfl
  case ucmp => exact issueG_eq h rfl rfl

/-! ### Cross-lane transfers -/

/-- Settles O17: each is one issue whose result in a lane comes from one lane of the source, or from the mask of act. -/
theorem crossLaneTransfersComplete : Obligations.CrossLaneTransfersComplete := by
  intro s x w d a
  refine ⟨⟨fun h => ?shfli, fun n h => ⟨?shflu, ?shfld, ?shflx⟩⟩, fun n h => ?rdlane, fun h => ?bcast, fun n k h => ?ballot,
    fun h => ?first, fun h => ?same⟩
  case shfli => exact issueG_eq h rfl rfl
  case shflu => exact issueG_eq h rfl rfl
  case shfld => exact issueG_eq h rfl rfl
  case shflx => exact issueG_eq h rfl rfl
  case rdlane => exact issueG_eq h rfl rfl
  case bcast => exact issueG_eq h rfl rfl
  case ballot => exact issueG_eq h rfl rfl
  case first => exact issueG_eq h rfl rfl
  case same => exact issueG_eq h rfl rfl

/-! ### Scans and reductions -/

/-- A later link of a chain, put behind the links made so far. -/
def addLink (next : Nat → Nat → LaneRes) (ls : List Link × Nat) (i : Nat) : List Link × Nat :=
  (ls.1 ++ [⟨i, (next ls.2 i).val, (next ls.2 i).flags, (next ls.2 i).seed⟩], (next ls.2 i).val)

/-- The value that a chain carries is that of its last link, and follows the lanes alone. -/
theorem foldl_addLink (next : Nat → Nat → LaneRes) (t : List Nat) (ls : List Link × Nat) (h : lastAcc ls.1 = ls.2) :
    lastAcc (t.foldl (addLink next) ls).1 = t.foldl (fun acc i => (next acc i).val) ls.2 := by
  induction t generalizing ls with
  | nil => exact h
  | cons i t ih => exact ih (addLink next ls i) (by simp [addLink, lastAcc])

/-- The last accumulated value of a chain that starts with a lane. -/
theorem lastAcc_chainFrom_cons (first : Nat → LaneRes) (next : Nat → Nat → LaneRes) (j : Nat) (t : List Nat) :
    lastAcc (chainFrom first next (j :: t)) = t.foldl (fun acc i => (next acc i).val) (first j).val :=
  foldl_addLink next t ([⟨j, (first j).val, (first j).flags, (first j).seed⟩], (first j).val) rfl

/-- A single element packed is its pattern. -/
theorem packRes_single_val (n : Nat) (r : Nat × Nat) : (packRes n [r]).val = r.1 % 2 ^ n := by
  simp [packRes, packEls]

/-- The values of lanes added from the first on, each sum fitted to 32 bits under MR.TY and MR.SAT. -/
def sumFitted (x : Ix) : List Nat → Nat
  | [] => 0
  | v :: vs => vs.foldl (fun acc u =>
      (fitInt (intSigned x.ty) x.sat 32 (elInt (intSigned x.ty) 32 acc 0 + elInt (intSigned x.ty) 32 u 0)).1 % 2 ^ 32) v

/-- An integer chain starts with the lowest lane of act and adds each next one, fitted to 32 bits. -/
theorem lastAcc_addChain_int (x : Ix) (a : LaneOp) (h : x.ty ≠ 8) :
    lastAcc (addChain x a) = sumFitted x ((lanesOf x.act).map (fun i => readRun x 0 a 1 i)) := by
  simp only [addChain, if_neg h]
  cases lanesOf x.act with
  | nil => rfl
  | cons j t =>
    rw [lastAcc_chainFrom_cons]
    simp only [sumFitted, List.map_cons, List.foldl_map, packRes_single_val, fit]

/-- Settles O18: the scans give the prefixes of the chain, the reductions its last value. -/
theorem scansAndReductionsComplete : Obligations.ScansAndReductionsComplete := by
  refine fun s x d a => ⟨fun h => ⟨?scan, ?exclusive, ?add, ?min, ?max⟩, fun h => (lastAcc_addChain_int x a h).trans ?sum⟩
  case scan => exact issueG_eq h rfl rfl
  case exclusive => exact issueG_eq h rfl rfl
  case add => exact issueG_eq h rfl rfl
  case min => exact issueG_eq h rfl rfl
  case max => exact issueG_eq h rfl rfl
  case sum => cases (lanesOf x.act).map (fun i => readRun x 0 a 1 i) <;> rfl

/-! ### Branches and calls -/

/-- The lowest lane of a mask is the lane of it below which there is none. -/
theorem lowestLane_eq {m : Lanes} {j : Nat} (hj : j < 32) (hm : m.getLsbD j = true) (hlow : ∀ k, k < j → m.getLsbD k = false) :
    lowestLane m = j := by
  have hfind : (List.range 32).find? (fun i => m.getLsbD i) = some j :=
    List.find?_range_eq_some.mpr ⟨hm, by simpa using hj, fun k hk => by simp [hlow k hk]⟩
  rw [lowestLane, lanesOf, List.headD_eq_head?_getD, List.head?_filter, hfind, Option.getD_some]

/-- Checks that pass find nothing of their own wrong. -/
theorem bad_of_preCheck {n : Needs} {x : Ix} (h : preCheck n x = none) : n.bad x = none := by
  cases hb : n.bad x with
  | none => rfl
  | some c =>
    unfold preCheck at h
    simp only [hb] at h
    split_ifs at h

section
variable {s : State} {x : Ix} {a : LaneOp}

/-- The lanes of act whose targets in a register are no multiples of 4 (R135). -/
def misaligned (x : Ix) (a : LaneOp) : Lanes := maskOf (fun i => x.act.getLsbD i && (readWord x 0 a i 0).toNat % 4 != 0)

/-- The target of each lane of AM: the register's word in the lanes of act, the next word in the others (R135). -/
def targetsOf (x : Ix) (a : LaneOp) : List (Nat × Word) :=
  (lanesOf x.am).map (fun i => (i, if x.act.getLsbD i then readWord x 0 a i 0 else x.sp.pc + 4))

theorem misaligned_eq_zero (h : ∀ i, i < 32 → x.act.getLsbD i = true → (readWord x 0 a i 0).toNat % 4 = 0) : misaligned x a = 0 := by
  refine lanes_ext (fun i hi => ?_)
  rw [misaligned, maskOf_getLsbD]
  cases ha : x.act.getLsbD i with
  | false => simp
  | true => simp [h i hi ha]

/-- The misaligned lanes are those whose target, taken over AM, is misaligned: the lanes outside act have none. -/
theorem misaligned_eq (x : Ix) (a : LaneOp) : maskOf (fun i => x.act.getLsbD i &&
    (if x.act.getLsbD i then readWord x 0 a i 0 else nextPc x.sp.pc).toNat % 4 != 0) = misaligned x a := by
  refine congrArg maskOf (funext (fun i => ?_))
  cases x.act.getLsbD i <;> rfl

/-- An indirect transfer whose targets are all aligned goes to them, after the write of the link. -/
theorem jind_goes (link : Bool) (h : Issues s x { srcs := [(a, 1)] })
    (ha : ∀ i, i < 32 → x.act.getLsbD i = true → (readWord x 0 a i 0).toNat % 4 = 0) :
    jind a link s = does x (x.s.setGroup (jumpSplit x.s.clock (if link then writeLink x.g x.act (nextPc x.sp.pc) else x.g) x.e (targetsOf x a)))
      .stay := by
  refine issue_eq h rfl ?_
  simp only [misaligned_eq, misaligned_eq_zero ha, ne_eq, not_true_eq_false, if_false]
  rfl

/-- An indirect transfer with a misaligned target traps ALIGN at the lowest of the lanes that have one. -/
theorem jind_traps (link : Bool) (h : Issues s x { srcs := [(a, 1)] }) {j : Nat} (hj : j < 32) (hm : (misaligned x a).getLsbD j = true)
    (hlow : ∀ k, k < j → (misaligned x a).getLsbD k = false) :
    jind a link s = traps x { cause := cALIGN, tfm := misaligned x a, tva := (readWord x 0 a j 0).toNat } := by
  have hne : misaligned x a ≠ 0 := fun h0 => by simp [h0] at hm
  have hact : x.act.getLsbD j = true := by
    rw [misaligned, maskOf_getLsbD, Bool.and_eq_true, Bool.and_eq_true] at hm
    exact hm.2.1
  refine issue_trap_eq h rfl ?_
  simp only [misaligned_eq, lowestLane_eq hj hm hlow, hact, if_true]
  exact if_pos hne

end

/-- Settles O20: a direct branch is one issue of the group as it is, and an indirect one turns on its misaligned targets. -/
theorem branchesAndCallsComplete : Obligations.BranchesAndCallsComplete := by
  intro s x k n off a
  refine ⟨fun h => ⟨issueG_eq h rfl rfl, issueG_eq h rfl rfl⟩, fun h => ⟨fun ht => ?jump, fun ht => ?step⟩,
    fun h => ⟨fun ha => jind_goes false h ha, fun j hj hm hlow => jind_traps false h hj hm hlow⟩,
    fun h => ⟨fun ha => ⟨jind_goes false h ha, jind_goes true h ha⟩, fun j hj hm hlow => jind_traps false h hj hm hlow,
      fun j hj hm hlow => jind_traps true h hj hm hlow⟩⟩
  case jump =>
    have ht : taken x k.val n = x.am := ht
    exact issueG_eq h rfl (by rw [if_pos ht]; rfl)
  case step =>
    have ht : taken x k.val n ≠ x.am := ht
    refine ⟨?_, issueG_eq h rfl (by rw [if_neg ht])⟩
    have hbad : illegalIf (taken x k.val n != 0 && taken x k.val n != x.am) = none := bad_of_preCheck h.passes
    show taken x k.val n = 0
    simpa [illegalIf, ht] using hbad

/-! ### Divergence -/

section
variable {g : Group} {e k : Nat} {n : Bool} {clock : Nat} {target : Word}

/-- BRK in serial mode jumps when its lane is selected. -/
theorem brkSplit_serial (h : (g.split e).ser = true) : brkSplit clock g e k n target =
    g.setSplit e { g.split e with pc := if predLanes g (g.split e).am k n ≠ 0 then target else nextPc (g.split e).pc } := if_pos h

/-- BRK that selects no lane goes on. -/
theorem brkSplit_none (h : (g.split e).ser = false) (ht : predLanes g (g.split e).am k n = 0) : brkSplit clock g e k n target =
    g.setSplit e { g.split e with pc := nextPc (g.split e).pc } := by
  simp [brkSplit, h, ht]

/-- BRK that selects every lane jumps. -/
theorem brkSplit_all (h : (g.split e).ser = false) (h0 : predLanes g (g.split e).am k n ≠ 0)
    (ht : predLanes g (g.split e).am k n = (g.split e).am) : brkSplit clock g e k n target =
    g.setSplit e { g.split e with pc := target } := by
  have ham : (g.split e).am ≠ 0 := ht ▸ h0
  simp only [brkSplit, h, ht, ham, Bool.false_eq_true, if_false, if_true]

/-- BRK that divides the split goes by the lowest FREE entry, or starts serial mode. -/
theorem brkSplit_some (h : (g.split e).ser = false) (h0 : predLanes g (g.split e).am k n ≠ 0)
    (ht : predLanes g (g.split e).am k n ≠ (g.split e).am) {f : Nat} (hf : freeEntry? g = some f) : brkSplit clock g e k n target =
    (g.setSplit f { st := .ready, pc := target, am := predLanes g (g.split e).am k n, mr := (g.split e).mr, frame := (g.split e).frame,
                    since := clock }).setSplit e
      { g.split e with am := (g.split e).am &&& ~~~predLanes g (g.split e).am k n, pc := nextPc (g.split e).pc, hv := 0 } := by
  simp only [brkSplit, h, h0, ht, hf, Bool.false_eq_true, if_false]

theorem brkSplit_full (h : (g.split e).ser = false) (h0 : predLanes g (g.split e).am k n ≠ 0)
    (ht : predLanes g (g.split e).am k n ≠ (g.split e).am) (hf : freeEntry? g = none) :
    brkSplit clock g e k n target = startSerial clock g e := by
  simp only [brkSplit, h, h0, ht, hf, Bool.false_eq_true, if_false]

/-- JPT outside serial mode opens the lowest FREE frame, or starts serial mode. -/
theorem jptSplit_some (h : (g.split e).ser = false) {f : Nat} (hf : freeFrame? g = some f) : jptSplit clock g e target =
    (g.setFrame f ⟨true, target, (g.split e).am, (g.split e).mr, (g.split e).frame⟩).setSplit e
      { g.split e with frame := f, pc := nextPc (g.split e).pc } := by
  simp only [jptSplit, h, hf, Bool.false_eq_true, if_false]

theorem jptSplit_full (h : (g.split e).ser = false) (hf : freeFrame? g = none) :
    jptSplit clock g e target = startSerial clock g e := by
  simp only [jptSplit, h, hf, Bool.false_eq_true, if_false]

end

/-- A group instruction whose body is a division of the issuing split. -/
theorem divides_of_issues {s : State} {x : Ix} {nd : Needs} {f : Ix → Group} {g : Group} (h : Issues s x nd) (hf : f x = g) :
    issueG nd (fun x => (f x, .stay)) s = does x (x.s.setGroup g) .stay := issueG_eq h rfl (by rw [hf])

/-- Settles O21: each clause is one branch of R165, R166 or R168. -/
theorem divergenceCompletes : Obligations.DivergenceCompletes := by
  intro s x k n off
  refine ⟨fun h => ?brk, fun h => ?jpt, fun h => issueG_eq h rfl rfl⟩
  case brk =>
    obtain ⟨-, -, hsp, -⟩ := ixOf_fields h.names
    obtain ⟨xs, g, t, lr, e, sp, sw⟩ := x
    obtain rfl : sp = g.split e := hsp
    refine ⟨fun hs => divides_of_issues h (brkSplit_serial hs), fun hs ht => divides_of_issues h (brkSplit_none hs ht),
      fun hs h0 ht => divides_of_issues h (brkSplit_all hs h0 ht), fun hs h0 ht f hf => divides_of_issues h (brkSplit_some hs h0 ht hf),
      fun hs h0 ht hf => divides_of_issues h (brkSplit_full hs h0 ht hf)⟩
  case jpt =>
    obtain ⟨-, -, hsp, -⟩ := ixOf_fields h.names
    obtain ⟨xs, g, t, lr, e, sp, sw⟩ := x
    obtain rfl : sp = g.split e := hsp
    exact ⟨fun hs => divides_of_issues h (if_pos hs), fun hs f hf => divides_of_issues h (jptSplit_some hs hf),
      fun hs hf => divides_of_issues h (jptSplit_full hs hf)⟩

end Sys2Proof.Machine
end

section
/-! PROOF. The SYS instructions (06 R136 to R142, 17 R365): special registers, segments, returns from a trap, invalidations and
ownership tokens (18 R407, 20 R426 to R428), validity (17 R385), and the traps of privilege and role (Table 03.8). -/

namespace Sys2Proof.Machine

open Sys2Proof

/-! ### Special registers and returns -/

theorem core_setCore_self (s : State) (c : Nat) (k : CoreSt) : (s.setCore c k).core c = k := by
  rw [State.core, State.setCore, mget_mset_self]

/-- The instruction cache of a core is empty after ICINV (R142). -/
theorem refreshIc_core (s : State) (c : Nat) : (refreshIc s c).core c = { s.core c with ic := [] } :=
  core_setCore_self s c { s.core c with ic := [] }

section
variable {s : State} {x : Ix}

/-- RDSR of a register that is not an engine's writes every lane of AM. -/
theorem execRdsr_group {wide : Bool} {d : LaneOp} {sr : BitVec 7}
    (h : Issues s x { sysNeeds with dsts := [(d, srRun wide)], bad := fun _ => illegalIf (srWords sr.toNat != some (srRun wide)) })
    (he : srEngine sr.toNat = false) : execRdsr wide d sr s = onGroup x (enterHist ((lanesOf x.am).foldl (fun g i =>
      writeRun g d (srRun wide) i (srValue x sr.toNat i)) x.g) x.e x.am (srValue x sr.toNat)) :=
  issue_eq h rfl (if_neg (by simp [he]))

/-- RDSR of an engine register places it in flight (R260). -/
theorem execRdsr_engine {wide : Bool} {d : LaneOp} {sr : BitVec 7}
    (h : Issues s x { sysNeeds with dsts := [(d, srRun wide)], bad := fun _ => illegalIf (srWords sr.toNat != some (srRun wide)) })
    (he : srEngine sr.toNat = true) : execRdsr wide d sr s = does x (x.s.fresh.setGroup { x.g with
      pends := x.g.pends ++ List.map
        (fun r => ({ load := x.s.uid, reg := r.1, vals := (lanesOf x.am).map (fun i => (i, .engine sr.toNat r.2)), whole := true } : Pend))
        ((runRegs (d, srRun wide)).zip (List.range (srRun wide))) }) .step :=
  issue_eq h rfl (if_pos he)

/-- WRSR writes the register that its number names. -/
theorem execWrsr_of_issues {wide : Bool} {a : LaneOp} {sr : BitVec 7} (h : Issues s x { sysNeeds with
      priv := srSegment sr.toNat, srcs := [(a, srRun wide)], lanes := fun x => if sr.toNat = 1 then x.am else laneBit x.low
      bad := fun _ => illegalIf (srWords sr.toNat != some (srRun wide) || !srWritable sr.toNat) }) :
    execWrsr wide sr a s = does x (writeSr x sr.toNat a) .step := by
  unfold execWrsr
  exact issue_eq h rfl rfl

/-- SEGLD writes the segment register that its number names. -/
theorem execSegld_of_issues {a : LaneOp} {sr : BitVec 7} (h : Issues s x { sysNeeds with
      priv := true, srcs := [(a, 2)], lanes := fun x => laneBit x.low
      bad := fun x => illegalIf (!srSegment sr.toNat || !segldFits x sr.toNat (readRun x 0 a 2 x.low)) }) :
    execSegld sr a s = does x (writeSeg x sr.toNat (readRun x 0 a 2 x.low)) .step := by
  unfold execSegld
  exact issue_eq h rfl rfl

/-- TRET of a group with nothing in flight restores the saved block (R365). -/
theorem execTret_restores {b : Saved} (h : Issues s x handlerNeeds) (hf : x.g.inFlight x.sp.lanes = false) (hq : x.g.quiet = true)
    (hb : x.g.saved = some b) : execTret s = does x (x.s.setGroup (restoreSaved x.s.clock x.g b x.g.tpc)) .gone := by
  refine issueG_eq h rfl ?_
  simp only [hf, hq, hb, Bool.not_true, Bool.false_eq_true, if_false]

end

/-- Settles O22: each is one issue; a write to a special register is chosen by the register's number. -/
theorem systemInstructionsComplete : Obligations.SystemInstructionsComplete := by
  intro s x
  refine ⟨fun h => ⟨?nop, fun c => ?trap, ?brkpt, ?icinv, ?ic⟩, fun wide d sr h => ⟨execRdsr_group h, execRdsr_engine h⟩,
    fun wide sr a h => ⟨fun e => ?fx, fun e => ?seeds, fun e => ?tpc, fun e => ?ces, fun e => ?mcb⟩, fun sr a h => ?segld,
    fun h => ⟨fun hf hq b hb => execTret_restores h hf hq hb, ?tfail⟩⟩
  case nop => exact issueG_eq h rfl rfl
  case trap => exact (exec_trap c s).trans (issue_trap_eq h rfl rfl)
  case brkpt => exact (exec_brkpt s).trans (issue_trap_eq h rfl rfl)
  case icinv => exact (exec_icinv s).trans (issue_eq h rfl rfl)
  case ic => rw [refreshIc_core]
  case fx => exact (exec_wrsr wide sr a s).trans ((execWrsr_of_issues h).trans (by rw [e]; rfl))
  case seeds => exact (exec_wrsr wide sr a s).trans ((execWrsr_of_issues h).trans (by rw [e]; rfl))
  case tpc => exact (exec_wrsr wide sr a s).trans ((execWrsr_of_issues h).trans (by rw [e]; rfl))
  case ces => exact (exec_wrsr wide sr a s).trans ((execWrsr_of_issues h).trans (by rw [e]; rfl))
  case mcb => exact (exec_wrsr wide sr a s).trans ((execWrsr_of_issues h).trans (by rw [e]; rfl))
  case segld => exact (exec_segld sr a s).trans (execSegld_of_issues h)
  case tfail => exact (exec_tfail s).trans (issue_eq h rfl rfl)

/-! ### Invalidations and tokens -/

section
variable {s : State} {x : Ix}

/-- What the lanes of AM of the issuing split await put in flight under a number, so that the split parks (R407, R426). -/
def parksFor (x : Ix) (load : Nat) (s : State) (v : PVal) : State := s.modGroup x.g.uid (fun g =>
  { g with pends := g.pends ++ [{ load := load, reg := zReg, vals := (lanesOf x.am).map (fun i => (i, v)) }] })

/-- A park after a release is one of the split as it was. -/
theorem parkOn_afterRelease (x : Ix) (scope : Option Nat) (eager : Bool) (s : State) (v : PVal) :
    parkOn (afterRelease x scope eager) s v = parksFor x (afterRelease x scope eager).s.uid s v := by
  rcases afterRelease_or x scope eager with h | h <;> rw [h] <;> rfl

/-- An invalidation that nothing holds back begins after the drain of its core, and its split parks (R405, R407). -/
theorem splitInval_eq {n : Needs} (h : Issues s x n) (hu : Unheld x (some 6) true) (ctx : Option Nat) (lo hi : Nat) :
    splitInval x ctx lo hi =
      (let y := afterRelease x (some 6) true
       (parksFor x y.s.uid (beginInval y.s.fresh y.s.uid ctx lo hi none) (.inval y.s.uid), .park)) :=
  (released_eq h.group hu _).trans (Prod.ext (parkOn_afterRelease x (some 6) true _ _) rfl)

/-- OWNACQ of a held token counts it once more. -/
theorem execOwnacq_held {a : LaneOp} {rg n : Nat} {t : TokEntry} (h : Issues s x (ownNeeds a)) (hr : ownCheck x (readRun x 0 a 2 x.low) = .ok rg)
    (ht : tokenOf x.s rg = some (n, t)) (hs : t.st = .held) (hc : t.count ≠ 65535) :
    execOwnacq a s = does x (takeToken x.s n x.core x.t.ctx) .park := by
  refine issue_eq h rfl ?_
  simp only [hr, ht, hs, hc, if_true, if_false]

/-- OWNACQ of a pending token parks for it. -/
theorem execOwnacq_pending {a : LaneOp} {rg n : Nat} {t : TokEntry} (h : Issues s x (ownNeeds a))
    (hr : ownCheck x (readRun x 0 a 2 x.low) = .ok rg) (ht : tokenOf x.s rg = some (n, t)) (hs : t.st = .pending) :
    execOwnacq a s = does x (parksFor x x.s.uid x.s.fresh (.own rg (readRun x 0 a 2 x.low))) .park := by
  refine issue_eq h rfl ?_
  simp only [hr, ht, hs, reduceCtorEq, if_true, if_false]
  rfl

/-- OWNACQ of a free region asks its home for the token. -/
theorem execOwnacq_free {a : LaneOp} {rg n : Nat} (h : Issues s x (ownNeeds a)) (hr : ownCheck x (readRun x 0 a 2 x.low) = .ok rg)
    (ht : tokenOf x.s rg = none) (hf : freeToken? x.s = some n) : execOwnacq a s = does x (parksFor x x.s.uid
      ((setToken x.s n { region := rg, st := .pending }).send (.tokenRequest rg)).fresh (.own rg (readRun x 0 a 2 x.low))) .park := by
  refine issue_eq h rfl ?_
  simp only [hr, ht, hf]
  rfl

/-- What OWNREL does at the token of its region once its release is performed (R428). -/
def releaseToken (x : Ix) (rg : Nat) : State × Next :=
  match tokenOf x.s rg with
  | some (n, t) =>
    if t.st = .held then
      if t.count ≤ 1 then (yieldToken (parkOn x x.s.fresh (.ownRel rg)) n .returning, .park)
      else (setToken x.s n { t with count := t.count - 1, ctxs := t.ctxs.erase x.t.ctx }, .park)
    else (x.s, .park)
  | none => (x.s, .park)

theorem execOwnrel_eq {a : LaneOp} {rg : Nat} (h : Issues s x (ownNeeds a)) (hr : ownCheck x (readRun x 0 a 2 x.low) = .ok rg)
    (hu : Unheld x (some 5) true) : execOwnrel a s = does x (releaseToken (afterRelease x (some 5) true) rg).1
      (releaseToken (afterRelease x (some 5) true) rg).2 := by
  refine issue_eq h rfl ?_
  simp only [hr, released_eq h.group hu]
  rfl

section
variable {y : Ix} {rg n : Nat} {t : TokEntry}

theorem releaseToken_lowers (ht : tokenOf y.s rg = some (n, t)) (hs : t.st = .held) (hc : 2 ≤ t.count) :
    releaseToken y rg = (setToken y.s n { t with count := t.count - 1, ctxs := t.ctxs.erase y.t.ctx }, .park) := by
  have hlast : ¬t.count ≤ 1 := by omega
  simp only [releaseToken, ht, hs, hlast, if_true, if_false]

theorem releaseToken_last (ht : tokenOf y.s rg = some (n, t)) (hs : t.st = .held) (hc : t.count ≤ 1) :
    releaseToken y rg = (yieldToken (parkOn y y.s.fresh (.ownRel rg)) n .returning, .park) := by
  simp only [releaseToken, ht, hs, hc, if_true]

theorem releaseToken_not_held (ht : tokenOf y.s rg = some (n, t)) (hs : t.st ≠ .held) : releaseToken y rg = (y.s, .park) := by
  simp only [releaseToken, ht, hs, if_false]

theorem releaseToken_none (ht : tokenOf y.s rg = none) : releaseToken y rg = (y.s, .park) := by
  simp only [releaseToken, ht]

end

end

/-- Settles O23: an invalidation and OWNREL act after their release, OWNACQ by the state of the token. -/
theorem invalidationsAndTokensComplete : Obligations.InvalidationsAndTokensComplete := by
  intro s x
  refine ⟨fun hu => ⟨fun h => ?all, fun d a h => ?range⟩, fun a rg h hr => ⟨⟨?held, ?pending, ?free⟩, fun hu => ⟨?lowers, ?last, ?other, ?none⟩⟩⟩
  case all => exact (exec_tlbinvAll s).trans (issue_eq h rfl (congrArg Except.ok (splitInval_eq h hu none 0 (2 ^ 56))))
  case range => exact (exec_tlbinv d a s).trans (issue_eq h rfl (congrArg Except.ok (splitInval_eq h hu _ _ _)))
  case held => exact fun n t ht hs hc => execOwnacq_held h hr ht hs hc
  case pending => exact fun n t ht hs => execOwnacq_pending h hr ht hs
  case free => exact fun n ht hf => execOwnacq_free h hr ht hf
  case lowers =>
    intro n t ht hs hc
    obtain ⟨-, -, hteam, -, -⟩ := afterRelease_same x (some 5) true
    refine (execOwnrel_eq h hr hu).trans ?_
    rw [releaseToken_lowers ht hs hc, hteam]
  case last =>
    intro n t ht hs hc
    refine (execOwnrel_eq h hr hu).trans ?_
    rw [releaseToken_last ht hs hc, parkOn_afterRelease, parksFor]
  case other =>
    intro n t ht hs
    refine (execOwnrel_eq h hr hu).trans ?_
    rw [releaseToken_not_held ht hs]
  case none =>
    intro ht
    refine (execOwnrel_eq h hr hu).trans ?_
    rw [releaseToken_none ht]

/-! ### Validity and matrix status -/

section
variable {s : State} {x : Ix} {a : Fin 64}

/-- VALID ORs its pair into the valid word of its launch after its release (R385). -/
theorem execValid_launch {l : Launch} (hl : (afterRelease x (some 4) true).s.launch? x.t.lch = some l) (hu : Unheld x (some 4) true)
    (h : Issues s x { onceNeeds with unis := [a.val, a.val + 1] }) : execValid a s =
      does x ((afterRelease x (some 4) true).s.setLaunch { l with v := l.v ||| BitVec.ofNat 64 (readGPair x.g a) }) .step := by
  obtain ⟨hg, -, hteam, -, -⟩ := afterRelease_same x (some 4) true
  refine issue_eq h rfl ?_
  simp only [released_eq h.group hu, hteam, hl, hg]

/-- VALID of a team without a launch makes its release alone. -/
theorem execValid_none (hl : (afterRelease x (some 4) true).s.launch? x.t.lch = none) (hu : Unheld x (some 4) true)
    (h : Issues s x { onceNeeds with unis := [a.val, a.val + 1] }) :
    execValid a s = does x (afterRelease x (some 4) true).s .step := by
  obtain ⟨-, -, hteam, -, -⟩ := afterRelease_same x (some 4) true
  refine issue_eq h rfl ?_
  simp only [released_eq h.group hu, hteam, hl]

end

/-- Settles O30: VALID acts after its release, the other two read what stands. -/
theorem validityAndMatrixStatusComplete : Obligations.ValidityAndMatrixStatusComplete := by
  intro s x a d clr
  refine ⟨fun l hl hu h => execValid_launch hl hu h, fun l hl h => ?rdvalid, fun hl hu h => execValid_none hl hu h, fun h => ?mstat⟩
  case rdvalid => exact (exec_rdvalid a s).trans (issue_eq h rfl (by rw [launchVal_of_launch hl]))
  case mstat => exact (exec_mstat clr d s).trans (issue_eq h rfl rfl)

/-! ### Privileges and roles -/

section
variable {s : State} {x : Ix} {n : Needs} {body : Ix → Except Trap (State × Next)}

/-- A trap that no walk has ended and none awaits is taken at once. -/
theorem traps_eq {t : Trap} (ha : t.cause ≠ cAWAITED) (he : endsWalk t.cause = false) : traps x t = .next (takeTrap x.s x.g x.e t) := by
  rw [traps, ownTrap, if_neg ha, he]
  rfl

/-- An instruction whose checks trap before they deliver a failure of memory takes that trap. -/
theorem issue_precheck_traps (hx : ixOf s = some x) (hv : askTrap x.sp = none) (hw : askWaits x.sp = false) (hk : keptOf x = none)
    (hb : n.blocked x = false) {c : Nat} (ha : c ≠ cAWAITED) (he : endsWalk c = false) (hc : preCheck n x = some (amTrap x c)) :
    issue n body s = traps x { cause := c, tfm := x.am } := by
  rw [issue_check hx hv hw hb hk hc, traps_eq ha he, ixOf_s s x hx]
  rfl

theorem preCheck_priv (hp : n.priv = true) (hg : x.g.priv = false) : preCheck n x = some (amTrap x cPRIV) := by
  simp [preCheck, hp, hg]

theorem preCheck_role (hp : n.priv = false) {m : Nat} (hm : n.major = some m) (hr : roleMay (roleOf x.lr x.g.gix) m = false) :
    preCheck n x = some (amTrap x cILLEGAL_ROLE) := by
  simp [preCheck, hp, hm, hr]

end

/-- An engine major of role FEED or of role MATRIX may be issued by no other role but ALL (Table 08.2). -/
theorem roleMay_command {r : Nat} (h : r = 2 ∨ r = 3) : roleMay r 0x3B = false ∧ roleMay r 0x3C = false := by
  rcases h with rfl | rfl <;> decide

theorem roleMay_matrix {r : Nat} (h : r = 1 ∨ r = 3) : roleMay r 0x3D = false := by
  rcases h with rfl | rfl <;> decide

/-- Settles O60: check 2 of Table 03.8 comes first, and check 3 of an engine's major next. -/
theorem privilegesAndRolesTrap : Obligations.PrivilegesAndRolesTrap := by
  intro s x hx hv hw hk
  have priv {n : Needs} {body : Ix → Except Trap (State × Next)} (hg : x.g.priv = false) (hp : n.priv = true) (hb : n.blocked x = false) :
      issue n body s = traps x { cause := cPRIV, tfm := x.am } :=
    issue_precheck_traps hx hv hw hk hb (by decide) (by decide) (preCheck_priv hp hg)
  have role {n : Needs} {body : Ix → Except Trap (State × Next)} {m : Nat} (hr : roleMay (roleOf x.lr x.g.gix) m = false)
      (hm : n.major = some m) (hp : n.priv = false) (hb : n.blocked x = false) :
      issue n body s = traps x { cause := cILLEGAL_ROLE, tfm := x.am } :=
    issue_precheck_traps hx hv hw hk hb (by decide) (by decide) (preCheck_role hp hm hr)
  refine ⟨fun hg sr d a wide => ⟨?segld, ?tlbinv, ?tlbinvAll, fun hs => ?wrsr⟩, fun hr hl hb sz d a => ?commands, fun hr hm u a b d clr => ?matrix⟩
  case segld => exact (exec_segld sr a s).trans (by unfold execSegld; exact priv hg rfl rfl)
  case tlbinv => exact (exec_tlbinv d a s).trans (priv hg rfl rfl)
  case tlbinvAll => exact (exec_tlbinvAll s).trans (priv hg rfl rfl)
  case wrsr => exact (exec_wrsr wide sr a s).trans (by unfold execWrsr; exact priv hg hs rfl)
  case commands =>
    obtain ⟨hcpy, hecmd⟩ := roleMay_command hr
    refine ⟨?gs, ?sg, ?gc, ?ss, ?louver, ?cpym, ?brun, ?shut⟩
    case gs => exact (exec_cpyGs sz d a s).trans (role hcpy rfl rfl hl)
    case sg => exact (exec_cpySg sz d a s).trans (role hcpy rfl rfl hl)
    case gc => exact (exec_cpyGc sz d a s).trans (role hcpy rfl rfl hl)
    case ss => exact (exec_cpySs sz d a s).trans (role hcpy rfl rfl hl)
    case louver => exact (exec_louver a s).trans (role hecmd rfl rfl hl)
    case cpym => exact (exec_cpym a s).trans (role hecmd rfl rfl hl)
    case brun => exact (exec_brun a s).trans (role hecmd rfl rfl hb)
    case shut => exact (exec_shut a s).trans (role hecmd rfl rfl hb)
  case matrix =>
    have hmx := roleMay_matrix hr
    refine ⟨?mma, ?mzero, ?mdrain, ?mstat⟩
    case mma => exact (exec_mma u a b s).trans (role hmx rfl rfl hm)
    case mzero => exact (exec_mzero u b s).trans (role hmx rfl rfl hm)
    case mdrain => exact (exec_mdrain u a b s).trans (role hmx rfl rfl hm)
    case mstat => exact (exec_mstat clr d s).trans (role hmx rfl rfl rfl)

end Sys2Proof.Machine
end

section
/-! PROOF. Loads, stores and atomics (06 R143 to R151, 11 R238 to R243): what an access answers at its first issue, after its release, and
at a later one, when the homes that it asked have answered. -/

namespace Sys2Proof.Machine

open Sys2Proof

/-! ### Loads -/

section
variable {s : State} {x : Ix} {f : AccForm} {w : Nat} {d a : LaneOp} {i : Instr}

/-- A load that reaches its places has its effect. -/
theorem loadOp_completes (h : Issues s x { srcs := [(a, baseWords f.sp)], dsts := [(d, w)] }) (hr : Reaches x (sideOf x f .load a)) :
    loadOp f w d a s = does x (loadEffect x f w d (sidePlaces x (sideOf x f .load a))).1
      (loadEffect x f w d (sidePlaces x (sideOf x f .load a))).2 := by
  refine issue_eq h rfl ?_
  simp only [hr.fine, hr.free, Bool.false_eq_true, if_false]

/-- A load whose check 5 fails has its trap. -/
theorem loadOp_traps (h : Issues s x { srcs := [(a, baseWords f.sp)], dsts := [(d, w)] }) {t : Trap}
    (hc : check5 x [sideOf x f .load a] = some t) : loadOp f w d a s = traps x t := by
  refine issue_trap_eq h rfl ?_
  simp only [hc]

/-- An instruction that is a load completes or traps as its form does. -/
theorem load_goes (hi : exec i s = loadOp f w d a s) :
    (Issues s x { srcs := [(a, baseWords f.sp)], dsts := [(d, w)] } → Reaches x (sideOf x f .load a) →
      exec i s = does x (loadEffect x f w d (sidePlaces x (sideOf x f .load a))).1 (loadEffect x f w d (sidePlaces x (sideOf x f .load a))).2)
    ∧ (Issues s x { srcs := [(a, baseWords f.sp)], dsts := [(d, w)] } →
      ∀ t, check5 x [sideOf x f .load a] = some t → exec i s = traps x t) :=
  ⟨fun h hr => hi.trans (loadOp_completes h hr), fun h _ hc => hi.trans (loadOp_traps h hc)⟩

end

/-- Settles O24: every load is the one operation, under the form of its space and width. -/
theorem loadsComplete : Obligations.LoadsComplete := by
  intro s x d a
  refine ⟨fun w off => ⟨load_goes ?ldg, load_goes ?lds, load_goes ?ldc, load_goes ?ldd, load_goes ?ldl⟩,
    fun sp => ⟨load_goes ?u8, load_goes ?s8, load_goes ?u16, load_goes ?s16⟩, fun wide acq sp sc => load_goes ?ldo⟩
  case ldg => cases w <;> exact exec_ldg _ d a off s
  case lds => cases w <;> exact exec_lds _ d a off s
  case ldc => cases w <;> exact exec_ldc _ d a off s
  case ldd => cases w <;> exact exec_ldd _ d a off s
  case ldl => cases w <;> exact exec_ldl _ d a off s
  case u8 => exact exec_ldx d a sp .u8 s
  case s8 => exact exec_ldx d a sp .s8 s
  case u16 => exact exec_ldx d a sp .u16 s
  case s16 => exact exec_ldx d a sp .s16 s
  case ldo => exact exec_ldo wide d a sp acq sc s

/-! ### What an instruction resolved at its issue -/

/-- An instruction that has resolved its places and operands has its effect without another check (Table 20.3). -/
theorem issue_kept {n : Needs} {body : Ix → Except Trap (State × Next)} {s : State} {x : Ix} {k : Kept} {r : State × Next}
    (hx : ixOf s = some x) (hv : askTrap x.sp = none) (hw : askWaits x.sp = false) (hb : n.blocked x = false) (hk : keptOf x = some k)
    (hr : body x = .ok r) : issue n body s = does x r.1 r.2 := by
  unfold issue
  rw [hx]
  simp only [hv, hw, hb, hk, hr, Option.isSome_some, Bool.or_self, Bool.false_eq_true, if_false, if_true, does]

/-- What an instruction resolves is the places that its lanes reach. -/
@[simp] theorem keptNow_all (x : Ix) (ls : List (Nat × List Place)) (b c : Nat → Nat) : (keptNow x ls b c).all = ls.flatMap (fun l => l.2) := rfl

@[simp] theorem keptNow_places (x : Ix) (ls : List (Nat × List Place)) (b c : Nat → Nat) : (keptNow x ls b c).places = ls := rfl

/-- An instruction without atomics sends no drain requests. -/
@[simp] theorem reachAll_none (s : State) (core : Nat) (ps : List Place) : reachAll s core (atomLines false ps) = s := rfl

/-! ### Stores -/

section
variable {s : State} {x : Ix} {f : AccForm} {w : Nat} {d a : LaneOp} {i : Instr}

/-- The needs of a store. -/
def storeNeeds (f : AccForm) (w : Nat) (d a : LaneOp) : Needs := { srcs := [(a, baseWords f.sp), (d, w)] }

/-- A store is a release at CLUSTER scope or wider. -/
def AccForm.rel (f : AccForm) : Bool := f.strong && decide (2 ≤ f.scope)

/-- The places of a store's lanes in order. -/
def storePlaces (x : Ix) (f : AccForm) (a : LaneOp) : List Place := (sidePlaces x (sideOf x f .store a)).flatMap (fun l => l.2)

/-- A release of a store that leaves a record at the home lines that it writes (R231, R236). -/
def storeLazy (x : Ix) (f : AccForm) (a : LaneOp) : Bool :=
  f.rel && (storePlaces x f a).all atHome && !fifthRecord x.s x.core ((storePlaces x f a).map (fun p => p.pa / 128))

/-- The issuing split after a store's release. -/
def storeReleased (x : Ix) (f : AccForm) (a : LaneOp) : Ix :=
  afterRelease x (f.relScope (sidePlaces x (sideOf x f .store a))) (f.rel && !storeLazy x f a)

/-- What a store resolves at its issue. -/
def storeKept (x : Ix) (f : AccForm) (w : Nat) (d a : LaneOp) : Kept :=
  keptNow (storeReleased x f a) (sidePlaces x (sideOf x f .store a)) (fun i => readRun (storeReleased x f a) 1 d w i) (fun _ => 0)

/-- A store at its first issue has its effect after its release. -/
theorem storeOp_completes (hk : keptOf x = none) (h : Issues s x (storeNeeds f w d a)) (hc : check5 x [sideOf x f .store a] = none)
    (hu : Unheld x (f.relScope (sidePlaces x (sideOf x f .store a))) (f.rel && !storeLazy x f a) ((storePlaces x f a).all Place.mirror))
    (hb : (storePlaces x f a).any (placeBusy (storeReleased x f a).s (storeReleased x f a).core) = false) :
    storeOp f w d a s = does x (storeEffect (storeReleased x f a) f (storeLazy x f a) (storeKept x f w d a) (storeReleased x f a).s).1
      (storeEffect (storeReleased x f a) f (storeLazy x f a) (storeKept x f w d a) (storeReleased x f a).s).2 := by
  have hcore : (storeReleased x f a).core = x.core := (afterRelease_same x _ _).2.2.2.1
  have hclear := cleared_after (past := f.past) (atom := false) (size := pieceLen f.size) (ps := storePlaces x f a) h.group hu
    (hcore ▸ hb) (fun l hl => nomatch hl) (storeEffect (storeReleased x f a) f (storeLazy x f a) (storeKept x f w d a))
  refine issue_eq h rfl ?_
  simp only [hk, hc]
  exact congrArg Except.ok ((released_eq h.group hu _).trans hclear)

/-- A store that homes have been asked for goes on with what it resolved. -/
theorem storeOp_resumes {k : Kept} (hk : keptOf x = some k) (hx : ixOf s = some x) (hv : askTrap x.sp = none) (hw : askWaits x.sp = false)
    (hu : Unheld x none false) (hb : k.all.any (placeBusy x.s x.core) = false) :
    storeOp f w d a s = does x (storeEffect x f false k x.s).1 (storeEffect x f false k x.s).2 := by
  refine issue_kept hx hv hw rfl hk ?_
  simp only [hk]
  exact congrArg Except.ok (cleared_eq (atom := false) (ixOf_group hx) hu.channels hu.loads hb (fun l hl => nomatch hl) _)

/-- An instruction that is a store completes at its first issue or at a later one, as its form does. -/
theorem store_goes (hi : exec i s = storeOp f w d a s) :
    (keptOf x = none → Issues s x (storeNeeds f w d a) → check5 x [sideOf x f .store a] = none →
      Unheld x (f.relScope (sidePlaces x (sideOf x f .store a))) (f.rel && !storeLazy x f a) ((storePlaces x f a).all Place.mirror) →
      (storePlaces x f a).any (placeBusy (storeReleased x f a).s (storeReleased x f a).core) = false →
      exec i s = does x (storeEffect (storeReleased x f a) f (storeLazy x f a) (storeKept x f w d a) (storeReleased x f a).s).1
        (storeEffect (storeReleased x f a) f (storeLazy x f a) (storeKept x f w d a) (storeReleased x f a).s).2)
    ∧ (∀ k, keptOf x = some k → ixOf s = some x → askTrap x.sp = none → askWaits x.sp = false → Unheld x none false →
      k.all.any (placeBusy x.s x.core) = false →
      exec i s = does x (storeEffect x f false k x.s).1 (storeEffect x f false k x.s).2) :=
  ⟨fun hk h hc hu hb => hi.trans (storeOp_completes hk h hc hu hb),
    fun _ hk hx hv hw hu hb => hi.trans (storeOp_resumes hk hx hv hw hu hb)⟩

end

/-- Settles O25: every store is the one operation, under the form of its space and width. -/
theorem storesComplete : Obligations.StoresComplete := by
  intro s x d a
  refine ⟨fun w off => ⟨store_goes ?stg, store_goes ?sts, store_goes ?stc, store_goes ?std, store_goes ?stl⟩,
    fun sp => ⟨store_goes ?byte, store_goes ?half⟩, fun wide rel sp sc => store_goes ?sto⟩
  case stg => cases w <;> exact exec_stg _ d a off s
  case sts => cases w <;> exact exec_sts _ d a off s
  case stc => cases w <;> exact exec_stc _ d a off s
  case std => cases w <;> exact exec_std _ d a off s
  case stl => cases w <;> exact exec_stl _ d a off s
  case byte => exact exec_stx d a sp false s
  case half => exact exec_stx d a sp true s
  case sto => exact exec_sto wide d a sp rel sc s

/-! ### Atomics -/

section
variable {s : State} {x : Ix} {op : Nat} {sp : Space} {d a b : LaneOp} {i : Instr}

/-- The side of an atomic's accesses. -/
def atomSide (x : Ix) (op : Nat) (sp : Space) (a : LaneOp) : Side :=
  sideOf x { sp := sp, size := atomBytes x.ty, ord := some (6, false) } (.atomic op x.ty) a

/-- The places of an atomic's lanes in order. -/
def atomPlaces (x : Ix) (op : Nat) (sp : Space) (a : LaneOp) : List Place := (sidePlaces x (atomSide x op sp a)).flatMap (fun l => l.2)

/-- The effective scope of an atomic is CLUSTER or wider. -/
def atomStrong (x : Ix) (sp : Space) : Bool := decide (2 ≤ effScope sp (mrSCOPE x.sp.mr))

/-- The atomics of some lane release. -/
def atomRel (x : Ix) (op : Nat) (sp : Space) (a : LaneOp) : Bool := ordRel x && !(sidePlaces x (atomSide x op sp a)).isEmpty

/-- A release of atomics that leaves a record at the home lines that they write (R236). -/
def atomLazy (x : Ix) (op : Nat) (sp : Space) (a : LaneOp) : Bool :=
  atomRel x op sp a && atomStrong x sp && !ordAcq x && (atomPlaces x op sp a).all atHome
    && !fifthRecord x.s x.core ((atomPlaces x op sp a).map (fun p => p.pa / 128))

/-- The scope of the release that atomics make. -/
def atomScope (x : Ix) (op : Nat) (sp : Space) (a : LaneOp) : Option Nat :=
  if atomRel x op sp a then some (effScope sp (mrSCOPE x.sp.mr)) else none

/-- The release of atomics drains the core. -/
def atomEager (x : Ix) (op : Nat) (sp : Space) (a : LaneOp) : Bool := atomRel x op sp a && atomStrong x sp && !atomLazy x op sp a

/-- The issuing split after its atomics' release. -/
def atomReleased (x : Ix) (op : Nat) (sp : Space) (a : LaneOp) : Ix := afterRelease x (atomScope x op sp a) (atomEager x op sp a)

/-- The state in which atomics are performed: the cores recorded at their home lines have been sent drain requests. -/
def atomReached (x : Ix) (op : Nat) (sp : Space) (a : LaneOp) : State :=
  reachAll (atomReleased x op sp a).s (atomReleased x op sp a).core (atomLines true (atomPlaces x op sp a))

/-- What atomics resolve at their issue. -/
def atomKept (x : Ix) (op : Nat) (sp : Space) (d a b : LaneOp) : Kept :=
  keptNow (atomReleased x op sp a) (sidePlaces x (atomSide x op sp a))
    (readRun (atomReleased x op sp a) 1 b (atomWords (atomReleased x op sp a)))
    (readRun (atomReleased x op sp a) 2 d (atomWords (atomReleased x op sp a)))

/-- The effect of atomics at their first issue. -/
def atomFirst (x : Ix) (op : Nat) (sp : Space) (d a b : LaneOp) : State × Next :=
  atomEffect (atomReleased x op sp a) op (atomLazy x op sp a) (ordAcq x && !(sidePlaces x (atomSide x op sp a)).isEmpty) (atomStrong x sp) d
    (atomKept x op sp d a b) (atomReached x op sp a)

/-- The effect of atomics whose homes have answered. -/
def atomAgain (x : Ix) (op : Nat) (sp : Space) (d : LaneOp) (k : Kept) : State × Next :=
  atomEffect x op false (ordAcq x && !k.places.isEmpty) (atomStrong x sp) d k (reachAll x.s x.core (atomLines true k.all))

/-- Atomics at their first issue have their effect after their release and the drain of the cores recorded at their lines. -/
theorem atomOp_completes (hk : keptOf x = none) (h : Issues s x (atomNeeds op sp d a b)) (hc : check5 x [atomSide x op sp a] = none)
    (hu : Unheld x (atomScope x op sp a) (atomEager x op sp a) ((atomPlaces x op sp a).all Place.mirror))
    (hb : (atomPlaces x op sp a).any (placeBusy (atomReleased x op sp a).s (atomReleased x op sp a).core) = false)
    (hr : ∀ l, l ∈ atomLines true (atomPlaces x op sp a) → reachLeft (atomReached x op sp a) (atomReleased x op sp a).core l = false) :
    atomOp op sp d a b s = does x (atomFirst x op sp d a b).1 (atomFirst x op sp d a b).2 := by
  obtain ⟨-, hsp, -, hcore, -⟩ := afterRelease_same x (atomScope x op sp a) (atomEager x op sp a)
  have hacq : ordAcq (atomReleased x op sp a) = ordAcq x := by rw [ordAcq, atomReleased, hsp, ordAcq]
  have hside : check5 x [sideOf x { sp := sp, size := atomBytes x.ty, ord := some (6, false) } (.atomic op x.ty) a] = none := hc
  have hclear := cleared_after (past := true) (atom := true) (size := 4) (ps := atomPlaces x op sp a) h.group hu
    (hcore ▸ hb) (hcore ▸ hr) (atomEffect (atomReleased x op sp a) op (atomLazy x op sp a)
      (ordAcq (atomReleased x op sp a) && !(sidePlaces x (atomSide x op sp a)).isEmpty) (atomStrong x sp) d (atomKept x op sp d a b))
  rw [hacq, ← hcore] at hclear
  refine issue_eq h rfl ?_
  simp only [hk, hside]
  refine congrArg Except.ok ((released_eq h.group hu _).trans ?_)
  refine Eq.trans ?_ hclear
  show cleared (atomReleased x op sp a) true true (atomPlaces x op sp a) 4 (atomEffect (atomReleased x op sp a) op (atomLazy x op sp a)
    (ordAcq (atomReleased x op sp a) && !(sidePlaces x (atomSide x op sp a)).isEmpty) (atomStrong x sp) d (atomKept x op sp d a b)) = _
  rw [hacq]
  rfl

/-- Atomics whose homes have answered go on with what they resolved. -/
theorem atomOp_resumes {k : Kept} (hk : keptOf x = some k) (hx : ixOf s = some x) (hv : askTrap x.sp = none) (hw : askWaits x.sp = false)
    (hu : Unheld x none false) (hb : k.all.any (placeBusy x.s x.core) = false)
    (hr : ∀ l, l ∈ atomLines true k.all → reachLeft (reachAll x.s x.core (atomLines true k.all)) x.core l = false) :
    atomOp op sp d a b s = does x (atomAgain x op sp d k).1 (atomAgain x op sp d k).2 := by
  refine issue_kept hx hv hw rfl hk ?_
  simp only [hk]
  exact congrArg Except.ok (cleared_eq (atom := true) (ixOf_group hx) hu.channels hu.loads hb hr _)

/-- An atomic at a place of scratch reads the old value, writes the new one, and delivers the old one (R242). -/
theorem atomLane_scr (x : Ix) (op ty : Nat) (past : Bool) (q : AtomSt) (lane co o note u v : Nat)
    (h : badScr q.s co o (atomBytes ty) = false) : atomLane x op ty past q lane [.scr co o note] u v =
      { q with
        s := q.s.setScr co o (bytesOf (atomBytes ty) (atomNew op ty (ofBytes (q.s.scrBytes co o (atomBytes ty))) u v))
        vals := q.vals ++ [(lane, oldWords ty (ofBytes (q.s.scrBytes co o (atomBytes ty))))] } := by
  simp only [atomLane, firstPlace, List.headD_cons, atomHere, h, Bool.false_eq_true, if_false]

end

/-- The forty atomics with their operations and spaces (R240). -/
def atomForms (d a b : LaneOp) : List (Nat × Space × Instr) := [
  (0, .g, .atomgAdd d a b), (1, .g, .atomgMin d a b), (2, .g, .atomgMax d a b), (3, .g, .atomgAnd d a b), (4, .g, .atomgOr d a b),
  (5, .g, .atomgXor d a b), (6, .g, .atomgExch d a b), (7, .g, .atomgCas d a b), (8, .g, .atomgInc d a b), (9, .g, .atomgDec d a b),
  (0, .s, .atomsAdd d a b), (1, .s, .atomsMin d a b), (2, .s, .atomsMax d a b), (3, .s, .atomsAnd d a b), (4, .s, .atomsOr d a b),
  (5, .s, .atomsXor d a b), (6, .s, .atomsExch d a b), (7, .s, .atomsCas d a b), (8, .s, .atomsInc d a b), (9, .s, .atomsDec d a b),
  (0, .c, .atomcAdd d a b), (1, .c, .atomcMin d a b), (2, .c, .atomcMax d a b), (3, .c, .atomcAnd d a b), (4, .c, .atomcOr d a b),
  (5, .c, .atomcXor d a b), (6, .c, .atomcExch d a b), (7, .c, .atomcCas d a b), (8, .c, .atomcInc d a b), (9, .c, .atomcDec d a b),
  (0, .d, .atomdAdd d a b), (1, .d, .atomdMin d a b), (2, .d, .atomdMax d a b), (3, .d, .atomdAnd d a b), (4, .d, .atomdOr d a b),
  (5, .d, .atomdXor d a b), (6, .d, .atomdExch d a b), (7, .d, .atomdCas d a b), (8, .d, .atomdInc d a b), (9, .d, .atomdDec d a b)]

/-- Every atomic is the one operation in its space. -/
theorem exec_atomForms {d a b : LaneOp} (s : State) : ∀ e ∈ atomForms d a b, exec e.2.2 s = atomOp e.1 e.2.1 d a b s := by
  simp only [atomForms, List.forall_mem_cons]
  refine ⟨rfl, rfl, rfl, rfl, rfl, rfl, rfl, rfl, rfl, rfl, ?_⟩
  refine ⟨rfl, rfl, rfl, rfl, rfl, rfl, rfl, rfl, rfl, rfl, ?_⟩
  refine ⟨rfl, rfl, rfl, rfl, rfl, rfl, rfl, rfl, rfl, rfl, ?_⟩
  exact ⟨rfl, rfl, rfl, rfl, rfl, rfl, rfl, rfl, rfl, rfl, fun e he => nomatch he⟩

/-- Settles O26: every atomic is the one operation, and its two issues have the two effects. -/
theorem atomicsComplete : Obligations.AtomicsComplete := by
  intro s x d a b
  refine ⟨fun op sp i hi => ?_, fun op ty past q lane co o note u v h => atomLane_scr x op ty past q lane co o note u v h⟩
  have he : exec i s = atomOp op sp d a b s := exec_atomForms s (op, sp, i) hi
  exact ⟨fun hk h hc hu hb hr => he.trans (atomOp_completes hk h hc hu hb hr),
    fun k hk hx hv hw hu hb hr => he.trans (atomOp_resumes hk hx hv hw hu hb hr)⟩

end Sys2Proof.Machine
end

section
/-! PROOF. Fences (11 R236, R245), semaphores (12 R252 to R258), barriers and set phases (08 R198 to R200): what each answers once its
release, or the drain that it makes, is performed. -/

namespace Sys2Proof.Machine

open Sys2Proof

/-- A release without a drain leaves the issuing split as it is. -/
@[simp] theorem afterRelease_without_drain (x : Ix) (scope : Option Nat) : afterRelease x scope false = x := by
  unfold afterRelease
  split <;> rfl

/-- A release that nothing holds back and that drains nothing is the instruction's own effect. -/
theorem released_without_drain {x : Ix} {scope : Option Nat} (hg : x.s.group? x.g.uid = some x.g) (h : Unheld x scope false)
    (k : Ix → State × Next) : released x scope false k = k x :=
  (released_eq hg h k).trans (by rw [afterRelease_without_drain])

/-! ### Fences -/

section
variable {s : State} {x : Ix} {acq : Bool} {sc : Scope}

/-- The scope of a fence (R230, R244). -/
def fenceScope (sc : Scope) : Nat := effScope .g (scopeCode sc)

/-- The state in which a fence looks for what it must find performed: after the drain of its core at CLUSTER scope or wider. -/
def fenceState (x : Ix) (sc : Scope) : State := if decide (2 ≤ fenceScope sc) then drained x else x.s

/-- What a fence must find performed. -/
def fenceAwaits (x : Ix) (sc : Scope) : List Nat := outstanding (fenceState x sc) x.g.uid x.core (Nat.max 2 (fenceScope sc))

/-- What a fence does once its loads and its drain are performed (R245). -/
def fenceEnd (x : Ix) (acq : Bool) (sc : Scope) : State × Next :=
  let wide := decide (2 ≤ fenceScope sc)
  if (fenceAwaits x sc).isEmpty then
    ((if acq && wide then acquireCore (fenceState x sc) x.core else fenceState x sc).modGroup x.g.uid (fun g => if acq then g.acquired else g), .park)
  else (fencePend x (fenceState x sc) (fenceAwaits x sc) (acq && wide) acq, .park)

/-- A fence that no channel holds back, of a group with no load to perform, does its end. -/
theorem fenceOp_eq (h : Issues s x { guarded := false }) (hc : NoRunOn x.s) (hl : anyLate x.g = false) :
    fenceOp acq sc s = does x (fenceEnd x acq sc).1 (fenceEnd x acq sc).2 := by
  refine issue_eq h rfl ?_
  simp only [settle_eq h.group hl]
  unfold fenceEnd fenceAwaits fenceState fenceScope drained
  cases decide (2 ≤ effScope .g (scopeCode sc)) with
  | false => simp [h.group, hl]
  | true =>
    obtain ⟨hrows, hsame⟩ := drainServed_spec hc x.core
    have hg : (drainServed x.s x.core).1.group? x.g.uid = some x.g := (group?_of hsame _).trans h.group
    simp [hrows, hg, hl]

/-- A fence with nothing to await acquires where it does, and parks. -/
theorem fenceOp_done (h : Issues s x { guarded := false }) (hc : NoRunOn x.s) (hl : anyLate x.g = false) (hi : fenceAwaits x sc = []) :
    fenceOp acq sc s = does x ((if acq && decide (2 ≤ fenceScope sc) then acquireCore (fenceState x sc) x.core else fenceState x sc).modGroup
      x.g.uid (fun g => if acq then g.acquired else g)) .park := by
  have hend : fenceEnd x acq sc = (_, Next.park) := if_pos (by rw [hi]; rfl)
  rw [fenceOp_eq h hc hl, hend]

/-- Any other parks until what it awaits is performed. -/
theorem fenceOp_waits (h : Issues s x { guarded := false }) (hc : NoRunOn x.s) (hl : anyLate x.g = false) (hi : fenceAwaits x sc ≠ []) :
    fenceOp acq sc s = does x (fencePend x (fenceState x sc) (fenceAwaits x sc) (acq && decide (2 ≤ fenceScope sc)) acq) .park := by
  have hend : fenceEnd x acq sc = (_, Next.park) := if_neg (by simpa using hi)
  rw [fenceOp_eq h hc hl, hend]

end

/-! ### Semaphores -/

section
variable {s : State} {x : Ix} {k n : Nat} {cont : Ix → Word}

/-- A wait takes its count where no split waits before it and the value is enough (R256, R257). -/
theorem semWait_takes (h : Issues s x onceNeeds) (hw : (x.t.sem k).waiters = []) (hn : n ≤ (x.t.sem k).val) :
    semWait k n cont s = does x ((x.s.setTeam (x.t.setSem k { x.t.sem k with val := (x.t.sem k).val - n })).setGroup x.g.acquired)
      (.jump (cont x)) := by
  refine issue_eq h rfl (if_pos ?_)
  simp [hw, hn]

/-- Any other split waits at the end of the queue. -/
theorem semWait_waits (h : Issues s x onceNeeds) (hw : (x.t.sem k).waiters ≠ [] ∨ (x.t.sem k).val < n) :
    semWait k n cont s = does x ((x.s.fresh.setTeam (x.t.setSem k { x.t.sem k with waiters := (x.t.sem k).waiters ++ [(x.s.uid, n)] })).setGroup
      (waitAt x x.g x.s.uid (.sem k) (cont x) x.sw)) .stay := by
  refine issue_eq h rfl (if_neg ?_)
  rcases hw with hw | hn
  · simp [hw]
  · simp [Nat.not_le.mpr hn]

end

/-- SIG increments its semaphore once its release is performed (R255). -/
theorem execSig_of_issues {s : State} {x : Ix} {k : Fin 64} {n : BitVec 14} (h : Issues s x onceNeeds) (hu : Unheld x (some 1) false) :
    execSig k n s = does x (semIncr x.s x.t.uid k.val n.toNat) .step :=
  issue_eq h rfl (congrArg Except.ok (released_without_drain h.group hu _))

/-- Settles O27: fences by what they await, SIG after its release, waits by the queue and the value of their semaphore. -/
theorem fencesAndSemaphoresComplete : Obligations.FencesAndSemaphoresComplete := by
  intro s x
  refine ⟨fun sc h hc hl => ⟨?rel, ?acq, ?full⟩,
    fun k n h => ⟨fun hu => ?sig, fun hw hn => ?swait, fun hw hn => ?yield, fun hw => ?swaits, fun hw => ?yields⟩, fun d k clr h => ?spoll⟩
  case rel => exact ⟨fun hi => fenceOp_done (acq := false) h hc hl hi, fun hi => fenceOp_waits (acq := false) h hc hl hi⟩
  case acq => exact ⟨fun hi => fenceOp_done (acq := true) h hc hl hi, fun hi => fenceOp_waits (acq := true) h hc hl hi⟩
  case full => exact ⟨fun hi => fenceOp_done (acq := true) h hc hl hi, fun hi => fenceOp_waits (acq := true) h hc hl hi⟩
  case sig => exact (exec_sig k n s).trans (execSig_of_issues h hu)
  case swait => exact (exec_swait k n s).trans (semWait_takes h hw hn)
  case yield => exact (exec_yield k n s).trans (semWait_takes h hw hn)
  case swaits => exact (exec_swait k n s).trans (semWait_waits h hw)
  case yields => exact (exec_yield k n s).trans (semWait_waits h hw)
  case spoll => exact (exec_spoll d k clr s).trans (issue_eq h rfl rfl)

/-! ### Barriers and phases -/

section
variable {s : State} {x : Ix} {slot n : Nat} {l : Launch} {q : SetSt}

/-- The set of a slot is one of the sets of the launch of the team. -/
theorem slotSet_fields (h : slotSet x slot = some (l, n, q)) : x.s.launch? x.t.lch = some l ∧ l.sets[n]? = some q := by
  unfold slotSet at h
  cases hl : x.s.launch? x.t.lch with
  | none => simp [hl] at h
  | some l' =>
    cases hk : setInSlot l' x.t.tix slot with
    | none => simp [hl, hk] at h
    | some k =>
      simp only [hl, hk, Option.map_eq_some_iff, Prod.mk.injEq] at h
      obtain ⟨q', hq, rfl, rfl, rfl⟩ := h
      exact ⟨rfl, hq⟩

/-- A launch is found under its identifier after it is replaced. -/
theorem launch?_setLaunch {m : Launch} {u : Nat} (hl : s.launch? u = some l) (hm : m.lch = l.lch) : (s.setLaunch m).launch? u = some m := by
  have hu : l.lch = u := by simpa using List.find?_some hl
  unfold State.setLaunch State.launch?
  rw [find?_map_of_fix (fun a => ?_), show List.find? _ s.launches = some l from hl]
  · exact congrArg some (if_pos hm.symm)
  · split
    · next h => rw [h]
    · rfl

/-- The core of a set's arrival is recorded at the set. -/
theorem recordSet_eq {lch core : Nat} (hl : s.launch? lch = some l) (hq : l.sets[n]? = some q) :
    recordSet s lch n core = s.setLaunch (setSet l n (q.record core (s.core core).epoch)) := by
  simp only [recordSet, hl, hq]

end

section
variable {s : State} {x : Ix} {kd : Fin 8} {slot : Fin 4} {n : Nat} {l : Launch} {q : SetSt}

/-- BART waits and tests its barrier (R198). -/
theorem execBart_of_issues (h : Issues s x { onceNeeds with bad := barrierBad }) (hc : barrierClash x none = false) (hu : Unheld x (some 1) false) :
    execBart s = does x (testBart (x.s.fresh.setGroup (waitSplit x x.g x.s.uid .bart)) x.t.uid) .stay := by
  refine issue_eq h rfl ?_
  simp only [hc, released_without_drain h.group hu, Bool.false_eq_true, if_false]

/-- BARS of a broken set drains its core and writes kd false (R389). -/
theorem execBars_broken (h : Issues s x { onceNeeds with bad := barsBad slot.val }) (hc : barrierClash x (some slot.val) = false)
    (hs : slotSet x slot.val = some (l, n, q)) (hb : q.broken = true) (hu : Unheld x (some 4) q.broken) :
    execBars kd slot s = does x ((drained x).setGroup (x.g.setPred kd.val x.act 0)) .step := by
  rw [hb] at hu
  refine issue_eq h rfl ?_
  simp only [hc, hs, hb, released_eq h.group hu, Bool.false_eq_true, if_false, if_true]
  rfl

/-- BARS of a sound set records its core, waits and tests the barrier (R199). -/
theorem execBars_sound (h : Issues s x { onceNeeds with bad := barsBad slot.val }) (hc : barrierClash x (some slot.val) = false)
    (hs : slotSet x slot.val = some (l, n, q)) (hb : q.broken = false) (hu : Unheld x (some 4) q.broken) :
    execBars kd slot s = does x (testBars (((x.s.setLaunch (setSet l n (q.record x.core (x.s.core x.core).epoch))).fresh).setGroup
      (waitSplit x x.g x.s.uid (.bars slot.val kd.val x.act))) (setSet l n (q.record x.core (x.s.core x.core).epoch)) n q) .stay := by
  obtain ⟨hl, hq⟩ := slotSet_fields hs
  rw [hb] at hu
  refine issue_eq h rfl ?_
  simp only [hc, hs, hb, released_without_drain h.group hu, Bool.false_eq_true, if_false]
  have hlaunch : ((x.s.setLaunch (setSet l n (q.record x.core (x.s.core x.core).epoch))).fresh.setGroup
      (waitSplit x x.g x.s.uid (.bars slot.val kd.val x.act))).launch? x.t.lch = some (setSet l n (q.record x.core (x.s.core x.core).epoch)) :=
    launch?_setLaunch hl rfl
  rw [recordSet_eq hl hq]
  exact congrArg (fun o : Option Launch => Except.ok ((match o with | some l => testBars _ l n q | none => _, Next.stay) : State × Next)) hlaunch

/-- ARR counts an arrival and tests the phase (R200). -/
theorem execArr_of_issues {d : Fin 64} (h : Issues s x { onceNeeds with bad := fun x => illegalIf (slotSet x slot.val).isNone })
    (hs : slotSet x slot.val = some (l, n, q)) (hu : Unheld x (some 4) false) :
    execArr d slot s = does x ((x.s.setLaunch (setSet l n (testPhase l
      { q.record x.core (x.s.core x.core).epoch with arrivals := q.arrivals + 1 }))).setGroup (x.g.setUreg d.val q.phase)) .step := by
  refine issue_eq h rfl ?_
  simp only [hs, released_without_drain h.group hu]
  rfl

/-- How far the phase of a set has moved past an operand (R200). -/
def phasePast (x : Ix) (a : UniOp) (q : SetSt) : Nat := (q.phase - readUni1 x a).toNat

/-- ATRY of a phase that has moved on drains the recorded cores and acquires, or is passed over while channels hold that drain back. -/
theorem execAtry_past {a : UniOp} (h : Issues s x { onceNeeds with unis := uniNums false a, bad := fun x => illegalIf (slotSet x slot.val).isNone })
    (hs : slotSet x slot.val = some (l, n, q)) (h1 : 1 ≤ phasePast x a q) (h2 : phasePast x a q ≤ 2 ^ 31) :
    execAtry kd a slot s = if setDrained (drainSet x.s l.lch n) l.lch n then
        does x ((acquireCore (drainSet x.s l.lch n) x.core).modGroup x.g.uid (fun g => g.setPred kd.val x.act (BitVec.allOnes 32))) .step
      else does x (drainSet x.s l.lch n) .again := by
  have hc : (decide (1 ≤ (q.phase - readUni1 x a).toNat) && decide ((q.phase - readUni1 x a).toNat ≤ 2 ^ 31)) = true := by
    rw [← Bool.decide_and]
    exact decide_eq_true ⟨h1, h2⟩
  cases hd : setDrained (drainSet x.s l.lch n) l.lch n with
  | true =>
    refine issue_eq h rfl ?_
    simp only [hs, hc, hd, Bool.true_and, Bool.not_true, Bool.false_eq_true, if_false, if_true]
  | false =>
    refine issue_eq h rfl ?_
    simp only [hs, hc, hd, Bool.true_and, Bool.not_false, if_true]

/-- ATRY of a phase that has not writes kd false. -/
theorem execAtry_not_past {a : UniOp}
    (h : Issues s x { onceNeeds with unis := uniNums false a, bad := fun x => illegalIf (slotSet x slot.val).isNone })
    (hs : slotSet x slot.val = some (l, n, q)) (hn : ¬(1 ≤ phasePast x a q ∧ phasePast x a q ≤ 2 ^ 31)) :
    execAtry kd a slot s = does x (x.s.modGroup x.g.uid (fun g => g.setPred kd.val x.act 0)) .step := by
  unfold phasePast at hn
  have hc : (decide (1 ≤ (q.phase - readUni1 x a).toNat) && decide ((q.phase - readUni1 x a).toNat ≤ 2 ^ 31)) = false := by
    rw [← Bool.decide_and]
    exact decide_eq_false hn
  refine issue_eq h rfl ?_
  simp only [hs, hc, Bool.false_and, Bool.false_eq_true, if_false]

end

/-- Settles O28: barriers after their release, a phase by its distance from the operand. -/
theorem barriersAndPhasesComplete : Obligations.BarriersAndPhasesComplete := by
  intro s x
  refine ⟨fun h hc hu => execBart_of_issues h hc hu,
    fun kd slot l n q h hc hs hu => ⟨fun hb => execBars_broken h hc hs hb hu, fun hb => execBars_sound h hc hs hb hu⟩,
    fun d slot l n q h hs hu => execArr_of_issues h hs hu,
    fun kd a slot l n q h hs => ⟨fun hm => ⟨fun hd => ?drained, fun hd => ?held⟩, fun hm => execAtry_not_past h hs hm⟩⟩
  case drained => exact (execAtry_past h hs hm.1 hm.2).trans (if_pos hd)
  case held => exact (execAtry_past h hs hm.1 hm.2).trans (if_neg (by simpa using hd))

end Sys2Proof.Machine
end

section
/-! PROOF. Work and launch queues (08 R201 to R203): POP by the state of its ring slot and its queue, the two forms of ENQ after their
release. -/

namespace Sys2Proof.Machine

open Sys2Proof

/-! ### POP -/

section
variable {s : State} {x : Ix} {d a : Fin 64}

/-- The needs of POP (R202). -/
def popNeeds (a : Fin 64) : Needs :=
  { onceNeeds with
    unis := [a.val, a.val + 1]
    bad := fun x => illegalIf (x.g.inHandler || decide (64 ≤ (queuePair x a).2) || !(queueOf x.cx false (queuePair x a).2).ok) }

/-- The queue that a POP names. -/
def popQueue (x : Ix) (a : Fin 64) : Queue := queueOf x.cx false (queuePair x a).2

/-- The translation of the ring slot that a POP takes. -/
def popXlate (x : Ix) (a : Fin 64) : Except Nat Xl := ringXlate x.s x.t.ctx false (popQueue x a) (popQueue x a).ci .load

/-- A POP whose walk awaits an entry is passed over, and asks for it. -/
theorem execPop_walks (h : Issues s x (popNeeds a)) (hc : scratchCheck x (queuePair x a).1 64 false = none)
    (hx : popXlate x a = .error cAWAITED) : execPop d a s =
      does x (askEntry x.s frontEnd x.t.ctx (ringVa (popQueue x a) false (popQueue x a).ci)) .again := by
  unfold popXlate popQueue at hx
  refine issue_eq h rfl ?_
  simp only [hc, hx, if_true]
  rfl

/-- A POP whose ring slot does not translate traps. -/
theorem execPop_traps (h : Issues s x (popNeeds a)) (hc : scratchCheck x (queuePair x a).1 64 false = none) {c : Nat}
    (hx : popXlate x a = .error c) (hne : c ≠ cAWAITED) : execPop d a s =
      traps x { cause := c, tfm := x.am, tva := ringVa (popQueue x a) false (popQueue x a).ci % 2 ^ 56 } := by
  unfold popXlate popQueue at hx
  refine issue_trap_eq h rfl ?_
  simp only [hc, hx, if_neg hne]
  rfl

/-- A POP of an empty queue waits in order (R202). -/
theorem execPop_empty (h : Issues s x (popNeeds a)) (hc : scratchCheck x (queuePair x a).1 64 false = none) {y : Xl}
    (hx : popXlate x a = .ok y) (he : (popQueue x a).empty = true) : execPop d a s =
      does x ((x.s.fresh.setCtx x.t.ctx { x.cx with pops := x.cx.pops ++ [((queuePair x a).2, x.s.uid)] }).setGroup
        (waitSplit x x.g x.s.uid (.pop (queuePair x a).2 (queuePair x a).1 d.val))) .stay := by
  unfold popXlate popQueue at hx
  unfold popQueue at he
  refine issue_eq h rfl ?_
  simp only [hc, hx, he, if_true]

/-- The line of a POP's ring slot. -/
def popLine (x : Ix) (a : Fin 64) (y : Xl) : Except State State :=
  lineReady x.s (.pop x.t.ctx (queuePair x a).2) y.pa (ringVa (popQueue x a) false (popQueue x a).ci)

/-- A POP whose line is awaited is passed over. -/
theorem execPop_awaits (h : Issues s x (popNeeds a)) (hc : scratchCheck x (queuePair x a).1 64 false = none) {y : Xl}
    (hx : popXlate x a = .ok y) (he : (popQueue x a).empty = false) {s1 : State} (hl : popLine x a y = .error s1) :
    execPop d a s = does x s1 .again := by
  unfold popXlate popQueue at hx
  unfold popQueue at he
  unfold popLine popQueue at hl
  refine issue_eq h rfl ?_
  simp only [hc, hx, he, hl, Bool.false_eq_true, if_false]

/-- A POP of a record with a word in error traps (R371). -/
theorem execPop_bad (h : Issues s x (popNeeds a)) (hc : scratchCheck x (queuePair x a).1 64 false = none) {y : Xl}
    (hx : popXlate x a = .ok y) (he : (popQueue x a).empty = false) {s1 : State} (hl : popLine x a y = .ok s1)
    (hb : frontBad s1 (.pop x.t.ctx (queuePair x a).2) y.pa 64 = true) : execPop d a s =
      traps x { cause := cMEMORY_UNCORRECTABLE, tfm := x.am, tva := ringVa (popQueue x a) false (popQueue x a).ci % 2 ^ 56 } := by
  unfold popXlate popQueue at hx
  unfold popQueue at he
  unfold popLine popQueue at hl
  refine issue_trap_eq h rfl ?_
  simp only [hc, hx, he, hl, hb, Bool.false_eq_true, if_false, if_true]
  rfl

/-- A POP takes its record and serves the waiters (R202). -/
theorem execPop_takes (h : Issues s x (popNeeds a)) (hc : scratchCheck x (queuePair x a).1 64 false = none) {y : Xl}
    (hx : popXlate x a = .ok y) (he : (popQueue x a).empty = false) {s1 : State} (hl : popLine x a y = .ok s1)
    (hb : frontBad s1 (.pop x.t.ctx (queuePair x a).2) y.pa 64 = false) : execPop d a s =
      does x (serveAll (popTake s1 x.t.ctx (queuePair x a).2 x.g (queuePair x a).1 d.val y.pa) x.t.ctx false (queuePair x a).2) .step := by
  unfold popXlate popQueue at hx
  unfold popQueue at he
  unfold popLine popQueue at hl
  refine issue_eq h rfl ?_
  simp only [hc, hx, he, hl, hb, Bool.false_eq_true, if_false]

end

/-! ### ENQ -/

section
variable {s : State} {x : Ix} {a : Fin 64} {launch : Bool} {n : Nat} {y : Xl}

/-- The record that an ENQ appends, as the release leaves scratch (R203). -/
def enqBytes (x : Ix) (a : Fin 64) (launch : Bool) : List Byte :=
  (afterRelease x (some 4) true).s.scrBytes x.core (x.t.ssBase + (queuePair x a).1) (recBytes launch)

/-- The state after an ENQ has appended its record and served the waiters. -/
def enqPut (x : Ix) (a : Fin 64) (launch : Bool) (n : Nat) (y : Xl) : State :=
  let s1 := (afterRelease x (some 4) true).s
  serveAll (appendRec s1 x.t.ctx launch n y.pa (enqBytes x a launch) (fromClass s1 x.g)) x.t.ctx launch n

/-- The needs of an ENQ (R203). -/
def enqNeeds (a : Fin 64) (handlerBad : Bool) : Needs :=
  { onceNeeds with unis := [a.val, a.val + 1], bad := fun x => illegalIf ((handlerBad && x.g.inHandler) || (enqSel x a).isNone) }

/-- What an ENQ finds in order: its queue, its record's place in scratch, and the ring's slot (R203). -/
structure EnqReady (x : Ix) (a : Fin 64) (launch : Bool) (n : Nat) (y : Xl) : Prop where
  selects : enqSel x a = some (launch, n)
  record : scratchCheck x (queuePair x a).1 (recBytes launch) true = none
  slot : ringXlate x.s x.t.ctx launch (queueOf x.cx launch n) (queueOf x.cx launch n).pi .store = .ok y
  unheld : Unheld x (some 4) true

/-- A channel that no run has serves a slot of the ring at once. -/
theorem enq_served (hu : Unheld x (some 4) true) (y : Xl) : (if regionOf y.pa == .tier1 then serveRow (afterRelease x (some 4) true).s y.pa
    else some (afterRelease x (some 4) true).s) = some (afterRelease x (some 4) true).s := by
  rw [serveRow_some (NoRunOn.of hu.channels (afterRelease_sameActors hu.channels (some 4) true)), ite_self]

/-- An ENQ to a queue with room appends its record after its release. -/
theorem enqOp_appends {hb : Bool} {full : Ix → State → Bool → Nat → List Byte → State × Next} {done : Ix → State → State}
    (h : Issues s x (enqNeeds a hb)) (hr : EnqReady x a launch n y) (hf : (queueOf x.cx launch n).full = false) :
    enqOp a hb full done s = does x (done (afterRelease x (some 4) true) (enqPut x a launch n y)) .step := by
  refine issue_eq h rfl ?_
  simp only [hr.selects, hr.record, hr.slot, released_eq h.group hr.unheld, hf, enq_served hr.unheld, Bool.false_eq_true, if_false]
  rfl

/-- An ENQ to a full queue does what its form does there. -/
theorem enqOp_full {hb : Bool} {full : Ix → State → Bool → Nat → List Byte → State × Next} {done : Ix → State → State}
    (h : Issues s x (enqNeeds a hb)) (hr : EnqReady x a launch n y) (hf : (queueOf x.cx launch n).full = true) :
    enqOp a hb full done s =
      does x (full (afterRelease x (some 4) true) (afterRelease x (some 4) true).s launch n (enqBytes x a launch)).1
        (full (afterRelease x (some 4) true) (afterRelease x (some 4) true).s launch n (enqBytes x a launch)).2 := by
  refine issue_eq h rfl ?_
  simp only [hr.selects, hr.record, hr.slot, released_eq h.group hr.unheld, hf, if_true]
  rfl

end

/-- Settles O29: POP by its ring slot, its queue and its line, ENQ and ENQ.W by the room of their queue. -/
theorem queueInstructionsComplete : Obligations.QueueInstructionsComplete := by
  intro s x d a kd
  refine ⟨fun h hc => ⟨fun c hx => ⟨fun e => ?walks, fun hne => execPop_traps h hc hx hne⟩, fun he ⟨y, hx⟩ => ?empty, fun he y hx => ?record⟩,
    fun launch n y hsel hu hrec hslot => ⟨fun h => ⟨fun hf => ?enq, fun hf => ?enqFull⟩, fun h => ⟨fun hf => ?enqW, fun hf => ?enqWFull⟩⟩⟩
  case walks => subst e; exact execPop_walks h hc hx
  case empty => exact execPop_empty h hc hx (beq_iff_eq.mpr he)
  case record =>
    have hne : (popQueue x a).empty = false := beq_eq_false_iff_ne.mpr he
    exact ⟨fun s1 hl => execPop_awaits h hc hx hne hl,
      fun s1 hl => ⟨fun hb => execPop_bad h hc hx hne hl hb, fun hb => execPop_takes h hc hx hne hl hb⟩⟩
  case enq => exact (exec_enq kd a s).trans (enqOp_appends (done := enqPred kd.val true) h ⟨hsel, hrec, hslot, hu⟩ hf)
  case enqFull => exact (exec_enq kd a s).trans (enqOp_full h ⟨hsel, hrec, hslot, hu⟩ hf)
  case enqW => exact (exec_enqW a s).trans (enqOp_appends (done := fun _ s => s) h ⟨hsel, hrec, hslot, hu⟩ hf)
  case enqWFull => exact (exec_enqW a s).trans (enqOp_full h ⟨hsel, hrec, hslot, hu⟩ hf)

end Sys2Proof.Machine
end

section
/-! PROOF. Bank commands (14 R332 to R339): what a command of a running run does to its registers, its row and its columns, and when it
ends the run (Table 14.12). -/

namespace Sys2Proof.Machine

open Sys2Proof

/-! ### Commands without a column -/

section
variable {s : State} {r : Run}

/-- A command on the registers of its run goes on at the next command. -/
theorem bankReg_goes (h : Running s r) (f : Run → Run) : bankReg f s = bankGoes r s (f r) (r.upc + 1) := bankCmd_goes h rfl

/-- LOOP counts down and goes to its target unless its counter has reached 0 (R334). -/
theorem execBankLoop_goes (h : Running s r) (b : Fin 8) (tgt : Fin 64) : execBankLoop b tgt s =
    (let v := (r.b.getD b.val 0 + 65535) % 65536
     bankGoes r s { r with b := setAt r.b b.val v } (if v = 0 then r.upc + 1 else tgt.val)) :=
  (bankCmd_goes h rfl).trans (by simp only [ite_not])

/-- QOUT without an open row writes its accumulators to die scratch (R338). -/
theorem execBankQout_goes (h : Running s r) (ho : r.openSlot = none) (q n : Fin 8) : execBankQout q n s = bankGoes r
    ((((List.range r.banks.length).zip r.banks).flatMap (fun p => (List.range (n.val + 1)).map (fun j =>
      (r.rdout + (p.1 * 8 + q.val + j) * 64, (List.range 16).flatMap (fun l => bytesOf 4 (r.q p.2 (q.val + j) l)))))).foldl
        (fun s o => s.setDscr r.die o.1 o.2) s) r (r.upc + 1) :=
  bankCmd_goes h (if_neg (by simp [ho]))

/-- OPEN without an open row opens its slot unless the governor delays it (R457). -/
theorem execBankOpen_goes (h : Running s r) (ho : r.openSlot = none) (hd : openDelayed s r.cls = false) (fs : Fin 8) :
    execBankOpen fs s = bankGoes r s { r with openSlot := some fs.val, segc := 0 } (r.upc + 1) :=
  bankCmd_goes h (by simp [ho, hd])

/-- CLOSE of a cut run ends it (R333). -/
theorem execBankClose_ends (h : Running s r) {slot : Nat} (ho : r.openSlot = some slot) (hc : r.cut = true) :
    execBankClose s = bankEnds s { r with openSlot := none, nseg := r.nseg + 1 } stCUT (r.upc + 1) 0 :=
  bankCmd_ends h (by simp [ho, hc])

/-- CLOSE of any other goes on. -/
theorem execBankClose_goes (h : Running s r) {slot : Nat} (ho : r.openSlot = some slot) (hc : r.cut = false) :
    execBankClose s = bankGoes r s { r with openSlot := none, nseg := r.nseg + 1 } (r.upc + 1) :=
  bankCmd_goes h (by simp [ho, hc])

end

/-- Settles O33: the commands on registers, and those whose row, cut or governor decides. -/
theorem bankRegisterCommandsComplete : Obligations.BankRegisterCommandsComplete := by
  intro s r h
  refine ⟨?nop, fun b i => ⟨?setb, ?addb⟩, fun f i => ?setf, fun sat wf => ?fmt, fun f d c => ?scl, fun q n => ?qzero, fun q => ?hsum,
    fun q d => ?qst, fun b tgt => ?loop, ?sig, fun q n ho => ?qout, fun fs ho hd => ?opens,
    fun slot ho => ⟨fun hc => ?cut, fun hc => ?close⟩, ?ends⟩
  case nop => exact bankReg_goes h id
  case setb => exact bankReg_goes h _
  case addb => exact bankReg_goes h _
  case setf => exact bankReg_goes h _
  case fmt => exact bankReg_goes h _
  case scl => exact bankReg_goes h _
  case qzero => exact bankReg_goes h _
  case hsum => exact bankReg_goes h _
  case qst => exact bankReg_goes h _
  case loop => exact execBankLoop_goes h b tgt
  case sig => exact (exec_bankSig s).trans (bankCmd_goes h rfl)
  case qout => exact execBankQout_goes h ho q n
  case opens => exact execBankOpen_goes h ho hd fs
  case cut => exact execBankClose_ends h ho hc
  case close => exact execBankClose_goes h ho hc
  case ends => exact (exec_bankEnd s).trans (bankCmd_ends h rfl)

/-! ### Column commands -/

section
variable {s : State} {r : Run} {ca : Col} {reads : Bool} {bad : Run → Nat → Bool} {f : State → Run → Nat → Nat → State × Run}

/-- A column command on an open row has its effect and is counted (R335). -/
theorem colCmd_goes (h : Running s r) {slot : Nat} (ho : r.openSlot = some slot) (hs : r.segc < 64) (hb : bad r (colNum r ca) = false)
    (hr : reads = true → ∀ b, b ∈ r.banks → badMem s (colPa r slot (colNum r ca) b) 32 = false) :
    colCmd reads bad ca f s = bankGoes r (f s r slot (colNum r ca)).1 { (f s r slot (colNum r ca)).2 with segc := r.segc + 1 } (r.upc + 1) := by
  have hfind : (if reads then r.banks.find? (fun b => badMem s (colPa r slot (colNum r ca) b) 32) else none) = none := by
    cases reads with
    | false => rfl
    | true => exact List.find?_eq_none.mpr (fun b hm => by simp [hr rfl b hm])
  refine bankCmd_goes h ?_
  simp only [Nat.not_le.mpr hs, ho, hb, hfind, Bool.false_eq_true, if_false]

/-- The 65th column command of a segment ends the run (R335). -/
theorem colCmd_segment (h : Running s r) (hs : 64 ≤ r.segc) : colCmd reads bad ca f s = bankEnds s r stSEGMENT r.upc 0 :=
  bankCmd_ends h (if_pos hs)

/-- A column command without an open row ends the run. -/
theorem colCmd_no_row (h : Running s r) (hs : r.segc < 64) (ho : r.openSlot = none) :
    colCmd reads bad ca f s = bankEnds s r stERRPROG r.upc 0 := by
  refine bankCmd_ends h ?_
  simp only [Nat.not_le.mpr hs, ho, if_false]

end

/-- Settles O34: the count comes first, then the row, then the columns that the command reads. -/
theorem bankColumnCommandsComplete : Obligations.BankColumnCommandsComplete := by
  intro s r ca h
  refine ⟨fun slot ho hs => ⟨fun c => ?wrc, fun hm => ⟨fun d => ?rdc, fun q c => ?macc, fun f d => ?axpy, fun q n sl xr hw => ?macx⟩⟩,
    fun hs => ⟨fun c => ⟨?wrcEnd, ?rdcEnd⟩, fun q c => ?maccEnd, fun f d => ?axpyEnd, fun q n sl xr => ?macxEnd⟩,
    fun hs ho => ⟨fun c => ⟨?wrcRow, ?rdcRow⟩, fun q c => ?maccRow, fun f d => ?axpyRow, fun q n sl xr => ?macxRow⟩⟩
  case wrc => exact (exec_bankWrc c ca s).trans (colCmd_goes h ho hs rfl nofun)
  case rdc => exact (exec_bankRdc d ca s).trans (colCmd_goes h ho hs rfl (fun _ => hm))
  case macc => exact (exec_bankMacc q c ca s).trans (colCmd_goes h ho hs rfl (fun _ => hm))
  case axpy => exact (exec_bankAxpy f d ca s).trans (colCmd_goes h ho hs rfl (fun _ => hm))
  case macx => exact (exec_bankMacx q n sl xr ca s).trans (colCmd_goes h ho hs hw (fun _ => hm))
  case wrcEnd => exact (exec_bankWrc c ca s).trans (colCmd_segment h hs)
  case rdcEnd => exact (exec_bankRdc c ca s).trans (colCmd_segment h hs)
  case maccEnd => exact (exec_bankMacc q c ca s).trans (colCmd_segment h hs)
  case axpyEnd => exact (exec_bankAxpy f d ca s).trans (colCmd_segment h hs)
  case macxEnd => exact (exec_bankMacx q n sl xr ca s).trans (colCmd_segment h hs)
  case wrcRow => exact (exec_bankWrc c ca s).trans (colCmd_no_row h hs ho)
  case rdcRow => exact (exec_bankRdc c ca s).trans (colCmd_no_row h hs ho)
  case maccRow => exact (exec_bankMacc q c ca s).trans (colCmd_no_row h hs ho)
  case axpyRow => exact (exec_bankAxpy f d ca s).trans (colCmd_no_row h hs ho)
  case macxRow => exact (exec_bankMacx q n sl xr ca s).trans (colCmd_no_row h hs ho)

end Sys2Proof.Machine
end

section
/-! PROOF. The traps of a fetch and of an illegal encoding (06 R130, 03 R74), and the return of a register of a load all of whose words
have arrived (06 R30 to R34). -/

namespace Sys2Proof.Machine

open Sys2Proof

/-- The trap of a fetch that fails, or whose read of code from the host has failed (R130, R373). -/
theorem execInstructionFetchFault_traps {s : State} {x : Ix} {c va : Nat} (hx : ixOf s = some x)
    (hf : codeFail x.sp = some (c, va) ∨ (codeFail x.sp = none ∧ fetchWord s x.g x.t x.sp.pc = .trap c va)) :
    execInstructionFetchFault s =
      .next (takeTrap (failWalk s x.core) x.g x.e { cause := c, tfm := x.am, tva := va, fetch := true }) := by
  unfold execInstructionFetchFault
  rcases hf with hf | ⟨hf, hw⟩
  · simp only [hx, hf]
  · simp only [hx, hf, hw]

/-- The state after the return of a register all of whose words have arrived (R30, R372). -/
def returned (s : State) (g : Group) (t : Team) (p : Pend) : State :=
  let g0 : Group := { g with pends := g.pends.filter (fun q => !(q.load == p.load && q.reg == p.reg)) }
  let g1 := p.vals.foldl (returnLane s p) g0
  let s2 := (lostFailures p p.vals g0 g1).foldl (fun s f => postAsync s (dieOf t.core) t.ctx 0x22 t.lch f.va f.pa (some t.core) (some g.uid))
    (s.setGroup (unpark s.clock g1))
  let s3 := if p.strong then s2.modGroup g.uid Group.acquired else s2
  if p.acq then acquireCore s3 t.core else s3

/-- A register all of whose words have arrived is returned whole. -/
theorem returnPend_arrived (s : State) (g : Group) (t : Team) {p : Pend} (ha : ∀ v, v ∈ p.vals → arrived v.2 = true) :
    returnPend s g t p = returned s g t p := by
  have hnow : p.vals.filter (fun v => arrived v.2) = p.vals := List.filter_eq_self.mpr ha
  have hrest : p.vals.filter (fun v => !arrived v.2) = [] := List.filter_eq_nil_iff.mpr (fun v hv => by simp [ha v hv])
  simp only [returnPend, hnow, hrest, List.isEmpty_nil, Bool.and_true, if_true]
  rfl

/-- Settles O35: the two traps, and the return of what has arrived. -/
theorem fetchFaultsAndReturnsComplete : Obligations.FetchFaultsAndReturnsComplete := by
  intro s
  refine ⟨fun x c va hx hf => ?fetch, fun x h => ?illegal, fun load reg g p t hs hp hg ht ha hw => ?returns⟩
  case fetch => exact (exec_instructionFetchFault s).trans (execInstructionFetchFault_traps hx hf)
  case illegal => exact (exec_illegalEncoding s).trans (issue_trap_eq h rfl rfl)
  case returns =>
    refine (exec_loadReturn s).trans ((onPair_event hs).trans ?_)
    rw [loadReturn_arrived hp hg ht ha hw, returnPend_arrived s g t ha]
    rfl

end Sys2Proof.Machine
end

section
/-! PROOF. The events of splits and traps (07 R159 to R170, 17 R362 to R378) and of the caches (11 R236, 18 R405): joins, serial turns,
deferred trap records, diversions, write-backs, drains and the two steps of an invalidation. -/

namespace Sys2Proof.Machine

open Sys2Proof

section
variable {s : State} {i : Instr} {t : State}

/-- An event with a number for its subject leaves the state that its function gives. -/
theorem num_event {f : State → Nat → State} {n : Nat} (hi : exec i s = onNum f s) (hs : s.subject = .num n) (hf : f s n = t) :
    exec i s = event t := by
  rw [hi, onNum_event hs, hf]

/-- An event with a pair for its subject leaves the state that its function gives. -/
theorem pair_event {f : State → Nat → Nat → State} {a b : Nat} (hi : exec i s = onPair f s) (hs : s.subject = .pair a b) (hf : f s a b = t) :
    exec i s = event t := by
  rw [hi, onPair_event hs, hf]

end

/-! ### Splits and traps -/

section
variable {s : State} {u : Nat} {g : Group}

theorem splitJoin_joins {e : Nat} (ha : aboutToIssue s u e = some g) (hj : atJoin g (g.split e) = true) (hs : (g.split e).ser = false) :
    splitJoin s u e = s.setGroup (mergeSame (joinSplit s.clock g e)) := by
  simp [splitJoin, ha, hj, hs]

theorem serialTurnEnd_ends {e : Nat} (ha : aboutToIssue s u e = some g) (hj : atJoin g (g.split e) = true) (hs : (g.split e).ser = true) :
    serialTurnEnd s u e = s.setGroup (mergeSame (endTurn s.clock g e)) := by
  simp [serialTurnEnd, ha, hj, hs]

theorem trapEntry_enters (hg : s.group? u = some g) (hr : g.raised.isSome = true) (hq : g.quiet = true) : trapEntry s u = enterTrap s u := by
  simp [trapEntry, hg, hr, hq]

theorem diversion_diverts (hg : s.group? u = some g) (hh : g.hold = .divert) (hs : settled g = true) (hd : diverts g = true) :
    diversion s u = divertGroup s u := by
  simp [diversion, hg, hh, hs, hd]

end

section
variable {s s1 s2 : State} {u : Nat} {g : Group} {t : Team} {r : SyncRec} {rest : List SyncRec}

/-- The records of a group replaced. -/
def putRecords (u : Nat) (l : List SyncRec) (s : State) : State := s.modGroup u (fun g => { g with records := l })

/-- A group that owes a record, none of whose earlier records is unwritten. -/
structure Owes (s : State) (u : Nat) (g : Group) (t : Team) (r : SyncRec) (rest : List SyncRec) : Prop where
  group : s.group? u = some g
  records : g.records = r :: rest
  team : s.team? g.team = some t
  first : earlierRec s t.ctx (some u) r.ord = false

/-- The record of a group whose ring is disabled is lost. -/
theorem flushRecords_disabled (h : Owes s u g t r rest) (hr : ringLog (s.ctx t.ctx) = 0) : flushRecords s u = putRecords u rest s := by
  simp only [flushRecords, h.group, h.records, h.team, h.first, hr, Bool.false_eq_true, if_false, if_true, putRecords]

/-- A record whose release is performed is written where the ring has room and is reached. -/
theorem flushRecords_writes (h : Owes s u g t r rest) (hr : ringLog (s.ctx t.ctx) ≠ 0) (hx : (recRelease s (some t.core)).2 = true)
    (ho : outstanding (recRelease s (some t.core)).1 u t.core 6 = []) (hf : ringFull ((recRelease s (some t.core)).1.ctx t.ctx) = false)
    (hy : ringReady (recRelease s (some t.core)).1 t.ctx = .ok s2) (hw : ringWrite s2 t.ctx r.bytes = some s1) :
    flushRecords s u = putRecords u rest (endWalk s1 frontEnd) := by
  simp only [flushRecords, h.group, h.records, h.team, h.first, hr, hx, ho, hf, hy, hw, List.isEmpty_nil, Bool.and_self, Bool.not_true,
    Bool.false_eq_true, if_false, Option.getD_some, putRecords]

/-- A record whose ring a walk or a channel holds back waits. -/
theorem flushRecords_waits (h : Owes s u g t r rest) (hr : ringLog (s.ctx t.ctx) ≠ 0) (hx : (recRelease s (some t.core)).2 = true)
    (ho : outstanding (recRelease s (some t.core)).1 u t.core 6 = []) (hf : ringFull ((recRelease s (some t.core)).1.ctx t.ctx) = false)
    (hy : ringReady (recRelease s (some t.core)).1 t.ctx = .error s1) : flushRecords s u = s1 := by
  simp only [flushRecords, h.group, h.records, h.team, h.first, hr, hx, ho, hf, hy, List.isEmpty_nil, Bool.and_self, Bool.not_true,
    Bool.false_eq_true, if_false]

/-- A record whose ring is full is marked ready, and LOST is set. -/
theorem flushRecords_full (h : Owes s u g t r rest) (hr : ringLog (s.ctx t.ctx) ≠ 0) (hx : (recRelease s (some t.core)).2 = true)
    (ho : outstanding (recRelease s (some t.core)).1 u t.core 6 = []) (hf : ringFull ((recRelease s (some t.core)).1.ctx t.ctx) = true)
    (hy : r.ready = false) :
    flushRecords s u = putRecords u ({ r with ready := true } :: rest) (ringLost (recRelease s (some t.core)).1 t.ctx) := by
  simp only [flushRecords, h.group, h.records, h.team, h.first, hr, hx, ho, hf, hy, List.isEmpty_nil, Bool.and_self, Bool.not_true,
    Bool.false_eq_true, if_false, if_true, putRecords]

end

section
variable {s s1 s2 : State} {c d : Nat} {r : AsyncRec}

/-- An asynchronous record whose release is performed and whose ring is reached is written. -/
theorem asyncPut_writes (hx : (recRelease s r.core).2 = true) (hy : ringReady (recRelease s r.core).1 c = .ok s2) {gone : State → State}
    (hw : ringWrite (gone s2) c r.bytes = some s1) : asyncPut s r c gone = (endWalk s1 frontEnd, true) := by
  simp only [asyncPut, hx, hy, ringPut, hw, Bool.not_true, Bool.false_eq_true, if_false, Option.getD_some]

/-- The first record that a die holds is written, and the others follow. -/
theorem flushHolds_writes (n : Nat) {rest : List AsyncRec} (hl : ringLog (s.ctx c) ≠ 0) (hf : ringFull (s.ctx c) = false)
    (hx : (recRelease s r.core).2 = true) (hy : ringReady (recRelease s r.core).1 c = .ok s2) (hh : holdOf (s.ctx c) d = r :: rest)
    (hw : ringWrite (s2.setCtx c (setHold (s2.ctx c) d rest)) c r.bytes = some s1) :
    flushHolds c d (n + 1) s = flushHolds c d n (endWalk s1 frontEnd) := by
  have hput := asyncPut_writes (gone := fun s => s.setCtx c (setHold (s.ctx c) d rest)) hx hy hw
  simp only [flushHolds, hh, hl, hf, hput, Bool.false_eq_true, if_false, if_true]

theorem flushHolds_none (n : Nat) (hh : holdOf (s.ctx c) d = []) : flushHolds c d n s = s := by
  cases n with
  | zero => rfl
  | succ n => simp only [flushHolds, hh]

/-- A posted record whose turn it is, is written. -/
theorem postRec_writes (hl : ringLog (s.ctx r.ctx) ≠ 0) (hf : ringFull (s.ctx r.ctx) = false) (he : earlierRec s r.ctx r.grp r.ord = false)
    (hx : (recRelease s r.core).2 = true) (hy : ringReady (recRelease s r.core).1 r.ctx = .ok s2)
    (hw : ringWrite { s2 with posts := s2.posts.filter (fun q => q.ord != r.ord) } r.ctx r.bytes = some s1) :
    postRec s r = endWalk s1 frontEnd := by
  have hput := asyncPut_writes (gone := fun s => { s with posts := s.posts.filter (fun q => q.ord != r.ord) }) hx hy hw
  simp only [postRec, he, hl, hf, hput, Bool.false_eq_true, if_false]

end

/-- TRAP_RECORD_DEFERRED_WRITE of a group. -/
theorem deferredWrite_group {s t : State} {u : Nat} (hs : s.subject = .num u) (hf : flushRecords s u = t) :
    exec .trapRecordDeferredWrite s = event t := by
  rw [exec_trapRecordDeferredWrite, execTrapRecordDeferredWrite, hs, ← hf]
  rfl

/-- TRAP_RECORD_DEFERRED_WRITE of a context and a die. -/
theorem deferredWrite_die {s t : State} {c d : Nat} (hs : s.subject = .pair c d) (hf : flushPosts s c d = t) :
    exec .trapRecordDeferredWrite s = event t := by
  rw [exec_trapRecordDeferredWrite, execTrapRecordDeferredWrite, hs, ← hf]
  rfl

/-- Settles O37: each event acts where its group, its record or its ring stands as it must. -/
theorem splitAndTrapEventsComplete : Obligations.SplitAndTrapEventsComplete := by
  intro s
  refine ⟨fun u e g hs ha hj => ⟨fun hser => ?join, fun hser => ?turn⟩,
    fun u g hs hg => ⟨fun hr hq => ?entry, fun t r rest hrec ht he => ⟨fun hl => ?disabled, fun hl hx ho =>
      ⟨fun s1 s2 hf hy hw => ?writes, fun s1 hf hy => ?waits, fun hf hy => ?full⟩⟩, fun hh hset hd => ?diversion⟩,
    fun c d r s1 s2 hs hl hf hx hy => ⟨fun rest hh hw => ?held, fun hh hp hc he hw => ?posted⟩⟩
  case join => exact pair_event (exec_splitJoin s) hs (splitJoin_joins ha hj hser)
  case turn => exact pair_event (exec_serialTurnEnd s) hs (serialTurnEnd_ends ha hj hser)
  case entry => exact num_event (exec_trapEntry s) hs (trapEntry_enters hg hr hq)
  case disabled => exact deferredWrite_group hs (flushRecords_disabled ⟨hg, hrec, ht, he⟩ hl)
  case writes => exact deferredWrite_group hs (flushRecords_writes ⟨hg, hrec, ht, he⟩ hl hx ho hf hy hw)
  case waits => exact deferredWrite_group hs (flushRecords_waits ⟨hg, hrec, ht, he⟩ hl hx ho hf hy)
  case full => exact deferredWrite_group hs (flushRecords_full ⟨hg, hrec, ht, he⟩ hl hx ho hf hy)
  case diversion => exact num_event (exec_diversion s) hs (diversion_diverts hg hh hset hd)
  case held =>
    refine deferredWrite_die hs ?_
    rw [flushPosts, flushHolds_writes 16 hl hf hx hy hh hw]
  case posted =>
    refine deferredWrite_die hs ?_
    subst hc
    rw [flushPosts, flushHolds_none 17 hh, hp, List.foldl_cons, List.foldl_nil, postRec_writes hl hf he hx hy hw]

/-! ### Caches -/

section
variable {s : State} {core line : Nat} {l : L1Line}

theorem writeBack_clean (hl : l1Line? s core line = some l) (hd : l.dirty = 0) : writeBack s core line = l1Drop s core line := by
  simp only [writeBack, hl, hd, if_true]

/-- A dirty line whose channel no run has is written back and kept clean. -/
theorem writeBack_dirty (hl : l1Line? s core line = some l) (hd : l.dirty ≠ 0)
    (hc : regionOf (128 * line) = .tier1 → runOn s (chanOf (128 * line)) = none) :
    writeBack s core line = serveHomes (afterBack (cleanLine s core l)) := by
  have hserve : (if regionOf (128 * line) == .tier1 then serveRow s (128 * line) else some s) = some s := by
    split
    · next h => simp only [serveRow, hc (beq_iff_eq.mp h)]
    · rfl
  simp only [writeBack, hl, hd, hserve, if_false]

/-- A drain request of a record, whose record goes once nothing of its epoch is left (R236). -/
theorem drainRec_drained {r : HomeRec} (h : dirtyLeft (drainWait s r.core (upTo r.epoch)) r.core (upTo r.epoch) = false) :
    drainRec s r = { drainWait s r.core (upTo r.epoch) with homeRecs := (drainWait s r.core (upTo r.epoch)).homeRecs.filter (fun x => x != r) } := by
  simp only [drainRec, h, Bool.false_eq_true, if_false]

theorem drainRec_left {r : HomeRec} (h : dirtyLeft (drainWait s r.core (upTo r.epoch)) r.core (upTo r.epoch) = true) :
    drainRec s r = drainWait s r.core (upTo r.epoch) := by
  simp only [drainRec, h, if_true]

end

section
variable {s : State} {u agent : Nat} {i : Inval}

/-- An agent's point left out of an invalidation. -/
def Inval.pointed (i : Inval) (agent : Nat) : Inval := { i with toPoint := i.toPoint.filter (fun a => a != agent) }

/-- The entries and walks of an agent's point removed, those of the front end with the engines of die 0 (R405). -/
def pointState (s : State) (i : Inval) (agent : Nat) : State :=
  if agent = 160 then dropAgent (dropAgent s i agent) i frontEnd else dropAgent s i agent

/-- A core whose filter every key misses has acknowledged at its point. -/
theorem invalPoint_acknowledged (hi : inval? s u = some i) (hm : agent ∈ i.toPoint) (ha : agent < 160) (hc : i.ctx.isSome = true)
    (hk : keysHit (s.core agent).filter i.lo i.hi = false) :
    invalPoint s u agent = invalNext (pointState s i agent) (i.pointed agent) := by
  have hacts : i.acts (s.core agent) = false := by simp [Inval.acts, hk, Option.isNone_eq_false_iff.mpr hc]
  simp only [invalPoint, hi, List.contains_iff_mem.mpr hm, ha, hacts, Bool.not_true, Bool.not_false, Bool.and_self, decide_true,
    Bool.false_eq_true, if_false, if_true, pointState, Inval.pointed]

/-- Any other agent notes the identifier that divides its accesses. -/
theorem invalPoint_notes (hi : inval? s u = some i) (hm : agent ∈ i.toPoint)
    (h : 160 ≤ agent ∨ i.ctx = none ∨ keysHit (s.core agent).filter i.lo i.hi = true) :
    invalPoint s u agent = setInval (pointState s i agent) { i.pointed agent with toAck := (agent, s.uid) :: i.toAck } := by
  have hskip : (decide (agent < 160) && !i.acts (s.core agent)) = false := by
    rcases h with h | h | h
    · simp [Nat.not_lt.mpr h]
    · simp [Inval.acts, h]
    · simp [Inval.acts, h]
  simp only [invalPoint, hi, List.contains_iff_mem.mpr hm, hskip, Bool.not_true, Bool.false_eq_true, if_false, invalNext,
    List.isEmpty_cons, Bool.and_false, pointState, Inval.pointed]

/-- An agent's acknowledgement counted. -/
def Inval.acked (i : Inval) (agent : Nat) : Inval := { i with toAck := i.toAck.filter (fun a => a.1 != agent) }

section
variable {k : Nat}

/-- An engine's acknowledgement, with the front end's for those of die 0. -/
theorem invalAck_engine (hi : inval? s u = some i) (hk : i.toAck.find? (fun a => a.1 == agent) = some (agent, k)) (hc : cmdsDone s i agent = true)
    (ha : 160 < agent ∨ (agent = 160 ∧ frontDone s k = true)) : invalAck s u agent = invalNext s (i.acked agent) := by
  have hle : 160 ≤ agent := by omega
  have hfront : (decide (agent = 160) && !frontDone s k) = false := by
    rcases ha with h | ⟨-, h⟩
    · simp [Nat.ne_of_gt h]
    · simp [h]
  simp only [invalAck, hi, hk, hc, hle, hfront, Bool.not_true, Bool.false_eq_true, if_false, if_true, Inval.acked]

/-- A core that has performed what it translated before, and drained, acknowledges. -/
theorem invalAck_core (hi : inval? s u = some i) (hk : i.toAck.find? (fun a => a.1 == agent) = some (agent, k)) (hc : cmdsDone s i agent = true)
    (ha : agent < 160) (hp : performedBefore (withdrawIdle s agent) agent (if i.ctx.isNone then (withdrawIdle s agent).uid else k) = true)
    (hd : dirtyLeft (drainWait (withdrawIdle s agent) agent (fun _ => true)) agent (fun _ => true) = false)
    (hr : (drainWait (withdrawIdle s agent) agent (fun _ => true)).remotes.any (fun r => r.core == agent && r.wb) = false) :
    invalAck s u agent = invalNext (clearFilter (drainWait (withdrawIdle s agent) agent (fun _ => true)) i agent) (i.acked agent) := by
  simp only [invalAck, hi, hk, hc, Nat.not_le.mpr ha, hp, hd, hr, Bool.not_true, Bool.or_self, Bool.false_eq_true, if_false, Inval.acked]

/-- A core that has not drained waits. -/
theorem invalAck_waits (hi : inval? s u = some i) (hk : i.toAck.find? (fun a => a.1 == agent) = some (agent, k)) (hc : cmdsDone s i agent = true)
    (ha : agent < 160) (hp : performedBefore (withdrawIdle s agent) agent (if i.ctx.isNone then (withdrawIdle s agent).uid else k) = true)
    (hd : dirtyLeft (drainWait (withdrawIdle s agent) agent (fun _ => true)) agent (fun _ => true) = true) :
    invalAck s u agent = drainWait (withdrawIdle s agent) agent (fun _ => true) := by
  simp only [invalAck, hi, hk, hc, Nat.not_le.mpr ha, hp, hd, Bool.not_true, Bool.true_or, Bool.false_eq_true, if_false, if_true]

end

end

/-- Settles O38: the state of the line, of the record or of the invalidation decides what an event does. -/
theorem cacheEventsComplete : Obligations.CacheEventsComplete := by
  intro s
  refine ⟨fun core line l hs hl => ⟨fun hd => ?clean, fun hd hc => ?dirty⟩,
    fun line core hs => ⟨?drain, fun r _ hr => ⟨fun hd => ?drained, fun hd => ?left⟩⟩,
    fun u agent i hs hi => ⟨fun hm => ⟨fun ha hc hk => ?acknowledged, fun h => ?notes⟩, fun k hk hc => ⟨fun ha => ?engine, fun ha hp =>
      ⟨fun hd hr => ?acks, fun hd => ?waits⟩⟩⟩⟩
  case clean => exact pair_event (exec_writeBack s) hs (writeBack_clean hl hd)
  case dirty => exact pair_event (exec_writeBack s) hs (writeBack_dirty hl hd hc)
  case drain => exact pair_event (exec_drainRequest s) hs rfl
  case drained => subst hr; exact drainRec_drained hd
  case left => subst hr; exact drainRec_left hd
  case acknowledged => exact pair_event (exec_invalidationPoint s) hs (invalPoint_acknowledged hi hm ha hc hk)
  case notes => exact pair_event (exec_invalidationPoint s) hs (invalPoint_notes hi hm h)
  case engine => exact pair_event (exec_invalidationAck s) hs (invalAck_engine hi hk hc ha)
  case acks => exact pair_event (exec_invalidationAck s) hs (invalAck_core hi hk hc ha hp hd hr)
  case waits => exact pair_event (exec_invalidationAck s) hs (invalAck_waits hi hk hc ha hp hd)

end Sys2Proof.Machine
end

section
/-! PROOF. The events of launches and teams (08 R182 to R194, 17 R374 to R391): acceptance, retirement, kills, pre-emption and deadlines. -/

namespace Sys2Proof.Machine

open Sys2Proof

/-! ### Acceptance -/

section
variable {s s1 s2 : State} {c n : Nat}

/-- A running part with a launch queue that holds a record: what LAUNCH_ACCEPT needs to begin. -/
structure HoldsRecord (s : State) (c n : Nat) : Prop where
  running : s.dev.boot = .running
  ok : (queueOf (s.ctx c) true n).ok = true
  filled : (queueOf (s.ctx c) true n).pi ≠ (queueOf (s.ctx c) true n).ci

/-- The address of the record at the head of a launch queue. -/
def headVa (s : State) (c n : Nat) : Nat := ringVa (queueOf (s.ctx c) true n) true (queueOf (s.ctx c) true n).ci

/-- The mark of who enqueued the record at the head of a launch queue. -/
def headFrom (s : State) (c n : Nat) : Nat := mget 0 (s.ctx c).lqFrom (n * 2 ^ 32 + (queueOf (s.ctx c) true n).ci.toNat)

/-- What follows once the head record of a launch queue has been dealt with: its space is offered, and the distributor runs. -/
def headDone (s : State) (c n : Nat) : State := distribute (serveAll (endOp s (.accept c n)) c true n)

theorem not_held_back (h : HoldsRecord s c n) :
    ¬ (s.dev.boot ≠ .running ∨ (!(queueOf (s.ctx c) true n).ok) = true ∨ (queueOf (s.ctx c) true n).empty = true) := by
  simp [h.running, h.ok, Queue.empty, h.filled]

theorem launchAccept_waits (h : HoldsRecord s c n) (hr : readReady s (.accept c n) c (headVa s c n) 256 = .error s1) :
    launchAccept s c n = s1 := by
  unfold headVa at hr
  simp only [launchAccept, if_neg (not_held_back h), hr]

theorem postLost_of_bad {op : FrontOp} {ctx lch va len : Nat} {e : Nat × Nat} (hb : readBad s op ctx va len = some e) :
    postLost s op ctx lch va len = postAsync s 0 ctx 0x22 lch (e.1 % 2 ^ 56) e.2 := by
  simp only [postLost, hb]

theorem launchAccept_damaged (h : HoldsRecord s c n) (hr : readReady s (.accept c n) c (headVa s c n) 256 = .ok s1) {e : Nat × Nat}
    (hb : readBad s1 (.accept c n) c (headVa s c n) 256 = some e) :
    launchAccept s c n = headDone (takeHead (postAsync s1 0 c 0x22 noLch (e.1 % 2 ^ 56) e.2) c n) c n := by
  have hp := postLost_of_bad (lch := noLch) hb
  unfold headVa at hr hb hp
  simp only [launchAccept, if_neg (not_held_back h), hr, hb, Option.isSome_some, if_true, hp, headDone]

theorem launchAccept_unreadable (h : HoldsRecord s c n) (hr : readReady s (.accept c n) c (headVa s c n) 256 = .ok s1)
    (hb : readBad s1 (.accept c n) c (headVa s c n) 256 = none) (hx : readCtx s1 (.accept c n) c (headVa s c n) 256 = none) :
    launchAccept s c n = endOp s1 (.accept c n) := by
  unfold headVa at hr hb hx
  simp only [launchAccept, if_neg (not_held_back h), hr, hb, hx, Option.isSome_none, Bool.false_eq_true, if_false]

/-- The head record of a launch queue has been read whole and sound. -/
structure ReadsRecord (s s1 : State) (c n : Nat) (b : List Byte) : Prop where
  holds : HoldsRecord s c n
  ready : readReady s (.accept c n) c (headVa s c n) 256 = .ok s1
  sound : readBad s1 (.accept c n) c (headVa s c n) 256 = none
  read : readCtx s1 (.accept c n) c (headVa s c n) 256 = some b

theorem launchAccept_awaits_sets {b : List Byte} (h : ReadsRecord s s1 c n b)
    (hc : checkReads s1 (.accept c n) c (headFrom s c n) b = .error s2) : launchAccept s c n = s2 := by
  obtain ⟨hh, hr, hb, hx⟩ := h
  unfold headVa at hr hb hx
  unfold headFrom at hc
  simp only [launchAccept, if_neg (not_held_back hh), hr, hb, hx, Option.isSome_none, Bool.false_eq_true, if_false, hc]

theorem launchAccept_accepts {b : List Byte} (h : ReadsRecord s s1 c n b)
    (hc : checkReads s1 (.accept c n) c (headFrom s c n) b = .ok s2) :
    launchAccept s c n = headDone (acceptRecord (takeHead s2 c n) (.accept c n) c n (headFrom s c n) b) c n := by
  obtain ⟨hh, hr, hb, hx⟩ := h
  unfold headVa at hr hb hx
  unfold headFrom at hc
  simp only [launchAccept, if_neg (not_held_back hh), hr, hb, hx, Option.isSome_none, Bool.false_eq_true, if_false, hc, headDone, headFrom]

end

/-! ### The end of teams -/

section
variable {s s1 : State} {u : Nat} {t : Team}

theorem teamRetire_retires (ht : s.team? u = some t) (hp : t.placed = true) (hk : t.killed = false)
    (hr : ∀ g, g ∈ groupsOf s u → g.retired = true) (hc : teamCmds s u = []) (hw : t.waitq = []) (hu : unbound s t = some s1) {l : Launch}
    (hl : (freeTeam s1 u).launch? t.lch = some l) :
    teamRetire s u = distribute (testSets (finishTeams ((freeTeam s1 u).setLaunch { l with donet := l.donet + 1 }) t.lch 1
      (fun k => k == t.tix)) t.lch) := by
  have hall : (groupsOf s u).all (fun g => g.retired) = true := List.all_eq_true.mpr hr
  simp [teamRetire, ht, hp, hk, hall, hc, hw, hu, hl]

theorem teamKill_unplaced (ht : s.team? u = some t) (hk : t.killed = true) (hc : teamCmds s u = []) (hp : t.placed = false) :
    teamKill s u = distribute (freeTeam s u) := by
  simp [teamKill, ht, hk, hc, hp]

theorem teamKill_placed (ht : s.team? u = some t) (hk : t.killed = true) (hc : teamCmds s u = []) (hp : t.placed = true) (hw : t.waitq = [])
    (hu : unbound s t = some s1) : teamKill s u = distribute (freeTeam s1 u) := by
  simp [teamKill, ht, hk, hc, hp, hw, hu]

theorem preemptionSave_saves (ht : s.team? u = some t) (hs : saving s t = true) (hq : quiet s t = true)
    (hd : dirtyLeft (drainWait s t.core (fun _ => true)) t.core (fun _ => true) = false) :
    preemptionSave s u = saveTeam (drainWait s t.core (fun _ => true)) t := by
  simp [preemptionSave, ht, hs, hq, hd]

theorem preemptionSave_drains (ht : s.team? u = some t) (hs : saving s t = true) (hq : quiet s t = true)
    (hd : dirtyLeft (drainWait s t.core (fun _ => true)) t.core (fun _ => true) = true) :
    preemptionSave s u = drainWait s t.core (fun _ => true) := by
  simp [preemptionSave, ht, hs, hq, hd]

/-- A running part's distributor holds the teams that it has chosen, once each of them has a place for its image. -/
theorem distribute_preempts (hb : s.dev.boot = .running)
    (hr : reserveImages (distGo maxTeams s) (chosenSet (distGo maxTeams s)) = some s1) :
    distribute s = (chosenSet (distGo maxTeams s)).foldl (fun s t => holdTeam s t.uid .preempt) s1 := by
  simp only [distribute, if_pos hb, preempt, hr]

end

/-! ### Deadlines -/

section
variable {s : State} {k : Nat} {l : Launch}

theorem endUnplaced_eq (hl : s.launch? k = some l) : endUnplaced s k = dropUnplaced (s.setLaunch { l with wrapped := true }) k := by
  simp only [endUnplaced, hl]

theorem tWrapReached_unplaced (hl : s.launch? k = some l) (ht : (l.lr.deadline : Int) - l.lr.budget ≤ s.dtime)
    (hst : l.st = .blocked ∨ l.st = .eligible) :
    tWrapReached s k = distribute (dropUnplaced (s.setLaunch { l with wrapped := true }) k) := by
  have hn : ¬ (s.dtime : Int) < tWrap l.lr := not_lt.mpr ht
  rw [← endUnplaced_eq hl]
  obtain h | h := hst <;> simp only [tWrapReached, hl, if_neg hn, h]

theorem tWrapReached_wraps (hl : s.launch? k = some l) (ht : (l.lr.deadline : Int) - l.lr.budget ≤ s.dtime) (hst : l.st = .running) :
    tWrapReached s k = distribute (testSets (dropUnplaced
      (if l.lr.wrap = 0xFFFFFFFF then s.setLaunch { l with st := .wrapping, wrapped := true }
       else wrapTeams (s.setLaunch { l with st := .wrapping, wrapped := true }) k) k) k) := by
  have hn : ¬ (s.dtime : Int) < tWrap l.lr := not_lt.mpr ht
  simp only [tWrapReached, hl, if_neg hn, hst]

theorem deadlineReached_kills (hl : s.launch? k = some l) (ht : l.lr.deadline ≤ s.dtime) (hst : l.st = .running ∨ l.st = .wrapping) :
    deadlineReached s k = killLaunch s k false := by
  have hn : ¬ s.dtime < l.lr.deadline := not_lt.mpr ht
  obtain h | h := hst <;> simp only [deadlineReached, hl, if_neg hn, h]

end

/-- Settles O39: each event's function, in the case that the clause names. -/
theorem launchEventsComplete : Obligations.LaunchEventsComplete := by
  unfold Obligations.LaunchEventsComplete
  intro s
  refine ⟨?accept, ?teams, ?distributor, ?deadlines⟩
  case accept =>
    intro c n b hs hb hok hpi
    have h : HoldsRecord s c n := ⟨hb, hok, hpi⟩
    have hx := exec_launchAccept s
    refine ⟨fun s1 hr => pair_event hx hs (launchAccept_waits h hr), fun s1 hr => ⟨?damaged, ?sound, ?unreadable⟩⟩
    case damaged => exact fun e he => pair_event hx hs (launchAccept_damaged h hr he)
    case sound =>
      intro hbad hread
      have hrec : ReadsRecord s s1 c n b := ⟨h, hr, hbad, hread⟩
      exact ⟨fun s2 hc => pair_event hx hs (launchAccept_awaits_sets hrec hc),
        fun s2 hc => pair_event hx hs (launchAccept_accepts hrec hc)⟩
    case unreadable => exact fun hbad hread => pair_event hx hs (launchAccept_unreadable h hr hbad hread)
  case teams =>
    intro u t hs ht
    refine ⟨?retire, ?kill, ?save⟩
    case retire =>
      exact fun l s1 hp hk hr hc hw hu hl => num_event (exec_teamRetire s) hs (teamRetire_retires ht hp hk hr hc hw hu hl)
    case kill =>
      exact fun hk hc => ⟨fun hp => num_event (exec_teamKill s) hs (teamKill_unplaced ht hk hc hp),
        fun s1 hp hw hu => num_event (exec_teamKill s) hs (teamKill_placed ht hk hc hp hw hu)⟩
    case save =>
      exact fun hv hq => ⟨fun hd => num_event (exec_preemptionSave s) hs (preemptionSave_saves ht hv hq hd),
        fun hd => num_event (exec_preemptionSave s) hs (preemptionSave_drains ht hv hq hd)⟩
  case distributor => exact fun s1 hb hr => distribute_preempts hb hr
  case deadlines =>
    intro k l hs hl
    exact ⟨fun ht => ⟨fun hst => num_event (exec_tWrapReached s) hs (tWrapReached_unplaced hl ht hst),
        fun hst => num_event (exec_tWrapReached s) hs (tWrapReached_wraps hl ht hst)⟩,
      fun ht hst => num_event (exec_deadlineReached s) hs (deadlineReached_kills hl ht hst)⟩

end Sys2Proof.Machine
end

section
/-! PROOF. The events of the copy, Louver and matrix engines (12 R261 to R286, 13 R302 to R307). -/

namespace Sys2Proof.Machine

open Sys2Proof

/-! ### What the engines share -/

section
variable {s s1 : State} {core : Nat} {m : Cmd} {t : Team} {r w : List (Nat × Nat)} {go : State → State}

theorem failCheck_ends {e : Nat × Nat} (he : e.1 ≠ stAWAITED) :
    failCheck s core t m e = endCmd (endWalk s ((cmdWho t m).core.getD core)) (endWalk s ((cmdWho t m).core.getD core)) core m
      (cmdRecord e.1 0 0 0 0 e.2) := by
  simp only [failCheck, if_neg he]

theorem failCheck_asks {e : Nat × Nat} (he : e.1 = stAWAITED) :
    failCheck s core t m e = askEntry s ((cmdWho t m).core.getD core) t.ctx e.2 := by
  simp only [failCheck, if_pos he]

theorem whenReady_asks (h : gather (serveCmd s core m (r ++ w)).1 core (serveCmd s core m (r ++ w)).2.1 r w = some s1) :
    whenReady s core m r w go = s1 := by
  simp only [whenReady, h]

theorem whenReady_nothing_to_ask (h : gather (serveCmd s core m (r ++ w)).1 core (serveCmd s core m (r ++ w)).2.1 r w = none) :
    whenReady s core m r w go = if (serveCmd s core m (r ++ w)).2.2 then go (serveCmd s core m (r ++ w)).1 else (serveCmd s core m (r ++ w)).1 := by
  simp only [whenReady, h]

theorem serveCmd_no_rows {rs : List (Nat × Nat)} (h : m.rowsLeft s rs = []) : serveCmd s core m rs = (s, m, true) := by
  simp [serveCmd, h]

end

/-! ### Copies -/

section
variable {s s1 : State} {u core : Nat} {m : Cmd}

theorem completeNum_copy (hc : s.cmd? u = some (core, m)) {n : Nat} {pairs : List (CpyEnd × CpyEnd)} (hk : m.kind = .cpy n pairs)
    (hst : m.st = .started) :
    completeNum s u = whenReady s core m (cpyRanges m pairs n).1 (cpyRanges m pairs n).2
      (fun s => endCmd s (moveCpy s core m n pairs) core m []) := by
  simp only [completeNum, hc, hk, hst, runCpy]

theorem completeNum_completes (hc : s.cmd? u = some (core, m)) (hst : m.st = .ended) (hr : canComplete (s.core core) m = true) :
    completeNum s u = completeCmd (lastWrites s core m) core { m with record := finalRecord m } := by
  simp only [completeNum, hc]
  split
  · next hs => rw [hst] at hs; cases hs
  · rw [if_pos hr]

end

section
variable {s : State} {u core : Nat} {m : Cmd} {t : Team}

/-- The ranges of G that a CPYM reads. -/
def cpymReads (t : Team) (m : Cmd) : List (Nat × Nat) :=
  (cpymRows m.desc).filterMap (fun r => if r.sp = .g then some (spanAddr t r, r.len) else none)

/-- A CPYM that its core's command queue may execute. -/
structure CpymTurn (s : State) (u core : Nat) (m : Cmd) (t : Team) : Prop where
  cmd : s.cmd? u = some (core, m)
  team : s.team? m.team = some t
  kind : m.kind = .cpym
  first : firstQueued s core u = true

theorem cpymNum_goes_on (h : CpymTurn s u core m t) (hst : m.st = .started) :
    cpymNum s u = whenReady s core m (cpymReads t m) [] (fun s => cpymMove s core t m) := by
  obtain ⟨hc, ht, hk, hf⟩ := h
  simp [cpymNum, hc, ht, hk, hf, hst, cpymReads]

theorem cpymNum_fails (h : CpymTurn s u core m t) (hst : m.st = .queued) {e : Nat × Nat} (he : cpymCheck s t m = .error e) :
    cpymNum s u = failCheck s core t m e := by
  obtain ⟨hc, ht, hk, hf⟩ := h
  simp [cpymNum, hc, ht, hk, hf, hst, he]

/-- A command started with the pages of its ranges. -/
def startedWith (m : Cmd) (l : List (Nat × Nat × Xl)) : Cmd := { m with st := .started, maps := mapsOf l }

/-- The state in which a checked command has started. -/
def startCmd (s : State) (core : Nat) (t : Team) (m : Cmd) (l : List (Nat × Nat × Xl)) : State :=
  (fillMaps s (cmdWho t m) l).setCmd core (startedWith m l)

theorem cpymNum_starts (h : CpymTurn s u core m t) (hst : m.st = .queued) {l : List (Nat × Nat × Xl)} (hl : cpymCheck s t m = .ok l) :
    cpymNum s u = whenReady (startCmd s core t m l) core (startedWith m l) (cpymReads t m) []
      (fun s => cpymMove s core t (startedWith m l)) := by
  obtain ⟨hc, ht, hk, hf⟩ := h
  simp [cpymNum, hc, ht, hk, hf, hst, hl, cpymReads, startCmd, startedWith]

end

/-! ### Louver -/

section
variable {s : State} {die core : Nat} {m m1 : Cmd} {t : Team}

/-- The next command of a die's Louver, in its queue and of a team. -/
structure LouverTurn (s : State) (die core : Nat) (m : Cmd) (t : Team) : Prop where
  next : lvNext s die = some m
  cmd : ∃ m1, s.cmd? m.uid = some (core, m1)
  team : s.team? m.team = some t

theorem louverDie_goes_on (h : LouverTurn s die core m t) (hst : m.st = .started) : louverDie s die = lvGo s core t m := by
  obtain ⟨hn, ⟨m1, hc⟩, ht⟩ := h
  simp only [louverDie, hn, hc, ht, if_pos hst]

theorem louverDie_fails (h : LouverTurn s die core m t) (hst : m.st ≠ .started) {e : Nat × Nat} (he : lvCheck s t m = .error e) :
    louverDie s die = failCheck s core t m e := by
  obtain ⟨hn, ⟨m1, hc⟩, ht⟩ := h
  simp only [louverDie, hn, hc, ht, if_neg hst, he]

theorem louverDie_starts (h : LouverTurn s die core m t) (hst : m.st ≠ .started) {l : List (Nat × Nat × Xl)} (hl : lvCheck s t m = .ok l) :
    louverDie s die = lvGo (startCmd s core t m l) core t (startedWith m l) := by
  obtain ⟨hn, ⟨m1, hc⟩, ht⟩ := h
  simp only [louverDie, hn, hc, ht, if_neg hst, hl, startCmd, startedWith]

end

/-! ### The matrix engine -/

section
variable {s : State} {core : Nat} {m : Cmd} {t : Team}

/-- The block of a matrix command. -/
def blockOf (m : Cmd) : Mx := ⟨m.mr, m.blk⟩

/-- The state whose engine runs a command. -/
def runsCmd (s : State) (core : Nat) (m : Cmd) : State := s.setCore core { s.core core with mrun := some m.uid }

/-- An idle engine with a command to start. -/
structure EngineIdle (s : State) (core : Nat) (m : Cmd) (t : Team) : Prop where
  idle : (s.core core).mrun = none
  next : mxNext (s.core core) = some m
  open_ : m.st ≠ .ended
  team : s.team? m.team = some t

theorem matrixStart_eq (h : EngineIdle s core m t) : matrixStart s core = startMx s core m := by
  simp [matrixStart, h.idle, h.next, h.open_]

theorem matrixStart_mzero (h : EngineIdle s core m t) (hk : m.kind = .mzero) :
    matrixStart s core = (zeroTile (runsCmd s core m) t (blockOf m)).setCmd core { m with st := .ended } := by
  rw [matrixStart_eq h]
  simp only [startMx, h.team, hk, runsCmd, blockOf]

theorem matrixStart_mdrain (h : EngineIdle s core m t) (hk : m.kind = .mdrain) :
    matrixStart s core = runDrain (runsCmd s core m) core t m (blockOf m) := by
  rw [matrixStart_eq h]
  simp only [startMx, h.team, hk, runsCmd, blockOf]

theorem matrixStart_mma (h : EngineIdle s core m t) (hk : m.kind = .mma) (hst : m.st = .queued) :
    matrixStart s core = (if bitOf (blockOf m).flags 0 && m.step == 0 then zeroTile (runsCmd s core m) t (blockOf m)
      else runsCmd s core m).setCmd core { m with st := .started } := by
  have hq : (m.st == .queued) = true := beq_iff_eq.mpr hst
  rw [matrixStart_eq h]
  simp only [startMx, h.team, hk, hq, if_true, runsCmd, blockOf]
  rfl

theorem matrixStart_mma_resumes (h : EngineIdle s core m t) (hk : m.kind = .mma) (hst : m.st = .started) :
    matrixStart s core = runsCmd s core m := by
  have hq : (m.st == .queued) = false := by rw [hst]; rfl
  rw [matrixStart_eq h]
  simp only [startMx, h.team, hk, hq, Bool.false_eq_true, if_false, runsCmd]

/-- An engine that runs a started MMA. -/
structure RunsMma (s : State) (core : Nat) (m : Cmd) (t : Team) : Prop where
  runs : (s.core core).mrun = some m.uid
  cmd : (s.core core).cmds.find? (fun k => k.uid == m.uid) = some m
  kind : m.kind = .mma
  started : m.st = .started
  team : s.team? m.team = some t

/-- The positions of a K-step of an MMA. -/
def stepGroup (m : Cmd) : Nat := groupSize (mrAFMT m.mr) (mrBFMT m.mr)

/-- The elements that take part in an MMA's next K-step, by rows. -/
def stepParts (m : Cmd) (md : List Byte) : List (List (Nat × Nat)) :=
  (List.range (blockOf m).m).map (takePart (blockOf m) md (stepGroup m) m.step)

/-- The next K-step of an MMA is its last. -/
def stepLast (m : Cmd) : Bool := decide (((blockOf m).k + stepGroup m - 1) / stepGroup m ≤ m.step + 1)

theorem running_mma (h : RunsMma s core m t) : ¬ (m.kind ≠ .mma ∨ m.st ≠ .started) := by simp [h.kind, h.started]

theorem kStep_bad_metadata (h : RunsMma s core m t) {fl : Nat} (hf : stepMeta s t m (blockOf m) (stepGroup m) = .error fl) :
    kStep s core = (orMstat s t.uid fl).setCmd core { m with st := .ended } := by
  unfold blockOf stepGroup at hf
  simp only [kStep, h.runs, h.cmd, h.team, if_neg (running_mma h), hf]

theorem kStep_bad_data (h : RunsMma s core m t) {md : List Byte} (hm : stepMeta s t m (blockOf m) (stepGroup m) = .ok md)
    (hb : stepBad s t (blockOf m) (stepParts m md) = true) :
    kStep s core = (orMstat s t.uid msUE).setCmd core { m with st := .ended } := by
  unfold stepParts at hb
  unfold blockOf stepGroup at hm hb
  simp only [kStep, h.runs, h.cmd, h.team, if_neg (running_mma h), hm, hb, if_true]

theorem kStep_adds (h : RunsMma s core m t) {md : List Byte} (hm : stepMeta s t m (blockOf m) (stepGroup m) = .ok md)
    (hb : stepBad s t (blockOf m) (stepParts m md) = false) :
    kStep s core = boundary
      (if m.stopAt && !stepLast m then orWrs (applyStep s t (blockOf m) (stepParts m md)) t.uid wrsMMASTOP
        else applyStep s t (blockOf m) (stepParts m md)) core
      { m with st := if m.stopAt || stepLast m then .ended else .started, step := m.step + 1, desc := md } := by
  unfold stepParts at hb
  unfold blockOf stepGroup at hm hb
  simp only [kStep, h.runs, h.cmd, h.team, if_neg (running_mma h), hm, hb, Bool.false_eq_true, if_false, stepLast, stepParts, blockOf,
    stepGroup]
  rfl

end

/-- Settles O40: what the engines share, then each event's function in the case that the clause names. -/
theorem engineEventsComplete : Obligations.EngineEventsComplete := by
  unfold Obligations.EngineEventsComplete
  intro s
  refine ⟨?shared, ?commands, ?louver, ?matrix⟩
  case shared =>
    exact fun t core m r w go => ⟨fun n e => ⟨failCheck_ends, failCheck_asks⟩,
      ⟨fun t1 => whenReady_asks, whenReady_nothing_to_ask⟩, serveCmd_no_rows⟩
  case commands =>
    intro u core m hs hc
    refine ⟨?copy, ?completes, ?cpym⟩
    case copy =>
      intro n pairs hk hst
      have hrun := completeNum_copy hc hk hst
      refine ⟨fun t hg => ?asks, fun hg hserved => ?moves⟩
      case asks => exact num_event (exec_engineCommandComplete s) hs (hrun.trans (whenReady_asks hg))
      case moves =>
        refine num_event (exec_engineCommandComplete s) hs (hrun.trans ((whenReady_nothing_to_ask hg).trans ?_))
        rw [if_pos hserved]
    case completes =>
      exact fun hst hr => num_event (exec_engineCommandComplete s) hs (completeNum_completes hc hst hr)
    case cpym =>
      intro t ht hk hf
      have h : CpymTurn s u core m t := ⟨hc, ht, hk, hf⟩
      have hx := exec_cpymExecute s
      exact ⟨fun hst => num_event hx hs (cpymNum_goes_on h hst),
        fun hst => ⟨fun e he => num_event hx hs (cpymNum_fails h hst he), fun l hl => num_event hx hs (cpymNum_starts h hst hl)⟩⟩
  case louver =>
    intro die core m m1 t hs hn hc ht
    have h : LouverTurn s die core m t := ⟨hn, ⟨m1, hc⟩, ht⟩
    have hx := exec_louverExecute s
    exact ⟨fun hst => num_event hx hs (louverDie_goes_on h hst),
      fun hst => ⟨fun e he => num_event hx hs (louverDie_fails h hst he), fun l hl => num_event hx hs (louverDie_starts h hst hl)⟩⟩
  case matrix =>
    intro core m t hs ht
    refine ⟨fun hi hn ho => ?starts, fun hr hf hk hst => ?steps⟩
    case starts =>
      have h : EngineIdle s core m t := ⟨hi, hn, ho, ht⟩
      have hx := exec_matrixCommandStart s
      exact ⟨fun hk => num_event hx hs (matrixStart_mzero h hk), fun hk => num_event hx hs (matrixStart_mdrain h hk),
        fun hk hst => num_event hx hs (matrixStart_mma h hk hst), fun hk hst => num_event hx hs (matrixStart_mma_resumes h hk hst)⟩
    case steps =>
      have h : RunsMma s core m t := ⟨hr, hf, hk, hst, ht⟩
      have hx := exec_mmaKStep s
      exact ⟨fun fl he => num_event hx hs (kStep_bad_metadata h he), fun md hm =>
        ⟨fun hb => num_event hx hs (kStep_bad_data h hm hb), fun hb => num_event hx hs (kStep_adds h hm hb)⟩⟩

end Sys2Proof.Machine
end

section
/-! PROOF. The events of bank runs, shutter operations and refresh (14 R319 to R344). -/

namespace Sys2Proof.Machine

open Sys2Proof

/-! ### The checks of a bank queue -/

section
variable {s : State} {core : Nat} {m : Cmd} {t : Team}

/-- A bank queue whose next entry may be checked. -/
structure BankTurn (s : State) (core : Nat) (m : Cmd) (t : Team) : Prop where
  idle : bankReading (s.core core) = none
  next : bankNext (s.core core) = some m
  team : s.team? m.team = some t

theorem bankCheck_begins (h : BankTurn s core m t) : bankCheck s core = bankBegin s core t m := by
  simp only [bankCheck, h.idle, h.next, h.team]

theorem bankCheck_shut_fails (h : BankTurn s core m t) (hk : m.kind = .shut) {e : Nat × Nat} (he : shutCheck s t m = .error e) :
    bankCheck s core = failCheck s core t m e := by
  simp only [bankCheck_begins h, bankBegin, if_pos hk, he]

theorem bankCheck_brun_fails (h : BankTurn s core m t) (hk : m.kind ≠ .shut) {e : Nat × Nat} (he : brunCheck s t m = .error e) :
    bankCheck s core = failCheck s core t m e := by
  simp only [bankCheck_begins h, bankBegin, if_neg hk, he]

/-- A shutter operation started on the frames of its entries. -/
def shutStarted (m : Cmd) (ys : List (List (Nat × Xl))) : Cmd := { m with st := .started, blk := ys.map entryFrame }

theorem bankCheck_shut_begins (h : BankTurn s core m t) (hk : m.kind = .shut) {ys : List (List (Nat × Xl))} (hy : shutCheck s t m = .ok ys) :
    bankCheck s core = shutBegin ((fillPages s t m ys).setCmd core (shutStarted m ys)) core (shutStarted m ys) := by
  simp only [bankCheck_begins h, bankBegin, if_pos hk, hy, shutStarted]

/-- A bank run started with what its checks have translated, its program and its entries. -/
def brunStarted (m : Cmd) (r : List (Nat × Nat × Xl) × List (List (Nat × Xl))) : Cmd :=
  { m with st := .started, maps := mapsOf r.1 ++ r.2.flatten.map (fun p => (p.1, 1, p.2.pa))
           blk := r.2.map entryFrame ++ r.2.map (fun ys => (ys.head?.map (fun p => p.1 / 2 ^ 21 * 2 ^ 21)).getD 0) }

theorem bankCheck_brun_begins (h : BankTurn s core m t) (hk : m.kind ≠ .shut) {r : List (Nat × Nat × Xl) × List (List (Nat × Xl))}
    (hr : brunCheck s t m = .ok r) :
    bankCheck s core = brunGo ((fillPages (fillMaps s (cmdWho t m) r.1) t m r.2).setCmd core (brunStarted m r)) core t (brunStarted m r) := by
  simp only [bankCheck_begins h, bankBegin, if_neg hk, hr, brunStarted]

theorem bankCheck_goes_on (hr : bankReading (s.core core) = some m) (ht : s.team? m.team = some t) :
    bankCheck s core = if m.kind = .shut then shutBegin s core m else brunGo s core t m := by
  simp only [bankCheck, hr, ht]

/-- The state in which a shutter operation begins: a to-BANK operation has drained its core as far as it may. -/
def shutDrained (s : State) (core : Nat) (m : Cmd) : State := if toBank m then drainWait s core (fun _ => true) else s

theorem shutBegin_waits (hb : toBank m = true) (hd : dirtyLeft (shutDrained s core m) core (fun _ => true) = true) :
    shutBegin s core m = shutDrained s core m := by
  unfold shutDrained at hd ⊢
  simp only [hb, if_true] at hd ⊢
  simp only [shutBegin, hb, hd, if_true, Bool.and_self]

theorem shutBegin_goes (h : toBank m = false ∨ dirtyLeft (shutDrained s core m) core (fun _ => true) = false) :
    shutBegin s core m = shutGo 10 ((shutDrained s core m).setCmd core { m with checked := true }) m.uid := by
  have hn : (toBank m && dirtyLeft (shutDrained s core m) core (fun _ => true)) = false := by
    obtain h | h := h <;> simp [h]
  unfold shutDrained at hn ⊢
  simp only [shutBegin, hn, Bool.false_eq_true, if_false]

/-- The range of G from which a bank run reads its program. -/
def progRange (t : Team) (m : Cmd) : List (Nat × Nat) := [((brunOf m.desc).progVa t, 4 * (brunOf m.desc).plen)]

/-- The program of a bank run, as it is read. -/
def progRead (s : State) (t : Team) (m : Cmd) : List Word :=
  (List.range (brunOf m.desc).plen).map (fun k =>
    BitVec.ofNat 32 (fieldAt (readG s m ((brunOf m.desc).progVa t) (4 * (brunOf m.desc).plen)) (4 * k) 4))

/-- A bank run whose program reads, and whose words and frames pass. -/
structure BrunPasses (s : State) (t : Team) (m : Cmd) : Prop where
  token : tokenFail m (progRange t m) = none
  sound : badG s m ((brunOf m.desc).progVa t) (4 * (brunOf m.desc).plen) = none
  words : (progRead s t m).all (wordOk (brunOf m.desc)) = true
  frames : ∀ f, f ∈ m.blk.take (brunOf m.desc).entries → (s.frame f).st = .bank

theorem brunStart_starts (h : BrunPasses s t m) :
    brunStart s core t m = { holdFrames ((s.setCmd core { m with checked := true, maps := [], got := [], rows := [], served := [] }).fresh)
      (m.blk.take (brunOf m.desc).entries) true with runs := s.runs ++ [newRun s core t m (progRead s t m)] } := by
  obtain ⟨ht, hs, hw, hf⟩ := h
  have hall : (m.blk.take (brunOf m.desc).entries).all (fun f => (s.frame f).st == .bank) = true :=
    List.all_eq_true.mpr (fun f hm => beq_iff_eq.mpr (hf f hm))
  unfold progRange at ht
  unfold progRead at hw
  simp only [brunStart, ht, hs, Option.map_none, Option.orElse_none, hw, hall, Bool.not_true, Bool.false_eq_true, if_false, progRead]

theorem brunGo_starts (hg : gather (serveCmd s core m (progRange t m)).1 core (serveCmd s core m (progRange t m)).2.1 (progRange t m) [] = none)
    (hx : (serveCmd s core m (progRange t m)).2.2 = true) : brunGo s core t m = brunStart (serveCmd s core m (progRange t m)).1 core t m := by
  have happ : progRange t m ++ [] = progRange t m := List.append_nil _
  have hg1 : gather (serveCmd s core m (progRange t m ++ [])).1 core (serveCmd s core m (progRange t m ++ [])).2.1 (progRange t m) [] = none := by
    rw [happ]; exact hg
  refine (whenReady_nothing_to_ask (go := fun s => brunStart s core t m) hg1).trans ?_
  rw [happ, if_pos hx]

end

/-! ### Runs -/

section
variable {s : State} {u : Nat} {r : Run}

theorem grantRun_runs (hr : s.run? u = some r) (hw : r.st = .waiting)
    (hfree : ∀ y, y ∈ s.runs → y.uid ≠ u → runsMeet y r = true → y.st = .waiting ∧ runBefore y r = false)
    (hs : ∀ k, k < r.xlen / 4 → badDscr s r.die (r.xsrc + 4 * k) 4 = false) :
    grantRun s u = s.setRun { r with st := .running, xbuf := msetList 0 [] 0 (s.dscrBytes r.die r.xsrc r.xlen) } := by
  have hany : s.runs.any (fun x => x.uid != u && runsMeet x r && (x.st != .waiting || runBefore x r)) = false := by
    rw [List.any_eq_false]
    intro y hy
    by_cases hu : y.uid = u
    · simp [hu]
    · by_cases hm : runsMeet y r = true
      · obtain ⟨hst, hb⟩ := hfree y hy hu hm
        simp [hst, hb]
      · simp [hm]
  have hfind : (List.range (r.xlen / 4)).find? (fun k => badDscr s r.die (r.xsrc + 4 * k) 4) = none := by
    rw [List.find?_eq_none]
    exact fun k hk => by simp [hs k (List.mem_range.mp hk)]
  have hno : ¬ (r.st ≠ .waiting ∨ s.runs.any (fun x => x.uid != u && runsMeet x r && (x.st != .waiting || runBefore x r)) = true) := by
    simp only [hw, hany, ne_eq, not_true, Bool.false_eq_true, or_self, not_false_iff]
  simp only [grantRun, hr, if_neg hno, hfind]

theorem windowEnd_resumes (hr : s.run? u = some r) (hst : r.st = .suspended)
    (hw : ∀ w, w ∈ r.wins → w.over s.dtime (chanReqs s w.chan) = true) :
    windowEnd s u = takeRefreshes (s.setRun { r with st := .running, wins := [] }) r true := by
  have hall : r.wins.all (fun w => w.over s.dtime (chanReqs s w.chan)) = true := List.all_eq_true.mpr hw
  simp only [windowEnd, hr, hst, hall, and_self, if_true]

theorem refreshDue_taken {c : Nat} {must : Bool} (h : runOn s c = none) : refreshDue s c must = s := by
  simp only [refreshDue, h, Option.isNone_none, if_true]

theorem refreshDue_noted {c : Nat} {must : Bool} (h : runOn s c = some r) :
    refreshDue s c must = { s with
      refresh := (c, must || s.refresh.any (fun x => x.1 == c && x.2)) :: s.refresh.filter (fun x => x.1 != c) } := by
  simp only [refreshDue, h, Option.isNone_some, Bool.false_eq_true, if_false]

end

/-! ### The frames of shutter operations -/

section
variable {s : State} {u core f : Nat} {m : Cmd}

/-- No load that is not performed lies at a place that meets a test. -/
def NoLoadAt (s : State) (p : Place → Bool) : Prop :=
  ∀ (g : Group) (q : Pend) (v : Nat × PVal), g ∈ s.groups → q ∈ g.pends → v ∈ q.vals → v.2.place?.any (fun x => p x.1) = false

theorem placeTest_false {p : Place → Bool} {v : PVal} (h : v.place?.any (fun x => p x.1) = false) :
    (match v.place? with
      | some (q, _) => p q
      | none => false) = false := by
  cases hv : v.place? with
  | none => rfl
  | some q => rw [hv] at h; exact h

/-- With no load to perform at the places of a test, settling them changes nothing. -/
theorem settleWhere_of_no_load {p : Place → Bool} (h : NoLoadAt s p) : settleWhere s p = s := by
  unfold settleWhere
  suffices hs : ∀ l : List Group, l.foldl (fun s g => performIf s g.uid (fun _ v => match v.place? with
      | some (q, _) => p q
      | none => false)) s = s from hs s.groups
  intro l
  induction l with
  | nil => rfl
  | cons g l ih =>
    rw [List.foldl_cons]
    have hg : performIf s g.uid (fun _ v => match v.place? with
        | some (q, _) => p q
        | none => false) = s := by
      cases hf : s.group? g.uid with
      | none => simp only [performIf, hf]
      | some k =>
        have hk : k.uid = g.uid := by simpa using List.find?_some hf
        have hm : k ∈ s.groups := List.mem_of_find?_eq_some hf
        rw [← hk] at hf ⊢
        exact performIf_eq hf (fun q hq v hv => placeTest_false (h k q v hm hq hv))
    rw [hg]
    exact ih

/-- A HANDING frame of a shutter operation that waits for nothing more. -/
structure HandingOver (s : State) (u core f : Nat) (m : Cmd) : Prop where
  cmd : s.cmd? u = some (core, m)
  frame : m.blk[m.step]? = some f
  waits : m.wait = true
  handing : (s.frame f).st = .handing
  untouched : frameTouched s f = false
  awaited : frameAwaits s f = false
  performed : NoLoadAt s (Place.inFrame f)

/-- The state of a frame replaced by BANK, without its guest copies. -/
def frameToBank (s : State) (f : Nat) : State :=
  (dropGuests s (f * 2 ^ 21) (2 ^ 21)).setFrame f { (dropGuests s (f * 2 ^ 21) (2 ^ 21)).frame f with st := .bank }

theorem handingDone_hands_over (h : HandingOver s u core f m) :
    handingDone s u = shutAll ((frameToBank s f).setCmd core (nextFrame m)) := by
  obtain ⟨hc, hf, hw, hh, ht, ha, hp⟩ := h
  have hno : ¬ ((s.frame f).st ≠ .handing ∨ frameTouched s f = true ∨ frameAwaits s f = true) := by simp [hh, ht, ha]
  have hany : s.groups.any (fun g => g.pends.any (fun p => p.vals.any (fun v => v.2.place?.any (fun q => q.1.inFrame f)))) = false := by
    simp only [List.any_eq_false, Bool.not_eq_true]
    exact fun g hg p hpg v hv => hp g p v hg hpg hv
  simp only [handingDone, hc, hw, hf, if_neg hno, settleWhere_of_no_load hp, hany, Bool.false_eq_true, if_false, frameToBank]

/-- A started to-DIE operation at a BANK frame that no run holds. -/
structure GivingBack (s : State) (u core f : Nat) (m : Cmd) : Prop where
  cmd : s.cmd? u = some (core, m)
  frame : m.blk[m.step]? = some f
  kind : m.kind = .shut
  started : m.st = .started
  toDie : toBank m = false
  bank : (s.frame f).st = .bank
  unheld : (s.frame f).hold = 0

theorem toDieFrame_first (h : GivingBack s u core f m) (hf : firstAt s f m = true) :
    toDieFrame s u = shutAll ((homeServe (s.setFrame f {}) f).setCmd core
      { nextFrame m with lost := m.lost + (if (s.frame f).lostw then 2 ^ m.step else 0) }) := by
  obtain ⟨hc, hb, hk, hst, hd, hbk, hh⟩ := h
  simp [toDieFrame, hc, hb, hk, hst, hd, hbk, hh, hf, freeFrame]

theorem toDieFrame_later (h : GivingBack s u core f m) (hf : firstAt s f m = false) : toDieFrame s u = s := by
  obtain ⟨hc, hb, hk, hst, hd, hbk, hh⟩ := h
  simp [toDieFrame, hc, hb, hk, hst, hd, hbk, hh, hf]

end

/-- Settles O41: each event's function, in the case that the clause names. -/
theorem bankEventsComplete : Obligations.BankEventsComplete := by
  unfold Obligations.BankEventsComplete
  intro s
  refine ⟨?queue, ?runs, ?frames, ?refresh⟩
  case queue =>
    intro core m t hs ht
    have hx := exec_bankQueueNextCheck s
    refine ⟨fun hi hn => ?begins, fun hr => num_event hx hs (bankCheck_goes_on hr ht), ⟨shutBegin_waits, shutBegin_goes⟩, ?starts⟩
    case begins =>
      have h : BankTurn s core m t := ⟨hi, hn, ht⟩
      exact ⟨fun hk => ⟨fun e he => num_event hx hs (bankCheck_shut_fails h hk he), fun ys hy => num_event hx hs (bankCheck_shut_begins h hk hy)⟩,
        fun hk => ⟨fun e he => num_event hx hs (bankCheck_brun_fails h hk he), fun r hr => num_event hx hs (bankCheck_brun_begins h hk hr)⟩⟩
    case starts =>
      exact fun hg hserved htok hsound hwords hframes => (brunGo_starts hg hserved).trans (brunStart_starts ⟨htok, hsound, hwords, hframes⟩)
  case runs =>
    exact fun u r hs hr => ⟨fun hw hfree hsound => num_event (exec_bankRunGrant s) hs (grantRun_runs hr hw hfree hsound),
      fun hst hover => num_event (exec_windowEnd s) hs (windowEnd_resumes hr hst hover)⟩
  case frames =>
    intro u core f m hs hc hf
    refine ⟨fun hw hh ht ha hp => ?handing, fun hk hst hd hb hh => ?giving, rfl, rfl, rfl⟩
    case handing => exact num_event (exec_handingDone s) hs (handingDone_hands_over ⟨hc, hf, hw, hh, ht, ha, hp⟩)
    case giving =>
      have h : GivingBack s u core f m := ⟨hc, hf, hk, hst, hd, hb, hh⟩
      exact ⟨fun hfirst => num_event (exec_toDieFrame s) hs (toDieFrame_first h hfirst),
        fun hlater => num_event (exec_toDieFrame s) hs (toDieFrame_later h hlater)⟩
  case refresh =>
    exact fun c k hs => ⟨fun hn => pair_event (exec_refreshDue s) hs (refreshDue_taken hn),
      fun r hr => pair_event (exec_refreshDue s) hs (refreshDue_noted hr)⟩

end Sys2Proof.Machine
end

section
/-! PROOF. The events of the UALink fabric and of the ownership tokens (20 R418 to R429). -/

namespace Sys2Proof.Machine

open Sys2Proof

/-! ### The requests of peers -/

section
variable {s s1 : State} {r : PeerReq}

theorem request_event (hs : s.subject = .request r) (h : ualinkRequest s r = s1) : exec .ualinkRequest s = event s1 := by
  rw [exec_ualinkRequest, execUalinkRequest]
  simp only [hs, h]
  rfl

/-- A request that asks something anew: it tells nothing of a held one. -/
def Anew (r : PeerReq) : Prop := ∀ id, r.kind ≠ .perform id ∧ r.kind ≠ .withdraw id

/-- The part serves a request: its shape, its target, and a frame that is not busy (R418). -/
def servesPeer (s : State) (r : PeerReq) : Bool := servedShape r && servedTarget r && !frameBusy s r.addr

/-- What UALINK_REQUEST does with a request that asks something anew. -/
theorem ualinkRequest_anew (h : Anew r) : ualinkRequest s r =
    if servesPeer s r = false then s.send (.reply r.peer .error)
    else if tokenRefuses s r.peer r.addr = true then s.send (.reply r.peer .refused)
    else if (r.hold.isSome && r.kind != .read) = true then
      if (r.kind != .write && badMem s r.addr r.len) = true then s.send (.reply r.peer .error)
      else { s with heldReqs := s.heldReqs ++ [r] }.send (.reply r.peer (.ok []))
    else peerServe s r := by
  have hserve : (!(servedShape r && servedTarget r) || frameBusy s r.addr) = !servesPeer s r := by simp [servesPeer, Bool.not_and]
  unfold ualinkRequest
  split
  · next id hk => exact absurd hk (h id).1
  · next id hk => exact absurd hk (h id).2
  · rw [hserve]
    cases servesPeer s r <;> rfl

theorem ualinkRequest_unserved (h : Anew r) (hs : servesPeer s r = false) : ualinkRequest s r = s.send (.reply r.peer .error) := by
  rw [ualinkRequest_anew h, if_pos hs]

/-- What becomes of a request that the part serves and no token refuses. -/
theorem ualinkRequest_allowed (h : Anew r) (hs : servesPeer s r = true) (ht : tokenRefuses s r.peer r.addr = false) : ualinkRequest s r =
    if (r.hold.isSome && r.kind != .read) = true then
      if (r.kind != .write && badMem s r.addr r.len) = true then s.send (.reply r.peer .error)
      else { s with heldReqs := s.heldReqs ++ [r] }.send (.reply r.peer (.ok []))
    else peerServe s r := by
  rw [ualinkRequest_anew h, if_neg (by simp [hs]), if_neg (by simp [ht])]

theorem ualinkRequest_refused (h : Anew r) (hs : servesPeer s r = true) (ht : tokenRefuses s r.peer r.addr = true) :
    ualinkRequest s r = s.send (.reply r.peer .refused) := by
  rw [ualinkRequest_anew h, if_neg (by simp [hs]), if_pos ht]

theorem ualinkRequest_performed (h : Anew r) (hs : servesPeer s r = true) (ht : tokenRefuses s r.peer r.addr = false)
    (hh : r.hold = none ∨ r.kind = .read) : ualinkRequest s r = peerServe s r := by
  have hn : (r.hold.isSome && r.kind != .read) = false := by obtain hh | hh := hh <;> simp [hh]
  rw [ualinkRequest_allowed h hs ht, if_neg (by simp [hn])]

theorem ualinkRequest_damaged (h : Anew r) (hs : servesPeer s r = true) (ht : tokenRefuses s r.peer r.addr = false) (hh : r.hold.isSome = true)
    (hk : r.kind ≠ .read) (hw : r.kind ≠ .write) (hb : badMem s r.addr r.len = true) :
    ualinkRequest s r = s.send (.reply r.peer .error) := by
  rw [ualinkRequest_allowed h hs ht, if_pos (by simp [hh, hk]), if_pos (by simp [hw, hb])]

theorem ualinkRequest_held (h : Anew r) (hs : servesPeer s r = true) (ht : tokenRefuses s r.peer r.addr = false) (hh : r.hold.isSome = true)
    (hk : r.kind ≠ .read) (hw : r.kind = .write ∨ badMem s r.addr r.len = false) :
    ualinkRequest s r = { s with heldReqs := s.heldReqs ++ [r] }.send (.reply r.peer (.ok [])) := by
  have hn : (r.kind != .write && badMem s r.addr r.len) = false := by obtain hw | hw := hw <;> simp [hw]
  rw [ualinkRequest_allowed h hs ht, if_pos (by simp [hh, hk]), if_neg (by simp [hn])]

/-- The state without a request that it held for a peer. -/
def letGo (s : State) (peer id : Nat) : State :=
  { s with heldReqs := s.heldReqs.filter (fun x => !(x.peer == peer && x.hold == some id)) }

theorem ualinkRequest_performs {id : Nat} {q : PeerReq} (hk : r.kind = .perform id)
    (hq : s.heldReqs.find? (fun q => q.peer == r.peer && q.hold == some id) = some q) :
    ualinkRequest s r = homeServe (peerServe (letGo s r.peer id) q) (q.addr / 2 ^ 21) := by
  simp only [ualinkRequest, hk, toldHeld, hq, if_true, letGo]

theorem ualinkRequest_withdraws {id : Nat} {q : PeerReq} (hk : r.kind = .withdraw id)
    (hq : s.heldReqs.find? (fun q => q.peer == r.peer && q.hold == some id) = some q) :
    ualinkRequest s r = homeServe (letGo s r.peer id) (q.addr / 2 ^ 21) := by
  simp only [ualinkRequest, hk, toldHeld, hq, Bool.false_eq_true, if_false, letGo]

theorem peerServe_drained (hl : s.laters.any (Later.ofPeer r.peer) = false) (hd : linesDrained s [r.addr / 128] = .ok s1) :
    peerServe s r = serveRequest s1 r := by
  simp only [peerServe, hl, Bool.false_eq_true, if_false, hd]

theorem peerServe_waits (hl : s.laters.any (Later.ofPeer r.peer) = false) (hd : linesDrained s [r.addr / 128] = .error s1) :
    peerServe s r = { s1 with laters := s1.laters ++ [.peer r] } := by
  simp only [peerServe, hl, Bool.false_eq_true, if_false, hd]

end

/-! ### Responses and links -/

section
variable {s : State} {r : Remote} {id : Nat}

theorem remoteResponse_event {mark : Bool} {resp : RespKind} (hs : s.subject = .response id mark resp)
    (hr : s.remotes.find? (fun r => r.uid == id && r.sent) = some r) :
    exec .remoteResponse s = event (answer (if mark && !r.host then rotate s r.core (bitsOf r.addr 50 41) else s) r resp) := by
  rw [exec_remoteResponse, execRemoteResponse]
  simp only [hs, remoteResponse, hr]
  rfl

theorem requestTimeout_fails (hr : s.remotes.find? (fun r => r.uid == id && !r.host && r.sent) = some r)
    (hlate : r.since + 50000 ≤ s.dtime ∨ s.links = []) : requestTimeout s id = answer s r .error := by
  have h : (decide (r.since + 50000 ≤ s.dtime) || s.links.isEmpty) = true := by obtain h | h := hlate <;> simp [h]
  simp only [requestTimeout, hr, h, if_true]

theorem linkStateChange_event {p : Nat} {up : Bool} (hs : s.subject = .flag p up) : exec .linkStateChange s = event (linkChange s p up) := by
  rw [exec_linkStateChange, execLinkStateChange]
  simp only [hs]
  rfl

end

/-! ### Tokens -/

section
variable {s : State} {r n d : Nat} {t : TokEntry}

theorem tokenRequest_queues (hm : isMem (r * 2 ^ 21) = true) :
    tokenRequest s r d = homeServe (s.setHomeTok r { s.homeTok r with queue := (s.homeTok r).queue ++ [d] }) r := by
  simp only [tokenRequest, hm, if_true]

theorem tokenGiveBack_frees (h : (s.homeTok r).holder = some d) : tokenGiveBack s r d = homeFreed s r := by
  simp only [tokenGiveBack, h, if_true]

theorem recallDone_frees (h : (s.homeTok r).holder = some d) (hr : (s.homeTok r).recalling = true) : recallDone s r d = homeFreed s r := by
  simp only [recallDone, h, hr, and_self, if_true]

theorem tokenRecall_yields (h : tokenOf s r = some (n, t)) (hst : t.st = .held) : tokenRecall s r = yieldToken s n .recalling := by
  simp only [tokenRecall, h, hst, if_true]

/-- An OWNACQ that waits for a token takes it, for its team. -/
def waiterTakes (n : Nat) (s : State) (u : Nat) : State :=
  match s.team? u with
  | some t => takeToken s n t.core t.ctx
  | none => s

theorem tokenGrant_grants (h : tokenOf s r = some (n, t)) (hst : t.st = .pending) :
    tokenGrant s r = endParks ((ownWaits s (isOwn r)).foldl (waiterTakes n) (setToken s n { t with st := .held })) (isOwn r) := by
  have hn : ¬ t.st ≠ .pending := by simp [hst]
  simp only [tokenGrant, h, if_neg hn]
  rfl

end

/-- Settles O42: each event's function, in the case that the clause names. -/
theorem fabricEventsComplete : Obligations.FabricEventsComplete := by
  unfold Obligations.FabricEventsComplete
  intro s
  refine ⟨?requests, ?peers, ?responses, ?timeouts, ?links, ?homes, ?holders⟩
  case requests =>
    intro r hs
    refine ⟨fun h => ⟨fun hsv => request_event hs (ualinkRequest_unserved h hsv), fun hsv => ⟨?refused, ?performed, ?held⟩⟩, fun id q hq => ?told⟩
    case refused => exact fun ht => request_event hs (ualinkRequest_refused h hsv ht)
    case performed => exact fun ht hh => request_event hs (ualinkRequest_performed h hsv ht hh)
    case held =>
      exact fun ht hh hk => ⟨fun hw hb => request_event hs (ualinkRequest_damaged h hsv ht hh hk hw hb),
        fun hw => request_event hs (ualinkRequest_held h hsv ht hh hk hw)⟩
    case told =>
      exact ⟨fun hk => request_event hs (ualinkRequest_performs hk hq), fun hk => request_event hs (ualinkRequest_withdraws hk hq)⟩
  case peers => exact fun t r hl => ⟨fun t1 hd => peerServe_drained hl hd, fun t1 hd => peerServe_waits hl hd⟩
  case responses => exact fun id mark resp r hs hr => remoteResponse_event hs hr
  case timeouts => exact fun id r hs hr hlate => num_event (exec_remoteRequestTimeout s) hs (requestTimeout_fails hr hlate)
  case links => exact fun p up hs => linkStateChange_event hs
  case homes =>
    exact fun r d hs => ⟨fun hm => pair_event (exec_tokenRequest s) hs (tokenRequest_queues hm),
      fun hh => ⟨pair_event (exec_tokenGiveBack s) hs (tokenGiveBack_frees hh),
        fun hr => pair_event (exec_recallDone s) hs (recallDone_frees hh hr)⟩⟩
  case holders =>
    exact fun r n t hs ht => ⟨fun hst => num_event (exec_tokenRecall s) hs (tokenRecall_yields ht hst),
      fun hst => num_event (exec_tokenGrant s) hs (tokenGrant_grants ht hst)⟩

end Sys2Proof.Machine
end

section
/-! PROOF. The events of the Lintel broadcast plane (20 R433 to R440, R459). -/

namespace Sys2Proof.Machine

open Sys2Proof

/-! ### The token and its guard -/

section
variable {s : State}

/-- The state of a member that has taken what a schedule carries: the locked members, and the group time where its own is another. -/
def scheduled (s : State) (now : Nat) (locks : Word) : State :=
  let sl : State := { s with lintel := { s.lintel with locks := locks } }
  if timeSource sl then sl else steerTo sl now

theorem scheduled_station (s : State) (now : Nat) (locks : Word) : (scheduled s now locks).lintel.station = s.lintel.station := by
  unfold scheduled
  dsimp only
  split <;> rfl

theorem tokenArrival_eq {n now : Nat} {locks : Word} (hu : s.lintel.st = .up) : tokenArrival s n now locks =
    if s.lintel.station = .wait then
      { (sendClass 0 (sendClass 1 (scheduled s now locks, BitVec.ofNat 32 n))).1 with
        lintel := { (sendClass 0 (sendClass 1 (scheduled s now locks, BitVec.ofNat 32 n))).1.lintel with station := .pass } }
    else scheduled s now locks := by
  have hn : ¬ s.lintel.st ≠ .up := by simp [hu]
  rw [← scheduled_station s now locks]
  unfold tokenArrival
  rw [if_neg hn]
  rfl

theorem tokenArrival_event {n now : Nat} {locks : Word} {t : State} (hs : s.subject = .schedule n now locks) (h : tokenArrival s n now locks = t) :
    exec .tokenArrival s = event t := by
  rw [exec_tokenArrival, execTokenArrival]
  simp only [hs, h]
  rfl

/-- An event without a subject leaves the state that its function gives. -/
theorem none_event {i : Instr} {f : State → State} {t : State} (hi : exec i s = onNone f s) (hf : f s = t) : exec i s = event t := by
  rw [hi, onNone, hf]
  rfl

theorem guardElapsed_passes (hu : s.lintel.st = .up) (hp : s.lintel.station = .pass) :
    guardElapsed s = { s with lintel := { s.lintel with station := .wait } } := by
  simp only [guardElapsed, hu, hp, and_self, if_true]

theorem leaveUp_up (hu : s.lintel.st = .up) : leaveUp s = toForming s := by
  simp only [leaveUp, hu, if_true]

end

/-! ### Frames -/

section
variable {s t : State} {b : List Byte}

theorem frame_event {o : Nat} (hs : s.subject = .bytes o b) (h : frameReceive s b = t) : exec .lintelFrameReceive s = event t := by
  rw [exec_lintelFrameReceive, execLintelFrameReceive]
  simp only [hs, h]
  rfl

/-- A frame is whole and has the number after those that have come. -/
def frameNext (s : State) (b : List Byte) : Bool := frameWhole b && BitVec.ofNat 32 (fieldAt b 4 4) == nextSeq s.lintel

theorem not_frameNext (s : State) (b : List Byte) : (!frameWhole b || BitVec.ofNat 32 (fieldAt b 4 4) != nextSeq s.lintel) = !frameNext s b := by
  rw [frameNext, Bool.not_and]
  rfl

theorem frameReceive_other (hu : s.lintel.st = .up) (h : frameNext s b = false) : frameReceive s b = toForming s := by
  simp only [frameReceive, hu, ne_eq, not_true, if_false, not_frameNext, h, Bool.not_false, if_true]

theorem frameReceive_next (hu : s.lintel.st = .up) (h : frameNext s b = true) :
    frameReceive s b = applyAll (setFrames s (s.lintel.frames ++ [⟨byteAt b 0 % 32 == s.lintel.stn,
      (parseRecs b.length ((b.drop 16).take (b.length - 20))).map (fun q => (q.hdr, q.data))⟩])) := by
  simp only [frameReceive, hu, ne_eq, not_true, if_false, not_frameNext, h, Bool.not_true, Bool.false_eq_true]

theorem applyFrames_applies {n : Nat} {own : Bool} {q : Nat × List Byte} {qs : List (Nat × List Byte)} {rest : List LintelFrame}
    (hf : s.lintel.frames = ⟨own, q :: qs⟩ :: rest) (hq : applyRec own s ⟨q.1, q.2⟩ = .ok t) :
    applyFrames (n + 1) s = applyFrames n (setFrames t (⟨own, qs⟩ :: rest)) := by
  simp only [applyFrames, hf, hq]

theorem applyFrames_waits {n : Nat} {own : Bool} {q : Nat × List Byte} {qs : List (Nat × List Byte)} {rest : List LintelFrame}
    (hf : s.lintel.frames = ⟨own, q :: qs⟩ :: rest) (hq : applyRec own s ⟨q.1, q.2⟩ = .error t) : applyFrames (n + 1) s = t := by
  simp only [applyFrames, hf, hq]

theorem applyFrames_counts {n : Nat} {own : Bool} {rest : List LintelFrame} (hf : s.lintel.frames = ⟨own, []⟩ :: rest) :
    applyFrames (n + 1) s = applyFrames n { s with lintel := { s.lintel with frames := rest, seq := s.lintel.seq + 1 } } := by
  simp only [applyFrames, hf]

end

/-! ### The roll call -/

section
variable {s t : State} {others : List (Nat × Nat × Bool)}

/-- The reports of a roll call, this station's own before the others'. -/
def reportsOf (s : State) (others : List (Nat × Nat × Bool)) : List (Nat × Nat × Bool) :=
  (s.lintel.stn, s.lintel.seq.toNat, s.lintel.fromDown) :: others

/-- This station is kept by a roll call. -/
def keptSelf (s : State) (others : List (Nat × Nat × Bool)) : Bool :=
  kept (reportsOf s others) (s.lintel.stn, s.lintel.seq.toNat, s.lintel.fromDown)

/-- A member that a roll call has kept: UP with the kept stations, and the records that it had sent failed. -/
def keptUp (s : State) (others : List (Nat × Nat × Bool)) : State :=
  failRecords { s with lintel := { s.lintel with st := .up, station := .wait, memb := keptMask (reportsOf s others)
                                                 seq := BitVec.ofNat 32 (highSeq (reportsOf s others)), sent := [], fromDown := false } } s.lintel.sent

theorem rollCallEnd_kept (hf : s.lintel.st = .forming) (hk : keptSelf s others = true) :
    rollCallEnd s others = if keptMask (reportsOf s others) = s.lintel.memb then keptUp s others else raiseLevt (keptUp s others) := by
  unfold keptSelf reportsOf at hk
  simp only [rollCallEnd, hf, ne_eq, not_true, if_false, hk, if_true, keptUp, reportsOf]
  rfl

theorem rollCallEnd_dropped (hf : s.lintel.st = .forming) (hk : keptSelf s others = false) :
    rollCallEnd s others = raiseLevt (failAllRecords
      { s with lintel := { s.lintel with st := .dropped, drops := Nat.min 255 (s.lintel.drops + 1), fromDown := false } }) := by
  unfold keptSelf reportsOf at hk
  simp only [rollCallEnd, hf, ne_eq, not_true, if_false, hk, Bool.false_eq_true]

theorem reports_event (hs : s.subject = .reports others) (h : rollCallEnd s others = t) : exec .rollCallEnd s = event (distribute t) := by
  rw [exec_rollCallEnd, execRollCallEnd]
  simp only [hs, h]
  rfl

end

/-! ### LCTL -/

section
variable {s t : State} {o w v : Nat}

theorem enable_event (hs : s.subject = .reg o w v) (h : lintelEnable s o w v = t) : exec .lintelEnable s = event t := by
  rw [exec_lintelEnable, execLintelEnable]
  simp only [hs, h]
  rfl

theorem disable_event (hs : s.subject = .reg o w v) (h : lintelDisable s o w v = t) : exec .lintelDisable s = event t := by
  rw [exec_lintelDisable, execLintelDisable]
  simp only [hs, h]
  rfl

/-- LCTL written with a value of EN. -/
def lctlWritten (s : State) (o w v : Nat) (en : Bool) : State :=
  { bar0Write s o w v with lintel := { (bar0Write s o w v).lintel with en := en } }

theorem lintelEnable_down (hd : s.lintel.st = .down) : lintelEnable s o w v =
    toForming { lctlWritten s o w v true with lintel := { (lctlWritten s o w v true).lintel with fromDown := true } } := by
  simp only [lintelEnable, hd, if_true, lctlWritten]

theorem lintelEnable_not_down (hd : s.lintel.st ≠ .down) : lintelEnable s o w v = lctlWritten s o w v true := by
  simp only [lintelEnable, if_neg hd, lctlWritten]

/-- A member that has left: DOWN, and its records failed. -/
def leftDown (s : State) : State := failAllRecords { s with lintel := { s.lintel with st := .down, station := .wait, frames := [] } }

theorem lintelDisable_down (hd : s.lintel.st = .down) : lintelDisable s o w v = lctlWritten s o w v false := by
  simp only [lintelDisable, hd, if_true, lctlWritten]

theorem lintelDisable_not_down (hd : s.lintel.st ≠ .down) : lintelDisable s o w v = lctlWritten (leftDown s) o w v false := by
  simp only [lintelDisable, if_neg hd, lctlWritten, leftDown]

end

/-- Settles O43: each event's function, in the case that the clause names. -/
theorem lintelEventsComplete : Obligations.LintelEventsComplete := by
  unfold Obligations.LintelEventsComplete
  intro s
  refine ⟨?token, ?member, ?roll, ?lctl⟩
  case token =>
    intro n now locks hs hu
    have h := tokenArrival_eq (n := n) (now := now) (locks := locks) hu
    exact ⟨fun hw => tokenArrival_event hs (h.trans (if_pos hw)), fun hw => tokenArrival_event hs (h.trans (if_neg hw))⟩
  case member =>
    intro hu
    refine ⟨fun hp => none_event (exec_guardElapsed s) (guardElapsed_passes hu hp), none_event (exec_scheduleTimeout s) (leaveUp_up hu),
      none_event (exec_rollCall s) (leaveUp_up hu), ?receive, ?apply⟩
    case receive =>
      exact fun o b hs => ⟨fun h => frame_event hs (frameReceive_other hu h), fun h => frame_event hs (frameReceive_next hu h)⟩
    case apply =>
      exact fun n own rest => ⟨fun q qs hf => ⟨fun t hq => applyFrames_applies hf hq, fun t hq => applyFrames_waits hf hq⟩,
        fun hf => applyFrames_counts hf⟩
  case roll =>
    exact fun others hs hf => ⟨fun hk => reports_event hs (rollCallEnd_kept hf hk), fun hk => reports_event hs (rollCallEnd_dropped hf hk)⟩
  case lctl =>
    exact fun o w v hs => ⟨fun hd => enable_event hs (lintelEnable_down hd),
      fun hd => ⟨enable_event hs (lintelEnable_not_down hd), disable_event hs (lintelDisable_not_down hd)⟩,
      fun hd => disable_event hs (lintelDisable_down hd)⟩

end Sys2Proof.Machine
end

section
/-! PROOF. The events of the host (22 R447 to R457): boot, register writes, BAR2 and the host commands; then those of the device itself:
the time port, the governor, the coolant and the end of a context. -/

namespace Sys2Proof.Machine

open Sys2Proof

/-! ### Boot -/

section
variable {s t : State}

theorem withWrite_reg {o w v : Nat} (hs : s.subject = .reg o w v) : withWrite s = bar0Write s o w v := by
  simp only [withWrite, hs]

theorem registerWrite_event {o w v : Nat} (hs : s.subject = .reg o w v) : exec .registerWrite s = event (registerWrite s o w v) := by
  rw [exec_registerWrite, execRegisterWrite]
  simp only [hs]
  rfl

theorem registerWrite_plain {o w v : Nat} (h : (writeEvent o w v).1 = .registerWrite) : registerWrite s o w v = bar0Write s o w v := by
  simp only [registerWrite, h]

theorem loadVerify_begins (hb : t.dev.boot = .waitImage ∨ t.dev.boot = .rejected) (hlo : 3073 ≤ t.dev.mblen) (hhi : t.dev.mblen ≤ 2 ^ 25) :
    loadVerify t = { t with dev := { t.dev with boot := .verify, reason := 0, latAddr := t.dev.mbaddr, latLen := t.dev.mblen } } := by
  simp only [loadVerify, if_pos hb, if_pos (And.intro hlo hhi)]

theorem loadVerify_rejects (hb : t.dev.boot = .waitImage ∨ t.dev.boot = .rejected) (hl : t.dev.mblen < 3073 ∨ 2 ^ 25 < t.dev.mblen) :
    loadVerify t = { t with dev := { t.dev with boot := .rejected, reason := 1 } } := by
  have hn : ¬ (3073 ≤ t.dev.mblen ∧ t.dev.mblen ≤ 2 ^ 25) := by omega
  simp only [loadVerify, if_pos hb, if_neg hn]

/-- The image that verification takes: the host's bytes in the latched length. -/
def imageTaken (s : State) (b : List Byte) : List Byte := (b ++ List.replicate s.dev.latLen 0).take s.dev.latLen

theorem image_event {b : List Byte} (hs : s.subject = .image b) (h : verificationEnd s b = t) : exec .imageVerificationEnd s = event t := by
  rw [exec_imageVerificationEnd, execImageVerificationEnd]
  simp only [hs, h]
  rfl

theorem verificationEnd_rejects {b : List Byte} (hb : s.dev.boot = .verify) (hr : imageReason (imageTaken s b) ≠ 0) :
    verificationEnd s b = { putImage s 0 (imageTaken s b) with
      dev := { s.dev with boot := .rejected, reason := imageReason (imageTaken s b) } } := by
  unfold imageTaken at hr
  simp only [verificationEnd, hb, ne_eq, not_true, if_false, hr, not_false_iff, if_true, imageTaken]

/-- A part whose image has passed: RUNNING, with the image in the scratch of both dies. -/
def imageRuns (s : State) (img : List Byte) : State :=
  { putImage (putImage s 0 img) 1 img with
    dev := { s.dev with boot := .running, reason := 0, fwLen := s.dev.latLen, digest := Config.shake256 img } }

theorem verificationEnd_runs {b : List Byte} (hb : s.dev.boot = .verify) (hr : imageReason (imageTaken s b) = 0) :
    verificationEnd s b = (List.range 16).foldl rejectCode (startFirmware (startFirmware (imageRuns s (imageTaken s b)) 0) 1) := by
  unfold imageTaken at hr
  simp only [verificationEnd, hb, ne_eq, not_true, if_false, hr, imageTaken, imageRuns]

/-- What FATAL_ERROR does to a part that is not dead yet: every core drains, the dump is written, and then its length. -/
theorem fatalError_eq (hb : s.dev.boot ≠ .fatal) :
    fatalError s =
      (let d := (Config.dump s.draws).take s.dev.dumplen
       let s1 := (((listedCores s).foldl drainCore s).send (.hostWrite s.dev.dumpbase d)).send (.hostWrite s.dev.dumpbase (bytesOf 8 d.length))
       { s1 with dev := { s1.dev with boot := .fatal, reason := 4 } }) := by
  simp only [fatalError, if_neg hb]

end

/-! ### BAR2 -/

section
variable {s s1 : State} {o n : Nat}

/-- A BAR2 access in the window, all of whose bytes lie in memory that is not busy. -/
structure Bar2Reaches (s : State) (o n : Nat) : Prop where
  window : o + n ≤ 2 ^ s.dev.b2log
  memory : ∀ pa, pa ∈ bar2Addrs s o n → isMem pa = true ∧ frameBusy s pa = false

/-- The home lines of a BAR2 access. -/
def bar2Lines (s : State) (o n : Nat) : List Nat := ((bar2Addrs s o n).map (fun pa => pa / 128)).eraseDups

theorem Bar2Reaches.tests (h : Bar2Reaches s o n) :
    inBar2 s o n = true ∧ (bar2Addrs s o n).all isMem = true ∧ (bar2Addrs s o n).any (frameBusy s) = false :=
  ⟨decide_eq_true h.window, List.all_eq_true.mpr (fun pa hp => (h.memory pa hp).1),
    List.any_eq_false.mpr (fun pa hp => by simp [(h.memory pa hp).2])⟩

theorem bar2Read_reads (h : Bar2Reaches s o n) (hd : linesDrained s (bar2Lines s o n) = .ok s1) :
    bar2Read s o n = s1.send (.readData ((bar2Addrs s o n).map (hostByte s1))) := by
  obtain ⟨hw, hm, hb⟩ := h.tests
  unfold bar2Lines at hd
  simp only [bar2Read, hw, hm, hb, Bool.not_true, Bool.false_eq_true, if_false, hd]

theorem bar2Read_waits (h : Bar2Reaches s o n) (hd : linesDrained s (bar2Lines s o n) = .error s1) :
    bar2Read s o n = { s1 with laters := s1.laters ++ [.bar2 o n] } := by
  obtain ⟨hw, hm, hb⟩ := h.tests
  unfold bar2Lines at hd
  simp only [bar2Read, hw, hm, hb, Bool.not_true, Bool.false_eq_true, if_false, hd]

theorem bar2Write_event {b : List Byte} (hs : s.subject = .bytes o b) (hw : o + b.length ≤ 2 ^ s.dev.b2log) :
    exec .bar2Write s = event ((wordParts ((bar2Addrs s o b.length).zip b)).foldl bar2Part s) := by
  have hin : inBar2 s o b.length = true := decide_eq_true hw
  rw [exec_bar2Write, execBar2Write]
  simp only [hs, bar2Write, hin, if_true]
  rfl

end

/-! ### Host commands -/

section
variable {s s0 : State} {c : Nat} {b r : List Byte} {launch : Bool}

/-- The event of a SUBMIT, or of a FEED. -/
theorem append_event {t : State} (hs : s.subject = .record c (some r)) (h : hostAppend s c launch (some r) = t) :
    exec (if launch then .submit else .feed) s = event t := by
  cases launch with
  | true =>
    rw [if_pos rfl, exec_submit, execSubmit]
    simp only [hs, h]
    rfl
  | false =>
    rw [if_neg Bool.false_ne_true, exec_feed, execFeed]
    simp only [hs, h]
    rfl

/-- A well-formed SUBMIT or FEED is latched, its record has been read, and its ring has room. -/
structure Appends (s : State) (c : Nat) (launch : Bool) (b : List Byte) : Prop where
  latched : latched? s c (if launch then 1 else 2) = some b
  fresh : (s.ctx c).hrec = none
  fields : (onlyNamed b [(8, 4), (16, 8)] && decide (fieldAt b 8 4 < (if launch then 16 else 64)) && fieldAt b 16 8 % recBytes launch == 0
    && (queueOf (s.ctx c) launch (fieldAt b 8 4)).ok) = true
  room : (queueOf (s.ctx c) launch (fieldAt b 8 4)).full = false

theorem hostAppend_eq (h : Appends s c launch b) : hostAppend s c launch (some r) = appendHost s c launch (fieldAt b 8 4) (some r) := by
  obtain ⟨hl, hf, hn, hr⟩ := h
  simp only [hostAppend, hl, hf, Option.getD_none, hn, hr, Bool.not_true, Bool.false_eq_true, if_false]

/-- The ring of a host command's queue. -/
def hostRing (s : State) (c : Nat) (launch : Bool) (b : List Byte) : Queue := queueOf (s.ctx c) launch (fieldAt b 8 4)

theorem hostAppend_appends (h : Appends s c launch b) {y : Xl}
    (hf : frontReady s c .store (ringVa (hostRing s c launch b) launch (hostRing s c launch b).pi) = .ok s0)
    (hx : ringXlate s0 c launch (hostRing s c launch b) (hostRing s c launch b).pi .store = .ok y) :
    hostAppend s c launch (some r) =
      (let s1 := appendRec s0 c launch (fieldAt b 8 4) y.pa ((r ++ List.replicate (recBytes launch) 0).take (recBytes launch)) 0
       hostDone (if launch then s1 else serveAll s1 c false (fieldAt b 8 4)) c 1) := by
  unfold hostRing at hf hx
  simp only [hostAppend_eq h, appendHost, hf, hx]

theorem hostAppend_waits (h : Appends s c launch b)
    (hf : frontReady s c .store (ringVa (hostRing s c launch b) launch (hostRing s c launch b).pi) = .error s0) :
    hostAppend s c launch (some r) = s0.setCtx c { s0.ctx c with hrec := some (some r) } := by
  unfold hostRing at hf
  simp only [hostAppend_eq h, appendHost, hf]

/-- A latched command of a code may take effect. -/
theorem latched_of {code : Nat} (h : s.dev.boot = .running ∧ (s.ctx c).hsts = 0 ∧ (s.ctx c).latched = b) (hb : byteAt b 0 = code) :
    latched? s c code = some b := by
  obtain ⟨hr, hh, hl⟩ := h
  simp only [latched?, hr, hh, hl, hb, and_self, if_true]

theorem resume_event {t : State} (hs : s.subject = .num c) (h : hostResume s c = t) : exec .resume s = event t := by
  rw [exec_resume, execResume]
  simp only [hs, h]
  rfl

theorem hostResume_resumes {g : Group} (hl : latched? s c 3 = some b)
    (hn : onlyNamed b [(8, 4), (0xC, 4), (0x10, 1), (0x14, 4)] = true) (hx : fieldAt b 0x10 1 ≤ 31) (hp : fieldAt b 0x14 4 % 4 = 0)
    (hg : namedGroup s (fieldAt b 8 4) (fieldAt b 0xC 4) (fieldAt b 0x10 1) = some g) (hr : resumable s g = true) (hq : g.quiet = true)
    (hrec : g.records = []) :
    hostResume s c = hostDone (resumeGroup s g (BitVec.ofNat 32 (fieldAt b 0x14 4))) c 1 := by
  have hmay : mayResume g = true := by simp [mayResume, hq, hrec]
  simp only [hostResume, hl, hg, hn, hx, hp, hr, hmay, decide_true, beq_self_eq_true, Bool.and_self, if_true]

theorem kill_event {t : State} (hs : s.subject = .num c) (h : hostKill s c = t) : exec .kill s = event t := by
  rw [exec_kill, execKill]
  simp only [hs, h]
  rfl

theorem hostKill_kills {l : Launch} (hl : latched? s c 4 = some b) (hn : onlyNamed b [(8, 4)] = true) (hk : s.launch? (fieldAt b 8 4) = some l)
    (he : l.st ≠ .ended) : hostKill s c = hostDone (killLaunch s l.lch true) c 1 := by
  have hne : (l.st != .ended) = true := bne_iff_ne.mpr he
  simp only [hostKill, hl, hk, hn, hne, Bool.and_self, if_true]

theorem hostTlbinv_begins (hl : latched? s c 5 = some b) (hn : onlyNamed b [(8, 8), (16, 8)] = true)
    (hr : fieldAt b 8 8 + fieldAt b 16 8 ≤ 2 ^ 56) (hf : (firmwareRelease s).2 = true) :
    hostTlbinv s c =
      (let a := fieldAt b 8 8
       let n := fieldAt b 16 8
       let t := (firmwareRelease s).1.setCtx c { (firmwareRelease s).1.ctx c with latched := [] }
       beginInval t.fresh t.uid (some c) (a / 2 ^ 16 * 2 ^ 16)
         (if n = 0 then a / 2 ^ 16 * 2 ^ 16 else (a + n + 2 ^ 16 - 1) / 2 ^ 16 * 2 ^ 16) (some c)) := by
  have ht : (onlyNamed b [(8, 8), (16, 8)] && decide (fieldAt b 8 8 + fieldAt b 16 8 ≤ 2 ^ 56)) = true := by
    rw [hn, decide_eq_true hr]; rfl
  simp only [hostTlbinv, hl, ht, hf, Bool.not_true, Bool.false_eq_true, if_false, invalRange]

end

/-- Settles O44: each event's function, in the case that the clause names. -/
theorem hostEventsComplete : Obligations.HostEventsComplete := by
  unfold Obligations.HostEventsComplete
  intro s
  refine ⟨none_event (exec_powerOnReset s) rfl, ?writes, ?image, ?fatal, ?reads, ?stores, ?commands⟩
  case writes =>
    intro o w v hs
    refine ⟨registerWrite_event hs, registerWrite_plain, none_event (exec_attestationSign s) (congrArg attest (withWrite_reg hs)), fun hb => ?_⟩
    have hload : ∀ {t : State}, loadVerify (bar0Write s o w v) = t → exec .mbcmdLoadVerify s = event t := fun h =>
      none_event (exec_mbcmdLoadVerify s) ((congrArg loadVerify (withWrite_reg hs)).trans h)
    exact ⟨fun hlo hhi => hload (loadVerify_begins hb hlo hhi), fun hl => hload (loadVerify_rejects hb hl)⟩
  case image =>
    exact fun b hs hb => ⟨fun hr => image_event hs (verificationEnd_rejects hb hr), fun hr => image_event hs (verificationEnd_runs hb hr)⟩
  case fatal => exact fun hb => none_event (exec_fatalError s) (fatalError_eq hb)
  case reads =>
    intro o n hs hw hm
    have h : Bar2Reaches s o n := ⟨hw, hm⟩
    exact ⟨fun s1 hd => pair_event (exec_bar2Read s) hs (bar2Read_reads h hd), fun s1 hd => pair_event (exec_bar2Read s) hs (bar2Read_waits h hd)⟩
  case stores => exact fun o b hs hw => bar2Write_event hs hw
  case commands =>
    intro c b
    refine ⟨fun r y launch hs hrec hl hn hroom => ?append, fun hs hlat => ⟨?resume, ?kill, ?tlbinv⟩⟩
    case append =>
      have h : Appends s c launch b := ⟨hl, hrec, hn, hroom⟩
      exact ⟨fun s0 hf hx => append_event hs (hostAppend_appends h hf hx), fun s0 hf => append_event hs (hostAppend_waits h hf)⟩
    case resume =>
      exact fun g hb hn hx hp hg hr hq hrec => resume_event hs (hostResume_resumes (latched_of hlat hb) hn hx hp hg hr hq hrec)
    case kill => exact fun l hb hn hk he => kill_event hs (hostKill_kills (latched_of hlat hb) hn hk he)
    case tlbinv => exact fun hb hn hr hf => num_event (exec_hostTlbinv s) hs (hostTlbinv_begins (latched_of hlat hb) hn hr hf)

/-! ### The device itself -/

section
variable {s : State} {n : Nat}

/-- A part that has noted the lock of its time port. -/
def portLocked (s : State) : State := { s with dev := { s.dev with portLock := true, timeLocked := true } }

theorem portLock_member (hu : s.lintel.st = .up) :
    portLock s n = if timeSource (portLocked s) then steerTo (portLocked s) n else portLocked s := by
  unfold portLock
  rw [if_pos hu]
  rfl

theorem portLock_steps (hu : s.lintel.st ≠ .up) (ht : s.dev.timeLocked = false) (ha : s.dev.anyAccepted = false) :
    portLock s n = { portLocked s with dtime := Nat.max s.dtime n } := by
  simp only [portLock, if_neg hu, ht, ha, Bool.not_false, Bool.and_self, if_true, portLocked]

theorem portLock_steers (hu : s.lintel.st ≠ .up) (h : s.dev.timeLocked = true ∨ s.dev.anyAccepted = true) :
    portLock s n = steerTo (portLocked s) n := by
  have hn : (!s.dev.timeLocked && !s.dev.anyAccepted) = false := by obtain h | h := h <;> simp [h]
  simp only [portLock, if_neg hu, hn, Bool.false_eq_true, if_false, portLocked]

/-- A clock's share of device time: 5/9 ns and what the steering allows. -/
theorem tick_time (s : State) :
    (tick s).dtime * 9000000 + (tick s).frac = s.dtime * 9000000 + s.frac + (5000000 + max (-50) (min 50 s.dev.steer)).toNat := by
  have hstep : steerStep s.dev = max (-50) (min 50 s.dev.steer) := rfl
  simp only [tick, hstep]
  have := Nat.div_add_mod (s.frac + (5000000 + max (-50) (min 50 s.dev.steer)).toNat) 9000000
  omega

theorem governor_above (h : capOf s.dev < n) :
    governor s n = { s with dev := { s.dev with throttle := moreThrottle s.dev.throttle } } := by
  simp only [governor, if_pos h]

theorem governor_below (h : n ≤ capOf s.dev) : governor s n = { s with dev := { s.dev with throttle := .none } } := by
  simp only [governor, if_neg (not_lt.mpr h)]

theorem contextEnd_event (hs : s.subject = .num n) : exec .contextEnd s = event (contextEnd s n) := by
  rw [exec_contextEnd, execContextEnd]
  simp only [hs]
  rfl

theorem contextEnd_written {o w v : Nat} (hs : s.subject = .reg o w v) (he : endedBy o w v = some n) :
    exec .contextEnd s = event (contextEnd (bar0Write s o w v) n) := by
  rw [exec_contextEnd, execContextEnd]
  simp only [hs, endByWrite, he]
  rfl

end

/-- Settles O45: each event's function, in the case that the clause names. -/
theorem deviceEventsComplete : Obligations.DeviceEventsComplete := by
  unfold Obligations.DeviceEventsComplete
  intro s
  refine ⟨?numbered, ?written, none_event (exec_timePortLockLoss s) rfl, none_event (exec_coolantOver45c s) rfl,
    none_event (exec_coolantBelow40c s) rfl⟩
  case numbered =>
    intro n hs
    refine ⟨⟨fun hu => ?member, fun hu ht ha => ?steps, fun hu h => ?steers⟩, tick_time s,
      fun h => num_event (exec_governorTick s) hs (governor_above h), fun h => num_event (exec_governorTick s) hs (governor_below h),
      contextEnd_event hs⟩
    case member => exact num_event (exec_timePortLock s) hs (portLock_member hu)
    case steps => exact num_event (exec_timePortLock s) hs (portLock_steps hu ht ha)
    case steers => exact num_event (exec_timePortLock s) hs (portLock_steers hu h)
  case written => exact fun o w v n hs he => contextEnd_written hs he

end Sys2Proof.Machine
end

section
/-! PROOF. Reading back what was written (10 R217, 11 R236): the homes, the scratch of a core, and the lines of its L1. -/

namespace Sys2Proof.Machine

open Sys2Proof

/-! ### The rules of a write at each level -/

section
variable {s : State} {core ctx p : Nat} {b : List Byte}

theorem getD_blank {l : List Byte} {i : Nat} (h : i < l.length) : l.getD i blankByte = l.getD i 0 := by
  rw [List.getD_eq_getElem l _ h, List.getD_eq_getElem l _ h]

/-- A byte after bytes are set in a memory. -/
theorem mget_bytes (m : List (Nat × Byte)) (k j : Nat) (b : List Byte) :
    mget blankByte (msetList blankByte m k b) j = if k ≤ j ∧ j < k + b.length then b.getD (j - k) 0 else mget blankByte m j := by
  rw [mget_msetList]
  split
  · next h => exact getD_blank (by omega)
  · rfl

theorem homeByte_setHome (s : State) (p : Nat) (b : List Byte) (q : Nat) :
    (s.setHome p b).homeByte q = if p ≤ q ∧ q < p + b.length then b.getD (q - p) 0 else s.homeByte q :=
  mget_bytes s.mem p q b

theorem scr_setScr (s : State) (core p : Nat) (b : List Byte) (k : Nat) :
    mget blankByte (s.setScr core p b).scr k =
      if scrKey core p ≤ k ∧ k < scrKey core p + b.length then b.getD (k - scrKey core p) 0 else mget blankByte s.scr k :=
  mget_bytes s.scr (scrKey core p) k b

theorem dscr_setDscr (s : State) (die p : Nat) (b : List Byte) (k : Nat) :
    mget blankByte (s.setDscr die p b).dscr k =
      if dscrKey die p ≤ k ∧ k < dscrKey die p + b.length then b.getD (k - dscrKey die p) 0 else mget blankByte s.dscr k :=
  mget_bytes s.dscr (dscrKey die p) k b

theorem core_setCore_ne (s : State) {c d : Nat} (x : CoreSt) (h : d ≠ c) : (s.setCore c x).core d = s.core d :=
  mget_mset_ne _ _ _ h

end

/-! ### Lines of an L1 -/

section
variable {s : State} {core : Nat} {l : L1Line}

theorem l1Line?_l1Put_self (s : State) (core : Nat) (l : L1Line) : l1Line? (l1Put s core l) core l.line = some l := by
  simp only [l1Line?, l1Put, core_setCore_self, List.find?_cons, beq_self_eq_true]

theorem l1Line?_l1Put_ne {n : Nat} (h : n ≠ l.line) : l1Line? (l1Put s core l) core n = l1Line? s core n := by
  have hl : (l.line == n) = false := beq_false_of_ne (Ne.symm h)
  have himp : ∀ x : L1Line, (x.line == n) = true → (x.line != l.line) = true := by
    intro x hx
    rw [beq_iff_eq] at hx
    exact bne_iff_ne.mpr (hx ▸ h)
  simp only [l1Line?, l1Put, core_setCore_self, List.find?_cons, hl]
  rw [List.find?_filter]
  refine congrArg (fun f => List.find? f (s.core core).l1) (funext fun x => ?_)
  cases hx : (x.line == n) with
  | false => exact decide_eq_false (by simp)
  | true => exact decide_eq_true ⟨himp x hx, rfl⟩

theorem l1Line?_l1Put_core {c n : Nat} (h : c ≠ core) : l1Line? (l1Put s core l) c n = l1Line? s c n := by
  simp only [l1Line?, l1Put, core_setCore_ne s _ h]

theorem l1Line?_line {n : Nat} (h : l1Line? s core n = some l) : l.line = n := by
  simpa using List.find?_some h

/-- A bit of the mask of bytes of a line. -/
theorem lineMask_bit {off len i : Nat} (hi : i < 128) : (lineMask off len).getLsbD i = decide (off ≤ i ∧ i < off + len) := by
  have hm : (2 ^ len - 1) * 2 ^ off = (2 ^ len - 1) <<< off := (Nat.shiftLeft_eq _ _).symm
  rw [lineMask, BitVec.getLsbD_ofNat, hm, Nat.testBit_shiftLeft, Nat.testBit_two_pow_sub_one, decide_eq_true hi, Bool.true_and,
    ← Bool.decide_and]
  exact decide_eq_decide.mpr (by omega)

end

/-! ### A store into an L1 -/

section
variable {s : State} {core ctx p : Nat} {b : List Byte}

/-- The line into which a core stores: the one it holds, or a new one. -/
def oldLine (s : State) (core ctx n : Nat) : L1Line := (l1Line? s core n).getD ⟨n, List.replicate 128 0, 0, 0, 0, ctx⟩

/-- The line after a store of bytes at an address. -/
def storedLine (s : State) (core ctx p : Nat) (b : List Byte) : L1Line :=
  { oldLine s core ctx (p / 128) with
    data := (List.range 128).map (fun i =>
      if p % 128 ≤ i ∧ i < p % 128 + b.length then b.getD (i - p % 128) 0 else (oldLine s core ctx (p / 128)).data.getD i 0)
    valid := (oldLine s core ctx (p / 128)).valid ||| lineMask (p % 128) b.length
    dirty := (oldLine s core ctx (p / 128)).dirty ||| lineMask (p % 128) b.length, epoch := (s.core core).epoch, ctx := ctx }

theorem oldLine_line (s : State) (core ctx n : Nat) : (oldLine s core ctx n).line = n := by
  unfold oldLine
  cases h : l1Line? s core n with
  | none => rfl
  | some l => exact l1Line?_line h

theorem storedLine_line (s : State) (core ctx p : Nat) (b : List Byte) : (storedLine s core ctx p b).line = p / 128 :=
  oldLine_line s core ctx (p / 128)

/-- A store into an L1 puts its line, once the line is fresh; damage aside, nothing else changes. -/
theorem storeL1_eq (s : State) (core ctx p : Nat) (b : List Byte) : ∃ d, storeL1 s core ctx p b =
    { l1Put (freshEpoch s core (p / 128)) core (storedLine (freshEpoch s core (p / 128)) core ctx p b) with damage := d } :=
  ⟨_, rfl⟩

/-- The byte of a core's view that a line gives, where it has it. -/
def lineByte (s : State) (l : Option L1Line) (q : Nat) : Byte :=
  match l with
  | some l => if l.valid.getLsbD (q % 128) then l.data.getD (q % 128) 0 else s.homeByte q
  | none => s.homeByte q

theorem coreByte_eq (s : State) (core q : Nat) : coreByte s core q = lineByte s (l1Line? s core (q / 128)) q := by
  unfold coreByte lineByte
  cases l1Line? s core (q / 128) <;> rfl

theorem data_at {q : Nat} (f : Nat → Byte) : ((List.range 128).map f).getD (q % 128) 0 = f (q % 128) := by
  have h : q % 128 < 128 := Nat.mod_lt _ (by decide)
  simp [h]

/-- What a core sees of a line into which it has just stored. -/
theorem lineByte_storedLine {q : Nat} (hq : q / 128 = p / 128) :
    lineByte s (some (storedLine s core ctx p b)) q =
      if p ≤ q ∧ q < p + b.length then b.getD (q - p) 0 else lineByte s (l1Line? s core (p / 128)) q := by
  have hi : q % 128 < 128 := Nat.mod_lt _ (by decide)
  have hin : (p % 128 ≤ q % 128 ∧ q % 128 < p % 128 + b.length) ↔ (p ≤ q ∧ q < p + b.length) := by omega
  have hsub : q % 128 - p % 128 = q - p := by omega
  simp only [lineByte, storedLine, BitVec.getLsbD_or, lineMask_bit hi, data_at, hin, hsub]
  by_cases h : p ≤ q ∧ q < p + b.length
  · simp only [if_pos h, decide_eq_true h, Bool.or_true, if_true]
  · simp only [if_neg h, decide_eq_false h, Bool.or_false, oldLine]
    cases l1Line? s core (p / 128) with
    | none => simp
    | some l => rfl

/-- A core sees the bytes that it has stored, and every other byte as before. -/
theorem coreByte_storeL1 (hb : p % 128 + b.length ≤ 128) (q : Nat) : coreByte (storeL1 s core ctx p b) core q =
    if p ≤ q ∧ q < p + b.length then b.getD (q - p) 0 else coreByte (freshEpoch s core (p / 128)) core q := by
  obtain ⟨d, he⟩ := storeL1_eq s core ctx p b
  rw [he, coreByte_eq, coreByte_eq]
  by_cases hq : q / 128 = p / 128
  · have hself := l1Line?_l1Put_self (freshEpoch s core (p / 128)) core (storedLine (freshEpoch s core (p / 128)) core ctx p b)
    rw [storedLine_line, ← hq] at hself
    have hlb := lineByte_storedLine (s := freshEpoch s core (p / 128)) (core := core) (ctx := ctx) (b := b) hq
    rw [← hq] at hlb ⊢
    exact (congrArg (fun l => lineByte _ l q) hself).trans hlb
  · have hne : q / 128 ≠ (storedLine (freshEpoch s core (p / 128)) core ctx p b).line := by rw [storedLine_line]; exact hq
    have hout : ¬ (p ≤ q ∧ q < p + b.length) := by omega
    rw [if_neg hout]
    exact congrArg (fun l => lineByte _ l q) (l1Line?_l1Put_ne hne)

theorem coreByte_storeL1_core {c : Nat} (hc : c ≠ core) (q : Nat) :
    coreByte (storeL1 s core ctx p b) c q = coreByte (freshEpoch s core (p / 128)) c q := by
  obtain ⟨d, he⟩ := storeL1_eq s core ctx p b
  rw [he, coreByte_eq, coreByte_eq]
  exact congrArg (fun l => lineByte _ l q) (l1Line?_l1Put_core hc)

/-- A line that no older epoch left dirty is fresh already. -/
theorem freshEpoch_same {n : Nat} (h : ∀ l, l1Line? s core n = some l → l.dirty = 0 ∨ l.epoch = (s.core core).epoch) :
    freshEpoch s core n = s := by
  unfold freshEpoch
  cases hl : l1Line? s core n with
  | none => rfl
  | some l => exact if_neg (fun hd => (h l hl).elim hd.1 hd.2)

end

/-- Settles O58, level by level. -/
theorem writesReadBack : Obligations.WritesReadBack := by
  unfold Obligations.WritesReadBack
  exact fun s core ctx p b => ⟨homeByte_setHome s p b, scr_setScr s core p b, fun hb =>
    ⟨coreByte_storeL1 hb, fun c q hc => coreByte_storeL1_core hc q, rfl, rfl, rfl, freshEpoch_same⟩⟩

end Sys2Proof.Machine
end

section
/-! PROOF. What an instruction does before its own writes leaves every memory as it is, where no L1 holds a dirty byte and no release is
recorded (06 R143 to R151, 11 R236): walks, fills, drains, requests, waits and traps. -/

namespace Sys2Proof.Machine

open Sys2Proof

/-! ### Calm states -/

/-- The memories of a state are those of `m`, nothing is left to drain, and the group named u is in no handler and has lanes left. -/
structure Calm (m : State) (u : Nat) (s : State) : Prop where
  mem : s.mem = m.mem
  scr : s.scr = m.scr
  dscr : s.dscr = m.dscr
  acc : s.acc = m.acc
  settled : Settled s
  plain : ∀ g, s.group? u = some g → g.inHandler = false
  lives : ∀ g, s.group? u = some g → g.exm ≠ BitVec.allOnes 32

section
variable {m s t : State} {u : Nat}

/-- A change beside the memories, the cores, the recorded releases and the groups leaves a state calm. -/
theorem Calm.beside (h : Calm m u s) (hm : t.mem = s.mem := by rfl) (hs : t.scr = s.scr := by rfl) (hd : t.dscr = s.dscr := by rfl)
    (ha : t.acc = s.acc := by rfl) (hc : t.cores = s.cores := by rfl) (hr : t.homeRecs = s.homeRecs := by rfl)
    (hg : t.groups = s.groups := by rfl) : Calm m u t := by
  have hgroup : t.group? u = s.group? u := by unfold State.group?; rw [hg]
  have hcore : ∀ c, t.core c = s.core c := fun c => by unfold State.core; rw [hc]
  exact ⟨hm.trans h.mem, hs.trans h.scr, hd.trans h.dscr, ha.trans h.acc,
    ⟨fun c l hl => h.settled.clean c l (hcore c ▸ hl), hr.trans h.settled.records⟩,
    fun g k => h.plain g (hgroup ▸ k), fun g k => h.lives g (hgroup ▸ k)⟩

/-- A core replaced by one without a dirty line leaves a state calm. -/
theorem Calm.setCore (h : Calm m u s) (c : Nat) {k : CoreSt} (hk : ∀ l, l ∈ k.l1 → l.dirty = 0) : Calm m u (s.setCore c k) := by
  refine ⟨h.mem, h.scr, h.dscr, h.acc, ⟨fun d l hl => ?_, h.settled.records⟩, h.plain, h.lives⟩
  by_cases hd : d = c
  · subst hd
    rw [core_setCore_self] at hl
    exact hk l hl
  · rw [core_setCore_ne s k hd] at hl
    exact h.settled.clean d l hl

theorem Calm.line (h : Calm m u s) {c n : Nat} {l : L1Line} (hl : l1Line? s c n = some l) : l.dirty = 0 :=
  h.settled.clean c l (List.mem_of_find?_eq_some hl)

/-- A change of groups that keeps their names, their handlers and their lanes leaves a state calm. -/
theorem Calm.modGroup (h : Calm m u s) (v : Nat) {f : Group → Group}
    (hf : ∀ g, (f g).uid = g.uid ∧ (f g).inHandler = g.inHandler ∧ (f g).exm = g.exm) : Calm m u (s.modGroup v f) := by
  have hfind : (s.modGroup v f).group? u = (s.group? u).map (fun g => if g.uid = v then f g else g) :=
    find?_map_of_fix (p := fun g : Group => g.uid == u) (f := fun g : Group => if g.uid = v then f g else g) (fun g => by split <;> simp [(hf g).1]) s.groups
  have hkeep : ∀ k, (s.modGroup v f).group? u = some k → ∃ g, s.group? u = some g ∧ k.inHandler = g.inHandler ∧ k.exm = g.exm := by
    intro k hk
    rw [hfind] at hk
    obtain ⟨g, hg, he⟩ := Option.map_eq_some_iff.mp hk
    refine ⟨g, hg, ?_⟩
    split at he <;> subst he
    · exact (hf g).2
    · exact ⟨rfl, rfl⟩
  exact ⟨h.mem, h.scr, h.dscr, h.acc, ⟨h.settled.clean, h.settled.records⟩,
    fun k hk => by obtain ⟨g, hg, hp, -⟩ := hkeep k hk; rw [hp]; exact h.plain g hg,
    fun k hk => by obtain ⟨g, hg, -, hl⟩ := hkeep k hk; rw [hl]; exact h.lives g hg⟩

theorem Calm.foldl {α : Type} {f : State → α → State} (hf : ∀ s a, Calm m u s → Calm m u (f s a)) (l : List α) (h : Calm m u s) :
    Calm m u (l.foldl f s) := by
  induction l generalizing s with
  | nil => exact h
  | cons a l ih => exact ih (hf s a h)

end

/-! ### Walks, requests and records -/

section
variable {m s : State} {u : Nat}

theorem Calm.tlbFill (h : Calm m u s) (agent ctx va : Nat) (x : Xl) : Calm m u (tlbFill s agent ctx va x) := by
  unfold Machine.tlbFill
  dsimp only
  split
  · exact h
  · exact h.setCore agent (h.settled.clean agent)

theorem Calm.fillTlb (h : Calm m u s) (x : Ix) (ps : List Place) : Calm m u (fillTlb x s ps) := by
  refine Calm.foldl (fun s p hs => ?_) ps h
  cases p with
  | scr c o n => exact hs
  | dscr c o n => exact hs
  | phys va y => exact hs.tlbFill _ _ _ _

theorem Calm.tookEntry (h : Calm m u s) (agent : Nat) (t : TblEntry) : Calm m u (tookEntry s agent t) :=
  h.setCore agent (h.settled.clean agent)

theorem Calm.endWalk (h : Calm m u s) (agent : Nat) : Calm m u (endWalk s agent) :=
  h.setCore agent (h.settled.clean agent)

theorem Calm.failWalk (h : Calm m u s) (core : Nat) : Calm m u (failWalk s core) :=
  Calm.endWalk (Calm.endWalk h.beside core) frontEnd

theorem Calm.emit (h : Calm m u s) (r : Remote) : Calm m u (s.emit r) := by
  unfold State.emit
  split
  · exact h.beside
  · split
    · exact h
    · exact h.beside

theorem Calm.request (h : Calm m u s) (r : Remote) : Calm m u (s.request r) := by
  unfold State.request
  dsimp only
  split
  · exact h.beside
  · exact Calm.emit h.beside r

theorem Calm.freshRequest (h : Calm m u s) (r : Remote) : Calm m u (s.fresh.request r) := Calm.request h.beside r

theorem Calm.postAsync (h : Calm m u s) (die ctx cause lch tva pa : Nat) (core grp : Option Nat) :
    Calm m u (postAsync s die ctx cause lch tva pa core grp) := h.beside

theorem Calm.tellHome (h : Calm m u s) (core grp : Nat) (keep : Bool) (q : Nat × Nat) : Calm m u (tellHome core grp keep s q) := by
  unfold Machine.tellHome
  dsimp only
  split
  · exact h.freshRequest _
  · exact Calm.emit h.beside _

theorem Calm.withdrawAsks (h : Calm m u s) (core grp : Nat) (sps : List Split) : Calm m u (withdrawAsks s core grp sps) :=
  Calm.foldl (fun _ _ hs => hs.tellHome _ _ _ _) _ h

theorem Calm.serveRow (h : Calm m u s) {pa : Nat} {t : State} (hr : serveRow s pa = some t) : Calm m u t := by
  unfold Machine.serveRow at hr
  dsimp only at hr
  split at hr
  · cases hr; exact h
  · split at hr
    · cases hr
    · split at hr
      · cases hr; exact h
      · split at hr
        · cases hr
        · cases hr; exact h.beside

theorem Calm.waitRow (h : Calm m u s) (pa : Nat) (want : RowWant) : Calm m u (waitRow s pa want) := by
  unfold Machine.waitRow
  split
  · exact h
  · exact h.beside

theorem Calm.askFar (h : Calm m u s) (agent ctx lvl va pa : Nat) : Calm m u (askFar s agent ctx lvl va pa) := by
  unfold Machine.askFar
  dsimp only
  split
  · exact h
  · exact h.freshRequest _

theorem Calm.askEntry (h : Calm m u s) (agent ctx va : Nat) : Calm m u (askEntry s agent ctx va) := by
  unfold Machine.askEntry
  split
  · dsimp only
    split
    · exact h.askFar _ _ _ _ _
    · split
      · next hr => exact (h.serveRow hr).tookEntry _ _
      · exact h.waitRow _ _
  · exact h

theorem Calm.serveRows (h : Calm m u s) (pas : List Nat) : Calm m u (serveRows s pas).1 := by
  refine List.foldlRecOn (motive := fun a : State × List Nat => Calm m u a.1) pas _ h (fun a ha pa _ => ?_)
  split
  · next hr => exact ha.serveRow hr
  · exact ha

theorem Calm.turnAway (h : Calm m u s) (x : Ix) (rows served : List Nat) : Calm m u (turnAway x s rows served).1 :=
  Calm.modGroup (s := s.fresh) h.beside _ (fun _ => ⟨rfl, rfl, rfl⟩)

theorem Calm.lineRequest {a : ReadSt} (h : Calm m u a.1) (core grp : Nat) (fill : Bool) (pa va : Nat) :
    Calm m u (lineRequest core grp fill a pa va).1.1 := by
  unfold Machine.lineRequest
  split
  · exact h
  · exact h.freshRequest _

theorem Calm.awaitPlace {a : ReadSt} (h : Calm m u a.1) (core grp : Nat) (past : Bool) (size at_ len : Nat) (sgn : Bool) (recs : List Nat)
    (p : Place) : Calm m u (awaitPlace core grp past size at_ len sgn recs a p).1.1 := by
  unfold Machine.awaitPlace
  dsimp only
  split
  · split
    · exact h
    · split
      · exact h.freshRequest _
      · exact h
    · split
      · exact h
      · exact h.lineRequest _ _ _ _ _
    · exact h
  · exact h

theorem Calm.awaitLane {a : ReadSt} (h : Calm m u a.1) (x : Ix) (f : AccForm) (ps : List Place) : Calm m u (awaitLane x f a ps).1.1 := by
  exact List.foldlRecOn (motive := fun r : ReadSt × List PVal => Calm m u r.1.1) _ _ h (fun r hr p _ => Calm.awaitPlace hr _ _ _ _ _ _ _ _ _)

theorem Calm.awaitLanes {a : ReadSt} (h : Calm m u a.1) (x : Ix) (f : AccForm) (ls : List (Nat × List Place)) :
    Calm m u (awaitLanes x f a ls).1.1 := by
  exact List.foldlRecOn (motive := fun r : ReadSt × List (Nat × List PVal) => Calm m u r.1.1) _ _ h (fun r hr l _ => Calm.awaitLane hr x f l.2)

end

/-! ### Reads through the L1 and past it -/

section
variable {m s : State} {u core : Nat}

theorem Calm.l1Put (h : Calm m u s) {l : L1Line} (hl : l.dirty = 0) : Calm m u (l1Put s core l) := by
  refine h.setCore core (fun k hk => ?_)
  rcases List.mem_cons.mp hk with rfl | hk
  · exact hl
  · exact h.settled.clean core k (List.mem_of_mem_filter hk)

theorem Calm.l1Drop (h : Calm m u s) (n : Nat) : Calm m u (l1Drop s core n) :=
  Calm.beside (s := s.setCore core { s.core core with l1 := (s.core core).l1.filter (fun x => x.line != n) })
    (h.setCore core (fun k hk => h.settled.clean core k (List.mem_of_mem_filter hk)))

/-- A home line of which no release is recorded is reached without a drain. -/
theorem Calm.reachHome (h : Calm m u s) (n : Nat) : Calm m u (reachHome s core n) := by
  unfold Machine.reachHome
  rw [h.settled.records]
  exact Calm.beside (s := s) h (hr := show s.homeRecs.filter _ = s.homeRecs by rw [h.settled.records]; rfl)

theorem Calm.reachWait (h : Calm m u s) (n : Nat) : Calm m u (reachWait s core n) := by
  unfold Machine.reachWait
  rw [h.settled.records]
  exact h

theorem Calm.fillGuest (h : Calm m u s) (n : Nat) : Calm m u (fillGuest s core n) := by
  unfold Machine.fillGuest
  split
  · exact h
  · exact h.beside

theorem Calm.fillL1 (h : Calm m u s) (ctx n : Nat) : Calm m u (fillL1 s core ctx n) := by
  have h1 : Calm m u (Machine.fillGuest (Machine.reachHome s core n) core n) := (h.reachHome n).fillGuest n
  have hd : ((l1Line? (Machine.fillGuest (Machine.reachHome s core n) core n) core n).getD ⟨n, List.replicate 128 0, 0, 0, 0, ctx⟩).dirty = 0 := by
    cases hl : l1Line? (Machine.fillGuest (Machine.reachHome s core n) core n) core n with
    | none => rfl
    | some l => exact h1.line hl
  unfold Machine.fillL1
  dsimp only
  exact Calm.beside (Calm.l1Put (core := core) (l := { (l1Line? (Machine.fillGuest (Machine.reachHome s core n) core n) core n).getD
    ⟨n, List.replicate 128 0, 0, 0, 0, ctx⟩ with data := _, valid := BitVec.allOnes 128 }) h1 hd)

theorem Calm.loadL1 (h : Calm m u s) (ctx pa len : Nat) : Calm m u (loadL1 s core ctx pa len).s := by
  unfold Machine.loadL1
  dsimp only
  split
  · exact h
  · exact h.fillL1 _ _

theorem Calm.flushOwn (h : Calm m u s) (n : Nat) : Calm m u (flushOwn s core n) := by
  unfold Machine.flushOwn
  split
  · next l hl =>
    have hb : writeBackLine s core l = s := by
      unfold writeBackLine
      exact if_pos (h.line hl)
    rw [hb]
    exact h.l1Drop n
  · exact h

theorem Calm.loadHome (h : Calm m u s) (pa len : Nat) : Calm m u (loadHome s core pa len).s :=
  Calm.reachHome (h.flushOwn (pa / 128)) (pa / 128)

theorem Calm.readLocal (h : Calm m u s) (ctx : Nat) (past : Bool) (size : Nat) (sgn : Bool) (p : Place) :
    Calm m u (readLocal s core ctx past size sgn p).1 := by
  cases p with
  | scr c o n => exact h
  | dscr c o n => exact h
  | phys va y =>
    unfold Machine.readLocal
    dsimp only
    split
    · exact h.loadHome _ _
    · exact h.loadL1 _ _ _

theorem Calm.serveRead (h : Calm m u s) {past : Bool} {size : Nat} {p : Place} {t : State} (hr : serveRead s core past size p = some t) :
    Calm m u t := by
  unfold Machine.serveRead at hr
  split at hr
  · exact h.serveRow hr
  · cases hr; exact h

theorem Calm.performVal (h : Calm m u s) {more : Bool} {t : Team} {v : PVal} {r : State × PVal} (hr : performVal more s t v = some r) :
    Calm m u r.1 := by
  unfold Machine.performVal at hr
  split at hr
  · split at hr
    · cases hr
    · obtain ⟨s1, hs, rfl⟩ := Option.map_eq_some_iff.mp hr
      have h1 : Calm m u s1 := by
        split at hs
        · cases hs; exact h
        · exact h.serveRead hs
      exact h1.readLocal _ _ _ _ _
  · cases hr; exact h
  · cases hr

theorem Calm.discardVal (h : Calm m u s) (x : Ix) (v : PVal) : Calm m u (discardVal x s v) := by
  unfold Machine.discardVal
  split
  · next hr => exact (h.performVal hr).postAsync _ _ _ _ _ _ _ _
  · next hr => exact h.performVal hr
  · exact h

theorem Calm.discardVals (h : Calm m u s) (x : Ix) (vals : List (Nat × List PVal)) : Calm m u (discardVals x s vals) :=
  Calm.foldl (fun _ _ hs => hs.discardVal x _) _ h

end

/-! ### Loads performed before a store -/

section
variable {m s : State} {u : Nat}

theorem Calm.performWords (h : Calm m u s) {t : Team} {g : Group} {more : Bool} {ws : List WordId} {r : State × List (WordId × PVal)}
    (hr : performWords t g more ws s = some r) : Calm m u r.1 := by
  induction ws generalizing s more r with
  | nil => cases hr; exact h
  | cons w ws ih =>
    unfold Machine.performWords at hr
    split at hr
    · exact ih h hr
    · split at hr
      · cases hr
      · split at hr
        · cases hr
        · next hv =>
          obtain ⟨q, hq, hqr⟩ := Option.map_eq_some_iff.mp hr
          rw [← hqr]
          exact ih (r := q) (h.performVal hv) hq

theorem setVal_keeps (g : Group) (w : WordId) (v : PVal) :
    (g.setVal w v).uid = g.uid ∧ (g.setVal w v).inHandler = g.inHandler ∧ (g.setVal w v).exm = g.exm := ⟨rfl, rfl, rfl⟩

theorem setVals_keep (l : List (WordId × PVal)) (g : Group) :
    (l.foldl (fun g x => g.setVal x.1 x.2) g).uid = g.uid ∧ (l.foldl (fun g x => g.setVal x.1 x.2) g).inHandler = g.inHandler
      ∧ (l.foldl (fun g x => g.setVal x.1 x.2) g).exm = g.exm := by
  induction l generalizing g with
  | nil => exact ⟨rfl, rfl, rfl⟩
  | cons a l ih => exact ih (g.setVal a.1 a.2)

theorem Calm.performWord (h : Calm m u s) (v : Nat) (w : WordId) : Calm m u (performWord v s w) := by
  unfold Machine.performWord
  split
  · exact h
  · split
    · exact h
    · split
      · exact h.modGroup v (fun g => setVal_keeps _ _ _)
      · next g _ _ t _ _ _ =>
        have h1 := Calm.foldl (m := m) (u := u) (f := fun s l => Machine.reachWait s t.core l) (fun s l hs => hs.reachWait l)
          (wordLines s t.core g (g.together w)) h
        dsimp only
        split
        · exact h1
        · next r hr => exact (h1.performWords hr).modGroup v (fun g => setVals_keep _ _)

theorem Calm.performIf (h : Calm m u s) (v : Nat) (f : WordId → PVal → Bool) : Calm m u (performIf s v f) := by
  unfold Machine.performIf
  split
  · exact h
  · exact Calm.foldl (fun _ _ hs => hs.performWord v _) _ h

theorem Calm.settleAt (h : Calm m u s) (v : Nat) (ws : List (Place × Nat)) : Calm m u (settleAt s v ws) := h.performIf v _

end

/-! ### The ends of an instruction -/

/-- The memories of two states are the same. -/
structure SameMem (s t : State) : Prop where
  mem : t.mem = s.mem
  scr : t.scr = s.scr
  dscr : t.dscr = s.dscr
  acc : t.acc = s.acc

theorem Calm.same {m s : State} {u : Nat} (h : Calm m u s) : SameMem m s := ⟨h.mem, h.scr, h.dscr, h.acc⟩

theorem SameMem.trans {r s t : State} (h : SameMem r s) (k : SameMem s t) : SameMem r t :=
  ⟨k.mem.trans h.mem, k.scr.trans h.scr, k.dscr.trans h.dscr, k.acc.trans h.acc⟩

/-- A split that goes keeps to its group; one that goes on or stays leaves the group's lanes and its handler. -/
theorem settleSplit_keeps (clock e : Nat) (sw : Bool) {nx : Next} (hn : nx ≠ .gone) (g : Group) :
    (settleSplit clock e sw nx g).exm = g.exm ∧ (settleSplit clock e sw nx g).inHandler = g.inHandler
      ∧ (settleSplit clock e sw nx g).uid = g.uid := by
  cases nx with
  | gone => exact absurd rfl hn
  | again => exact ⟨rfl, rfl, rfl⟩
  | step =>
    have k := settleSplit_kin clock e sw (nx := .step) trivial g
    exact ⟨k.exm, k.inHandler, k.uid⟩
  | park =>
    have k := settleSplit_kin clock e sw (nx := .park) trivial g
    exact ⟨k.exm, k.inHandler, k.uid⟩
  | jump t =>
    have k := settleSplit_kin clock e sw (nx := .jump t) trivial g
    exact ⟨k.exm, k.inHandler, k.uid⟩
  | stay =>
    have k := settleSplit_kin clock e sw (nx := .stay) trivial g
    exact ⟨k.exm, k.inHandler, k.uid⟩

end Sys2Proof.Machine
end

section
/-! PROOF. No form of load changes a byte of memory (06 R143 to R149, 11 R236): what an instruction of a quiet group does before and after
its own effect, and the effect of a load. -/

namespace Sys2Proof.Machine

open Sys2Proof

/-! ### What follows an effect -/

theorem find?_map_first {α : Type} {p : α → Bool} {f : α → α} (hf : ∀ a, p a = false → f a = a) {l : List α} {g : α} (hg : l.find? p = some g)
    (hp : p (f g) = true) : (l.map f).find? p = some (f g) := by
  induction l with
  | nil => cases hg
  | cons a l ih =>
    rw [List.find?_cons] at hg
    rw [List.map_cons, List.find?_cons]
    cases ha : p a with
    | true =>
      rw [ha] at hg
      cases hg
      rw [hp]
    | false =>
      rw [ha] at hg
      rw [hf a ha, ha]
      exact ih hg

theorem find?_map_none {α : Type} {p : α → Bool} {f : α → α} (hf : ∀ a, p a = false → f a = a) {l : List α} (hl : l.find? p = none) :
    (l.map f).find? p = none := by
  rw [List.find?_eq_none] at hl ⊢
  intro b hb
  obtain ⟨a, ha, rfl⟩ := List.mem_map.mp hb
  rw [hf a (by simpa using hl a ha)]
  exact hl a ha

section
variable {m s : State} {x : Ix}

/-- The group that an instruction leaves keeps its lanes, whatever comes of its split but its going. -/
theorem settled_group {u : Nat} (hp : ∀ g, s.group? u = some g → g.inHandler = false) {nx : Next} (hn : nx ≠ .gone) (clock e : Nat) (sw : Bool) :
    ∀ k, (s.modGroup u (fun g => endHandler clock (settleSplit clock e sw nx g))).group? u = some k →
      ∃ g, s.group? u = some g ∧ k.exm = g.exm := by
  intro k hk
  have hother : ∀ a : Group, (a.uid == u) = false → (if a.uid = u then endHandler clock (settleSplit clock e sw nx a) else a) = a :=
    fun a ha => if_neg (by simpa using ha)
  cases hg : s.group? u with
  | none => exact absurd (hk.symm.trans (find?_map_none hother hg)) nofun
  | some g =>
    obtain ⟨he, hi, hu⟩ := settleSplit_keeps clock e sw hn g
    have hgu : g.uid = u := by simpa using List.find?_some hg
    have hF : (if g.uid = u then endHandler clock (settleSplit clock e sw nx g) else g) = settleSplit clock e sw nx g := by
      rw [if_pos hgu, endHandler_eq clock (hi.trans (hp g hg))]
    have hfirst := find?_map_first hother hg (by rw [hF, hu, hgu]; exact beq_self_eq_true u)
    rw [hF] at hfirst
    have hkk : k = settleSplit clock e sw nx g := Option.some.inj (hk.symm.trans hfirst)
    exact ⟨g, rfl, by rw [hkk, he]⟩

/-- What follows an instruction of a quiet group changes no memory, unless the split goes. -/
theorem finish_sameMem (h : ∀ g, s.group? x.g.uid = some g → g.inHandler = false ∧ g.exm ≠ BitVec.allOnes 32) (hf : x.g.failed = [])
    {nx : Next} (hn : nx ≠ .gone) : SameMem s (finish x s nx) := by
  have hkeep := settled_group (fun g hg => (h g hg).1) hn x.s.clock x.e x.sw
  unfold finish
  dsimp only
  rw [hf]
  have hpost : ∀ (q : State) (t : Team) (grp : Nat) (exm : Lanes) (new : List FailedReg), postUndelivered q t grp exm [] new = q :=
    fun _ _ _ _ _ => rfl
  have hret : ∀ q : State, (∀ k, q.group? x.g.uid = some k → k.exm ≠ BitVec.allOnes 32) → retireIfDone q x.g.uid nx = q := by
    intro q hq
    unfold retireIfDone
    cases hk : q.group? x.g.uid with
    | none => rfl
    | some k =>
      have hne : ¬ (k.exm = 0xFFFFFFFF ∧ (!k.retired) = true) := fun hc => hq k hk hc.1
      simp only [Bool.and_eq_true, decide_eq_true_eq, if_neg hne, if_neg hn]
  have hlive : ∀ k, (s.modGroup x.g.uid (fun g => endHandler x.s.clock (settleSplit x.s.clock x.e x.sw nx g))).group? x.g.uid = some k →
      k.exm ≠ BitVec.allOnes 32 := by
    intro k hk
    obtain ⟨g, hg, he⟩ := hkeep k hk
    rw [he]
    exact (h g hg).2
  split
  · rw [hpost, hret _ hlive]
    exact ⟨rfl, rfl, rfl, rfl⟩
  · rw [hret _ hlive]
    exact ⟨rfl, rfl, rfl, rfl⟩

theorem Calm.finish (h : Calm m x.g.uid s) (hf : x.g.failed = []) {nx : Next} (hn : nx ≠ .gone) : SameMem m (finish x s nx) :=
  h.same.trans (finish_sameMem (fun g hg => ⟨h.plain g hg, h.lives g hg⟩) hf hn)

end

/-! ### Traps -/

section
variable {s : State}

theorem emit_sameMem (s : State) (r : Remote) : SameMem s (s.emit r) := by
  unfold State.emit
  split
  · exact ⟨rfl, rfl, rfl, rfl⟩
  · split <;> exact ⟨rfl, rfl, rfl, rfl⟩

theorem SameMem.withdrawAsks {q : State} (h : SameMem s q) (core grp : Nat) (sps : List Split) : SameMem s (withdrawAsks q core grp sps) :=
  List.foldlRecOn (motive := SameMem s) _ _ h (fun q hq a _ => by
    unfold tellHome
    rw [if_neg Bool.false_ne_true]
    exact SameMem.trans (s := q.fresh) ⟨hq.mem, hq.scr, hq.dscr, hq.acc⟩ (emit_sameMem q.fresh _))

/-- A trap of a group in no handler whose launch has one changes no memory. -/
theorem takeTrap_sameMem {g : Group} {t : Team} (hg : s.group? g.uid = some g) (ht : s.team? g.team = some t) (hi : g.inHandler = false)
    (hh : (s.lrOf t).traph ≠ 0xFFFFFFFF) (e : Nat) (r : Trap) : SameMem s (takeTrap s g e r) := by
  rw [takeTrap_eq ht]
  split
  · rw [enterTrap_handler hg ht hi hh]
    refine SameMem.withdrawAsks (s := s) ?_ _ _ _
    exact ⟨rfl, rfl, rfl, rfl⟩
  · unfold raisedState
    refine SameMem.withdrawAsks (s := s) ?_ _ _ _
    exact ⟨rfl, rfl, rfl, rfl⟩

end

/-! ### An instruction of a quiet group -/

section
variable {s t : State} {x : Ix} {n : Needs} {body : Ix → Except Trap (State × Next)}

theorem calm_of (hx : ixOf s = some x) (q : Quiet x.g) (hs : Settled s) : Calm s x.g.uid s := by
  have hg := ixOf_group hx
  obtain ⟨rfl, -, -, -, -, -, -⟩ := ixOf_fields hx
  refine ⟨rfl, rfl, rfl, rfl, hs, fun g h => ?_, fun g h => ?_⟩ <;> obtain rfl := Option.some.inj (hg.symm.trans h)
  exacts [q.plain, q.lives]

/-- An instruction of a quiet group whose launch has a handler either leaves every memory as it is, or does what its body gives. -/
theorem issue_quiet (hx : ixOf s = some x) (q : Quiet x.g) (hh : HasHandler x) (hs : Settled s) (he : issue n body s = .next t) :
    SameMem s t ∨ ∃ r, body x = .ok r ∧ t = finish x r.1 r.2 := by
  have hg := ixOf_group hx
  have hc := calm_of hx q hs
  obtain ⟨rfl, hl, hp, ht, -, -, -⟩ := ixOf_fields hx
  have trap : ∀ r, SameMem x.s (takeTrap x.s x.g x.e r) := takeTrap_sameMem hg ht q.plain (hl ▸ hh) x.e
  unfold issue at he
  rw [hx] at he
  dsimp only at he
  split at he
  · cases he
    exact .inl (trap _)
  · split at he
    · cases he
      exact .inl (hc.finish q.sound nofun)
    · split at he
      · cases he
        refine .inl ?_
        split
        · rw [markRead_quiet n q]; exact trap _
        · exact trap _
      · split at he
        · cases he
          refine .inl ?_
          unfold ownTrap
          split
          · exact (hc.askEntry _ _ _).finish q.sound nofun
          · split
            · exact (hc.failWalk x.core).same.trans (takeTrap_sameMem (s := failWalk x.s x.core) hg ht q.plain (hl ▸ hh) x.e _)
            · exact trap _
        · next r hr =>
          cases he
          exact .inr ⟨r, hr, rfl⟩

end

/-! ### The effect of a load -/

section
variable {m : State} {x : Ix}

theorem Calm.loadEffect (h : Calm m x.g.uid x.s) (f : AccForm) (w : Nat) (d : LaneOp) (ls : List (Nat × List Place)) :
    Calm m x.g.uid (loadEffect x f w d ls).1 := by
  have h1 : Calm m x.g.uid (Machine.awaitLanes x f ((Machine.fillTlb x x.s (ls.flatMap (fun l => l.2))).fresh, []) ls).1.1 :=
    Calm.awaitLanes (a := ((Machine.fillTlb x x.s (ls.flatMap (fun l => l.2))).fresh, [])) (Calm.beside (h.fillTlb x _)) x f ls
  unfold Machine.loadEffect
  dsimp only
  refine Calm.modGroup ?_ _ (fun g => ⟨rfl, rfl, rfl⟩)
  split
  · exact h1.discardVals x _
  · exact h1

/-- A load changes no memory. -/
theorem loadOp_sameMem {s t : State} {f : AccForm} {w : Nat} {d a : LaneOp} (hx : ixOf s = some x) (q : Quiet x.g) (hh : HasHandler x)
    (hs : Settled s) (he : loadOp f w d a s = .next t) : SameMem s t := by
  have hc := calm_of hx q hs
  have hxs := (ixOf_fields hx).1
  rcases issue_quiet hx q hh hs he with h | ⟨r, hr, rfl⟩
  · exact h
  · dsimp only at hr
    split at hr
    · cases hr
    · cases hr
      split
      · exact Calm.finish (hxs ▸ hc) q.sound nofun
      · refine Calm.finish (Calm.loadEffect (hxs ▸ hc) f w d _) q.sound ?_
        unfold Machine.loadEffect
        dsimp only
        split <;> exact nofun

end

/-- Settles O55: every form is a `loadOp`. -/
theorem loadsLeaveTheMemories : Obligations.LoadsLeaveTheMemories := by
  unfold Obligations.LoadsLeaveTheMemories
  intro s t x w d a off sp k wide acq sc i hi hx q hh hs he
  have hop : ∃ f w, exec i s = loadOp f w d a s := by
    simp only [List.mem_cons, List.not_mem_nil, or_false] at hi
    rcases hi with rfl | rfl | rfl | rfl | rfl | rfl | rfl
    · exact ⟨_, _, exec_ldg w d a off s⟩
    · exact ⟨_, _, exec_lds w d a off s⟩
    · exact ⟨_, _, exec_ldc w d a off s⟩
    · exact ⟨_, _, exec_ldd w d a off s⟩
    · exact ⟨_, _, exec_ldl w d a off s⟩
    · exact ⟨_, _, exec_ldx d a sp k s⟩
    · exact ⟨_, _, exec_ldo wide d a sp acq sc s⟩
  obtain ⟨f, n, hfn⟩ := hop
  rw [hfn] at he
  obtain ⟨hm, hsc, hd, ha⟩ := loadOp_sameMem hx q hh hs he
  exact ⟨hm, hsc, hd, ha⟩

end Sys2Proof.Machine
end

section
/-! PROOF. A plain store writes the bytes of its lanes at their places (06 R150, R226; 10 R217; 11 R236). -/

namespace Sys2Proof.Machine

open Sys2Proof

/-! ### What writes of memory leave -/

/-- Two states have the same scratch, die scratch, accumulators and groups. -/
structure SameLocal (s t : State) : Prop where
  scr : t.scr = s.scr
  dscr : t.dscr = s.dscr
  acc : t.acc = s.acc
  groups : t.groups = s.groups

theorem SameLocal.refl (s : State) : SameLocal s s := ⟨rfl, rfl, rfl, rfl⟩

theorem SameLocal.trans {r s t : State} (h : SameLocal r s) (k : SameLocal s t) : SameLocal r t :=
  ⟨k.scr.trans h.scr, k.dscr.trans h.dscr, k.acc.trans h.acc, k.groups.trans h.groups⟩

theorem SameLocal.foldl {α : Type} {r : State} {f : State → α → State} (hf : ∀ s a, SameLocal r s → SameLocal r (f s a)) (l : List α)
    {s : State} (h : SameLocal r s) : SameLocal r (l.foldl f s) :=
  List.foldlRecOn (motive := SameLocal r) l f h (fun q hq a _ => hf q a hq)

section
variable {r s : State}

/-- A change beside the scratch, the accumulators and the groups. -/
theorem SameLocal.beside {t : State} (h : SameLocal r s) (hs : t.scr = s.scr := by rfl) (hd : t.dscr = s.dscr := by rfl)
    (ha : t.acc = s.acc := by rfl) (hg : t.groups = s.groups := by rfl) : SameLocal r t := h.trans ⟨hs, hd, ha, hg⟩

theorem SameLocal.request (h : SameLocal r s) (q : Remote) : SameLocal r (s.request q) := by
  have emit : ∀ s, SameLocal r s → SameLocal r (s.emit q) := by
    intro s h
    unfold State.emit
    split
    · exact h.beside
    · split
      · exact h
      · exact h.beside
  unfold State.request
  dsimp only
  split
  · exact h.beside
  · exact emit _ h.beside

theorem SameLocal.ownHome (h : SameLocal r s) (core pa : Nat) (b : List Byte) : SameLocal r (ownHome s core pa b) := h.beside

theorem SameLocal.tlbFill (h : SameLocal r s) (agent ctx va : Nat) (y : Xl) : SameLocal r (tlbFill s agent ctx va y) := by
  unfold Machine.tlbFill
  dsimp only
  split
  · exact h
  · exact h.beside

theorem SameLocal.writePa (h : SameLocal r s) (core grp pa : Nat) (b : List Byte) : SameLocal r (s.writePa core grp pa b) := by
  unfold State.writePa
  split
  · exact h.beside
  · exact h.beside
  · exact h.beside
  · exact h.beside
  · split
    · exact h.beside
    · exact SameLocal.foldl (fun s p hs => SameLocal.request (s := s.fresh) hs.beside _) _ h
  · exact h

theorem SameLocal.writeBackLine (h : SameLocal r s) (core : Nat) (l : L1Line) : SameLocal r (writeBackLine s core l) := by
  have parts : ∀ ps : List (Nat × List Byte), SameLocal r (ps.foldl (fun s x => Machine.ownHome s core (l.line * 128 + x.1) x.2) s) :=
    fun ps => SameLocal.foldl (fun s p hs => hs.ownHome _ _ _) ps h
  unfold Machine.writeBackLine
  dsimp only
  split
  · exact h
  · split
    · exact h.beside
    · split
      · split
        · exact parts _
        · exact (parts (dirtyParts l)).beside
      · unfold backDamaged
        split
        · exact SameLocal.request (s := s.fresh) h.beside _
        · exact (SameLocal.request (s := s.fresh) h.beside _).beside

theorem SameLocal.cleanLine (h : SameLocal r s) (core : Nat) (l : L1Line) : SameLocal r (cleanLine s core l) := by
  have k : SameLocal r { s with wbs := s.wbs.filter (fun w => !(w.core == core && w.line == l.line)) } := h.beside
  unfold Machine.cleanLine
  dsimp only
  split
  · exact (k.writeBackLine core l).beside
  · exact (k.writeBackLine core l).beside

theorem SameLocal.storeHome (h : SameLocal r s) (core pa : Nat) (b : List Byte) : SameLocal r (storeHome s core pa b) := by
  refine SameLocal.ownHome ?_ _ _ _
  unfold flushOwn
  split
  · exact (h.writeBackLine core _).beside
  · exact h

theorem SameLocal.storeL1 (h : SameLocal r s) (core ctx pa : Nat) (b : List Byte) : SameLocal r (storeL1 s core ctx pa b) := by
  have k : SameLocal r (freshEpoch s core (pa / 128)) := by
    unfold freshEpoch
    split
    · split
      · exact h.cleanLine _ _
      · exact h
    · exact h
  obtain ⟨d, he⟩ := storeL1_eq s core ctx pa b
  rw [he]
  exact k.beside

end

/-! ### The write of one piece -/

section
variable {s : State} {core ctx c o n va : Nat} {past : Bool} {y : Xl} {b : List Byte}

theorem writePlace_scr : writePlace core ctx past s (.scr c o n) b = s.setScr c o b := rfl

theorem writePlace_dscr : writePlace core ctx past s (.dscr c o n) b = s.setDscr c o b := rfl

/-- A piece at an address that is no register's and not the host's goes past the L1 to its home where the access or the page says so, and
into the L1 else. -/
theorem writePlace_home (hm : regionOf y.pa ≠ .mmio) (hh : regionOf y.pa ≠ .host) : writePlace core ctx past s (.phys va y) b =
    if past = true ∨ (Place.phys va y).past = true then storeHome s core y.pa b else storeL1 s core ctx y.pa b := by
  unfold writePlace
  dsimp only
  cases h : regionOf y.pa
  case mmio => exact absurd h hm
  case host => exact absurd h hh
  all_goals simp only [Bool.or_eq_true]

theorem isMem_cases {pa : Nat} (h : isMem pa = true) : regionOf pa = .tier1 ∨ regionOf pa = .tier2 := by simpa [isMem] using h

theorem writePlace_mem (h : isMem y.pa = true) : writePlace core ctx past s (.phys va y) b =
    if past = true ∨ (Place.phys va y).past = true then storeHome s core y.pa b else storeL1 s core ctx y.pa b := by
  rcases isMem_cases h with h | h <;> exact writePlace_home (by simp [h]) (by simp [h])

/-- A piece at a physical address leaves the scratch, the accumulators and the groups. -/
theorem writePlace_phys_sameLocal : SameLocal s (writePlace core ctx past s (.phys va y) b) := by
  unfold writePlace
  dsimp only
  split
  · exact (SameLocal.refl s).writePa _ _ _ _
  · exact (SameLocal.refl s).writePa _ _ _ _
  · split
    · exact (SameLocal.refl s).storeHome _ _ _
    · exact (SameLocal.refl s).storeL1 _ _ _ _

end

/-! ### The writes of an instruction -/

section
variable {x : Ix} {past : Bool} {s : State}

theorem doWrites_nil : doWrites x past s [] = s := rfl

/-- The first write of an instruction's is performed last. -/
theorem doWrites_cons (w : Nat × Place × List Byte) (ws : List (Nat × Place × List Byte)) :
    doWrites x past s (w :: ws) = writePlace x.core x.t.ctx past (doWrites x past s ws) w.2.1 w.2.2 := by
  unfold doWrites
  rw [List.reverse_cons, List.foldl_append]
  rfl

theorem meets_eq_false {p q : Place} {n m : Nat} : p.meets n q m = false ↔
    ¬ (p.key % 3 = q.key % 3 ∧ p.key / 3 < q.key / 3 + m ∧ q.key / 3 < p.key / 3 + n) := by
  unfold Place.meets
  simp only [Bool.eq_false_iff, ne_eq, Bool.and_eq_true, beq_iff_eq, decide_eq_true_eq, and_assoc]

/-- A piece at another place leaves the bytes of a piece of scratch. -/
theorem scr_writePlace_apart {core ctx c o n k : Nat} {p : Place} {b b' : List Byte} (hk : k < b'.length)
    (h : p.meets b.length (.scr c o n) b'.length = false) :
    mget blankByte (writePlace core ctx past s p b).scr (scrKey c o + k) = mget blankByte s.scr (scrKey c o + k) := by
  cases p with
  | scr d q m =>
    rw [writePlace_scr, scr_setScr]
    rw [meets_eq_false] at h
    simp only [Place.key] at h
    exact if_neg (by omega)
  | dscr d q m => rfl
  | phys va y => rw [writePlace_phys_sameLocal.scr]

/-- A piece at another place leaves the bytes of a piece of die scratch. -/
theorem dscr_writePlace_apart {core ctx c o n k : Nat} {p : Place} {b b' : List Byte} (hk : k < b'.length)
    (h : p.meets b.length (.dscr c o n) b'.length = false) :
    mget blankByte (writePlace core ctx past s p b).dscr (dscrKey c o + k) = mget blankByte s.dscr (dscrKey c o + k) := by
  cases p with
  | scr d q m => rfl
  | dscr d q m =>
    rw [writePlace_dscr, dscr_setDscr]
    rw [meets_eq_false] at h
    simp only [Place.key] at h
    exact if_neg (by omega)
  | phys va y => rw [writePlace_phys_sameLocal.dscr]

/-- Pieces that share no byte. -/
def Apart (ws : List (Nat × Place × List Byte)) : Prop :=
  ∀ u w, u ∈ ws → w ∈ ws → u = w ∨ u.2.1.meets u.2.2.length w.2.1 w.2.2.length = false

theorem Apart.tail {a : Nat × Place × List Byte} {ws : List (Nat × Place × List Byte)} (h : Apart (a :: ws)) : Apart ws :=
  fun u w hu hw => h u w (List.mem_cons_of_mem a hu) (List.mem_cons_of_mem a hw)

/-- The bytes of a piece of scratch read back after the writes of pieces that share no byte. -/
theorem doWrites_scr {ws : List (Nat × Place × List Byte)} (ha : Apart ws) {w : Nat × Place × List Byte} (hw : w ∈ ws) {c o n k : Nat}
    (hk : k < w.2.2.length) (hp : w.2.1 = .scr c o n) :
    mget blankByte (doWrites x past s ws).scr (scrKey c o + k) = w.2.2.getD k 0 := by
  induction ws with
  | nil => cases hw
  | cons a ws ih =>
    rw [doWrites_cons]
    rcases ha a w List.mem_cons_self hw with rfl | hm
    · rw [hp, writePlace_scr, scr_setScr, if_pos (by omega), Nat.add_sub_cancel_left]
    · rcases List.mem_cons.mp hw with rfl | hin
      · rw [hp, writePlace_scr, scr_setScr, if_pos (by omega), Nat.add_sub_cancel_left]
      · rw [hp] at hm
        rw [scr_writePlace_apart hk hm]
        exact ih ha.tail hin

/-- The bytes of a piece of die scratch read back after the writes of pieces that share no byte. -/
theorem doWrites_dscr {ws : List (Nat × Place × List Byte)} (ha : Apart ws) {w : Nat × Place × List Byte} (hw : w ∈ ws) {c o n k : Nat}
    (hk : k < w.2.2.length) (hp : w.2.1 = .dscr c o n) :
    mget blankByte (doWrites x past s ws).dscr (dscrKey c o + k) = w.2.2.getD k 0 := by
  induction ws with
  | nil => cases hw
  | cons a ws ih =>
    rw [doWrites_cons]
    rcases ha a w List.mem_cons_self hw with rfl | hm
    · rw [hp, writePlace_dscr, dscr_setDscr, if_pos (by omega), Nat.add_sub_cancel_left]
    · rcases List.mem_cons.mp hw with rfl | hin
      · rw [hp, writePlace_dscr, dscr_setDscr, if_pos (by omega), Nat.add_sub_cancel_left]
      · rw [hp] at hm
        rw [dscr_writePlace_apart hk hm]
        exact ih ha.tail hin

end

/-! ### The writes that remain -/

section
variable {α : Type} {draw : Nat} {key lane : α → Nat} {ws : List α}

/-- Those of a list of writes that reach one key. -/
def sameKey (key : α → Nat) (ws : List α) (n : Nat) : List α := ws.filter (fun v => key v == n)

theorem mem_sameKey {v : α} {n : Nat} : v ∈ sameKey key ws n ↔ v ∈ ws ∧ key v = n := by simp [sameKey]

/-- The one that is freely chosen of the writes that reach a key. -/
def picked? (draw : Nat) (key : α → Nat) (ws : List α) (n : Nat) : Option α :=
  (sameKey key ws n)[Config.freePick draw (2 ^ 60 + n) % (sameKey key ws n).length]?

/-- Where a write reaches a key, one is chosen. -/
theorem exists_picked {w : α} (hw : w ∈ ws) : ∃ v, picked? draw key ws (key w) = some v ∧ v ∈ ws ∧ key v = key w := by
  have hmem : w ∈ sameKey key ws (key w) := mem_sameKey.mpr ⟨hw, rfl⟩
  have hlt := Nat.mod_lt (Config.freePick draw (2 ^ 60 + key w)) (List.length_pos_of_mem hmem)
  exact ⟨_, List.getElem?_eq_getElem hlt, mem_sameKey.mp (List.getElem_mem hlt)⟩

/-- A write remains when it is of the lane of the one chosen at its key. -/
theorem mem_winnersBy {w v : α} (hv : picked? draw key ws (key w) = some v) :
    w ∈ winnersBy draw key lane ws ↔ w ∈ ws ∧ lane v = lane w := by
  unfold winnersBy
  rw [List.mem_filter]
  unfold picked? sameKey at hv
  dsimp only
  rw [hv]
  simp

theorem winnersBy_subset {w : α} (h : w ∈ winnersBy draw key lane ws) : w ∈ ws := List.mem_of_mem_filter h

/-- At each key that a write reaches one remains. -/
theorem winnersBy_exists {w : α} (hw : w ∈ ws) : ∃ u, u ∈ winnersBy draw key lane ws ∧ key u = key w := by
  obtain ⟨v, hv, hin, hkey⟩ := exists_picked (draw := draw) (key := key) hw
  have hself : picked? draw key ws (key v) = some v := by rw [hkey]; exact hv
  exact ⟨v, (mem_winnersBy hself).mpr ⟨hin, rfl⟩, hkey⟩

/-- The writes that remain at one key are of one lane. -/
theorem winnersBy_lane {u w : α} (hu : u ∈ winnersBy draw key lane ws) (hw : w ∈ winnersBy draw key lane ws) (h : key u = key w) :
    lane u = lane w := by
  obtain ⟨v, hv, -, -⟩ := exists_picked (draw := draw) (key := key) (winnersBy_subset hw)
  have hl := (mem_winnersBy hv).mp hw
  have hk := (mem_winnersBy (lane := lane) (w := u) (h ▸ hv)).mp hu
  exact hk.2.symm.trans hl.2

end

/-! ### The pieces of a store -/

section
variable {size : Nat} {ls : List (Nat × List Place)} {v : Nat → Nat}

/-- Each piece of a store is of a place of one of its lanes, as long as a piece is. -/
theorem mem_writesOf {w : Nat × Place × List Byte} (h : w ∈ writesOf size ls v) :
    (∃ l ∈ ls, w.2.1 ∈ l.2) ∧ w.2.2.length = pieceLen size := by
  unfold writesOf at h
  obtain ⟨l, hl, hw⟩ := List.mem_flatMap.mp h
  obtain ⟨q, hq, rfl⟩ := List.mem_map.mp hw
  obtain ⟨hp, hb⟩ := List.of_mem_zip (a := q.1) (b := q.2) hq
  refine ⟨⟨l, hl, hp⟩, ?_⟩
  unfold storePieces at hb
  obtain ⟨n, -, hn⟩ := List.mem_map.mp hb
  rw [← hn, bytesOf_length]

/-- A joined piece is at the place of one of its parts. -/
theorem mem_joinPieces {wide : Bool} {ws : List (Nat × Place × List Byte)} {w : Nat × Place × List Byte} (h : w ∈ joinPieces wide ws) :
    ∃ u ∈ ws, u.2.1 = w.2.1 := by
  cases wide with
  | false =>
    rw [joinPieces.eq_def] at h
    exact ⟨w, h, rfl⟩
  | true =>
    induction ws using joinPieces.induct (wide := true) with
    | case1 => contradiction
    | case2 _ a b t ih =>
      rw [joinPieces, if_neg (by decide)] at h
      rcases List.mem_cons.mp h with rfl | ht
      · exact ⟨a, List.mem_cons_self, rfl⟩
      · obtain ⟨u, hu, he⟩ := ih ht
        exact ⟨u, List.mem_cons_of_mem a (List.mem_cons_of_mem b hu), he⟩
    | case3 ws _ hne =>
      rw [joinPieces.eq_def, if_neg (by decide)] at h
      split at h
      · exact absurd rfl (hne _ _ _)
      · exact ⟨w, h, rfl⟩

end

/-! ### The effect of a store whose places are of this part -/

/-- A place of this part: of scratch, of die scratch, or of device memory that is no mirror. -/
def OfPart (p : Place) : Prop :=
  (∃ c o n, p = .scr c o n) ∨ (∃ c o n, p = .dscr c o n) ∨ (∃ va y, p = .phys va y ∧ isMem y.pa = true ∧ p.mirror = false)

theorem OfPart.mirror {p : Place} (h : OfPart p) : p.mirror = false := by
  rcases h with ⟨c, o, n, rfl⟩ | ⟨c, o, n, rfl⟩ | ⟨va, y, -, -, h⟩
  exacts [rfl, rfl, h]

/-- An access of a place of this part goes out to no home. -/
theorem OfPart.needsRequest {p : Place} (h : OfPart p) (s : State) (store : Bool) : needsRequest s store p = false := by
  rcases h with ⟨c, o, n, rfl⟩ | ⟨c, o, n, rfl⟩ | ⟨va, y, rfl, h, -⟩
  · rfl
  · rfl
  · rcases isMem_cases h with h | h <;> simp [Machine.needsRequest, Place.isIn, h]

section
variable {x : Ix} {s : State} {kp : Kept}

/-- Without a lane at a mirror page a store has no record. -/
theorem mirrorRecs_none {size : Nat} {ls : List (Nat × List Place)} {v : Nat → Nat}
    (h : ∀ l p, l ∈ ls → p ∈ l.2 → p.mirror = false) : mirrorRecs x s size ls v = (s, []) := by
  have hnone : ls.filter (fun l => (l.2.headD (.scr 0 0 0)).mirror) = [] := by
    rw [List.filter_eq_nil_iff]
    intro l hl
    cases hp : l.2 with
    | nil => exact Bool.false_ne_true
    | cons p t =>
      rw [List.headD_cons, h l p hl (hp ▸ List.mem_cons_self)]
      exact Bool.false_ne_true
  unfold mirrorRecs
  dsimp only
  rw [hnone]
  rfl

theorem lintelPut_nil (s : State) (cls : Nat) : lintelPut s cls [] = s := by
  unfold lintelPut
  split <;> simp only [List.append_nil]

/-- A place that a store's remaining pieces reach is one of those that it has resolved. -/
theorem mem_winners {draw size : Nat} {wide : Bool} {ls : List (Nat × List Place)} {v : Nat → Nat} {w : Nat × Place × List Byte}
    (h : w ∈ winners draw (joinPieces wide (writesOf size ls v))) : ∃ l ∈ ls, w.2.1 ∈ l.2 := by
  obtain ⟨u, hu, he⟩ := mem_joinPieces (winnersBy_subset h)
  exact he ▸ (mem_writesOf hu).1

/-- A store of which no home holds or has performed anything, at places of this part, writes its pieces and goes on. -/
theorem storeEffect_ofPart {f : AccForm} (hheld : (x.sp.ask.getD {}).held = []) (hok : (x.sp.ask.getD {}).ok = [])
    (hp : ∀ l p, l ∈ kp.places → p ∈ l.2 → OfPart p) : storeEffect x f false kp s =
      (doWrites x f.past (fillTlb x s kp.all) (winners kp.draw (joinPieces f.joined (writesOf f.size kp.places (fun i => (kp.operands i).1)))), .step) := by
  have hm := mirrorRecs_none (x := x) (s := fillTlb x s kp.all) (size := f.size) (v := fun i => (kp.operands i).1)
    (fun l p hl h => (hp l p hl h).mirror)
  have hstay : ∀ w, w ∈ winners kp.draw (joinPieces f.joined (writesOf f.size kp.places (fun i => (kp.operands i).1))) →
      goesOut x true w.1 w.2.1 = false ∧ w.2.1.mirror = false := by
    intro w hw
    obtain ⟨l, hl, h⟩ := mem_winners hw
    have hof := hp l _ hl h
    refine ⟨?_, hof.mirror⟩
    simp only [goesOut, accepted, hok, List.any_nil, hof.needsRequest, Bool.or_self]
  have hout : (winners kp.draw (joinPieces f.joined (writesOf f.size kp.places (fun i => (kp.operands i).1)))).filter
      (fun w => goesOut x true w.1 w.2.1) = [] := by
    rw [List.filter_eq_nil_iff]
    intro w hw
    rw [(hstay w hw).1]
    exact Bool.false_ne_true
  have hhere : (winners kp.draw (joinPieces f.joined (writesOf f.size kp.places (fun i => (kp.operands i).1)))).filter
      (fun w => !goesOut x true w.1 w.2.1 && !w.2.1.mirror) = winners kp.draw (joinPieces f.joined (writesOf f.size kp.places (fun i => (kp.operands i).1))) := by
    rw [List.filter_eq_self]
    intro w hw
    rw [(hstay w hw).1, (hstay w hw).2]
    rfl
  unfold storeEffect
  dsimp only
  rw [hm, hout, hhere, lintelPut_nil]
  unfold performHeld
  rw [hheld]
  rfl

/-- What a store resolves at its issue holds the two operands of each of its lanes. -/
theorem keptNow_operands (x : Ix) (ls : List (Nat × List Place)) (b c : Nat → Nat) {i : Nat} (hi : i ∈ ls.map (fun l => l.1)) :
    (keptNow x ls b c).operands i = (b i, c i) := by
  obtain ⟨l, hl, rfl⟩ := List.mem_map.mp hi
  unfold keptNow Kept.operands
  dsimp only
  cases h : (ls.map (fun l => (l.1, b l.1, c l.1))).find? (fun d => d.1 == l.1) with
  | none =>
    have hno := List.find?_eq_none.mp h (l.1, b l.1, c l.1) (List.mem_map_of_mem hl)
    exact absurd (beq_self_eq_true l.1) hno
  | some d =>
    have hd := List.find?_some h
    obtain ⟨m, -, rfl⟩ := List.mem_map.mp (List.mem_of_find?_eq_some h)
    have hml : m.1 = l.1 := by simpa using hd
    simp only [Option.map_some, Option.getD_some, hml]

end

/-- Settles O57: its effect, what it resolves at its issue, the pieces that remain, and what they leave at their places. -/
theorem storesWriteTheirPlaces : Obligations.StoresWriteTheirPlaces := by
  unfold Obligations.StoresWriteTheirPlaces
  intro s x f kp _ hheld hok hp
  exact ⟨storeEffect_ofPart hheld hok hp, fun ls b c => ⟨rfl, rfl, fun i => keptNow_operands x ls b c⟩,
    fun w => winnersBy_subset, fun w => winnersBy_exists, fun u w => winnersBy_lane,
    fun q b c o n va y => ⟨rfl, rfl, writePlace_mem⟩,
    fun ha w hw c o n k hk => ⟨doWrites_scr ha hw hk, doWrites_dscr ha hw hk⟩⟩

end Sys2Proof.Machine
end

section
/-! PROOF. A plain store changes no byte but those at the places of its lanes (06 R150; 10 R217, 11 R236). -/

namespace Sys2Proof.Machine

open Sys2Proof

/-! ### The bytes at the places of a store -/

/-- A byte of scratch lies in no piece of n bytes at the places. -/
def OutScr (ps : List Place) (n k : Nat) : Prop := ∀ c o q, Place.scr c o q ∈ ps → k < scrKey c o ∨ scrKey c o + n ≤ k

/-- A byte of die scratch lies in no piece of n bytes at the places. -/
def OutDscr (ps : List Place) (n k : Nat) : Prop := ∀ c o q, Place.dscr c o q ∈ ps → k < dscrKey c o ∨ dscrKey c o + n ≤ k

/-- A byte of a home lies in no piece of n bytes at the places that go past the L1. -/
def OutHome (ps : List Place) (n k : Nat) : Prop :=
  ∀ va y, Place.phys va y ∈ ps → (k < y.pa ∨ y.pa + n ≤ k) ∨ (Place.phys va y).past = false

/-- No line is reached both through the L1 and past it. -/
def OneWay (ps : List Place) : Prop :=
  ∀ va y vb z, Place.phys va y ∈ ps → Place.phys vb z ∈ ps → y.pa / 128 = z.pa / 128 → (Place.phys va y).past = (Place.phys vb z).past

/-- A state differs from `m` in no byte of scratch, die scratch and homes but those of the pieces of n bytes at the places. -/
structure WritesOnly (m : State) (ps : List Place) (n : Nat) (t : State) : Prop where
  scr : ∀ k, OutScr ps n k → mget blankByte t.scr k = mget blankByte m.scr k
  dscr : ∀ k, OutDscr ps n k → mget blankByte t.dscr k = mget blankByte m.dscr k
  homes : OneWay ps → ∀ k, OutHome ps n k → t.homeByte k = m.homeByte k
  acc : t.acc = m.acc

section
variable {m s t : State} {ps : List Place} {n : Nat}

theorem SameMem.writesOnly (h : SameMem m t) : WritesOnly m ps n t :=
  ⟨fun k _ => by rw [h.scr], fun k _ => by rw [h.dscr], fun _ k _ => by unfold State.homeByte; rw [h.mem], h.acc⟩

theorem WritesOnly.same (h : WritesOnly m ps n s) (k : SameMem s t) : WritesOnly m ps n t :=
  ⟨fun j hj => by rw [k.scr]; exact h.scr j hj, fun j hj => by rw [k.dscr]; exact h.dscr j hj,
    fun ho j hj => by unfold State.homeByte; rw [k.mem]; exact h.homes ho j hj, k.acc.trans h.acc⟩

end

/-! ### The lines that a store dirties -/

/-- Every dirty line of the core is of its epoch, and of a place that the store reaches through the L1. -/
def OwnLines (core : Nat) (ps : List Place) (s : State) : Prop :=
  ∀ l, l ∈ (s.core core).l1 → l.dirty = 0 ∨
    (l.epoch = (s.core core).epoch ∧ ∃ va y, Place.phys va y ∈ ps ∧ y.pa / 128 = l.line ∧ (Place.phys va y).past = false)

section
variable {s : State} {core : Nat} {ps : List Place}

theorem OwnLines.setCore (h : OwnLines core ps s) {c : CoreSt} (he : c.epoch = (s.core core).epoch)
    (hl : ∀ l, l ∈ c.l1 → l ∈ (s.core core).l1) : OwnLines core ps (s.setCore core c) := by
  intro l hm
  rw [core_setCore_self] at hm ⊢
  rw [he]
  exact h l (hl l hm)

/-- The core of an L1 into which a line is put. -/
theorem core_l1Put (s : State) (core : Nat) (l : L1Line) (d : List Damage) : State.core { l1Put s core l with damage := d } core =
    { s.core core with l1 := l :: (s.core core).l1.filter (fun x => x.line != l.line) } :=
  core_setCore_self s core { s.core core with l1 := l :: (s.core core).l1.filter (fun x => x.line != l.line) }

/-- The line that a place past the L1 reaches holds no dirty byte. -/
theorem OwnLines.clean (h : OwnLines core ps s) (ho : OneWay ps) {va : Nat} {y : Xl} (hp : Place.phys va y ∈ ps)
    (hpast : (Place.phys va y).past = true) {l : L1Line} (hl : l1Line? s core (y.pa / 128) = some l) : l.dirty = 0 := by
  rcases h l (List.mem_of_find?_eq_some hl) with hd | ⟨-, vb, z, hz, hline, hnot⟩
  · exact hd
  · have hsame := ho va y vb z hp hz (by rw [hline, l1Line?_line hl])
    rw [hpast, hnot] at hsame
    cases hsame

theorem OwnLines.fresh (h : OwnLines core ps s) (n : Nat) : freshEpoch s core n = s :=
  freshEpoch_same (fun l hl => (h l (List.mem_of_find?_eq_some hl)).imp_right (fun k => k.1))

theorem OwnLines.storeL1 (h : OwnLines core ps s) (ctx : Nat) {va : Nat} {y : Xl} (hp : Place.phys va y ∈ ps)
    (hpast : (Place.phys va y).past = false) (b : List Byte) : OwnLines core ps (storeL1 s core ctx y.pa b) := by
  obtain ⟨d, he⟩ := storeL1_eq s core ctx y.pa b
  rw [he, h.fresh]
  intro l hm
  rw [core_l1Put] at hm ⊢
  rcases List.mem_cons.mp hm with rfl | hm
  · exact .inr ⟨rfl, va, y, hp, (storedLine_line s core ctx y.pa b).symm, hpast⟩
  · exact h l (List.mem_of_mem_filter hm)

theorem OwnLines.flushOwn (h : OwnLines core ps s) {n : Nat} (hc : ∀ l, l1Line? s core n = some l → l.dirty = 0) :
    OwnLines core ps (flushOwn s core n) ∧ (flushOwn s core n).mem = s.mem := by
  unfold Machine.flushOwn
  cases hl : l1Line? s core n with
  | none => exact ⟨h, rfl⟩
  | some l =>
    have hb : writeBackLine s core l = s := by
      unfold writeBackLine
      exact if_pos (hc l hl)
    dsimp only
    rw [hb]
    refine ⟨?_, rfl⟩
    exact OwnLines.setCore h (c := { s.core core with l1 := (s.core core).l1.filter (fun x => x.line != n) }) rfl
      (fun k hk => List.mem_of_mem_filter hk)

theorem OwnLines.storeHome (h : OwnLines core ps s) {pa : Nat} (hc : ∀ l, l1Line? s core (pa / 128) = some l → l.dirty = 0) (b : List Byte) :
    OwnLines core ps (storeHome s core pa b) := by
  refine OwnLines.setCore (s := (Machine.flushOwn s core (pa / 128)).setHome pa b) ?_ rfl (fun l hl => hl)
  exact (h.flushOwn hc).1

end

/-! ### The writes of a store -/

section
variable {m s : State} {x : Ix} {ps : List Place} {n : Nat} {p : Place} {b : List Byte}

/-- A piece at one of the places leaves every other byte of scratch. -/
theorem scr_writePlace_out (hp : p ∈ ps) (hb : b.length = n) {core ctx k : Nat} (hk : OutScr ps n k) :
    mget blankByte (writePlace core ctx false s p b).scr k = mget blankByte s.scr k := by
  cases p with
  | scr c o q =>
    have h := hk c o q hp
    rw [writePlace_scr, scr_setScr, hb]
    exact if_neg (by omega)
  | dscr c o q => rfl
  | phys va y => rw [writePlace_phys_sameLocal.scr]

/-- A piece at one of the places leaves every other byte of die scratch. -/
theorem dscr_writePlace_out (hp : p ∈ ps) (hb : b.length = n) {core ctx k : Nat} (hk : OutDscr ps n k) :
    mget blankByte (writePlace core ctx false s p b).dscr k = mget blankByte s.dscr k := by
  cases p with
  | scr c o q => rfl
  | dscr c o q =>
    have h := hk c o q hp
    rw [writePlace_dscr, dscr_setDscr, hb]
    exact if_neg (by omega)
  | phys va y => rw [writePlace_phys_sameLocal.dscr]

theorem acc_writePlace {core ctx : Nat} {past : Bool} : (writePlace core ctx past s p b).acc = s.acc := by
  cases p with
  | scr c o q => rfl
  | dscr c o q => rfl
  | phys va y => exact writePlace_phys_sameLocal.acc

theorem groups_writePlace {core ctx : Nat} {past : Bool} : (writePlace core ctx past s p b).groups = s.groups := by
  cases p with
  | scr c o q => rfl
  | dscr c o q => rfl
  | phys va y => exact writePlace_phys_sameLocal.groups

/-- A piece at one of the places leaves the core's lines as the store has them, and every byte of a home outside the places. -/
theorem homes_writePlace (ho : OneWay ps) (hp : p ∈ ps) (hb : b.length = n) {core ctx : Nat} (h : OwnLines core ps s) :
    OwnLines core ps (writePlace core ctx false s p b)
      ∧ ∀ k, OutHome ps n k → (writePlace core ctx false s p b).homeByte k = s.homeByte k := by
  cases p with
  | scr c o q => exact ⟨h, fun k _ => rfl⟩
  | dscr c o q => exact ⟨h, fun k _ => rfl⟩
  | phys va y =>
    by_cases hm : regionOf y.pa = .mmio
    · simp only [writePlace, State.writePa, hm]
      exact ⟨h, fun k _ => rfl⟩
    · by_cases hh : regionOf y.pa = .host
      · simp only [writePlace, State.writePa, hh]
        exact ⟨h, fun k _ => rfl⟩
      · rw [writePlace_home hm hh]
        by_cases hpast : (Place.phys va y).past = true
        · have hclean : ∀ l, l1Line? s core (y.pa / 128) = some l → l.dirty = 0 := fun l hl => h.clean ho hp hpast hl
          rw [if_pos (.inr hpast)]
          refine ⟨h.storeHome hclean b, fun k hk => ?_⟩
          have hout : ¬ (y.pa ≤ k ∧ k < y.pa + b.length) := by
            rcases hk va y hp with ho | hf
            · omega
            · rw [hpast] at hf; cases hf
          have hflush : (Machine.flushOwn s core (y.pa / 128)).homeByte k = s.homeByte k := by
            unfold State.homeByte
            rw [(h.flushOwn hclean).2]
          exact (homeByte_setHome _ _ _ _).trans ((if_neg hout).trans hflush)
        · have hnot : (Place.phys va y).past = false := Bool.eq_false_of_not_eq_true hpast
          rw [if_neg (by simp [hnot])]
          refine ⟨h.storeL1 ctx hp hnot b, fun k _ => ?_⟩
          change (freshEpoch s core (y.pa / 128)).homeByte k = s.homeByte k
          rw [h.fresh]

/-- The writes of a store leave every byte outside its places. -/
theorem doWrites_only {ws : List (Nat × Place × List Byte)} (hw : ∀ w, w ∈ ws → w.2.1 ∈ ps ∧ w.2.2.length = n)
    (hl : OwnLines x.core ps s) (h : WritesOnly m ps n s) :
    (OneWay ps → OwnLines x.core ps (doWrites x false s ws)) ∧ WritesOnly m ps n (doWrites x false s ws) := by
  induction ws with
  | nil => exact ⟨fun _ => hl, h⟩
  | cons w ws ih =>
    obtain ⟨hp, hb⟩ := hw w List.mem_cons_self
    obtain ⟨kl, k⟩ := ih (fun w hm => hw w (List.mem_cons_of_mem _ hm))
    rw [doWrites_cons]
    exact ⟨fun ho => (homes_writePlace ho hp hb (kl ho)).1,
      fun j hj => (scr_writePlace_out hp hb hj).trans (k.scr j hj),
      fun j hj => (dscr_writePlace_out hp hb hj).trans (k.dscr j hj),
      fun ho j hj => ((homes_writePlace ho hp hb (kl ho)).2 j hj).trans (k.homes ho j hj),
      acc_writePlace.trans k.acc⟩

theorem groups_doWrites {past : Bool} (ws : List (Nat × Place × List Byte)) : (doWrites x past s ws).groups = s.groups := by
  induction ws with
  | nil => rfl
  | cons w ws ih => rw [doWrites_cons, groups_writePlace, ih]

end

/-! ### The effect of a store -/

/-- How the effect of an instruction of a quiet group may end: with no byte changed outside the places, and its split not gone. -/
structure StoreEnds (m : State) (x : Ix) (ps : List Place) (n : Nat) (r : State × Next) : Prop where
  only : WritesOnly m ps n r.1
  group : ∀ g, r.1.group? x.g.uid = some g → g.inHandler = false ∧ g.exm ≠ BitVec.allOnes 32
  stays : r.2 ≠ .gone

section
variable {m s : State} {x : Ix} {ps : List Place} {n : Nat}

theorem Calm.storeEnds (h : Calm m x.g.uid s) {nx : Next} (hn : nx ≠ .gone) : StoreEnds m x ps n (s, nx) :=
  ⟨h.same.writesOnly, fun g hg => ⟨h.plain g hg, h.lives g hg⟩, hn⟩

theorem request_sameMem (s : State) (q : Remote) : SameMem s (s.request q) := by
  unfold State.request
  dsimp only
  split
  · exact ⟨rfl, rfl, rfl, rfl⟩
  · have h := emit_sameMem { s with remotes := s.remotes ++ [{ q with sent := !s.remotes.any (fun p => p.sameLine q) }] } q
    exact ⟨h.mem, h.scr, h.dscr, h.acc⟩

/-- Telling homes to perform what they hold changes no memory and no group. -/
theorem performHeld_keeps (x : Ix) (s : State) : SameMem s (performHeld x s) ∧ (performHeld x s).groups = s.groups := by
  refine List.foldlRecOn (motive := fun t : State => SameMem s t ∧ t.groups = s.groups) _ _ ⟨⟨rfl, rfl, rfl, rfl⟩, rfl⟩ (fun t ht a _ => ?_)
  unfold tellHome
  rw [if_pos rfl]
  exact ⟨ht.1.trans (SameMem.trans (s := t.fresh) ⟨rfl, rfl, rfl, rfl⟩ (request_sameMem _ _)),
    (request_sameActors t.fresh _).groups.trans ht.2⟩

theorem lintelPut_keeps (s : State) (cls : Nat) (rs : List LintelRec) :
    SameMem s (lintelPut s cls rs) ∧ (lintelPut s cls rs).groups = s.groups := by
  unfold lintelPut
  split <;> exact ⟨⟨rfl, rfl, rfl, rfl⟩, rfl⟩

theorem Calm.ownLines {u : Nat} (h : Calm m u s) (core : Nat) (ps : List Place) : OwnLines core ps s :=
  fun l hl => .inl (h.settled.clean core l hl)

/-- A split held until its homes have answered ends with no byte changed. -/
theorem Calm.holdSplit (h : Calm m x.g.uid s) (k : Kept) (before : State) : StoreEnds m x ps n (holdSplit x k before s) := by
  unfold Machine.holdSplit
  refine Calm.storeEnds (Calm.modGroup h _ (fun g => ?_)) nofun
  exact ⟨rfl, rfl, rfl⟩

theorem Calm.lineWrites (h : Calm m x.g.uid s) (hold : Bool) (ws : List (Nat × Place × List Byte)) (ls : List Nat) :
    Calm m x.g.uid (ls.foldl (fun s l => lineWrite x hold s l ws) s) :=
  Calm.foldl (fun _ _ hs => hs.freshRequest _) ls h

/-- The writes of a store, then what it tells homes and queues. -/
theorem storeWrites_ends (h : Calm m x.g.uid s) {ws : List (Nat × Place × List Byte)} (hw : ∀ w, w ∈ ws → w.2.1 ∈ ps ∧ w.2.2.length = n)
    (cls : Nat) (rs : List LintelRec) : StoreEnds m x ps n (lintelPut (performHeld x (doWrites x false s ws)) cls rs, .step) := by
  have hd := (doWrites_only hw (h.ownLines x.core ps) h.same.writesOnly).2
  obtain ⟨hp, hpg⟩ := performHeld_keeps x (doWrites x false s ws)
  obtain ⟨hlm, hlg⟩ := lintelPut_keeps (performHeld x (doWrites x false s ws)) cls rs
  have hgroups := hlg.trans (hpg.trans (groups_doWrites ws))
  refine ⟨(hd.same hp).same hlm, fun g hg => ?_, nofun⟩
  have hg1 : s.group? x.g.uid = some g := by
    unfold State.group? at hg ⊢
    rw [← hgroups]
    exact hg
  exact ⟨h.plain g hg1, h.lives g hg1⟩

/-- Each piece that remains of a store that joins none is at one of its places. -/
theorem mem_winners_plain {draw size : Nat} {ls : List (Nat × List Place)} {v : Nat → Nat} {w : Nat × Place × List Byte}
    (h : w ∈ winners draw (joinPieces false (writesOf size ls v))) : w.2.1 ∈ ls.flatMap (fun l => l.2) ∧ w.2.2.length = pieceLen size := by
  have hall : w ∈ joinPieces false (writesOf size ls v) := winnersBy_subset h
  rw [joinPieces.eq_def] at hall
  obtain ⟨⟨l, hl, hp⟩, hb⟩ := mem_writesOf hall
  exact ⟨List.mem_flatMap.mpr ⟨l, hl, hp⟩, hb⟩

/-- What a store that makes no record of a release ends with, of its places and data as resolved. -/
theorem storeEffect_ends {f : AccForm} (hj : f.joined = false) (hpast : f.past = false) (k : Kept) (hx : Calm m x.g.uid x.s)
    (h : Calm m x.g.uid s) : StoreEnds m x k.all (pieceLen f.size) (storeEffect x f false k s) := by
  have h0 : Calm m x.g.uid (Machine.fillTlb x s k.all) := h.fillTlb x _
  unfold storeEffect
  dsimp only
  rw [hj, hpast]
  split
  · exact hx.storeEnds nofun
  · split
    · exact Calm.holdSplit (h0.lineWrites _ _ _) k _
    · rw [if_neg Bool.false_ne_true]
      exact storeWrites_ends (Calm.beside h0) (fun w hw => mem_winners_plain (List.mem_of_mem_filter hw)) _ _

/-- A store passed over or cleared ends as its effect does. -/
theorem cleared_ends {past : Bool} {size : Nat} {k : State → State × Next} (h : Calm m x.g.uid x.s)
    (hk : ∀ s, Calm m x.g.uid s → StoreEnds m x ps n (k s)) : StoreEnds m x ps n (cleared x past false ps size k) := by
  unfold cleared
  dsimp only
  split
  · exact h.storeEnds nofun
  · rw [reachAll_none]
    split
    · exact h.storeEnds nofun
    · have hr := h.serveRows ((writeRows x past ps).filter (fun pa => !(x.sp.ask.getD {}).served.contains (rowOf pa)))
      split
      · exact (hr.turnAway x _ _).storeEnds nofun
      · have hs := hr.settleAt x.g.uid (ps.map (fun p => (p, size)))
        split
        · exact hs.storeEnds nofun
        · exact hk _ hs

end

/-! ### The plain stores -/

/-- The places of a store: those that it has resolved where homes were asked meanwhile, else those of its lanes. -/
def storeReach (x : Ix) (f : AccForm) (a : LaneOp) : List Place :=
  match keptOf x with
  | some k => k.all
  | none => (sidePlaces x (sideOf x f .store a)).flatMap (fun l => l.2)

/-- A plain store of a quiet group changes no byte outside its places. -/
theorem storeOp_only {s t : State} {x : Ix} {f : AccForm} (hord : f.ord = none) {w : Nat} {d a : LaneOp} (hx : ixOf s = some x) (q : Quiet x.g)
    (hh : HasHandler x) (hs : Settled s) (he : storeOp f w d a s = .next t) : WritesOnly s (storeReach x f a) (pieceLen f.size) t := by
  have hc : Calm s x.g.uid x.s := by
    have h := calm_of hx q hs
    rwa [← (ixOf_fields hx).1] at h ⊢
  have hj : f.joined = false := by simp [AccForm.joined, AccForm.whole, hord]
  have hpast : f.past = false := by simp [AccForm.past, hord]
  have hstrong : f.strong = false := by simp [AccForm.strong, hord]
  have hgo : ∀ k, StoreEnds s x k.all (pieceLen f.size) (cleared x f.past false k.all (pieceLen f.size) (storeEffect x f false k)) :=
    fun k => cleared_ends hc (fun s1 h1 => storeEffect_ends hj hpast k hc h1)
  have hend : ∀ r, StoreEnds s x (storeReach x f a) (pieceLen f.size) r → WritesOnly s (storeReach x f a) (pieceLen f.size) (finish x r.1 r.2) :=
    fun r hr => hr.only.same (finish_sameMem hr.group q.sound hr.stays)
  rcases issue_quiet hx q hh hs he with h | ⟨r, hr, rfl⟩
  · exact h.writesOnly
  · refine hend r ?_
    unfold storeReach
    dsimp only at hr
    cases hkept : keptOf x with
    | some k =>
      rw [hkept] at hr
      cases hr
      exact hgo k
    | none =>
      rw [hkept] at hr
      dsimp only at hr
      split at hr
      · cases hr
      · simp only [hstrong, AccForm.relScope, Bool.false_and, Bool.false_eq_true, if_false, released] at hr
        cases hr
        exact hgo (keptNow x _ _ _)

/-- Settles O56: every form is a `storeOp` of a plain access. -/
theorem storesWriteOnlyTheirBytes : Obligations.StoresWriteOnlyTheirBytes := by
  unfold Obligations.StoresWriteOnlyTheirBytes
  intro s t x w d a off sp half hx q hh hs
  have only : ∀ (i : Instr) (f : AccForm) (n : Nat), f.ord = none → exec i s = storeOp f n d a s → exec i s = .next t →
      WritesOnly s (storeReach x f a) (pieceLen f.size) t :=
    fun i f n hord hi he => storeOp_only hord hx q hh hs (hi.symm.trans he)
  have goal : ∀ {f : AccForm}, WritesOnly s (storeReach x f a) (pieceLen f.size) t →
      (∀ k, OutScr (storeReach x f a) (pieceLen f.size) k → mget blankByte t.scr k = mget blankByte s.scr k)
      ∧ (∀ k, OutDscr (storeReach x f a) (pieceLen f.size) k → mget blankByte t.dscr k = mget blankByte s.dscr k)
      ∧ (OneWay (storeReach x f a) → ∀ k, OutHome (storeReach x f a) (pieceLen f.size) k → t.homeByte k = s.homeByte k) ∧ t.acc = s.acc :=
    fun h => ⟨h.scr, h.dscr, h.homes, h.acc⟩
  exact ⟨fun he => goal (only _ _ _ rfl (exec_stg w d a off s) he), fun he => goal (only _ _ _ rfl (exec_sts w d a off s) he),
    fun he => goal (only _ _ _ rfl (exec_stc w d a off s) he), fun he => goal (only _ _ _ rfl (exec_std w d a off s) he),
    fun he => goal (only _ _ _ rfl (exec_stl w d a off s) he), fun he => goal (only _ _ _ rfl (exec_stx d a sp half s) he)⟩

end Sys2Proof.Machine
end

section
/-! PROOF. What is performed beside a return writes no lane register: reads at homes, drains, and the homes served again (11 R236, 20 R426). -/

namespace Sys2Proof.Machine

open Sys2Proof

/-! ### Reads and drains leave the groups alone -/

theorem drainTo_sameGroups (s : State) (core : Nat) (ep : Word) : SameGroups s (drainTo s core ep) :=
  foldl_sameGroups _ (fun s l => (cleanLine_sameActors s core l).sameGroups) _ s

theorem reachHome_sameGroups (s : State) (core line : Nat) : SameGroups s (reachHome s core line) := by
  have h := foldl_sameGroups (fun s (r : HomeRec) => drainTo s r.core r.epoch) (fun s r => drainTo_sameGroups s r.core r.epoch)
    (s.homeRecs.filter (fun r => r.line == line && r.core != core)) s
  exact ⟨h.groups, h.teams⟩

theorem l1Drop_writeBack_sameGroups (s : State) (core : Nat) (l : L1Line) (n : Nat) : SameGroups s (l1Drop (writeBackLine s core l) core n) := by
  have h := writeBackLine_sameActors s core l
  exact ⟨h.groups, h.teams⟩

theorem flushOwn_sameGroups (s : State) (core line : Nat) : SameGroups s (flushOwn s core line) := by
  unfold flushOwn
  split
  · exact l1Drop_writeBack_sameGroups _ _ _ _
  · exact .refl s

theorem loadHome_sameGroups (s : State) (core pa len : Nat) : SameGroups s (loadHome s core pa len).s :=
  (flushOwn_sameGroups s core (pa / 128)).trans (reachHome_sameGroups _ core (pa / 128))

theorem fillGuest_sameGroups (s : State) (core line : Nat) : SameGroups s (fillGuest s core line) := by
  unfold fillGuest
  split
  · exact .refl s
  · exact ⟨rfl, rfl⟩

theorem fillL1_sameGroups (s : State) (core ctx line : Nat) : SameGroups s (fillL1 s core ctx line) := by
  have h := (reachHome_sameGroups s core line).trans (fillGuest_sameGroups _ core line)
  exact ⟨h.groups, h.teams⟩

theorem loadL1_sameGroups (s : State) (core ctx pa len : Nat) : SameGroups s (loadL1 s core ctx pa len).s := by
  unfold loadL1
  dsimp only
  split
  · exact .refl s
  · exact fillL1_sameGroups _ _ _ _

theorem readLocal_sameGroups (s : State) (core ctx : Nat) (past : Bool) (n : Nat) (sgn : Bool) (p : Place) :
    SameGroups s (readLocal s core ctx past n sgn p).1 := by
  cases p with
  | scr c o k => exact .refl s
  | dscr c o k => exact .refl s
  | phys va y =>
    unfold readLocal
    dsimp only
    split
    · exact loadHome_sameGroups _ _ _ _
    · exact loadL1_sameGroups _ _ _ _ _

theorem performVal_sameGroups {s : State} {more : Bool} {t : Team} {v : PVal} {r : State × PVal} (h : performVal more s t v = some r) :
    SameGroups s r.1 := by
  unfold performVal at h
  split at h
  · split at h
    · cases h
    · obtain ⟨s1, hs, rfl⟩ := Option.map_eq_some_iff.mp h
      refine SameGroups.trans ?_ (readLocal_sameGroups s1 _ _ _ _ _ _)
      split at hs
      · cases hs; exact .refl s
      · unfold serveRead at hs
        split at hs
        · exact serveRow_sameGroups hs
        · cases hs; exact .refl s
  · cases h; exact .refl s
  · cases h

theorem performWords_sameGroups {s : State} {t : Team} {g : Group} {more : Bool} {ws : List WordId} {r : State × List (WordId × PVal)}
    (h : performWords t g more ws s = some r) : SameGroups s r.1 := by
  induction ws generalizing s more r with
  | nil => cases h; exact .refl s
  | cons w ws ih =>
    unfold performWords at h
    split at h
    · exact ih h
    · split at h
      · cases h
      · split at h
        · cases h
        · next hv =>
          obtain ⟨q, hq, hqr⟩ := Option.map_eq_some_iff.mp h
          rw [← hqr]
          exact (performVal_sameGroups hv).trans (ih (r := q) hq)

theorem reachWait_sameGroups (s : State) (core line : Nat) : SameGroups s (reachWait s core line) := by
  refine foldl_sameGroups _ (fun s r => ?_) _ s
  have h := drainWait_sameGroups s r.core (upTo r.epoch)
  unfold drainRec
  dsimp only
  split
  · exact h
  · exact ⟨h.groups, h.teams⟩

theorem dropLines_sameGroups (s : State) (p : Nat → Bool) : SameGroups s (dropLines s p) := by
  have h := foldl_sameGroups (fun s c => ((s.core c).l1.filter (fun l => p l.line)).foldl (fun s l => l1Drop (writeBackLine s c l) c l.line) s)
    (fun s c => foldl_sameGroups _ (fun s l => l1Drop_writeBack_sameGroups s c l l.line) _ s) (listedCores s) s
  exact ⟨h.groups, h.teams⟩

theorem recallHome_sameGroups (s : State) (r : Nat) (bank : Bool) : SameGroups s (recallHome s r bank) := by
  unfold recallHome
  dsimp only
  split
  · split
    · exact .refl s
    · exact ⟨rfl, rfl⟩
  · exact .refl s

/-! ### The lane registers of every group -/

/-- Every group of a state is in another with the same lane registers. -/
def KeepsRegs (s t : State) : Prop := ∀ u g, s.group? u = some g → ∃ h, t.group? u = some h ∧ h.regs = g.regs

theorem KeepsRegs.refl (s : State) : KeepsRegs s s := fun _ g hg => ⟨g, hg, rfl⟩

theorem KeepsRegs.trans {r s t : State} (h : KeepsRegs r s) (k : KeepsRegs s t) : KeepsRegs r t := by
  intro u g hg
  obtain ⟨g1, h1, e1⟩ := h u g hg
  obtain ⟨g2, h2, e2⟩ := k u g1 h1
  exact ⟨g2, h2, e2.trans e1⟩

theorem SameGroups.keepsRegs {s t : State} (h : SameGroups s t) : KeepsRegs s t := fun u g hg => ⟨g, (h.group? u).trans hg, rfl⟩

theorem foldl_keepsRegs {α : Type} (f : State → α → State) (hf : ∀ s a, KeepsRegs s (f s a)) (l : List α) (s : State) : KeepsRegs s (l.foldl f s) := by
  induction l generalizing s with
  | nil => exact .refl s
  | cons a l ih => exact (hf s a).trans (ih _)

theorem groups_map_keepsRegs {s t : State} {f : Group → Group} (hf : ∀ g, (f g).uid = g.uid ∧ (f g).regs = g.regs)
    (ht : t.groups = s.groups.map f) : KeepsRegs s t := by
  intro u g hg
  refine ⟨f g, ?_, (hf g).2⟩
  unfold State.group? at hg ⊢
  rw [ht, find?_map_of_fix (fun a => by rw [(hf a).1]), hg]
  rfl

theorem modGroup_keepsRegs (s : State) (u : Nat) {f : Group → Group} (hf : ∀ g, (f g).uid = g.uid ∧ (f g).regs = g.regs) :
    KeepsRegs s (s.modGroup u f) := by
  refine groups_map_keepsRegs (f := fun g => if g.uid = u then f g else g) (fun g => ?_) rfl
  split
  · exact hf g
  · exact ⟨rfl, rfl⟩

theorem setVals_regs (l : List (WordId × PVal)) (g : Group) :
    (l.foldl (fun g x => g.setVal x.1 x.2) g).uid = g.uid ∧ (l.foldl (fun g x => g.setVal x.1 x.2) g).regs = g.regs := by
  induction l generalizing g with
  | nil => exact ⟨rfl, rfl⟩
  | cons a l ih => exact ih (g.setVal a.1 a.2)

theorem performWord_keepsRegs (u : Nat) (s : State) (w : WordId) : KeepsRegs s (performWord u s w) := by
  unfold performWord
  split
  · exact .refl s
  · split
    · exact .refl s
    · split
      · exact modGroup_keepsRegs s u (fun g => ⟨rfl, rfl⟩)
      · next g _ _ t _ _ _ =>
        have h1 := foldl_sameGroups (fun s l => reachWait s t.core l) (fun s l => reachWait_sameGroups s t.core l)
          (wordLines s t.core g (g.together w)) s
        dsimp only
        split
        · exact h1.keepsRegs
        · next r hr => exact (h1.trans (performWords_sameGroups hr)).keepsRegs.trans (modGroup_keepsRegs _ u (fun g => setVals_regs _ _))

theorem performIf_keepsRegs (s : State) (u : Nat) (f : WordId → PVal → Bool) : KeepsRegs s (performIf s u f) := by
  unfold performIf
  split
  · exact .refl s
  · exact foldl_keepsRegs _ (fun s w => performWord_keepsRegs u s w) _ s

theorem drainHome_keepsRegs (s : State) (r : Nat) : KeepsRegs s (drainHome s r) := by
  have h : KeepsRegs s (settleWhere s (Place.inOwn r)) := by
    unfold settleWhere
    exact foldl_keepsRegs _ (fun s (g : Group) => performIf_keepsRegs s g.uid _) _ s
  exact h.trans (foldl_sameGroups _ (fun s c => drainWait_sameGroups s c _) _ _).keepsRegs

theorem homeServe_keepsRegs (s : State) (r : Nat) : KeepsRegs s (homeServe s r) := by
  unfold homeServe
  dsimp only
  split
  · exact .refl s
  · split
    · have h := drainHome_keepsRegs s r
      split
      · exact h
      · have hd : SameGroups (drainHome s r) (dropHome (drainHome s r) r) := dropLines_sameGroups _ _
        split
        · exact h.trans (SameGroups.keepsRegs ⟨hd.groups, hd.teams⟩)
        · refine h.trans (SameGroups.keepsRegs (SameGroups.trans ?_ (recallHome_sameGroups _ r false)))
          exact ⟨hd.groups, hd.teams⟩
    · exact .refl s
  · split
    · exact (recallHome_sameGroups s r false).keepsRegs
    · exact .refl s

/-- The homes served again leave every lane register. -/
theorem serveHomes_keepsRegs (s : State) : KeepsRegs s (serveHomes s) :=
  foldl_keepsRegs (fun s (e : Nat × HomeTok) => homeServe s e.1) (fun s e => homeServe_keepsRegs s e.1) s.homeToks s

theorem acquireCore_keepsRegs (s : State) (core : Nat) : KeepsRegs s (acquireCore s core) := by
  unfold acquireCore
  refine groups_map_keepsRegs (fun g => ?_) rfl
  split <;> exact ⟨rfl, rfl⟩

/-! ### The return of a register -/

section
variable {s : State} {p : Pend} {i : Nat}

theorem returnLane_known (hz : p.reg < 112) (hd : p.dirty = 0) (g : Group) (j : Nat) (v : Word) :
    returnLane s p g (j, .known v) = writeReg g j p.reg v := by
  have hne : (p.reg == zReg) = false := by simp [zReg]; omega
  unfold returnLane
  dsimp only
  simp [hne, hd]

theorem foldl_returnLane_uid (l : List (Nat × PVal)) (g : Group) : (l.foldl (returnLane s p) g).uid = g.uid := by
  refine List.foldlRecOn (motive := fun h : Group => h.uid = g.uid) l _ rfl (fun h hh x _ => ?_)
  unfold returnLane
  dsimp only
  split
  · split <;> exact hh
  · split
    · split <;> exact hh
    · exact hh

/-- The words of other lanes leave a lane's register. -/
theorem foldl_returnLane_ne (hz : p.reg < 112) (hd : p.dirty = 0) {l : List (Nat × PVal)} (hk : ∀ x, x ∈ l → ∃ v, x.2 = .known v)
    (hi : i ∉ l.map (fun x => x.1)) (g : Group) : (l.foldl (returnLane s p) g).reg i p.reg = g.reg i p.reg := by
  induction l generalizing g with
  | nil => rfl
  | cons a l ih =>
    obtain ⟨j, u⟩ := a
    obtain ⟨v, rfl⟩ := hk _ List.mem_cons_self
    rw [List.map_cons, List.mem_cons, not_or] at hi
    rw [List.foldl_cons, returnLane_known hz hd, ih (fun x hx => hk x (List.mem_cons_of_mem _ hx)) hi.2, writeReg_reg g j p.reg v i p.reg hz hz]
    exact if_neg (fun h => hi.1 h.1)

/-- A lane's register holds the word that has arrived for it. -/
theorem foldl_returnLane_reg (hz : p.reg < 112) (hd : p.dirty = 0) {l : List (Nat × PVal)} (hk : ∀ x, x ∈ l → ∃ v, x.2 = .known v)
    (hn : (l.map (fun x => x.1)).Nodup) {v : Word} (hi : (i, PVal.known v) ∈ l) (g : Group) : (l.foldl (returnLane s p) g).reg i p.reg = v := by
  induction l generalizing g with
  | nil => cases hi
  | cons a l ih =>
    rw [List.map_cons, List.nodup_cons] at hn
    have hkl : ∀ x, x ∈ l → ∃ v, x.2 = .known v := fun x hx => hk x (List.mem_cons_of_mem _ hx)
    rcases List.mem_cons.mp hi with rfl | hin
    · rw [List.foldl_cons, foldl_returnLane_ne hz hd hkl hn.1, returnLane_known hz hd, writeReg_reg g i p.reg v i p.reg hz hz]
      exact if_pos ⟨rfl, rfl⟩
    · exact ih hkl hn.2 hin _

/-- The group of a register that is returned, with its words written. -/
def returnedGroup (s : State) (g : Group) (p : Pend) : Group :=
  p.vals.foldl (returnLane s p) { g with pends := g.pends.filter (fun q => !(q.load == p.load && q.reg == p.reg)) }

/-- What follows the writing of a returned register leaves every lane register. -/
theorem returned_keepsRegs (s : State) (g : Group) (t : Team) (p : Pend) :
    KeepsRegs (s.setGroup (unpark s.clock (returnedGroup s g p))) (returned s g t p) := by
  have posts : ∀ (l : List FailedReg) (q : State), SameGroups q (l.foldl (fun s f =>
      postAsync s (dieOf t.core) t.ctx 0x22 t.lch f.va f.pa (some t.core) (some g.uid)) q) :=
    fun l q => foldl_sameGroups _ (fun s _ => (postAsync_sameActors s _ _ _ _ _ _ _ _).sameGroups) l q
  unfold returned
  dsimp only
  have strong : ∀ q : State, KeepsRegs q (if p.strong then q.modGroup g.uid Group.acquired else q) := by
    intro q
    split
    · exact modGroup_keepsRegs q g.uid (fun g => ⟨rfl, rfl⟩)
    · exact .refl q
  split
  · exact (posts _ _).keepsRegs.trans ((strong _).trans (acquireCore_keepsRegs _ _))
  · exact (posts _ _).keepsRegs.trans (strong _)

/-- The return of a register whose words are all known writes them, and what follows it leaves them. -/
theorem returnPend_reg {g : Group} (hg : s.group? g.uid = some g) (t : Team) (hz : p.reg < 112) (hd : p.dirty = 0)
    (hk : ∀ x, x ∈ p.vals → ∃ v, x.2 = .known v) (hn : (p.vals.map (fun x => x.1)).Nodup) {v : Word} (hi : (i, PVal.known v) ∈ p.vals) :
    ∃ h, (serveHomes (returnPend s g t p)).group? g.uid = some h ∧ h.reg i p.reg = v := by
  have ha : ∀ x, x ∈ p.vals → arrived x.2 = true := by
    intro x hx
    obtain ⟨w, hw⟩ := hk x hx
    rw [hw]
    rfl
  have hu : (unpark s.clock (returnedGroup s g p)).uid = g.uid := foldl_returnLane_uid _ _
  have hset : (s.setGroup (unpark s.clock (returnedGroup s g p))).group? g.uid = some (unpark s.clock (returnedGroup s g p)) := by
    rw [← hu]
    exact group?_setGroup (hu.symm ▸ hg)
  obtain ⟨h, hh, hr⟩ := (returned_keepsRegs s g t p).trans (serveHomes_keepsRegs _) g.uid _ hset
  rw [returnPend_arrived s g t ha]
  refine ⟨h, hh, ?_⟩
  unfold Group.reg
  rw [hr]
  exact foldl_returnLane_reg hz hd hk hn hi _

end

end Sys2Proof.Machine
end

section
/-! PROOF. A load delivers the bytes at its places to its destination (06 R149, 10 R217, 11 R232, R236). -/

namespace Sys2Proof.Machine

open Sys2Proof

/-! ### What a load of this part awaits -/

section
variable {x : Ix} {f : AccForm}

/-- A word at a place of this part is an access that is performed later. -/
theorem awaitPlace_ofPart {core grp n at_ len : Nat} {past sgn : Bool} {p : Place} (h : OfPart p) (a : ReadSt) :
    awaitPlace core grp past n at_ len sgn [] a p = (a, .late p n sgn past []) := by
  rcases h with ⟨c, o, k, rfl⟩ | ⟨c, o, k, rfl⟩ | ⟨va, y, rfl, h, -⟩
  · rfl
  · rfl
  · rcases isMem_cases h with h | h <;> simp only [awaitPlace, h]

theorem placeRecs_ofPart {p : Place} (h : OfPart p) (n : Nat) : placeRecs x n p = [] := by
  unfold placeRecs
  rw [h.mirror]
  rfl

/-- A lane whose places are of this part awaits the access of each. -/
theorem awaitLane_ofPart {ps : List Place} (h : ∀ p, p ∈ ps → OfPart p) (a : ReadSt) :
    awaitLane x f a ps = (a, ps.map (fun p => .late p (pieceLen f.size) f.sgn f.past [])) := by
  have hboth : ps.flatMap (placeRecs x (pieceLen f.size)) = [] := by
    rw [List.flatMap_eq_nil_iff]
    exact fun p hp => placeRecs_ofPart (h p hp) _
  have fold : ∀ (l : List (Nat × Place)) (vs : List PVal), (∀ q, q ∈ l → OfPart q.2) → l.foldl (fun (r : ReadSt × List PVal) p =>
      let q := awaitPlace x.core x.g.uid f.past (pieceLen f.size) (if f.joined then 4 * p.1 else 0) (if f.joined then f.size else pieceLen f.size) f.sgn
        (if f.whole then [] else placeRecs x (pieceLen f.size) p.2) r.1 p.2
      (q.1, r.2 ++ [q.2])) (a, vs) = (a, vs ++ l.map (fun q => .late q.2 (pieceLen f.size) f.sgn f.past [])) := by
    intro l
    induction l with
    | nil => intro vs _; simp
    | cons q l ih =>
      intro vs hl
      have hq := hl q List.mem_cons_self
      have hrecs : (if f.whole then [] else placeRecs x (pieceLen f.size) q.2) = [] := by rw [placeRecs_ofPart hq, ite_self]
      rw [List.foldl_cons, hrecs]
      dsimp only
      rw [awaitPlace_ofPart hq, ih _ (fun r hr => hl r (List.mem_cons_of_mem _ hr))]
      simp
  unfold awaitLane
  dsimp only
  rw [hboth, fold _ _ (fun q hq => h q.2 (List.of_mem_zip (a := q.1) (b := q.2) hq).2), List.nil_append]
  have hsnd : ((List.range ps.length).zip ps).map Prod.snd = ps := List.map_snd_zip (by simp)
  have hvals := congrArg (List.map (fun p => PVal.late p (pieceLen f.size) f.sgn f.past [])) hsnd
  rw [List.map_map] at hvals
  exact congrArg (Prod.mk a) hvals

/-- The lanes whose places are of this part await the accesses of their places. -/
theorem awaitLanes_ofPart {ls : List (Nat × List Place)} (h : ∀ l p, l ∈ ls → p ∈ l.2 → OfPart p) (a : ReadSt) :
    awaitLanes x f a ls = (a, ls.map (fun l => (l.1, l.2.map (fun p => .late p (pieceLen f.size) f.sgn f.past [])))) := by
  have fold : ∀ (l : List (Nat × List Place)) (vs : List (Nat × List PVal)), (∀ k p, k ∈ l → p ∈ k.2 → OfPart p) →
      l.foldl (fun (r : ReadSt × List (Nat × List PVal)) k =>
        let q := awaitLane x f r.1 k.2
        (q.1, r.2 ++ [(k.1, q.2)])) (a, vs) = (a, vs ++ l.map (fun l => (l.1, l.2.map (fun p => .late p (pieceLen f.size) f.sgn f.past [])))) := by
    intro l
    induction l with
    | nil => intro vs _; simp
    | cons k l ih =>
      intro vs hl
      rw [List.foldl_cons]
      dsimp only
      rw [awaitLane_ofPart (fun p hp => hl k p List.mem_cons_self hp), ih _ (fun r p hr => hl r p (List.mem_cons_of_mem _ hr))]
      simp
  exact fold ls [] h

end

/-! ### A register in flight -/

/-- A group has the register of a load in flight, is the one that its name and the register name, and nothing of an earlier load of it
is to be performed. -/
structure Awaits (s : State) (g : Group) (load reg : Nat) (p : Pend) (t : Team) : Prop where
  pend : pendOf s load reg = some (g, p)
  named : s.group? g.uid = some g
  team : s.team? g.team = some t
  single : p.whole = false
  first : ∀ q v, q ∈ g.pends → v ∈ q.vals → q.load < load → v.2.place? = none

section
variable {s : State} {g : Group} {load reg i : Nat} {p : Pend} {t : Team}

theorem Awaits.found (h : Awaits s g load reg p t) : g.pends.find? (fun p => p.load == load && p.reg == reg) = some p := (pendOf_spec h.pend).2.1

/-- What a lane of the register awaits, when no other word is of the lane. -/
theorem Awaits.val (h : Awaits s g load reg p t) {v : PVal} (hn : (p.vals.map (fun v => v.1)).Nodup) (hv : (i, v) ∈ p.vals) :
    g.val? (load, reg, i) = some v := by
  obtain ⟨u, -, hu, hin⟩ := find_val h.pend (List.mem_map_of_mem hv)
  have huv : (i, u) = (i, v) := List.inj_on_of_nodup_map hn hin hv rfl
  rw [hu, (Prod.mk.inj huv).2]

/-- The word is an access of its own. -/
theorem Awaits.together (h : Awaits s g load reg p t) {pl : Place} {n : Nat} {sgn past : Bool}
    (hv : g.val? (load, reg, i) = some (.late pl n sgn past [])) : g.together (load, reg, i) = [(load, reg, i)] := by
  unfold Group.together
  dsimp only
  rw [h.found, hv]
  dsimp only
  rw [h.single, if_neg Bool.false_ne_true]

theorem Awaits.notBehind (h : Awaits s g load reg p t) (v : PVal) : g.waitsBehind (load, reg, i) v = false := by
  unfold Group.waitsBehind
  split
  · rfl
  · rw [List.any_eq_false]
    intro q hq hc
    rw [Bool.and_eq_true, decide_eq_true_eq, List.any_eq_true] at hc
    obtain ⟨hlt, w, hw, hm⟩ := hc
    rw [h.first q w hq hw hlt] at hm
    cases hm

/-- A word that nothing holds is read at its place at its turn. -/
theorem performTurn_reads (h : Awaits s g load reg p t) {pl : Place} {n : Nat} {sgn past : Bool}
    (hv : g.val? (load, reg, i) = some (.late pl n sgn past [])) (hi : i ∈ p.vals.map (fun v => v.1))
    (hs : staleWord s g (load, reg, i) = none) (hl : goesHome s t.core past n pl = true → s.homeRecs = [])
    (hr : serveRead s t.core past n pl = some s) : performTurn s load reg i =
      (readLocal s t.core t.ctx past n sgn pl).1.modGroup g.uid (fun g =>
        (g.sawHome [(load, reg, i)]).setVal (load, reg, i) (readLocal s t.core t.ctx past n sgn pl).2) := by
  obtain ⟨u, hf, -, -⟩ := find_val h.pend hi
  have hbefore : performIf s g.uid (fun w v => decide (w.1 < load) && touches [(pl, n)] v) = s := by
    refine performIf_eq h.named (fun q hq v hvq => ?_)
    by_cases hlt : q.load < load
    · have hplace := h.first q v hq hvq hlt
      simp [touches, hplace]
    · simp [hlt]
  have hlines : (wordLines s t.core g [(load, reg, i)]).foldl (fun s l => reachWait s t.core l) s = s := by
    unfold wordLines
    rw [List.filterMap_cons, List.filterMap_nil, hv]
    dsimp only
    by_cases hg : goesHome s t.core past n pl = true
    · rw [if_pos hg]
      simp only [List.foldl_cons, List.foldl_nil, reachWait, hl hg, List.filter_nil]
    · rw [if_neg hg]
      rfl
  have hleft : (goesHome s t.core past n pl && reachLeft s t.core (pl.pa / 128)) = false := by
    by_cases hg : goesHome s t.core past n pl = true
    · simp [reachLeft, hl hg]
    · simp [hg]
  have hperf : performVal false s t (.late pl n sgn past []) = some (readLocal s t.core t.ctx past n sgn pl) := by
    unfold performVal
    dsimp only
    rw [hleft, if_neg Bool.false_ne_true, if_neg Bool.false_ne_true, hr]
    rfl
  have hwords : performWords t g false [(load, reg, i)] s =
      some ((readLocal s t.core t.ctx past n sgn pl).1, [((load, reg, i), (readLocal s t.core t.ctx past n sgn pl).2)]) := by
    rw [performWords, hv, show (some (PVal.late pl n sgn past [])).filter unperformed = some (.late pl n sgn past []) from rfl]
    dsimp only
    rw [h.notBehind, if_neg Bool.false_ne_true, hperf]
    rfl
  unfold performTurn
  rw [hf]
  dsimp only
  rw [hv]
  change performWord g.uid (performIf s g.uid _) _ = _
  rw [hbefore]
  unfold performWord
  rw [h.named]
  dsimp only
  rw [h.team]
  dsimp only
  rw [hs]
  dsimp only
  rw [h.together hv, hlines, hwords]
  rfl

/-! ### What the performing of a word leaves in flight -/

/-- A register in flight after the word of a lane has been taken. -/
def takenPend (p : Pend) (i : Nat) (v : PVal) : Pend := { p with vals := p.vals.map (fun x => if x.1 = i then (x.1, v) else x) }

/-- A group after a word has been taken. -/
def takenGroup (w : WordId) (v : PVal) (g : Group) : Group := (g.sawHome [w]).setVal w v

/-- A register in flight of the group that its name and the register name is that of the group as it is changed. -/
theorem pendOf_modGroup {f : Group → Group} {q : Pend} (h : pendOf s load reg = some (g, p)) (hg : s.group? g.uid = some g)
    (hq : (f g).pends.find? (fun p => p.load == load && p.reg == reg) = some q) : pendOf (s.modGroup g.uid f) load reg = some (f g, q) := by
  unfold pendOf State.group? at *
  unfold State.modGroup
  dsimp only
  revert h hg
  generalize s.groups = l
  intro h hg
  induction l with
  | nil => cases hg
  | cons a l ih =>
    rw [List.find?_cons] at hg
    rw [List.map_cons, List.findSome?_cons]
    by_cases ha : a.uid = g.uid
    · rw [beq_iff_eq.mpr ha] at hg
      cases hg
      rw [if_pos rfl, hq]
      rfl
    · rw [beq_false_of_ne ha] at hg
      rw [List.findSome?_cons] at h
      cases hp : a.pends.find? (fun p => p.load == load && p.reg == reg) with
      | some r =>
        rw [hp] at h
        cases h
        exact absurd rfl ha
      | none =>
        rw [hp] at h
        rw [if_neg ha, hp]
        exact ih h hg

/-- Once a word has been taken the register is in flight with it. -/
theorem Awaits.taken (h : Awaits s g load reg p t) {s2 : State} (hs : SameGroups s s2) (i : Nat) (v : PVal) :
    Awaits (s2.modGroup g.uid (takenGroup (load, reg, i) v)) (takenGroup (load, reg, i) v g) load reg (takenPend p i v) t := by
  obtain ⟨-, -, -, hload, hreg⟩ := pendOf_spec h.pend
  have hpend : pendOf s2 load reg = some (g, p) := by
    unfold pendOf
    rw [hs.groups]
    exact h.pend
  have hnamed : s2.group? g.uid = some g := (hs.group? _).trans h.named
  have hfind : (takenGroup (load, reg, i) v g).pends.find? (fun p => p.load == load && p.reg == reg) = some (takenPend p i v) := by
    unfold takenGroup Group.setVal
    dsimp only
    rw [find?_map_of_fix (fun q => by split <;> rfl)]
    change Option.map _ (g.pends.find? _) = _
    rw [h.found]
    exact congrArg some (if_pos ⟨hload, hreg⟩)
  refine ⟨pendOf_modGroup hpend hnamed hfind, group?_modGroup (fun _ => rfl) hnamed, (hs.team? _).trans h.team, h.single, ?_⟩
  intro q w hq hw hlt
  obtain ⟨q0, hq0, rfl⟩ := List.mem_map.mp hq
  split at hw
  · next hc =>
    rw [if_pos hc] at hlt
    exact absurd hc.1 (Nat.ne_of_lt hlt)
  · next hc =>
    rw [if_neg hc] at hlt
    exact h.first q0 w hq0 hw hlt

/-! ### The return of words that are performed at it -/

/-- The turns of the lanes of a register, in order. -/
def turns (s : State) (load reg : Nat) (lanes : List Nat) : State := lanes.foldl (fun s lane => performTurn s load reg lane) s

/-- LOAD_RETURN of a register all of whose words its turns perform writes each word. -/
theorem loadReturn_gets {g' : Group} {p' : Pend} (h : Awaits s g load reg p t) (hu : g'.uid = g.uid)
    (h1 : Awaits (turns s load reg (p.vals.map (fun v => v.1))) g' load reg p' t) (hz : reg < 112) (hd : p'.dirty = 0)
    (hk : ∀ x, x ∈ p'.vals → ∃ v, x.2 = .known v) (hn : (p'.vals.map (fun x => x.1)).Nodup) {v : Word} (hi : (i, PVal.known v) ∈ p'.vals) :
    ∃ k, (loadReturn s load reg).group? g.uid = some k ∧ k.reg i reg = v := by
  obtain ⟨-, -, -, -, hreg⟩ := pendOf_spec h1.pend
  have harr : p'.vals.any (fun v => arrived v.2) = true := List.any_eq_true.mpr ⟨_, hi, rfl⟩
  have he : loadReturn s load reg = serveHomes (returnPend (turns s load reg (p.vals.map (fun v => v.1))) g' t p') := by
    unfold loadReturn
    rw [h.pend]
    dsimp only
    rw [show (p.vals.map (fun v => v.1)).foldl (fun s lane => performTurn s load reg lane) s = turns s load reg (p.vals.map (fun v => v.1)) from rfl,
      h1.pend]
    dsimp only
    rw [h1.team]
    dsimp only
    rw [harr, Bool.true_or, if_pos rfl]
  obtain ⟨k, hk1, hk2⟩ := returnPend_reg h1.named t (hreg.symm ▸ hz) hd hk hn hi
  rw [hreg] at hk2
  rw [he, ← hu]
  exact ⟨k, hk1, hk2⟩

/-- LOAD_RETURN of a register that awaits one word, which its turn reads, writes the word. -/
theorem loadReturn_one (h : Awaits s g load reg p t) (hz : reg < 112) (hd : p.dirty = 0) {pl : Place} {n : Nat} {sgn past : Bool}
    (hp : p.vals = [(i, .late pl n sgn past [])]) (hs : staleWord s g (load, reg, i) = none)
    (hl : goesHome s t.core past n pl = true → s.homeRecs = []) (hr : serveRead s t.core past n pl = some s) {v : Word}
    (hv : (readLocal s t.core t.ctx past n sgn pl).2 = .known v) : ∃ k, (loadReturn s load reg).group? g.uid = some k ∧ k.reg i reg = v := by
  have hmem : (i, PVal.late pl n sgn past []) ∈ p.vals := hp ▸ List.mem_cons_self
  have hval := h.val (by rw [hp]; exact List.nodup_singleton _) hmem
  have hturn := performTurn_reads h hval (List.mem_map_of_mem hmem) hs hl hr
  have htaken := h.taken (readLocal_sameGroups s t.core t.ctx past n sgn pl) i (readLocal s t.core t.ctx past n sgn pl).2
  have hvals : (takenPend p i (readLocal s t.core t.ctx past n sgn pl).2).vals = [(i, .known v)] := by
    unfold takenPend
    dsimp only
    rw [hp, hv, List.map_cons, List.map_nil, if_pos rfl]
  refine loadReturn_gets (g' := takenGroup (load, reg, i) (readLocal s t.core t.ctx past n sgn pl).2 g) h rfl ?_ hz hd ?_ ?_ ?_
    (p' := takenPend p i (readLocal s t.core t.ctx past n sgn pl).2)
  · rw [hp]
    change Awaits (performTurn s load reg i) _ _ _ _ _
    rw [hturn]
    exact htaken
  · intro x hx
    rw [hvals, List.mem_singleton] at hx
    exact ⟨v, by rw [hx]⟩
  · rw [hvals]
    exact List.nodup_singleton _
  · rw [hvals]
    exact List.mem_cons_self

end

end Sys2Proof.Machine
end

section
/-! PROOF. What a load delivers of scratch, of the core's L1 and of the homes (10 R217, 11 R236, 20 R446). -/

namespace Sys2Proof.Machine

open Sys2Proof

/-! ### Words of scratch -/

/-- What a word that awaits bytes of scratch is when it is read. -/
def scrVal (s : State) : PVal → PVal
  | .late (.scr c o k) n sgn _ [] => gotVal k n sgn 0 (badScr s c o n) (s.scrBytes c o n)
  | v => v

theorem scrVal_modGroup (s : State) (u : Nat) (f : Group → Group) (v : PVal) : scrVal (s.modGroup u f) v = scrVal s v := by
  unfold scrVal
  split <;> rfl

/-- A register in flight after the words of some lanes have been read from scratch. -/
def scrPend (s : State) (lanes : List Nat) (p : Pend) : Pend :=
  { p with vals := p.vals.map (fun x => if x.1 ∈ lanes then (x.1, scrVal s x.2) else x) }

section
variable {s : State} {g : Group} {load reg i : Nat} {p : Pend} {t : Team}

/-- The turn of a word of scratch reads it. -/
theorem performTurn_scr (h : Awaits s g load reg p t) (hn : (p.vals.map (fun v => v.1)).Nodup) {c o k n : Nat} {sgn past : Bool}
    (hv : (i, PVal.late (.scr c o k) n sgn past []) ∈ p.vals) : performTurn s load reg i =
      s.modGroup g.uid (takenGroup (load, reg, i) (scrVal s (.late (.scr c o k) n sgn past []))) := by
  have hval := h.val hn hv
  have hstale : staleWord s g (load, reg, i) = none := by
    unfold staleWord
    rw [hval]
  exact performTurn_reads h hval (List.mem_map_of_mem hv) hstale nofun rfl

/-- The lanes whose turns have come hold what they read, one after the other. -/
theorem scrPend_cons {lanes : List Nat} {v : PVal} {u : Nat} {f : Group → Group} (hn : (p.vals.map (fun v => v.1)).Nodup) (hi : i ∉ lanes)
    (hv : (i, v) ∈ p.vals) : scrPend (s.modGroup u f) lanes (takenPend p i (scrVal s v)) = scrPend s (i :: lanes) p := by
  unfold scrPend takenPend
  dsimp only
  rw [List.map_map]
  refine congrArg (fun l => { p with vals := l }) (List.map_congr_left (fun x hx => ?_))
  simp only [Function.comp_apply, List.mem_cons]
  by_cases hxi : x.1 = i
  · have hxv : x = (i, v) := List.inj_on_of_nodup_map hn hx hv hxi
    subst hxv
    simp [hi]
  · simp only [hxi, if_false, false_or, scrVal_modGroup]

/-- After the turns of some of its lanes, a register that awaits bytes of scratch holds what they read. -/
theorem turns_scr {lanes : List Nat} (h : Awaits s g load reg p t) (hn : (p.vals.map (fun v => v.1)).Nodup) (hl : lanes.Nodup)
    (hs : ∀ i, i ∈ lanes → ∃ c o k n sgn past, (i, PVal.late (.scr c o k) n sgn past []) ∈ p.vals) :
    ∃ g', g'.uid = g.uid ∧ Awaits (turns s load reg lanes) g' load reg (scrPend s lanes p) t := by
  induction lanes generalizing s g p with
  | nil =>
    refine ⟨g, rfl, ?_⟩
    have hp : scrPend s [] p = p := by simp [scrPend]
    rw [hp]
    exact h
  | cons i lanes ih =>
    obtain ⟨c, o, k, n, sgn, past, hv⟩ := hs i List.mem_cons_self
    rw [List.nodup_cons] at hl
    have h1 := h.taken (.refl s) i (scrVal s (.late (.scr c o k) n sgn past []))
    rw [← performTurn_scr h hn hv] at h1
    have hfst : (takenPend p i (scrVal s (.late (.scr c o k) n sgn past []))).vals.map (fun v => v.1) = p.vals.map (fun v => v.1) := by
      unfold takenPend
      dsimp only
      rw [List.map_map]
      refine List.map_congr_left (fun x _ => ?_)
      simp only [Function.comp_apply]
      split <;> rfl
    obtain ⟨g', hu, hg'⟩ := ih h1 (hfst ▸ hn) hl.2 (fun j hj => by
      obtain ⟨c', o', k', n', sgn', past', hv'⟩ := hs j (List.mem_cons_of_mem _ hj)
      refine ⟨c', o', k', n', sgn', past', List.mem_map.mpr ⟨_, hv', if_neg ?_⟩⟩
      rintro rfl
      exact hl.1 hj)
    refine ⟨g', hu, ?_⟩
    change Awaits (turns (performTurn s load reg i) load reg lanes) _ _ _ _ _
    rw [← scrPend_cons (s := s) (u := g.uid) (f := takenGroup (load, reg, i) (scrVal s (.late (.scr c o k) n sgn past []))) hn hl.1 hv,
      ← performTurn_scr h hn hv]
    exact hg'

/-- LOAD_RETURN of a register whose lanes await bytes of scratch without an error writes their values. -/
theorem loadReturn_scr (h : Awaits s g load reg p t) (hz : reg < 112) (hd : p.dirty = 0) (hn : (p.vals.map (fun v => v.1)).Nodup)
    (hs : ∀ v, v ∈ p.vals → ∃ c o k n sgn past, v.2 = .late (.scr c o k) n sgn past [] ∧ badScr s c o n = false)
    {c o k n : Nat} {sgn past : Bool} (hi : (i, PVal.late (.scr c o k) n sgn past []) ∈ p.vals) :
    ∃ h, (loadReturn s load reg).group? g.uid = some h ∧ h.reg i reg = loadedWord n sgn (s.scrBytes c o n) := by
  obtain ⟨g', hu, hg'⟩ := turns_scr h hn hn (fun j hj => by
    obtain ⟨x, hx, rfl⟩ := List.mem_map.mp hj
    obtain ⟨c, o, k, n, sgn, past, hv, -⟩ := hs x hx
    exact ⟨c, o, k, n, sgn, past, hv ▸ hx⟩)
  have hvals : (scrPend s (p.vals.map (fun v => v.1)) p).vals = p.vals.map (fun x => (x.1, scrVal s x.2)) := by
    unfold scrPend
    exact List.map_congr_left (fun x hx => if_pos (List.mem_map_of_mem hx))
  have hread : ∀ c o k n sgn past, badScr s c o n = false →
      scrVal s (.late (.scr c o k) n sgn past []) = .known (loadedWord n sgn (s.scrBytes c o n)) := by
    intro c o k n sgn past hb
    simp only [scrVal, gotVal, hb, Bool.false_eq_true, if_false]
  refine loadReturn_gets h hu hg' hz hd ?_ ?_ ?_
  · rw [hvals]
    intro x hx
    obtain ⟨v, hv, rfl⟩ := List.mem_map.mp hx
    obtain ⟨c, o, k, n, sgn, past, he, hb⟩ := hs v hv
    exact ⟨_, (congrArg (scrVal s) he).trans (hread c o k n sgn past hb)⟩
  · rw [hvals, List.map_map]
    exact hn
  · rw [hvals]
    obtain ⟨c', o', k', n', sgn', past', he, hb⟩ := hs _ hi
    cases he
    exact List.mem_map.mpr ⟨_, hi, congrArg (Prod.mk i) (hread c o k n sgn past hb)⟩

end

/-! ### Words of memory -/

/-- Bytes cut out of a line have the value of its bytes, those beyond its end as 0. -/
theorem ofBytes_take_drop (d : List Byte) (o n : Nat) : ofBytes ((d.drop o).take n) = ofBytes ((List.range n).map (fun k => d.getD (o + k) 0)) := by
  induction n generalizing o with
  | zero => rfl
  | succ n ih =>
    have hstep : (List.range (n + 1)).map (fun k => d.getD (o + k) 0) = d.getD o 0 :: (List.range n).map (fun k => d.getD (o + 1 + k) 0) := by
      rw [List.range_succ_eq_map, List.map_cons, List.map_map]
      refine congrArg (List.cons _) (List.map_congr_left (fun k _ => ?_))
      simp only [Function.comp_apply, Nat.succ_eq_add_one, Nat.add_assoc, Nat.add_comm 1 k]
    rw [hstep, ofBytes, ← ih]
    by_cases ho : o < d.length
    · rw [List.drop_eq_getElem_cons ho, List.take_succ_cons, ofBytes, List.getD_eq_getElem d 0 ho]
    · have hlen : d.length ≤ o := Nat.not_lt.mp ho
      rw [List.drop_eq_nil_of_le hlen, List.drop_eq_nil_of_le (Nat.le_succ_of_le hlen), List.getD_eq_default d 0 hlen,
        List.take_nil, List.take_nil]
      rfl

theorem loadedWord_congr {n : Nat} {sgn : Bool} {b c : List Byte} (h : ofBytes b = ofBytes c) : loadedWord n sgn b = loadedWord n sgn c := by
  unfold loadedWord
  rw [h]

section
variable {s : State} {core ctx pa n : Nat} {sgn : Bool}

/-- A hit is on a line whose bytes are those that the core sees. -/
theorem hitL1_bytes (hp : pa % 128 + n ≤ 128) (hh : hitL1 s core pa n = true) :
    ∃ l, l1Line? s core (pa / 128) = some l ∧ ∀ k, k < n → l.data.getD (pa % 128 + k) 0 = coreByte s core (pa + k) := by
  unfold hitL1 at hh
  cases hl : l1Line? s core (pa / 128) with
  | none => rw [hl] at hh; cases hh
  | some l =>
    rw [hl, beq_iff_eq] at hh
    refine ⟨l, rfl, fun k hk => ?_⟩
    have hbit : l.valid.getLsbD (pa % 128 + k) = true := by
      have h128 : pa % 128 + k < 128 := by omega
      have h := congrArg (fun m => m.getLsbD (pa % 128 + k)) hh
      have hin : pa % 128 ≤ pa % 128 + k ∧ pa % 128 + k < pa % 128 + n := by omega
      simp only [BitVec.getLsbD_and, lineMask_bit h128, decide_eq_true hin, Bool.and_true] at h
      exact h
    have hdiv : (pa + k) / 128 = pa / 128 := by omega
    have hmod : (pa + k) % 128 = pa % 128 + k := by omega
    unfold coreByte
    rw [hdiv, hl, hmod]
    exact (if_pos hbit).symm

/-- A load that hits gives the bytes that the core sees. -/
theorem loadL1_hit (hp : pa % 128 + n ≤ 128) (hh : hitL1 s core pa n = true) :
    loadedWord n sgn (loadL1 s core ctx pa n).bytes = loadedWord n sgn ((List.range n).map (fun k => coreByte s core (pa + k)))
      ∧ (loadL1 s core ctx pa n).bad = badL1 s core pa n := by
  obtain ⟨l, hl, hb⟩ := hitL1_bytes hp hh
  unfold loadL1
  dsimp only
  rw [if_pos hh, hl]
  refine ⟨loadedWord_congr ?_, rfl⟩
  change ofBytes ((l.data.drop (pa % 128)).take n) = _
  rw [ofBytes_take_drop]
  exact congrArg ofBytes (List.map_congr_left (fun k hk => hb k (List.mem_range.mp hk)))

/-- Bytes of a line in which no word is in error meet none. -/
theorem badMem_line {t : State} (hb : badMem s (pa / 128 * 128) 128 = false) (hp : pa % 128 + n ≤ 128)
    (hd : ∀ w, Damage.mem w ∈ t.damage → Damage.mem w ∈ s.damage) : badMem t pa n = false := by
  unfold badMem at hb ⊢
  rw [List.any_eq_false] at hb ⊢
  intro d hm
  cases d with
  | mem w =>
    have h := hb _ (hd w hm)
    simp only [Bool.and_eq_true, decide_eq_true_eq] at h ⊢
    omega
  | _ => exact Bool.false_ne_true

/-- A home at which no release is recorded is reached without a drain. -/
theorem reachHome_unrecorded {q : State} (hq : q.homeRecs = []) (line : Nat) : reachHome q core line = { q with homeRecs := [] } := by
  unfold reachHome
  rw [hq]
  dsimp only
  rw [List.filter_nil, List.foldl_nil, hq, List.filter_nil]

/-- A load past the L1 gives the bytes of the home, where no L1 holds a dirty byte. -/
theorem loadHome_settled (h : Settled s) (hb : badMem s (pa / 128 * 128) 128 = false) (hp : pa % 128 + n ≤ 128) :
    (loadHome s core pa n).bytes = s.homeBytes pa n ∧ (loadHome s core pa n).bad = false := by
  unfold loadHome flushOwn
  cases hl : l1Line? s core (pa / 128) with
  | none =>
    dsimp only
    rw [reachHome_unrecorded h.records]
    exact ⟨rfl, badMem_line hb hp (fun w hw => hw)⟩
  | some l =>
    have hback : writeBackLine s core l = s := by
      unfold writeBackLine
      exact if_pos (h.clean core l (List.mem_of_find?_eq_some hl))
    dsimp only
    rw [hback, reachHome_unrecorded (q := l1Drop s core (pa / 128)) h.records]
    exact ⟨rfl, badMem_line hb hp (fun w hw => List.mem_of_mem_filter hw)⟩

/-- A line of a core's die's L2 is that of the home where no guest copy stands. -/
theorem l2Bytes_fillGuest {t : State} (hg : t.guests = []) (line : Nat) :
    l2Bytes (fillGuest t core line) core line = t.homeBytes (line * 128) 128 := by
  unfold fillGuest
  split
  · unfold l2Bytes
    rw [hg]
    rfl
  · unfold l2Bytes
    dsimp only
    rw [List.find?_cons_of_pos (by simp)]

/-- A guest copy changes no L1 and no error. -/
theorem fillGuest_keeps (t : State) (core line : Nat) : (fillGuest t core line).cores = t.cores ∧ (fillGuest t core line).damage = t.damage := by
  unfold fillGuest
  split <;> exact ⟨rfl, rfl⟩

/-- The line into which a core fills holds no dirty byte where no L1 does. -/
theorem oldLine_clean (h : Settled s) (core ctx n : Nat) : (oldLine s core ctx n).dirty = 0 ∧ (oldLine s core ctx n).line = n := by
  refine ⟨?_, oldLine_line s core ctx n⟩
  unfold oldLine
  cases hl : l1Line? s core n with
  | none => rfl
  | some l => exact h.clean core l (List.mem_of_find?_eq_some hl)

/-- A line filled around its dirty bytes. -/
def filledLine (old : L1Line) (home : List Byte) : L1Line :=
  { old with
    data := (List.range 128).map (fun i => if old.dirty.getLsbD i then old.data.getD i 0 else home.getD i 0), valid := BitVec.allOnes 128 }

/-- The line that a fill leaves, and the errors that come with it, where no byte of it is dirty and none of its words is in error. -/
theorem fillL1_settled (h : Settled s) (hg : s.guests = []) (line : Nat) (hb : badMem s (line * 128) 128 = false) :
    (∃ l, l1Line? (fillL1 s core ctx line) core line = some l ∧ ∀ k, k < 128 → l.data.getD k 0 = s.homeByte (line * 128 + k))
      ∧ ∀ w, w / 32 = line → Damage.l1 core w ∉ (fillL1 s core ctx line).damage := by
  have hhome := l2Bytes_fillGuest (core := core) (t := { s with homeRecs := [] }) hg line
  have hkeeps := fillGuest_keeps { s with homeRecs := [] } core line
  unfold fillL1
  rw [reachHome_unrecorded h.records]
  generalize fillGuest { s with homeRecs := [] } core line = s1 at hhome hkeeps
  obtain ⟨hcores, hdamage⟩ := hkeeps
  have hline : l1Line? s1 core line = l1Line? s core line := by
    unfold l1Line? State.core
    rw [hcores]
  obtain ⟨hdirty, hnum⟩ := oldLine_clean h core ctx line
  unfold oldLine at hdirty hnum
  dsimp only
  rw [hline, hhome]
  generalize (l1Line? s core line).getD ⟨line, List.replicate 128 0, 0, 0, 0, ctx⟩ = old at hdirty hnum
  have hfill : filledBad s1 line old.dirty = [] := by
    unfold filledBad
    rw [List.filter_eq_nil_iff]
    intro w hw hc
    obtain ⟨k, hk, rfl⟩ := List.mem_map.mp hw
    rw [List.mem_range] at hk
    have hword : badMem s1 (4 * (32 * line + k)) 4 = false :=
      badMem_line (s := s) (by rw [show 4 * (32 * line + k) / 128 = line by omega]; exact hb) (by omega) (fun w hw => by rw [hdamage] at hw; exact hw)
    rw [hword] at hc
    cases hc
  rw [hfill]
  have hput := l1Line?_l1Put_self s1 core (filledLine old (s.homeBytes (line * 128) 128))
  rw [show (filledLine old (s.homeBytes (line * 128) 128)).line = line from hnum] at hput
  refine ⟨⟨_, hput, fun k hk => ?_⟩, fun w hw hm => ?_⟩
  · simp [filledLine, hdirty, hk, State.homeBytes]
  · rw [List.map_nil, List.nil_append] at hm
    have hkept := (List.mem_filter.mp hm).2
    simp [hdirty, hw] at hkept

/-- A load that misses the L1 gives the bytes of the home, where no L1 holds a dirty byte and no guest copy stands. -/
theorem loadL1_miss (h : Settled s) (hg : s.guests = []) (hb : badMem s (pa / 128 * 128) 128 = false) (hp : pa % 128 + n ≤ 128)
    (hm : hitL1 s core pa n = false) :
    loadedWord n sgn (loadL1 s core ctx pa n).bytes = loadedWord n sgn (s.homeBytes pa n) ∧ (loadL1 s core ctx pa n).bad = false := by
  obtain ⟨⟨l, hl, hbytes⟩, hbad⟩ := fillL1_settled (core := core) (ctx := ctx) h hg (pa / 128) hb
  unfold loadL1
  dsimp only
  rw [if_neg (by rw [hm]; exact Bool.false_ne_true), hl]
  refine ⟨loadedWord_congr ?_, ?_⟩
  · change ofBytes ((l.data.drop (pa % 128)).take n) = _
    rw [ofBytes_take_drop]
    refine congrArg ofBytes (List.map_congr_left (fun k hk => ?_))
    have hk128 : pa % 128 + k < 128 := by have := List.mem_range.mp hk; omega
    rw [hbytes _ hk128]
    exact congrArg s.homeByte (by omega)
  · unfold badL1
    rw [List.any_eq_false]
    intro d hd hc
    cases d with
    | l1 c w =>
      simp only [Bool.and_eq_true, decide_eq_true_eq, beq_iff_eq] at hc
      obtain ⟨⟨rfl, h1⟩, h2⟩ := hc
      exact hbad w (by omega) hd
    | _ => exact Bool.false_ne_true hc

end

/-! ### The obligation -/

section
variable {s : State} {g : Group} {load reg i : Nat} {p : Pend} {t : Team}

/-- A word of memory that this part serves may be read at its place where no bank run has its channel. -/
theorem serveRead_free {past : Bool} {n : Nat} {va : Nat} {y : Xl} (h : regionOf y.pa = .tier1 → runOn s (chanOf y.pa) = none) :
    serveRead s t.core past n (.phys va y) = some s := by
  unfold serveRead
  split
  · next hc =>
    have htier : regionOf y.pa = .tier1 := by
      simp only [atChannel, Place.isIn, Bool.and_eq_true, beq_iff_eq] at hc
      exact hc.1
    unfold serveRow
    dsimp only
    rw [show (Place.phys va y).pa = y.pa from rfl, h htier]
  · rfl

/-- No overwritten word of a mirror page is returned where the access is past the L1, the page is no mirror, or the group has seen none
overwritten. -/
theorem staleWord_none {past sgn : Bool} {n va : Nat} {y : Xl} (hv : g.val? (load, reg, i) = some (.late (.phys va y) n sgn past []))
    (h : past = true ∨ (Place.phys va y).mirror = false ∨ g.stale = []) : staleWord s g (load, reg, i) = none := by
  unfold staleWord
  rw [hv]
  cases past with
  | true => rfl
  | false =>
    dsimp only
    split
    · rfl
    · next hc =>
      rcases h with h | h | h
      · cases h
      · have hm : eM y.e = false := h
        simp [hm] at hc
      · rw [h]
        simp [Nat.mod_one]

end

/-- What the lanes of a load at places of this part await. -/
def awaitedVals (f : AccForm) (ls : List (Nat × List Place)) : List (Nat × List PVal) :=
  ls.map (fun l => (l.1, l.2.map (fun p => .late p (pieceLen f.size) f.sgn f.past [])))

/-- A load at places of this part puts its destination in flight and goes on. -/
theorem loadEffect_ofPart {x : Ix} {f : AccForm} {d : LaneOp} {ls : List (Nat × List Place)} (w : Nat) (hd : d ≠ .z) (hs : f.strong = false)
    (hp : ∀ l p, l ∈ ls → p ∈ l.2 → OfPart p) {s1 : State} (h1 : fillTlb x x.s (ls.flatMap (fun l => l.2)) = s1) : loadEffect x f w d ls =
      (s1.fresh.modGroup x.g.uid (fun g => { g with pends := g.pends ++ pendsOf s1.uid d w (awaitedVals f ls) false f.whole false }), .step) := by
  have hne : (d != .z) = true := bne_iff_ne.mpr hd
  have heq : (d == .z) = false := beq_false_of_ne hd
  unfold loadEffect
  dsimp only
  rw [h1, awaitLanes_ofPart hp, hs, hne, heq]
  rfl

/-- Settles O36: what a load awaits, and what LOAD_RETURN writes of scratch, of the L1 and of the homes. -/
theorem loadsDeliver : Obligations.LoadsDeliver := by
  unfold Obligations.LoadsDeliver
  intro s
  refine ⟨fun x f w d ls hd hs hp => loadEffect_ofPart w hd hs hp rfl, fun load reg g p t hsub hpend hg ht hz hw hd hfirst => ?_⟩
  have ha : Awaits s g load reg p t := ⟨hpend, hg, ht, hw, hfirst⟩
  have hexec : exec .loadReturn s = event (loadReturn s load reg) := (exec_loadReturn s).trans (onPair_event hsub)
  have gets : ∀ {i : Nat} {v : Word}, (∃ k, (loadReturn s load reg).group? g.uid = some k ∧ k.reg i reg = v) →
      ∀ t, exec .loadReturn s = .next t → ∃ h, t.group? g.uid = some h ∧ h.reg i reg = v := by
    intro i v hk t he
    rw [hexec] at he
    cases he
    exact hk
  refine ⟨⟨_, hexec⟩, fun hn hall i c o k n sgn past hi => ?scratch, fun i va y n sgn past hp _ hm hline => ⟨?hit, ?home⟩⟩
  case scratch =>
    refine gets (loadReturn_scr ha hz hd hn (fun v hv => ?_) hi)
    obtain ⟨-, h⟩ := hall v hv
    exact h
  case hit =>
    intro hpast hnot hhit hbad
    have hval := ha.val (by rw [hp]; exact List.nodup_singleton _) (hp ▸ List.mem_cons_self)
    have hmirror : (Place.phys va y).mirror = false := (Bool.or_eq_false_iff.mp hnot).2
    have haway : goesHome s t.core past n (.phys va y) = false := by
      simp only [goesHome, hpast, hnot, Place.pa, hhit, Bool.or_false, Bool.not_true, Bool.and_false]
    have hread : serveRead s t.core past n (.phys va y) = some s := by
      unfold serveRead atChannel
      rw [haway, Bool.and_false, if_neg Bool.false_ne_true]
    refine gets (loadReturn_one ha hz hd hp (staleWord_none hval (.inr (.inl hmirror))) (fun hc => by rw [haway] at hc; cases hc) hread ?_)
    obtain ⟨hword, hsound⟩ := loadL1_hit (ctx := t.ctx) (sgn := sgn) hline hhit
    simp only [readLocal, hpast, hnot, Bool.or_self, gotVal, hsound, hbad, hword, Bool.false_eq_true, if_false]
    rfl
  case home =>
    intro hway hset hguests hstale hbad hchan
    have hval := ha.val (by rw [hp]; exact List.nodup_singleton _) (hp ▸ List.mem_cons_self)
    refine gets (loadReturn_one ha hz hd hp (staleWord_none hval hstale) (fun _ => hset.records) (serveRead_free hchan) ?_)
    by_cases hpast : (past || (Place.phys va y).past) = true
    · obtain ⟨hbytes, hsound⟩ := loadHome_settled (core := t.core) hset hbad hline
      simp only [readLocal, if_pos hpast, gotVal, hsound, hbytes, Bool.false_eq_true, if_false]
      rfl
    · obtain ⟨hp1, hp2⟩ := Bool.or_eq_false_iff.mp (Bool.eq_false_of_not_eq_true hpast)
      have hmiss : hitL1 s t.core y.pa n = false := by
        rcases hway with h | h | h
        · rw [hp1] at h; cases h
        · rw [hp2] at h; cases h
        · exact h
      obtain ⟨hword, hsound⟩ := loadL1_miss (core := t.core) (ctx := t.ctx) (sgn := sgn) hset hguests hbad hline hmiss
      simp only [readLocal, if_neg hpast, gotVal, hsound, hword, Bool.false_eq_true, if_false]
      rfl

end Sys2Proof.Machine
end

section
/-! PROOF. Engine commands are queued (12 R261, R266 to R272, 13 R298 to R301, 14 R325), under the choice that O32 leaves open: that the
two address fields of a lane copy take one value of a register in flight (R32, log 4). Under the opposite choice its statement fails. -/

namespace Sys2Proof.Machine

open Sys2Proof

section
variable {s : State} {x : Ix}

/-- The issuing split after the release of an engine command. -/
def cmdAfter (x : Ix) : Ix := afterRelease x (if mrAREL x.sp.mr then some (mrSCOPE x.sp.mr) else none) true

/-- Nothing holds back the release of an engine command. -/
def CmdFree (x : Ix) : Prop := Unheld x (if mrAREL x.sp.mr then some (mrSCOPE x.sp.mr) else none) true

theorem cmdAfter_team (x : Ix) : (cmdAfter x).t = x.t := (afterRelease_same x _ true).2.2.1

theorem cmdAfter_core (x : Ix) : (cmdAfter x).core = x.core := (afterRelease_same x _ true).2.2.2.1

/-- A command queued after its release. -/
theorem enqueue_cmdAfter (x : Ix) (m : Cmd) : enqueue (cmdAfter x) m =
    (cmdAfter x).s.fresh.setCore x.core (((cmdAfter x).s.core x.core).addCmd m ((cmdAfter x).s.clsOf x.t)) := by
  unfold enqueue
  rw [cmdAfter_core, cmdAfter_team]

/-- A matrix command of a launch of class 0 goes to class queue 0. -/
theorem enqueue_class0 {m : Cmd} (hm : isMx m.kind = true) (hc : (cmdAfter x).s.clsOf x.t = 0) : enqueue (cmdAfter x) m =
    (cmdAfter x).s.fresh.setCore x.core { (cmdAfter x).s.core x.core with mq0 := ((cmdAfter x).s.core x.core).mq0 ++ [m] } := by
  rw [enqueue_cmdAfter, CoreSt.addCmd, if_pos hm, if_pos hc]

/-- A matrix command of any other launch goes to class queue 1. -/
theorem enqueue_class1 {m : Cmd} (hm : isMx m.kind = true) (hc : (cmdAfter x).s.clsOf x.t ≠ 0) : enqueue (cmdAfter x) m =
    (cmdAfter x).s.fresh.setCore x.core { (cmdAfter x).s.core x.core with mq1 := ((cmdAfter x).s.core x.core).mq1 ++ [m] } := by
  rw [enqueue_cmdAfter, CoreSt.addCmd, if_pos hm, if_neg hc]

/-- A command of a descriptor whose checks pass is queued. -/
theorem ecmdOp_queues {a : LaneOp} {kind : CmdKind} (hu : CmdFree x)
    (h : Issues s x { major := some 0x3C, guarded := false, srcs := [(a, 1)], lanes := fun x => laneBit x.low, blocked := noEntry kind })
    (hc : ecmdCheck x (readWord x 0 a x.low 0).toNat (x.s.scrBytes x.core (x.t.ssBase + (readWord x 0 a x.low 0).toNat) 64) = none) :
    ecmdOp kind a s = does x (enqueue (cmdAfter x) (newCmd (cmdAfter x) kind .queued
      (x.s.scrBytes x.core (x.t.ssBase + (readWord x 0 a x.low 0).toNat) 64))) .step := by
  refine issue_eq h rfl ?_
  simp only [hc]
  rw [cmdIssue_eq h.group hu]
  rfl

/-- A matrix command whose checks pass is queued. -/
theorem mxOp_queues {kind : CmdKind} {bad : Mx → Bool} {chks : Mx → List Chk} {t : UniOp} {a : Option (Fin 64)} {b : Fin 64} (hu : CmdFree x)
    (h : Issues s x { major := some 0x3D, guarded := false, unisBy := mxUnis kind t a b, bad := fun x => illegalIf (bad (mxOf x t a b)), blocked := noEntry kind })
    (hc : mxCheck5 x.am x.t.ssLimit x.t.accLen (mxOf x t a b) (chks (mxOf x t a b)) = none) :
    mxOp kind bad chks t a b s =
      does x (enqueue (cmdAfter x) { newCmd (cmdAfter x) kind .queued [] with blk := (mxOf x t a b).blk }) .step := by
  refine issue_eq h rfl ?_
  simp only [hc]
  rw [cmdIssue_eq h.group hu]
  rfl

/-- The side of a lane copy whose offsets are read at a site. -/
def cpySide (x : Ix) (sp : Space) (acc : Acc) (n : Nat) (op : LaneOp) (site : Nat) : Side :=
  { sp := sp, acc := acc, size := n, offs := (lanesOf x.act).map (fun i => (i, laneOff x sp op 0 i site)) }

/-- The places of a side of a lane copy. -/
def cpyPlaces (x : Ix) (sd : Side) : List Place := sd.offs.map (fun p => placeOf x sd p.1 p.2)

/-- The state that a lane copy between two sides leaves. -/
def cpyQueued (x : Ix) (n : Nat) (sa sd : Side) : State :=
  let pairs := ((cpyPlaces x sa).zip (cpyPlaces x sd)).map (fun q => (cpyEnd q.1, cpyEnd q.2))
  let z : Ix := { cmdAfter x with s := fillTlb (cmdAfter x) (cmdAfter x).s (cpyPlaces x sa ++ cpyPlaces x sd) }
  let q := z.s.core x.core
  z.s.fresh.setCore x.core { q with cmdq := q.cmdq ++ [{ newCmd z (.cpy n pairs) .started [] with
    maps := ((pairs.flatMap (fun p => [p.1, p.2])).filter (fun e => e.phys)).map (fun e => (e.note, n, e.key)) }] }

/-- A lane copy whose checks pass is queued: its destination is read at a site of its own. -/
theorem cpyOp_queues {sz : CpySize} {src dst : Space} {d a : LaneOp} (hu : CmdFree x)
    (h : Issues s x { major := some 0x3B, srcs := [(a, baseWords src), (d, baseWords dst)], blocked := noEntry (.cpy 0 []) })
    (hc : check5 x [cpySide x src .cmdRead (cpyBytes sz) a 0, cpySide x dst .cmdWrite (cpyBytes sz) d 1] = none) :
    cpyOp sz src dst d a s =
      does x (cpyQueued x (cpyBytes sz) (cpySide x src .cmdRead (cpyBytes sz) a 0) (cpySide x dst .cmdWrite (cpyBytes sz) d 1)) .step := by
  refine issue_eq h rfl ?_
  unfold cpySide at hc
  simp only [hc]
  rw [cmdIssue_eq h.group hu]
  refine congrArg (fun q => Except.ok (q, Next.step)) ?_
  have hcore := cmdAfter_core x
  unfold cmdAfter Ix.core at hcore
  unfold enqueue cpyQueued cmdAfter Ix.core
  simp only [hcore]
  rfl

/-- Where the destination of a lane copy reads the same at both sites, the copy is queued with what the source and destination read. -/
theorem cpyOp_queues_same {sz : CpySize} {src dst : Space} {d a : LaneOp} (hu : CmdFree x)
    (hsame : ∀ i, laneOff x dst d 0 i 1 = laneOff x dst d 0 i)
    (h : Issues s x { major := some 0x3B, srcs := [(a, baseWords src), (d, baseWords dst)], blocked := noEntry (.cpy 0 []) })
    (hc : check5 x [cpySide x src .cmdRead (cpyBytes sz) a 0, cpySide x dst .cmdWrite (cpyBytes sz) d 0] = none) :
    cpyOp sz src dst d a s =
      does x (cpyQueued x (cpyBytes sz) (cpySide x src .cmdRead (cpyBytes sz) a 0) (cpySide x dst .cmdWrite (cpyBytes sz) d 0)) .step := by
  have he : cpySide x dst .cmdWrite (cpyBytes sz) d 1 = cpySide x dst .cmdWrite (cpyBytes sz) d 0 := by
    unfold cpySide
    simp only [hsame]
  rw [← he] at hc ⊢
  exact cpyOp_queues hu h hc

end

/-! ### What the free choices decide of O32 -/

/-- The values that the two address fields of an instruction take of an in-flight register are the same. `Config.freePick` has no body, so no
proof can tell. -/
def SitesAgree : Prop := ∀ draw lane r, Config.freePick draw ((1 * 32 + lane) * 112 + r) = Config.freePick draw ((0 * 32 + lane) * 112 + r)

theorem readWord_site (h : SitesAgree) (x : Ix) (op : LaneOp) (i k : Nat) : readWord x 1 op i k = readWord x 0 op i k := by
  have hreg : ∀ r, readReg x.s x.g 1 i r = readReg x.s x.g 0 i r := by
    intro r
    unfold readReg
    rw [h]
  cases op with
  | v n => exact hreg _
  | o n => exact hreg _
  | _ => rfl

/-- The statement of O32 under a choice that it leaves open: it takes the destination of a lane copy as the source's field reads it, and the
copy reads it in a field of its own (log 4). -/
theorem engineCommandsAreQueued_of_agree (h : SitesAgree) : Obligations.EngineCommandsAreQueued := by
  unfold Obligations.EngineCommandsAreQueued
  intro s x
  have hoff : ∀ sp d i, laneOff x sp d 0 i 1 = laneOff x sp d 0 i := by
    intro sp d i
    unfold laneOff readRun
    simp only [readWord_site h]
  refine fun hu => ⟨fun sz d a => ?_, fun a hc => ?_, fun t a b => ?_, fun k y hk => ?_⟩
  · have copy : ∀ {i src dst}, exec i s = cpyOp sz src dst d a s →
        Issues s x { major := some 0x3B, srcs := [(a, baseWords src), (d, baseWords dst)], blocked := noEntry (.cpy 0 []) } →
        check5 x [cpySide x src .cmdRead (cpyBytes sz) a 0, cpySide x dst .cmdWrite (cpyBytes sz) d 0] = none → _ :=
      fun hi hn hc => hi.trans (cpyOp_queues_same hu (hoff _ d) hn hc)
    exact ⟨copy (exec_cpyGs sz d a s), copy (exec_cpySg sz d a s), copy (exec_cpyGc sz d a s), copy (exec_cpySs sz d a s)⟩
  · refine ⟨fun hn => ?_, fun hn => ?_, fun hn => ?_, fun hn => ?_⟩
    · exact (exec_louver a s).trans ((ecmdOp_queues hu hn hc).trans (by rw [enqueue_cmdAfter]; rfl))
    · exact (exec_cpym a s).trans ((ecmdOp_queues hu hn hc).trans (by rw [enqueue_cmdAfter]; rfl))
    · exact (exec_brun a s).trans ((ecmdOp_queues hu hn hc).trans (by rw [enqueue_cmdAfter]; rfl))
    · exact (exec_shut a s).trans ((ecmdOp_queues hu hn hc).trans (by rw [enqueue_cmdAfter]; rfl))
  · exact ⟨fun hn hc => ⟨fun h0 => (exec_mma t a b s).trans ((mxOp_queues hu hn hc).trans (congrArg (fun q => does x q .step) (enqueue_class0 rfl h0))),
        fun h1 => (exec_mma t a b s).trans ((mxOp_queues hu hn hc).trans (congrArg (fun q => does x q .step) (enqueue_class1 rfl h1)))⟩,
      fun hn hc => ⟨fun h0 => (exec_mzero t b s).trans ((mxOp_queues hu hn hc).trans (congrArg (fun q => does x q .step) (enqueue_class0 rfl h0))),
        fun h1 => (exec_mzero t b s).trans ((mxOp_queues hu hn hc).trans (congrArg (fun q => does x q .step) (enqueue_class1 rfl h1)))⟩,
      fun hn hc => ⟨fun h0 => (exec_mdrain t a b s).trans ((mxOp_queues hu hn hc).trans (congrArg (fun q => does x q .step) (enqueue_class0 rfl h0))),
        fun h1 => (exec_mdrain t a b s).trans ((mxOp_queues hu hn hc).trans (congrArg (fun q => does x q .step) (enqueue_class1 rfl h1)))⟩⟩
  · have hroom : (y.s.core y.core).room k (y.s.clsOf y.t) = true := by
      simp only [noEntry, Bool.or_eq_false_iff, Bool.not_eq_false'] at hk
      exact hk.1
    exact of_decide_eq_true hroom

/-! ### A copy whose destination is in flight -/

/-- A split of lane 0 in whose group a word, 0x40, has arrived for v4, which holds 0. -/
def flightGroup : Group :=
  { uid := 2, team := 1, splits := [{ st := .ready, am := 1 }, {}, {}, {}], pends := [{ load := 5, reg := 4, vals := [(0, .known 0x40)] }] }

/-- Its team on core 0. -/
def flightTeam : Team := { uid := 1, lch := 0, ssLimit := 0x100 }

/-- The part that holds it. -/
def flightState : State := { State.reset with teams := [flightTeam], groups := [flightGroup], issuer := some ⟨2, 0, false⟩ }

/-- Its split as it issues. -/
def flightIx : Ix := ⟨flightState, flightGroup, flightTeam, flightState.lrOf flightTeam, 0, flightGroup.split 0, false⟩

/-- What a lane copy of the split reads of v4 at a site, as the free choice says. -/
theorem laneOff_flight (site : Nat) : laneOff flightIx .s (.v 4) 0 0 site =
    if Config.freePick 0 ((site * 32 + 0) * 112 + 4) % 2 = 0 then 0 else 0x40 := by
  have hread : readReg flightState flightGroup site 0 4 =
      ([0, 0x40] : List Word).getD (Config.freePick 0 ((site * 32 + 0) * 112 + 4) % 2) 0 := rfl
  have hoff : laneOff flightIx .s (.v 4) 0 0 site = pat ((packEls 32 [(readReg flightState flightGroup site 0 4).toNat] : Int) + 0) 32 := rfl
  rw [hoff, hread]
  rcases Nat.mod_two_eq_zero_or_one (Config.freePick 0 ((site * 32 + 0) * 112 + 4)) with h | h <;> rw [h] <;> decide

/-- The destination side of the copy at an offset. -/
def flightSide (v : Nat) : Side := ⟨.s, .cmdWrite, 4, [(0, v)]⟩

/-- The copy's sides: its source at offset 0, its destination at what it reads of v4. -/
theorem cpySide_flight (site : Nat) : cpySide flightIx .s .cmdWrite (cpyBytes .b4) (.v 4) site = flightSide (laneOff flightIx .s (.v 4) 0 0 site) := rfl

theorem cpySide_source : cpySide flightIx .s .cmdRead (cpyBytes .b4) (.v 5) 0 = ⟨.s, .cmdRead, 4, [(0, 0)]⟩ := rfl

theorem flight_check (v : Nat) (hv : v = 0 ∨ v = 0x40) : check5 flightIx [⟨.s, .cmdRead, 4, [(0, 0)]⟩, flightSide v] = none := by
  rcases hv with rfl | rfl <;> rfl

theorem flight_issues : Issues flightState flightIx
    { major := some 0x3B, srcs := [(.v 5, baseWords .s), (.v 4, baseWords .s)], blocked := noEntry (.cpy 0 []) } :=
  ⟨rfl, by decide, by decide, by decide +kernel, by decide +kernel⟩

theorem flight_free : CmdFree flightIx := ⟨by decide, by decide, nofun⟩

/-- The entries of the command queue that the copy leaves at an offset. -/
theorem flight_differ {v w : Nat} (hv : v = 0 ∨ v = 0x40) (hw : w = 0 ∨ w = 0x40)
    (h : does flightIx (cpyQueued flightIx 4 ⟨.s, .cmdRead, 4, [(0, 0)]⟩ (flightSide v)) .step =
      does flightIx (cpyQueued flightIx 4 ⟨.s, .cmdRead, 4, [(0, 0)]⟩ (flightSide w)) .step) : v = w := by
  have hs := Host.Outcome.next.inj h
  have hc := congrArg (fun s => (s.core 0).cmdq) hs
  rcases hv with rfl | rfl <;> rcases hw with rfl | rfl
  · rfl
  · exact absurd hc (by decide +kernel)
  · exact absurd hc (by decide +kernel)
  · rfl

/-- The statement of O32 fails under the opposite choice: where the two fields take different values of v4, the copy is queued with another
destination than the statement says. -/
theorem not_engineCommandsAreQueued_of_differ
    (hd : Config.freePick 0 ((0 * 32 + 0) * 112 + 4) % 2 ≠ Config.freePick 0 ((1 * 32 + 0) * 112 + 4) % 2) : ¬ Obligations.EngineCommandsAreQueued := by
  intro h
  have hval : ∀ site, laneOff flightIx .s (.v 4) 0 0 site = 0 ∨ laneOff flightIx .s (.v 4) 0 0 site = 0x40 := by
    intro site
    rw [laneOff_flight]
    split
    · exact .inl rfl
    · exact .inr rfl
  have hcheck : ∀ site, check5 flightIx [cpySide flightIx .s .cmdRead (cpyBytes .b4) (.v 5) 0, cpySide flightIx .s .cmdWrite (cpyBytes .b4) (.v 4) site] = none := by
    intro site
    rw [cpySide_source, cpySide_flight]
    exact flight_check _ (hval site)
  have h0 : exec (.cpySs .b4 (.v 4) (.v 5)) flightState =
      does flightIx (cpyQueued flightIx (cpyBytes .b4) (cpySide flightIx .s .cmdRead (cpyBytes .b4) (.v 5) 0) (cpySide flightIx .s .cmdWrite (cpyBytes .b4) (.v 4) 0)) .step :=
    ((h flightState flightIx flight_free).1 .b4 (.v 4) (.v 5)).2.2.2 flight_issues (hcheck 0)
  have h1 := (exec_cpySs .b4 (.v 4) (.v 5) flightState).trans (cpyOp_queues flight_free flight_issues (hcheck 1))
  have he := h0.symm.trans h1
  rw [cpySide_source, cpySide_flight, cpySide_flight] at he
  have hoff := flight_differ (hval 0) (hval 1) he
  rw [laneOff_flight, laneOff_flight] at hoff
  split at hoff <;> split at hoff <;> omega

end Sys2Proof.Machine
end
